-- ==== Sys2Proof/Word.lean ====
section
/-! DEFINITION. The word types of the SKG-TZ16: a general register's readable word is 64 bits, its payload 128,
memory is addressed by bytes (R12, R69). -/

namespace Sys2Proof

/-- Bits [63:0] of a general register payload, and a CSR (R69, R140). -/
abbrev Word := BitVec 64

/-- The smallest addressable unit (R12). -/
abbrev Byte := BitVec 8

/-- A general register's whole payload (R69). -/
abbrev Payload := BitVec 128

end Sys2Proof
end

