-- ==== Sys2Proof/Syntax.lean ====
section
/-! DEFINITION. The syntax of the SKG-TZ16: one constructor of `Instr` for each row of the opcode table. Rows with an
encoding are instruction words (R42 to R57); the others are the part's further steps, "each whole and
indivisible": interrupts, engine commands and elements, arrivals, scheduler, recovery, link, host and boot events.
A register field is a natural number (its bound is in WellFormed), a signed immediate is an integer in the unit the
field counts (R43). -/

namespace Sys2Proof

/-- Widths of LD and LDS, in the order of their codes 0 to 7 (R85). -/
inductive LWidth | i8 | i16 | i32 | d64 | n8 | n16 | n32 | q128
  deriving DecidableEq, Repr

/-- Widths of ST, codes 0, 1, 2, 3 and 7 (R85). -/
inductive SWidth | b8 | b16 | b32 | b64 | q128
  deriving DecidableEq, Repr

/-- Width of an atomic, fn[3] (R105). -/
inductive AWidth | w32 | w64
  deriving DecidableEq, Repr

/-- The scopes an instruction names, codes 0 to 3 (R45, R300). -/
inductive Scope | tile | die | dev | sys
  deriving DecidableEq, Repr

/-- Ordering of an atomic, fn[0] (R105). -/
inductive Ord | rlx | ar
  deriving DecidableEq, Repr

/-- Format of a scalar floating-point instruction, fn[7] (R96). -/
inductive FFmt | f32 | f64
  deriving DecidableEq, Repr

/-- The second type of FCVT, b[5:3], codes 0 to 6 (R46). -/
inductive CvtType | other | i32 | n32 | i64 | n64 | f16 | bf16
  deriving DecidableEq, Repr

/-- Direction of FCVT, b[2]: 0 from the fn[7] format, 1 into it (R46). -/
inductive CvtDir | fromFmt | toFmt
  deriving DecidableEq, Repr

/-- Lane types, codes 0 to 9 (R49). -/
inductive VType | f32 | f16 | bf16 | i32 | i16 | i8 | n32 | n16 | n8 | f64
  deriving DecidableEq, Repr

/-- Rounding modes, codes 0 to 5 (R27). -/
inductive RMode | rne | rtz | rdn | rup | rna | sr
  deriving DecidableEq, Repr

/-- The three engines, codes 0 to 2 (R47). -/
inductive Eng | me | ce | ca
  deriving DecidableEq, Repr

/-- What EPROG reads, codes 0 to 3 (R47). -/
inductive EProgSel | me | ce | ca | sr
  deriving DecidableEq, Repr

/-- What the error code of a mesh flit says (R341). -/
inductive FlitQuality | correctable | badWord | badHeader
  deriving DecidableEq, Repr

/-- What a mesh flit carries (R341): a word of a message in flight, or of the reply to a core's next load. -/
inductive MeshFlit | message (id word : Nat) | reply (core : Nat)
  deriving DecidableEq, Repr

/-- The four images that carry a version floor (R405). -/
inductive ImageKind | firmware | config | links | lost
  deriving DecidableEq, Repr

/-- The configuration table (R406): the firmware column and its width, the role of each firmware core (empty for the default of
R409), the peer of each Gale port (empty for none), identity digests by peer, firewall grants, and DEBUG. -/
structure ConfigTable where
  fcol : Nat
  fwidth : Nat
  rolemap : List Nat
  galemap : List Nat
  peerid : List (Nat × BitVec 256)
  grants : List Word
  debug : Bool
  deriving DecidableEq, Repr

/-- What an image holds (R404 step 2): the firmware, the configuration table, the link table's entries as 64-bit words (R333), or
the PHYS of the tiles in the lost-tile record (R372). -/
inductive BootTable | firmware | config (t : ConfigTable) | links (t : List Word) | lost (t : List Nat)
  deriving DecidableEq, Repr

/-- A signed image of the boot store (R405, R406, R414): what it holds, its version, the SHAKE256 digest of its bytes, and whether
its signature verifies. -/
structure BootImage where
  table : BootTable
  version : BitVec 32
  digest : BitVec 256
  signed : Bool
  deriving DecidableEq, Repr

/-- An address of a BAR2 read: the PCIe port that carries it, and the byte in device memory (R275, R285). -/
structure BarAddr where
  port : Nat
  off : Nat
  deriving DecidableEq, Repr

/-- Where a sensor sits (R410). -/
inductive SensorSite | tile (phys : Nat) | link (id : Nat)
  deriving DecidableEq, Repr

/-- One constructor for each row of the opcode table. -/
inductive Instr
  /-- ADD (R81). Writes A + B modulo 2^64 to gd. -/
  | add (d : Nat) (a : Nat) (b : Nat)
  /-- SUB (R81). Writes A − B modulo 2^64 to gd. -/
  | sub (d : Nat) (a : Nat) (b : Nat)
  /-- AND (R81). Writes the bitwise AND of A and B to gd. -/
  | and (d : Nat) (a : Nat) (b : Nat)
  /-- OR (R81). Writes the bitwise OR of A and B to gd. -/
  | or (d : Nat) (a : Nat) (b : Nat)
  /-- XOR (R81). Writes the bitwise XOR of A and B to gd. -/
  | xor (d : Nat) (a : Nat) (b : Nat)
  /-- ANDN (R81). Writes A AND NOT B to gd. -/
  | andn (d : Nat) (a : Nat) (b : Nat)
  /-- SHL (R81). Shifts A left by B[5:0] into gd. -/
  | shl (d : Nat) (a : Nat) (b : Nat)
  /-- SHR (R81). Shifts A logically right by B[5:0] into gd. -/
  | shr (d : Nat) (a : Nat) (b : Nat)
  /-- SAR (R81). Shifts A arithmetically right by B[5:0] into gd. -/
  | sar (d : Nat) (a : Nat) (b : Nat)
  /-- ROL (R81). Rotates A left by B[5:0] into gd. -/
  | rol (d : Nat) (a : Nat) (b : Nat)
  /-- SLT (R81). Writes 1 to gd if A is less than B signed, else 0. -/
  | slt (d : Nat) (a : Nat) (b : Nat)
  /-- SLTN (R81). Writes 1 to gd if A is less than B unsigned, else 0. -/
  | sltn (d : Nat) (a : Nat) (b : Nat)
  /-- MIN (R81). Writes the signed minimum of A and B to gd. -/
  | min (d : Nat) (a : Nat) (b : Nat)
  /-- MAX (R81). Writes the signed maximum of A and B to gd. -/
  | max (d : Nat) (a : Nat) (b : Nat)
  /-- MINN (R81). Writes the unsigned minimum of A and B to gd. -/
  | minn (d : Nat) (a : Nat) (b : Nat)
  /-- MAXN (R81). Writes the unsigned maximum of A and B to gd. -/
  | maxn (d : Nat) (a : Nat) (b : Nat)
  /-- MUL (R81). Writes the low 64 bits of A × B to gd. -/
  | mul (d : Nat) (a : Nat) (b : Nat)
  /-- MULH (R81). Writes the high 64 bits of the signed product to gd. -/
  | mulh (d : Nat) (a : Nat) (b : Nat)
  /-- MULHN (R81). Writes the high 64 bits of the unsigned product to gd. -/
  | mulhn (d : Nat) (a : Nat) (b : Nat)
  /-- DIV (R81). Signed division truncating toward zero, with fixed results for zero divisor and overflow. -/
  | div (d : Nat) (a : Nat) (b : Nat)
  /-- DIVN (R81). Unsigned division; a zero divisor gives all ones. -/
  | divn (d : Nat) (a : Nat) (b : Nat)
  /-- REM (R81). Signed remainder with fixed results for zero divisor and overflow. -/
  | rem (d : Nat) (a : Nat) (b : Nat)
  /-- REMN (R81). Unsigned remainder; a zero divisor gives A. -/
  | remn (d : Nat) (a : Nat) (b : Nat)
  /-- CLZ (R81). Writes the number of leading zero bits of A to gd. -/
  | clz (d : Nat) (a : Nat)
  /-- CTZ (R81). Writes the number of trailing zero bits of A to gd. -/
  | ctz (d : Nat) (a : Nat)
  /-- POPC (R81). Writes the number of one bits of A to gd. -/
  | popc (d : Nat) (a : Nat)
  /-- BSWAP (R81). Writes A with its bytes reversed to gd. -/
  | bswap (d : Nat) (a : Nat)
  /-- ADDW (R81). Writes the sign-extended 32-bit sum to gd. -/
  | addw (d : Nat) (a : Nat) (b : Nat)
  /-- SUBW (R81). Writes the sign-extended 32-bit difference to gd. -/
  | subw (d : Nat) (a : Nat) (b : Nat)
  /-- MULW (R81). Writes the sign-extended 32-bit product to gd. -/
  | mulw (d : Nat) (a : Nat) (b : Nat)
  /-- SEQ (R81). Writes 1 to gd if A equals B, else 0. -/
  | seq (d : Nat) (a : Nat) (b : Nat)
  /-- SNE (R81). Writes 1 to gd if A differs from B, else 0. -/
  | sne (d : Nat) (a : Nat) (b : Nat)
  /-- ADDI (R82). Adds the sign-extended 14-bit immediate to A. -/
  | addi (d : Nat) (a : Nat) (i : Int)
  /-- ANDI (R82). ANDs A with the sign-extended immediate. -/
  | andi (d : Nat) (a : Nat) (i : Int)
  /-- ORI (R82). ORs A with the zero-extended immediate. -/
  | ori (d : Nat) (a : Nat) (i : Nat)
  /-- XORI (R82). XORs A with the zero-extended immediate. -/
  | xori (d : Nat) (a : Nat) (i : Nat)
  /-- SHLI (R82). Shifts A left by an immediate amount. -/
  | shli (d : Nat) (a : Nat) (n : Nat)
  /-- SHRI (R82). Shifts A logically right by an immediate amount. -/
  | shri (d : Nat) (a : Nat) (n : Nat)
  /-- SARI (R82). Shifts A arithmetically right by an immediate amount. -/
  | sari (d : Nat) (a : Nat) (n : Nat)
  /-- ROLI (R82). Rotates A left by an immediate amount. -/
  | roli (d : Nat) (a : Nat) (n : Nat)
  /-- SLTI (R82). Signed comparison of A with a 13-bit immediate. -/
  | slti (d : Nat) (a : Nat) (i : Int)
  /-- SLTNI (R82). Unsigned comparison of A with the sign-extended 13-bit immediate. -/
  | sltni (d : Nat) (a : Nat) (i : Int)
  /-- LUI (R82). Writes the sign-extended 20-bit immediate shifted left by 12 to gd. -/
  | lui (d : Nat) (i : Int)
  /-- CPC (R83). Writes PCC with address PC + 4 × imm20 to gd. -/
  | cpc (d : Nat) (i : Int)
  /-- CINC (R84). Derives a capability whose address is moved by B. -/
  | cinc (d : Nat) (a : Nat) (b : Nat)
  /-- CBND (R84). Derives a capability with base at the address and length B rounded by repr_len. -/
  | cbnd (d : Nat) (a : Nat) (b : Nat)
  /-- CBNDX (R84). As CBND, trapping unless the length is exact. -/
  | cbndx (d : Nat) (a : Nat) (b : Nat)
  /-- CPERM (R84). Derives a capability with permissions ANDed with B[5:0]. -/
  | cperm (d : Nat) (a : Nat) (b : Nat)
  /-- CGETA (R84). Reads a capability's address as DATA. -/
  | cgeta (d : Nat) (a : Nat)
  /-- CGETB (R84). Reads a capability's base as DATA. -/
  | cgetb (d : Nat) (a : Nat)
  /-- CGETL (R84). Reads a capability's length as DATA. -/
  | cgetl (d : Nat) (a : Nat)
  /-- CGETP (R84). Reads a capability's permissions as DATA. -/
  | cgetp (d : Nat) (a : Nat)
  /-- CSETA (R84). Derives a capability with address B[51:0]. -/
  | cseta (d : Nat) (a : Nat) (b : Nat)
  /-- CTAG (R84). Writes the tag of ga as 0, 1 or 2 without consuming poison. -/
  | ctag (d : Nat) (a : Nat)
  /-- CSUB (R84). Writes the 52-bit sign-extended address difference. -/
  | csub (d : Nat) (a : Nat) (b : Nat)
  /-- CTEST (R84). Writes 1 if ga is a capability within gb's bounds and permissions. -/
  | ctest (d : Nat) (a : Nat) (b : Nat)
  /-- CCLR (R84). Copies ga's payload tagged DATA, keeping POISON. -/
  | cclr (d : Nat) (a : Nat)
  /-- CINCI (R84). Derives a capability whose address is moved by a 14-bit immediate. -/
  | cinci (d : Nat) (a : Nat) (i : Int)
  /-- LD (R86). Checked load of the width's size into gd, trapping on poison or absence. -/
  | ld (d : Nat) (a : Nat) (w : LWidth) (i : Int)
  /-- LDS (R87). Checked load that delivers POISON instead of trapping on poison or absence. -/
  | lds (d : Nat) (a : Nat) (w : LWidth) (i : Int)
  /-- ST (R89). Checked store of the width's low bytes with tag and poison-mark rules. -/
  | st (s : Nat) (a : Nat) (w : SWidth) (i : Int)
  /-- AADD (R105). Atomic add at the memory's home returning the old value. -/
  | aadd (d : Nat) (a : Nat) (b : Nat) (w : AWidth) (s : Scope) (o : Ord)
  /-- AAND (R105). Atomic AND returning the old value. -/
  | aand (d : Nat) (a : Nat) (b : Nat) (w : AWidth) (s : Scope) (o : Ord)
  /-- AOR (R105). Atomic OR returning the old value. -/
  | aor (d : Nat) (a : Nat) (b : Nat) (w : AWidth) (s : Scope) (o : Ord)
  /-- AXOR (R105). Atomic XOR returning the old value. -/
  | axor (d : Nat) (a : Nat) (b : Nat) (w : AWidth) (s : Scope) (o : Ord)
  /-- AMIN (R105). Atomic signed minimum returning the old value. -/
  | amin (d : Nat) (a : Nat) (b : Nat) (w : AWidth) (s : Scope) (o : Ord)
  /-- AMAX (R105). Atomic signed maximum returning the old value. -/
  | amax (d : Nat) (a : Nat) (b : Nat) (w : AWidth) (s : Scope) (o : Ord)
  /-- AMINN (R105). Atomic unsigned minimum returning the old value. -/
  | aminn (d : Nat) (a : Nat) (b : Nat) (w : AWidth) (s : Scope) (o : Ord)
  /-- AMAXN (R105). Atomic unsigned maximum returning the old value. -/
  | amaxn (d : Nat) (a : Nat) (b : Nat) (w : AWidth) (s : Scope) (o : Ord)
  /-- ASWAP (R105). Atomic exchange returning the old value. -/
  | aswap (d : Nat) (a : Nat) (b : Nat) (w : AWidth) (s : Scope) (o : Ord)
  /-- ACAS (R105). Atomic compare-and-swap against gd, returning the old value. -/
  | acas (d : Nat) (a : Nat) (b : Nat) (w : AWidth) (s : Scope) (o : Ord)
  /-- AFADD (R105). Atomic floating-point add rounded RNE, returning the old value. -/
  | afadd (d : Nat) (a : Nat) (b : Nat) (w : AWidth) (s : Scope) (o : Ord)
  /-- FENCE (R108). Waits until every prior access is performed at the scope. -/
  | fence (s : Scope)
  /-- FENCEA (R108). Acquire fence ordering prior loads and atomics before later accesses. -/
  | fencea (s : Scope)
  /-- FENCEL (R108). Release fence ordering prior accesses before later writes and messages. -/
  | fencel (s : Scope)
  /-- LDA (R108). 64-bit load with acquire at the scope. -/
  | lda (d : Nat) (a : Nat) (s : Scope)
  /-- STL (R108). Waits for prior writes to be acknowledged, then stores 64 bits as a release. -/
  | stl (d : Nat) (a : Nat) (s : Scope)
  /-- LDLK (R109). Waits for and takes a scratchpad lock bit, then loads the word. -/
  | ldlk (d : Nat) (a : Nat)
  /-- STUL (R109). Stores and releases the held lock, or stores nothing and reports failure. -/
  | stul (d : Nat) (a : Nat)
  /-- LDV (R112). Loads 8 bytes of a named version of a VER line, waiting for it to complete. -/
  | ldv (d : Nat) (a : Nat) (b : Nat)
  /-- STV (R113). Writes 8 bytes of a named version into a slot of a VER line. -/
  | stv (d : Nat) (a : Nat) (b : Nat)
  /-- VERQ (R114). Returns the slot versions, states and floors of a VER line. -/
  | verq (d : Nat) (a : Nat)
  /-- RECLAIM (R115). Raises the requested floor of a VER page. -/
  | reclaim (a : Nat) (b : Nat)
  /-- BEQ (R92). Branches if the two operands are equal. -/
  | beq (a : Nat) (b : Nat) (x : Int)
  /-- BNE (R92). Branches if the two operands differ. -/
  | bne (a : Nat) (b : Nat) (x : Int)
  /-- BLT (R92). Branches if ga is less than gb signed. -/
  | blt (a : Nat) (b : Nat) (x : Int)
  /-- BGE (R92). Branches if ga is at least gb signed. -/
  | bge (a : Nat) (b : Nat) (x : Int)
  /-- BLTN (R92). Branches if ga is less than gb unsigned. -/
  | bltn (a : Nat) (b : Nat) (x : Int)
  /-- BGEN (R92). Branches if ga is at least gb unsigned. -/
  | bgen (a : Nat) (b : Nat) (x : Int)
  /-- BEQZ (R92). Branches if ga is zero. -/
  | beqz (a : Nat) (x : Int)
  /-- BNEZ (R92). Branches if ga is not zero. -/
  | bnez (a : Nat) (x : Int)
  /-- BLTZ (R92). Branches if ga is negative. -/
  | bltz (a : Nat) (x : Int)
  /-- BGEZ (R92). Branches if ga is non-negative. -/
  | bgez (a : Nat) (x : Int)
  /-- BGTZ (R92). Branches if ga is positive. -/
  | bgtz (a : Nat) (x : Int)
  /-- BLEZ (R92). Branches if ga is zero or negative. -/
  | blez (a : Nat) (x : Int)
  /-- J (R93). Jumps by a 26-bit instruction displacement. -/
  | j (x : Int)
  /-- JAL (R93). Jumps and writes the link capability to g63. -/
  | jal (x : Int)
  /-- JR (R94). Transfers control to the capability in ga. -/
  | jr (a : Nat)
  /-- JALR (R94). Transfers control to ga and writes the link to gd. -/
  | jalr (d : Nat) (a : Nat)
  /-- REP (R53). Opens or resumes a repeat frame over the following captured words. -/
  | rep (c : Nat) (n : Nat) (x : Nat) (y : Nat) (z : Nat)
  /-- FADD (R96). Floating-point add rounded with FRM. -/
  | fadd (d : Nat) (a : Nat) (b : Nat) (p : FFmt)
  /-- FSUB (R96). Floating-point subtract rounded with FRM. -/
  | fsub (d : Nat) (a : Nat) (b : Nat) (p : FFmt)
  /-- FMUL (R96). Floating-point multiply rounded with FRM. -/
  | fmul (d : Nat) (a : Nat) (b : Nat) (p : FFmt)
  /-- FDIV (R96). Floating-point divide rounded with FRM. -/
  | fdiv (d : Nat) (a : Nat) (b : Nat) (p : FFmt)
  /-- FMA (R96). Fused multiply-add with gd as addend, one rounding. -/
  | fma (d : Nat) (a : Nat) (b : Nat) (p : FFmt)
  /-- FSQRT (R96). Floating-point square root rounded with FRM. -/
  | fsqrt (d : Nat) (a : Nat) (p : FFmt)
  /-- FMIN (R96). IEEE minimumNumber of two values. -/
  | fmin (d : Nat) (a : Nat) (b : Nat) (p : FFmt)
  /-- FMAX (R96). IEEE maximumNumber of two values. -/
  | fmax (d : Nat) (a : Nat) (b : Nat) (p : FFmt)
  /-- FCMP (R96). Writes comparison bits for less, equal, greater and unordered. -/
  | fcmp (d : Nat) (a : Nat) (b : Nat) (p : FFmt)
  /-- FCVT (R46). Converts between the fn[7] format and the b type in the direction b[2]. -/
  | fcvt (d : Nat) (a : Nat) (t : CvtType) (r : CvtDir) (p : FFmt)
  /-- FCLASS (R96). Writes a one-hot classification of the operand. -/
  | fclass (d : Nat) (a : Nat) (p : FFmt)
  /-- SPAWN (R118). Pushes a plain task descriptor at the bottom of the deque. -/
  | spawn (a : Nat)
  /-- RANGE (R118). Pushes a range task, spreading it over dies when SPREAD is set. -/
  | range (a : Nat)
  /-- TAKE (R118). Pops the bottom deque entry into a register pair or reports empty. -/
  | take (d : Nat) (a : Nat)
  /-- DONE (R214). Ends the task and obtains the next by pop, steal or idling. -/
  | done
  /-- YIELD (R118). Switches to another ready context with no later deadline, if any. -/
  | yield
  /-- TRIG (R119). Arms a waiting-task table entry on a TCM counter and threshold. -/
  | trig (d : Nat) (a : Nat) (b : Nat)
  /-- UNTRIG (R119). Frees a waiting-task table entry and reports whether it was armed. -/
  | untrig (d : Nat) (a : Nat)
  /-- DEQN (R118). Writes the number of deque entries including spill. -/
  | deqn (d : Nat)
  /-- CHUNK (R118). Takes the next chunk of the current range. -/
  | chunk (d : Nat) (a : Nat)
  /-- PUT (R121). Stores a 64-bit word into another core's TCM or a scratchpad as a message. -/
  | put (a : Nat) (b : Nat)
  /-- PUTI (R121). Adds a value to a remote word indivisibly as a message. -/
  | puti (a : Nat) (b : Nat)
  /-- GET (R121). Reads a remote word into a pending register. -/
  | get (d : Nat) (a : Nat)
  /-- SEND (R122). Sends a 16-byte tagged payload to a core's inbox as a release. -/
  | send (a : Nat) (b : Nat)
  /-- RECV (R123). Waits for and dequeues the oldest inbox entry. -/
  | recv (d : Nat) (a : Nat)
  /-- SENDH (R124). Writes a 32-byte record to the host message area and raises its vector. -/
  | sendh (a : Nat) (b : Nat)
  /-- INBOXN (R123). Writes the inbox entry count. -/
  | inboxn (d : Nat)
  /-- UIEN (R125). Sets the user-level inbox interrupt enable and returns the old one. -/
  | uien (d : Nat) (a : Nat)
  /-- IHRET (R125). Leaves user-level handler state through the handler's g55. -/
  | ihret
  /-- BAR (R126). Barrier arrival followed by a wait for release. -/
  | bar
  /-- BARA (R126). Barrier arrival as a release at the barrier scope. -/
  | bara
  /-- BARW (R126). Waits for the release of the arrived phase, then acquires. -/
  | barw
  /-- DOMSET (R127). Writes DOMAIN at runtime level after any outstanding arrival. -/
  | domset (a : Nat)
  /-- GANG (R128). Joins a gang of n cores of the tile, waiting for every member. -/
  | gang (a : Nat)
  /-- SPLIT (R128). Dissolves the gang. -/
  | split
  /-- PAIR (R129). Pairs the core with its neighbour in checking mode. -/
  | pair (d : Nat)
  /-- UNPAIR (R129). Dissolves the pair and restores the checking core's context. -/
  | unpair
  /-- TNAME (R130). Returns the name of a core of this tile. -/
  | tname (d : Nat) (a : Nat)
  /-- TNBR (R130). Returns the tile id at a row and column offset. -/
  | tnbr (d : Nat) (a : Nat) (b : Nat)
  /-- TDIST (R130). Returns the distance class of a tile. -/
  | tdist (d : Nat) (a : Nat)
  /-- REGION (R360). Opens an idempotent region at its own address and records the generators. -/
  | region
  /-- CHKP (R131). Traps if ga is POISON. -/
  | chkp (a : Nat)
  /-- CKPT (R131). Ends the tile's current checkpoint interval. -/
  | ckpt
  /-- RNGSNAP (R132). Writes the tile's generator states to 2 KiB of memory. -/
  | rngsnap (a : Nat)
  /-- RNGREST (R132). Checks and restores the tile's generator states from memory. -/
  | rngrest (a : Nat)
  /-- RNG (R131). Draws from, reads or replaces a generator key or counter. -/
  | rng (d : Nat) (a : Nat) (b : Nat)
  /-- SUCCHINT (R133). First use lets the successor launch start its prologue. -/
  | succhint
  /-- WAITPRED (R133). Waits until the predecessor publishes or ends, then acquires. -/
  | waitpred (d : Nat)
  /-- PUBLISH (R133). First use makes prior writes visible to a successor's WAITPRED. -/
  | publish
  /-- PUSH (R134). Checks the command envelope and queues it on an engine, waiting while full. -/
  | push (a : Nat) (e : Eng)
  /-- PUSH_TRY (R134). Queues a command or reports a full queue without waiting. -/
  | pushTry (d : Nat) (a : Nat) (e : Eng)
  /-- EPROG (R134). Reads an engine's progress register. -/
  | eprog (d : Nat) (e : EProgSel)
  /-- ECANCEL (R134). Cancels the engine's active and queued commands. -/
  | ecancel (e : Eng)
  /-- SPECOMMIT (R135). Waits for a key's commands, then makes its alternate banks current. -/
  | specommit (a : Nat)
  /-- SPECDROP (R135). Cancels a key's commands and discards their alternate banks. -/
  | specdrop (a : Nat)
  /-- ECALL (R136). Traps with cause 0x09 and the code. -/
  | ecall (c : Nat)
  /-- EBREAK (R136). Traps with cause 0x0A, or raises interrupt 4 when a debugger is attached. -/
  | ebreak (c : Nat)
  /-- ERET (R138). Returns from a trap by restoring level, IE, handler state and PCC. -/
  | eret
  /-- WFI (R136). Waits until the inbox or deque is non-empty or an interrupt is pending. -/
  | wfi
  /-- HALT (R136). Stops the core at firmware level until debug resume or reset. -/
  | halt
  /-- TRAP (R136). Traps with cause 0x0B and the code. -/
  | trap (c : Nat)
  /-- CSRR (R136). Reads a CSR into ga as DATA. -/
  | csrr (n : Nat) (a : Nat)
  /-- CSRW (R136). Writes a CSR from ga, with RSV and mode checks. -/
  | csrw (n : Nat) (a : Nat)
  /-- CSRS (R136). Sets CSR bits from ga. -/
  | csrs (n : Nat) (a : Nat)
  /-- CSRC (R136). Clears CSR bits from ga. -/
  | csrc (n : Nat) (a : Nat)
  /-- TLBINV (R136). Removes the launch's TLB entries for a page, or all of them. -/
  | tlbinv (a : Nat)
  /-- VADD (R152). Lane-wise add of active lanes. -/
  | vadd (d : Nat) (a : Nat) (b : Nat) (p : Nat) (t : VType)
  /-- VSUB (R152). Lane-wise subtract. -/
  | vsub (d : Nat) (a : Nat) (b : Nat) (p : Nat) (t : VType)
  /-- VMUL (R152). Lane-wise multiply. -/
  | vmul (d : Nat) (a : Nat) (b : Nat) (p : Nat) (t : VType)
  /-- VMIN (R152). Lane-wise minimum. -/
  | vmin (d : Nat) (a : Nat) (b : Nat) (p : Nat) (t : VType)
  /-- VMAX (R152). Lane-wise maximum. -/
  | vmax (d : Nat) (a : Nat) (b : Nat) (p : Nat) (t : VType)
  /-- VABS (R152). Lane-wise absolute value. -/
  | vabs (d : Nat) (a : Nat) (p : Nat) (t : VType)
  /-- VNEG (R152). Lane-wise negation. -/
  | vneg (d : Nat) (a : Nat) (p : Nat) (t : VType)
  /-- VAND (R152). Lane-wise bitwise AND. -/
  | vand (d : Nat) (a : Nat) (b : Nat) (p : Nat) (t : VType)
  /-- VOR (R152). Lane-wise bitwise OR. -/
  | vor (d : Nat) (a : Nat) (b : Nat) (p : Nat) (t : VType)
  /-- VXOR (R152). Lane-wise bitwise XOR. -/
  | vxor (d : Nat) (a : Nat) (b : Nat) (p : Nat) (t : VType)
  /-- VSHL (R152). Lane-wise left shift. -/
  | vshl (d : Nat) (a : Nat) (b : Nat) (p : Nat) (t : VType)
  /-- VSHR (R152). Lane-wise logical right shift. -/
  | vshr (d : Nat) (a : Nat) (b : Nat) (p : Nat) (t : VType)
  /-- VSAR (R152). Lane-wise arithmetic right shift. -/
  | vsar (d : Nat) (a : Nat) (b : Nat) (p : Nat) (t : VType)
  /-- VMULH (R152). Lane-wise high half of the product. -/
  | vmulh (d : Nat) (a : Nat) (b : Nat) (p : Nat) (t : VType)
  /-- VADDS (R152). Lane-wise saturating add. -/
  | vadds (d : Nat) (a : Nat) (b : Nat) (p : Nat) (t : VType)
  /-- VSUBS (R152). Lane-wise saturating subtract. -/
  | vsubs (d : Nat) (a : Nat) (b : Nat) (p : Nat) (t : VType)
  /-- VFMA (R153). Lane-wise fused x × y + z. -/
  | vfma (d : Nat) (a : Nat) (b : Nat) (p : Nat) (t : VType)
  /-- VFMS (R153). Lane-wise fused x × y − z. -/
  | vfms (d : Nat) (a : Nat) (b : Nat) (p : Nat) (t : VType)
  /-- VFNMA (R153). Lane-wise fused −(x × y) − z. -/
  | vfnma (d : Nat) (a : Nat) (b : Nat) (p : Nat) (t : VType)
  /-- VFNMS (R153). Lane-wise fused −(x × y) + z. -/
  | vfnms (d : Nat) (a : Nat) (b : Nat) (p : Nat) (t : VType)
  /-- VDIV (R153). Lane-wise floating-point divide. -/
  | vdiv (d : Nat) (a : Nat) (b : Nat) (p : Nat) (t : VType)
  /-- VSQRT (R153). Lane-wise floating-point square root. -/
  | vsqrt (d : Nat) (a : Nat) (p : Nat) (t : VType)
  /-- VEXP2 (R154). Lane-wise correctly rounded 2^x in f32. -/
  | vexp2 (d : Nat) (a : Nat) (p : Nat)
  /-- VLOG2 (R154). Lane-wise correctly rounded log2(x) in f32. -/
  | vlog2 (d : Nat) (a : Nat) (p : Nat)
  /-- VRCP (R154). Lane-wise correctly rounded reciprocal in f32. -/
  | vrcp (d : Nat) (a : Nat) (p : Nat)
  /-- VRSQ (R154). Lane-wise correctly rounded reciprocal square root in f32. -/
  | vrsq (d : Nat) (a : Nat) (p : Nat)
  /-- VCEQ (R155). Writes a predicate of lanes where x = y. -/
  | vceq (d : Nat) (a : Nat) (b : Nat) (p : Nat) (t : VType)
  /-- VCNE (R155). Writes a predicate of lanes where x ≠ y. -/
  | vcne (d : Nat) (a : Nat) (b : Nat) (p : Nat) (t : VType)
  /-- VCLT (R155). Writes a predicate of lanes where x < y. -/
  | vclt (d : Nat) (a : Nat) (b : Nat) (p : Nat) (t : VType)
  /-- VCLE (R155). Writes a predicate of lanes where x ≤ y. -/
  | vcle (d : Nat) (a : Nat) (b : Nat) (p : Nat) (t : VType)
  /-- VCGT (R155). Writes a predicate of lanes where x > y. -/
  | vcgt (d : Nat) (a : Nat) (b : Nat) (p : Nat) (t : VType)
  /-- VCGE (R155). Writes a predicate of lanes where x ≥ y. -/
  | vcge (d : Nat) (a : Nat) (b : Nat) (p : Nat) (t : VType)
  /-- VCUN (R155). Writes a predicate of lanes where either operand is NaN. -/
  | vcun (d : Nat) (a : Nat) (b : Nat) (p : Nat) (t : VType)
  /-- VCVT (R156). Converts each active lane between two types with the encoded rounding mode. -/
  | vcvt (d : Nat) (a : Nat) (s : VType) (x : Bool) (p : Nat) (t : VType) (m : RMode)
  /-- VSHUF (R158). Each active lane takes va at an index from vb. -/
  | vshuf (d : Nat) (a : Nat) (b : Nat) (p : Nat) (t : VType)
  /-- VROT (R158). Rotates lanes by an immediate. -/
  | vrot (d : Nat) (a : Nat) (n : Nat) (p : Nat) (t : VType)
  /-- VBCAST (R158). Broadcasts lane n to the active lanes. -/
  | vbcast (d : Nat) (a : Nat) (n : Nat) (p : Nat) (t : VType)
  /-- VXLANE (R159). Reads lanes through the predicate and rewrites the governing predicate. -/
  | vxlane (d : Nat) (a : Nat) (b : Nat) (p : Nat) (t : VType)
  /-- VCOMPRESS (R158). Packs the active lanes of va into the low lanes of vd. -/
  | vcompress (d : Nat) (a : Nat) (p : Nat) (t : VType)
  /-- VEXPAND (R158). Spreads the low lanes of va into the active lanes. -/
  | vexpand (d : Nat) (a : Nat) (p : Nat) (t : VType)
  /-- VRSUM (R160). Tree-order sum of the active lanes into lane 0. -/
  | vrsum (d : Nat) (a : Nat) (p : Nat) (t : VType)
  /-- VRMAX (R160). Tree-order maximum of the active lanes into lane 0. -/
  | vrmax (d : Nat) (a : Nat) (p : Nat) (t : VType)
  /-- VRMIN (R160). Tree-order minimum of the active lanes into lane 0. -/
  | vrmin (d : Nat) (a : Nat) (p : Nat) (t : VType)
  /-- VRSUMO (R160). Sequential sum of the active lanes into lane 0. -/
  | vrsumo (d : Nat) (a : Nat) (p : Nat) (t : VType)
  /-- VLD (R162). Loads consecutive elements per active lane, resumable through VPROG. -/
  | vld (d : Nat) (a : Nat) (p : Nat) (t : VType)
  /-- VLDS (R162). Loads elements at a register stride per active lane. -/
  | vlds (d : Nat) (a : Nat) (b : Nat) (p : Nat) (t : VType)
  /-- VGATHER (R162). Loads elements at indexed offsets per active lane. -/
  | vgather (d : Nat) (a : Nat) (b : Nat) (p : Nat) (t : VType)
  /-- VST (R162). Stores consecutive elements per active lane. -/
  | vst (d : Nat) (a : Nat) (p : Nat) (t : VType)
  /-- VSTS (R162). Stores elements at a register stride per active lane. -/
  | vsts (d : Nat) (a : Nat) (b : Nat) (p : Nat) (t : VType)
  /-- VSCATTER (R162). Stores elements at indexed offsets per active lane. -/
  | vscatter (d : Nat) (a : Nat) (b : Nat) (p : Nat) (t : VType)
  /-- VMOVGV (R169). Moves a general register into vector lane n. -/
  | vmovgv (d : Nat) (a : Nat) (n : Nat) (p : Nat) (t : VType)
  /-- VMOVVG (R169). Moves vector lane n into a general register. -/
  | vmovvg (d : Nat) (a : Nat) (n : Nat) (t : VType)
  /-- VSPLAT (R169). Writes a general register value to every active lane. -/
  | vsplat (d : Nat) (a : Nat) (p : Nat) (t : VType)
  /-- VQBIND (R151). Binds a stream register to a channel tag with an empty queue. -/
  | vqbind (k : Nat) (a : Nat)
  /-- VQDROP (R151). Unbinds a stream register and discards its queued entries. -/
  | vqdrop (k : Nat)
  /-- VPAND (R170). Predicate AND masked by the governing predicate. -/
  | vpand (d : Nat) (a : Nat) (b : Nat) (p : Nat)
  /-- VPOR (R170). Predicate OR masked by the governing predicate. -/
  | vpor (d : Nat) (a : Nat) (b : Nat) (p : Nat)
  /-- VPXOR (R170). Predicate XOR masked by the governing predicate. -/
  | vpxor (d : Nat) (a : Nat) (b : Nat) (p : Nat)
  /-- VPNOT (R170). Predicate NOT masked by the governing predicate. -/
  | vpnot (d : Nat) (a : Nat) (p : Nat)
  /-- VPCNT (R170). Counts the set bits of a masked predicate into a general register. -/
  | vpcnt (d : Nat) (a : Nat) (p : Nat)
  /-- VPSET (R170). Sets a predicate from a general register, masked. -/
  | vpset (d : Nat) (a : Nat) (p : Nat)
  /-- VPFIRST (R170). Keeps only the lowest set bit of a masked predicate. -/
  | vpfirst (d : Nat) (a : Nat) (p : Nat)
  /-- TIMER_INTERRUPT (R140). When DTIME reaches TCMP, interrupt 2 is taken at the next boundary. -/
  | timerInterrupt
  /-- UI_ENTRY (R125). At a boundary with the enable set and a non-empty inbox, the core enters user-level handler state at UIVEC. -/
  | uiEntry
  /-- RESPONSE_ARRIVAL (R103). The response of an atomic or GET arrives and is written into its pending register or saved image. -/
  | responseArrival (n : Nat)
  /-- LOCK_LOSS (R110). A held scratchpad lock is lost 4,096 cycles after its LDLK. -/
  | lockLoss (core : Nat)
  /-- MMA (R183). Accumulates A × B into accumulator tiles chunk by chunk. -/
  | mma (core : Nat)
  /-- MMR (R185). Computes A × B with B blocks rotating round the ring, writing C back per step. -/
  | mmr (core : Nat)
  /-- ACCZ (R187). Zeroes N accumulators. -/
  | accz (core : Nat)
  /-- ACCLD (R187). Loads accumulator rows from memory, widened exactly. -/
  | accld (core : Nat)
  /-- ACCST (R187). Stores accumulator rows to memory converted with RM and SAT. -/
  | accst (core : Nat)
  /-- CPY (R190). Copies LEN bytes, or streams them to a stream channel. -/
  | cpy (core : Nat)
  /-- CPY2 (R191). Copies NROWS strided rows of ROWB bytes. -/
  | cpy2 (core : Nat)
  /-- DEAL (R194). Deals beats from the translated window to a tile's TCMs through the distributor. -/
  | deal (core : Nat)
  /-- XPOSE (R196). Writes the transpose of a tensor and its scales. -/
  | xpose (core : Nat)
  /-- AGSET (R198). Checks and loads an address group of peers. -/
  | agset (core : Nat)
  /-- MLDRED (R199). Reduces each element over the group's peers in ascending peer order. -/
  | mldred (core : Nat)
  /-- MSTORE (R200). Converts each value once and writes it to every peer of the group. -/
  | mstore (core : Nat)
  /-- AGSTAT (R201). Writes a group's absent mask, count and VALID bit. -/
  | agstat (core : Nat)
  /-- ENGINE_ELEMENT (R176). An engine performs one element of its active command once its operands are available. -/
  | engineElement (core : Nat) (e : Eng)
  /-- LATCH_CHUNK_ARRIVAL (R186). A ring chunk arrives at a core's operand latch and is accepted or checked against the expected header. -/
  | latchChunkArrival (core : Nat)
  /-- MMR_WRITE_BACK (R185). The write-back of an MMR step's accumulator rows completes. -/
  | mmrWriteBack (core : Nat)
  /-- STREAM_ENTRY_ARRIVAL (R148). A 128-byte stream entry arrives and is queued or dropped as unbound. -/
  | streamEntryArrival (n : Nat)
  /-- COMPLETION_MESSAGE (R175). After every write is performed, the engine places the completion message in the inbox. -/
  | completionMessage (core : Nat) (e : Eng)
  /-- MESSAGE_ARRIVAL (R386). A sequenced request arrives at a receiver and is performed, refused or dropped by its sequence number. -/
  | messageArrival (n : Nat)
  /-- FIRING_PUSH (R218). A firing entry pushes its task once the deque is below FULL, and frees itself. -/
  | firingPush (core : Nat) (launch : Nat) (n : Nat)
  /-- STEAL_PROBE (R215). An idle thief probes a victim for a stealable entry or range split. -/
  | stealProbe (thief : Nat) (victim : Nat) (launch : Nat)
  /-- STEAL_GRANT (R214). A granted entry arrives and is pushed at the bottom of the thief's deque. -/
  | stealGrant (core : Nat) (launch : Nat)
  /-- DIE_AGENT_STEAL (R216). A die agent with every context idle steals across dies. -/
  | dieAgentSteal (launch : Nat) (die : Nat)
  /-- SHARE_PUSH (R217). A die agent pushes a spread range share into the lowest-named context of its die. -/
  | sharePush (launch : Nat) (n : Nat)
  /-- BARRIER_ARRIVAL (R222). A tile node combines arrivals and forwards them toward the corner. -/
  | barrierArrival (launch : Nat) (tile : Nat)
  /-- BARRIER_RELEASE (R221). The release of a phase reaches a participant and advances its phase. -/
  | barrierRelease (core : Nat) (launch : Nat)
  /-- LULL_WAVE (R225). A lull-tree wave gathers idle reports and message counts. -/
  | lullWave (launch : Nat)
  /-- CONTEXT_WAKE (R265). A parked or held context becomes ready at its event. -/
  | contextWake (core : Nat) (launch : Nat)
  /-- CONTEXT_SWITCH (R271). The switch unit stops, saves, spills and dispatches the next context. -/
  | contextSwitch (core : Nat)
  /-- PREEMPT_INTERRUPT (R272). At runtime level a request is taken as interrupt 1 and switches at ERET. -/
  | preemptInterrupt
  /-- DEADLINE_MISS (R269). When DTIME passes a deadline, the launch's contexts trap 0x0F and it is aborted or demoted. -/
  | deadlineMiss (launch : Nat)
  /-- BUDGET_EXHAUSTED (R269). A spent lease with an empty pool traps 0x0E and applies the OVR outcome. -/
  | budgetExhausted (core : Nat)
  /-- RESERVE_REFILL (R269). Each partition reserve refills at every DTIME multiple of 2^20 ticks. -/
  | reserveRefill
  /-- ROLLBACK (R363). The core rolls the open region back to REGPC. -/
  | rollback
  /-- PAIR_EXCHANGE (R366). A pair compares fingerprints and releases or discards held stores. -/
  | pairExchange (core : Nat)
  /-- WATCHDOG_FIRE (R377). After 2^24 cycles without progress the tile is detected for recovery or the launch ends by hang. -/
  | watchdogFire (tile : Nat)
  /-- INTERVAL_END (R381). A checkpoint interval ends and the tile takes a snapshot. -/
  | intervalEnd (tile : Nat)
  /-- SNAPSHOT_TIMEOUT (R418). A snapshot not reached within 1,024 cycles detects the tile for recovery. -/
  | snapshotTimeout (tile : Nat)
  /-- CHECKPOINT_COMMIT (R383). When every item has arrived, the buddy commits the new generation. -/
  | checkpointCommit (tile : Nat)
  /-- REFUSED_MESSAGE_RESEND (R388). A sender resends a refused message in channel order after its delay. -/
  | refusedMessageResend (n : Nat)
  /-- LEHR_FENCE (R394). On detection the tile is fenced, staging discarded and RAW marks applied. -/
  | lehrFence (tile : Nat)
  /-- LEHR_CHOOSE (R396). The Lehr engine chooses a spare, a host tile, or declares the tile lost. -/
  | lehrChoose (tile : Nat)
  /-- LEHR_RESTORE (R394). The image, tile record and fixed parts are restored from the buddy's store. -/
  | lehrRestore (tile : Nat)
  /-- REBINDING_FLIP (R398). The rebinding bank flip is broadcast and acknowledged by every router. -/
  | rebindingFlip (tile : Nat)
  /-- LEHR_REPLAY (R399). The tile replays its recorded episodes until every determinant is consumed. -/
  | lehrReplay (tile : Nat)
  /-- LEHR_RESUME (R400). The tile resumes, deferred events are taken and a fresh checkpoint begins. -/
  | lehrResume (tile : Nat)
  /-- PLANNED_MIGRATION (R403). The Lehr engine moves a tile's contexts to a spare after snapshot and commit. -/
  | plannedMigration (tile : Nat)
  /-- FLIT_ARRIVAL (R338). A seam or Gale flit arrives, is checked and acknowledged or discarded with a negative acknowledgement. -/
  | flitArrival (link : Nat) (good : Bool)
  /-- FLIT_ACKNOWLEDGEMENT (R338). An acknowledgement frees flits from the sender's replay buffer. -/
  | flitAcknowledgement (link : Nat) (n : Nat)
  /-- NEGATIVE_ACKNOWLEDGEMENT (R338). The sender resends from the refused flit and may start sparing or training. -/
  | negativeAcknowledgement (link : Nat) (oneLane : Bool)
  /-- LANE_SPARING_DONE (R339). Sparing completes and the replay buffer is resent. -/
  | laneSparingDone (link : Nat)
  /-- LINK_TRAINED (R339). A training attempt succeeds with at least four lanes. -/
  | linkTrained (link : Nat) (lanes : Nat)
  /-- TRAINING_TIMEOUT (R339). A training not done within 12 µs retries or declares the link DOWN. -/
  | trainingTimeout (link : Nat)
  /-- LOSS_OF_SIGNAL (R339). A Gale port without signal on all lanes for 1 µs goes DOWN. -/
  | lossOfSignal (port : Nat)
  /-- MESH_FLIT_ARRIVAL (R341). A mesh flit arrives, corrected, delivered poisoned or dropped. -/
  | meshFlitArrival (f : MeshFlit) (q : FlitQuality)
  /-- GALE_PORT_TRAINED (R342). A Gale port trains and checks the identity of its far end. -/
  | galePortTrained (port : Nat) (identity : BitVec 256)
  /-- HOST_PORT_DOWN (R276). A PCIe link down or surprise down puts its queues in ERROR and its host memory absent. -/
  | hostPortDown (port : Nat)
  /-- LAUNCH (R253). A LAUNCH packet is checked, admitted, pinned and its contexts created, or rejected. -/
  | launch (q : Nat)
  /-- WAITPKT (R249). Waits until a named packet of a queue has ended or been rejected. -/
  | waitpkt (q : Nat)
  /-- SIGNAL (R248). Performs an 8-byte release write and optionally raises the vector. -/
  | signal (q : Nat)
  /-- PIN (R248). Pins a working set. -/
  | pin (q : Nat)
  /-- UNPIN (R248). Releases pins made by this queue's PIN packets with the descriptor. -/
  | unpin (q : Nat)
  /-- COPY (R248). Starts a copy through the firmware cores' copy engines. -/
  | copy (q : Nat)
  /-- NOP (R248). Consumed at once. -/
  | nop (q : Nat)
  /-- PACKET_WAIT_END (R249). A waiting WAITPKT or WAITALL packet is consumed when its awaited packets end. -/
  | packetWaitEnd (q : Nat)
  /-- COPY_DONE (R248). A COPY ends and its END record is written. -/
  | copyDone (q : Nat) (n : Nat)
  /-- QKICK (R243). A kick moves WIDX when in range, or counts as stale. -/
  | qkick (q : Nat) (k : BitVec 32)
  /-- ENABLE (R241). QCTL command 1 zeroes the indices and starts the queue. -/
  | enable (q : Nat)
  /-- DISABLE (R241). QCTL command 2 stops reading after the packet in hand. -/
  | disable (q : Nat)
  /-- QCTL_RESUME (R241). QCTL command 3 clears ERR and rereads the packet at RIDX. -/
  | qctlResume (q : Nat)
  /-- SKIP (R241). QCTL command 4 clears ERR and advances RIDX. -/
  | skip (q : Nat)
  /-- CLRSTALE (R241). QCTL command 5 clears STALE. -/
  | clrstale (q : Nat)
  /-- PARTITION_TABLE_WRITE (R260). A host write to a partition entry, discarded while admitted, refilling the reserve. -/
  | partitionTableWrite (off : Nat) (value : Nat)
  /-- REGISTER_WRITE (R237). A host write to a BAR0 register without behaviour of its own, with RSV and state checks. -/
  | registerWrite (off : Nat) (value : Nat)
  /-- BAR2_WRITE (R296). A host write through BAR2 to device memory, refused on pinned nodes or reserved areas. -/
  | bar2Write (addr : Nat) (data : List (BitVec 8))
  /-- BAR2_READ (R374). A host read through BAR2, verifying the line's check value at exit. -/
  | bar2Read (addr : BarAddr) (n : Nat)
  /-- RESYNC_REQUEST (R413). A write of 1 to RESYNCC starts capture of the summary. -/
  | resyncRequest (value : Nat)
  /-- RESYNC_COMPLETE (R413). The summary is written, DONE set and the vector raised. -/
  | resyncComplete
  /-- ATTACH (R416). Attaches a debugger to the selected core. -/
  | attach
  /-- DETACH (R416). Resumes the core if halted and ends the attachment. -/
  | detach
  /-- DBG_HALT (R416). Raises interrupt 4 so the attached core halts at its next boundary. -/
  | dbgHalt
  /-- DBG_RESUME (R416). Resumes the halted core. -/
  | dbgResume
  /-- DBG_READ (R416). Fills DBGDATA and DBGTAG from the named register. -/
  | dbgRead
  /-- DBG_WRITE (R416). Writes the named register with the rules of R375. -/
  | dbgWrite
  /-- I3C_READ_DEVSTAT (R414). I3C command 0x01 returns DEVSTAT. -/
  | i3cReadDevstat
  /-- I3C_READ_POWER (R414). I3C command 0x02 returns PWRTOT and the PWRDIE words. -/
  | i3cReadPower
  /-- ATTESTATION_REPORT (R414). I3C command 0x03 returns a signed attestation report for a nonce. -/
  | attestationReport (nonce : BitVec 256)
  /-- BOOT_STORE_WRITE (R414). I3C command 0x04 writes a signed image to the boot store. -/
  | bootStoreWrite (img : BootImage)
  /-- VERSION_FLOOR_RAISE (R414). I3C command 0x05 raises a version floor under a vendor signature. -/
  | versionFloorRaise (kind : ImageKind) (floor : BitVec 32) (signature : Bool)
  /-- DEBUG_WINDOW_ACCESS (R414). I3C command 0x06 reads or writes a debug window word. -/
  | debugWindowAccess (off : Nat) (write : Option (BitVec 64))
  /-- BYPASS (R415). Boundary-scan BYPASS instruction. -/
  | bypass
  /-- IDCODE (R415). Boundary-scan IDCODE returns 0x0F2E_A19B. -/
  | idcode
  /-- SAMPLE_PRELOAD (R415). Boundary-scan SAMPLE/PRELOAD instruction. -/
  | samplePreload
  /-- EXTEST (R415). Boundary-scan EXTEST, acting only with the test-mode strap high. -/
  | extest
  /-- POWER_ON_RESET (R404). Runs the boot sequence to READY or FAIL. -/
  | powerOnReset
  /-- SENSOR_SAMPLE (R410). Every 10 µs a tile or link sets its throttling from its sensors. -/
  | sensorSample (site : SensorSite) (temp : Nat) (current : Nat)
  /-- OVERTEMPERATURE (R410). Above 125 °C for 1 ms the tile is detected for recovery. -/
  | overtemperature (tile : Nat)
  /-- ROLE_RESTART (R408). A failed firmware core's role restarts on a surviving core from its duplicate. -/
  | roleRestart (role : Nat)
  /-- ILLEGAL_INSTRUCTION (R51). A fetched word that is not an instruction traps with cause 0x01 and has no other effect. -/
  | illegalInstruction (w : Nat)
  /-- INSTRUCTION_FETCH (R95). A fetch at PC that passes PCC's bounds, lacks X, or meets a poison-marked word traps with TPC = TVAL = PC. -/
  | instructionFetch
  /-- HOST_PORT_UP (R349). A PCIe port's link trains again after a removal, its host memory becomes reachable, and its queues remain in ERROR. -/
  | hostPortUp (port : Nat)
  /-- WRITE_ACKNOWLEDGEMENT (R108). The acknowledgement of a channel-0 write arrives at its issuer and releases waiting STL, fences and the idle condition of R210. -/
  | writeAcknowledgement (n : Nat)
  /-- MALFORMED_PACKET (R246). A packet at RIDX that fails its check, has an unknown opcode, sets reserved bits, or cannot be read puts the queue in ERROR with an error record. -/
  | malformedPacket (q : Nat)
  /-- PAIRING_EXCHANGE (R343). An exchange over the bundle pairs a launch with the launch of the same handle and id that a peer wafer has just admitted. -/
  | pairingExchange (launch : Nat) (wafer : Nat) (tiles : List Nat)
  /-- PAIRED_LAUNCH_END (R343). The paired launch on a peer wafer ends, and every tile of that wafer becomes absent to the launch. -/
  | pairedLaunchEnd (launch : Nat) (wafer : Nat)
  deriving DecidableEq, Repr

end Sys2Proof
end

