-- ==== Sys2Proof/WellFormed.lean ====
section
/-! DEFINITION. Which terms of `Instr` are instructions: every field within the limits of R42 to R55. The steps that
are not instruction words carry names and values that the machine itself checks, so every term of theirs is well
formed. -/

namespace Sys2Proof

/-- The integer types of R152. -/
def VType.isInt : VType → Bool
  | .i32 | .i16 | .i8 | .n32 | .n16 | .n8 => true
  | .f32 | .f16 | .bf16 | .f64 => false

/-- The float types of R153. -/
def VType.isFloat (t : VType) : Bool := !t.isInt

/-- An integer that an n-bit two's complement field holds (R43). -/
def inS (n : Nat) (x : Int) : Bool := decide (-(2 : Int) ^ (n - 1) ≤ x ∧ x < (2 : Int) ^ (n - 1))

/-- A register pair field of a task descriptor takes g1 to g62 (R116). -/
def pairOk (a : Nat) : Bool := decide (1 ≤ a ∧ a ≤ 62)

/-- The command register field of PUSH takes g1 to g60 (R47). -/
def cmdOk (a : Nat) : Bool := decide (1 ≤ a ∧ a ≤ 60)

/-- Well-formedness, one line per constructor. -/
def wf : Instr → Bool
  | .add d a b => d < 64 && a < 64 && b < 64
  | .sub d a b => d < 64 && a < 64 && b < 64
  | .and d a b => d < 64 && a < 64 && b < 64
  | .or d a b => d < 64 && a < 64 && b < 64
  | .xor d a b => d < 64 && a < 64 && b < 64
  | .andn d a b => d < 64 && a < 64 && b < 64
  | .shl d a b => d < 64 && a < 64 && b < 64
  | .shr d a b => d < 64 && a < 64 && b < 64
  | .sar d a b => d < 64 && a < 64 && b < 64
  | .rol d a b => d < 64 && a < 64 && b < 64
  | .slt d a b => d < 64 && a < 64 && b < 64
  | .sltn d a b => d < 64 && a < 64 && b < 64
  | .min d a b => d < 64 && a < 64 && b < 64
  | .max d a b => d < 64 && a < 64 && b < 64
  | .minn d a b => d < 64 && a < 64 && b < 64
  | .maxn d a b => d < 64 && a < 64 && b < 64
  | .mul d a b => d < 64 && a < 64 && b < 64
  | .mulh d a b => d < 64 && a < 64 && b < 64
  | .mulhn d a b => d < 64 && a < 64 && b < 64
  | .div d a b => d < 64 && a < 64 && b < 64
  | .divn d a b => d < 64 && a < 64 && b < 64
  | .rem d a b => d < 64 && a < 64 && b < 64
  | .remn d a b => d < 64 && a < 64 && b < 64
  | .clz d a => d < 64 && a < 64
  | .ctz d a => d < 64 && a < 64
  | .popc d a => d < 64 && a < 64
  | .bswap d a => d < 64 && a < 64
  | .addw d a b => d < 64 && a < 64 && b < 64
  | .subw d a b => d < 64 && a < 64 && b < 64
  | .mulw d a b => d < 64 && a < 64 && b < 64
  | .seq d a b => d < 64 && a < 64 && b < 64
  | .sne d a b => d < 64 && a < 64 && b < 64
  | .addi d a i => d < 64 && a < 64 && inS 14 i
  | .andi d a i => d < 64 && a < 64 && inS 14 i
  | .ori d a i => d < 64 && a < 64 && i < 16384
  | .xori d a i => d < 64 && a < 64 && i < 16384
  | .shli d a n => d < 64 && a < 64 && n < 64
  | .shri d a n => d < 64 && a < 64 && n < 64
  | .sari d a n => d < 64 && a < 64 && n < 64
  | .roli d a n => d < 64 && a < 64 && n < 64
  | .slti d a i => d < 64 && a < 64 && inS 13 i
  | .sltni d a i => d < 64 && a < 64 && inS 13 i
  | .lui d i => d < 64 && inS 20 i
  | .cpc d i => d < 64 && inS 20 i
  | .cinc d a b => d < 64 && a < 64 && b < 64
  | .cbnd d a b => d < 64 && a < 64 && b < 64
  | .cbndx d a b => d < 64 && a < 64 && b < 64
  | .cperm d a b => d < 64 && a < 64 && b < 64
  | .cgeta d a => d < 64 && a < 64
  | .cgetb d a => d < 64 && a < 64
  | .cgetl d a => d < 64 && a < 64
  | .cgetp d a => d < 64 && a < 64
  | .cseta d a b => d < 64 && a < 64 && b < 64
  | .ctag d a => d < 64 && a < 64
  | .csub d a b => d < 64 && a < 64 && b < 64
  | .ctest d a b => d < 64 && a < 64 && b < 64
  | .cclr d a => d < 64 && a < 64
  | .cinci d a i => d < 64 && a < 64 && inS 14 i
  | .ld d a _ i => d < 64 && a < 64 && inS 11 i
  | .lds d a _ i => d < 64 && a < 64 && inS 11 i
  | .st s a _ i => s < 64 && a < 64 && inS 11 i
  | .aadd d a b _ _ _ => d < 64 && a < 64 && b < 64
  | .aand d a b _ _ _ => d < 64 && a < 64 && b < 64
  | .aor d a b _ _ _ => d < 64 && a < 64 && b < 64
  | .axor d a b _ _ _ => d < 64 && a < 64 && b < 64
  | .amin d a b _ _ _ => d < 64 && a < 64 && b < 64
  | .amax d a b _ _ _ => d < 64 && a < 64 && b < 64
  | .aminn d a b _ _ _ => d < 64 && a < 64 && b < 64
  | .amaxn d a b _ _ _ => d < 64 && a < 64 && b < 64
  | .aswap d a b _ _ _ => d < 64 && a < 64 && b < 64
  | .acas d a b _ _ _ => d < 64 && a < 64 && b < 64
  | .afadd d a b _ _ _ => d < 64 && a < 64 && b < 64
  | .fence _ => true
  | .fencea _ => true
  | .fencel _ => true
  | .lda d a _ => d < 64 && a < 64
  | .stl d a _ => d < 64 && a < 64
  | .ldlk d a => d < 64 && a < 64
  | .stul d a => d < 64 && a < 64
  | .ldv d a b => d < 64 && a < 64 && b < 64
  | .stv d a b => d < 64 && a < 64 && b < 64
  | .verq d a => d < 64 && a < 64
  | .reclaim a b => a < 64 && b < 64
  | .beq a b x => a < 64 && b < 64 && inS 11 x
  | .bne a b x => a < 64 && b < 64 && inS 11 x
  | .blt a b x => a < 64 && b < 64 && inS 11 x
  | .bge a b x => a < 64 && b < 64 && inS 11 x
  | .bltn a b x => a < 64 && b < 64 && inS 11 x
  | .bgen a b x => a < 64 && b < 64 && inS 11 x
  | .beqz a x => a < 64 && inS 17 x
  | .bnez a x => a < 64 && inS 17 x
  | .bltz a x => a < 64 && inS 17 x
  | .bgez a x => a < 64 && inS 17 x
  | .bgtz a x => a < 64 && inS 17 x
  | .blez a x => a < 64 && inS 17 x
  | .j x => inS 26 x
  | .jal x => inS 26 x
  | .jr a => a < 64
  | .jalr d a => d < 64 && a < 64
  | .rep c n x y z => (1 ≤ c && c ≤ 16) && (1 ≤ n && n ≤ 256) && x < 4 && y < 4 && z < 4
  | .fadd d a b _ => d < 64 && a < 64 && b < 64
  | .fsub d a b _ => d < 64 && a < 64 && b < 64
  | .fmul d a b _ => d < 64 && a < 64 && b < 64
  | .fdiv d a b _ => d < 64 && a < 64 && b < 64
  | .fma d a b _ => d < 64 && a < 64 && b < 64
  | .fsqrt d a _ => d < 64 && a < 64
  | .fmin d a b _ => d < 64 && a < 64 && b < 64
  | .fmax d a b _ => d < 64 && a < 64 && b < 64
  | .fcmp d a b _ => d < 64 && a < 64 && b < 64
  | .fcvt d a t r _ => d < 64 && a < 64 && !(t == .other && r == .toFmt)
  | .fclass d a _ => d < 64 && a < 64
  | .spawn a => a < 64 && pairOk a
  | .range a => a < 64 && pairOk a
  | .take d a => d < 64 && a < 64 && pairOk a
  | .done => true
  | .yield => true
  | .trig d a b => d < 64 && a < 64 && b < 64 && pairOk b
  | .untrig d a => d < 64 && a < 64
  | .deqn d => d < 64
  | .chunk d a => d < 64 && a < 64
  | .put a b => a < 64 && b < 64
  | .puti a b => a < 64 && b < 64
  | .get d a => d < 64 && a < 64
  | .send a b => a < 64 && b < 64
  | .recv d a => d < 64 && a < 64
  | .sendh a b => a < 64 && b < 64
  | .inboxn d => d < 64
  | .uien d a => d < 64 && a < 64
  | .ihret => true
  | .bar => true
  | .bara => true
  | .barw => true
  | .domset a => a < 64
  | .gang a => a < 64
  | .split => true
  | .pair d => d < 64
  | .unpair => true
  | .tname d a => d < 64 && a < 64
  | .tnbr d a b => d < 64 && a < 64 && b < 64
  | .tdist d a => d < 64 && a < 64
  | .region => true
  | .chkp a => a < 64
  | .ckpt => true
  | .rngsnap a => a < 64
  | .rngrest a => a < 64
  | .rng d a b => d < 64 && a < 64 && b < 64
  | .succhint => true
  | .waitpred d => d < 64
  | .publish => true
  | .push a _ => a < 64 && cmdOk a
  | .pushTry d a _ => d < 64 && a < 64 && cmdOk a
  | .eprog d _ => d < 64
  | .ecancel _ => true
  | .specommit a => a < 64
  | .specdrop a => a < 64
  | .ecall c => c < 1024
  | .ebreak c => c < 1024
  | .eret => true
  | .wfi => true
  | .halt => true
  | .trap c => c < 1024
  | .csrr n a => n < 16384 && a < 64
  | .csrw n a => n < 16384 && a < 64
  | .csrs n a => n < 16384 && a < 64
  | .csrc n a => n < 16384 && a < 64
  | .tlbinv a => a < 64
  | .vadd d a b p _ => d < 32 && a < 32 && b < 32 && p < 8
  | .vsub d a b p _ => d < 32 && a < 32 && b < 32 && p < 8
  | .vmul d a b p _ => d < 32 && a < 32 && b < 32 && p < 8
  | .vmin d a b p _ => d < 32 && a < 32 && b < 32 && p < 8
  | .vmax d a b p _ => d < 32 && a < 32 && b < 32 && p < 8
  | .vabs d a p _ => d < 32 && a < 32 && p < 8
  | .vneg d a p _ => d < 32 && a < 32 && p < 8
  | .vand d a b p t => d < 32 && a < 32 && b < 32 && p < 8 && t.isInt
  | .vor d a b p t => d < 32 && a < 32 && b < 32 && p < 8 && t.isInt
  | .vxor d a b p t => d < 32 && a < 32 && b < 32 && p < 8 && t.isInt
  | .vshl d a b p t => d < 32 && a < 32 && b < 32 && p < 8 && t.isInt
  | .vshr d a b p t => d < 32 && a < 32 && b < 32 && p < 8 && t.isInt
  | .vsar d a b p t => d < 32 && a < 32 && b < 32 && p < 8 && t.isInt
  | .vmulh d a b p t => d < 32 && a < 32 && b < 32 && p < 8 && t.isInt
  | .vadds d a b p t => d < 32 && a < 32 && b < 32 && p < 8 && t.isInt
  | .vsubs d a b p t => d < 32 && a < 32 && b < 32 && p < 8 && t.isInt
  | .vfma d a b p t => d < 32 && a < 32 && b < 32 && p < 8 && t.isFloat
  | .vfms d a b p t => d < 32 && a < 32 && b < 32 && p < 8 && t.isFloat
  | .vfnma d a b p t => d < 32 && a < 32 && b < 32 && p < 8 && t.isFloat
  | .vfnms d a b p t => d < 32 && a < 32 && b < 32 && p < 8 && t.isFloat
  | .vdiv d a b p t => d < 32 && a < 32 && b < 32 && p < 8 && t.isFloat
  | .vsqrt d a p t => d < 32 && a < 32 && p < 8 && t.isFloat
  | .vexp2 d a p => d < 32 && a < 32 && p < 8
  | .vlog2 d a p => d < 32 && a < 32 && p < 8
  | .vrcp d a p => d < 32 && a < 32 && p < 8
  | .vrsq d a p => d < 32 && a < 32 && p < 8
  | .vceq d a b p _ => d < 8 && a < 32 && b < 32 && p < 8
  | .vcne d a b p _ => d < 8 && a < 32 && b < 32 && p < 8
  | .vclt d a b p _ => d < 8 && a < 32 && b < 32 && p < 8
  | .vcle d a b p _ => d < 8 && a < 32 && b < 32 && p < 8
  | .vcgt d a b p _ => d < 8 && a < 32 && b < 32 && p < 8
  | .vcge d a b p _ => d < 8 && a < 32 && b < 32 && p < 8
  | .vcun d a b p t => d < 8 && a < 32 && b < 32 && p < 8 && t.isFloat
  | .vcvt d a _ _ p _ _ => d < 32 && a < 32 && p < 8
  | .vshuf d a b p _ => d < 32 && a < 32 && b < 32 && p < 8
  | .vrot d a n p t => d < 32 && a < 32 && n < 32 && p < 8 && (t != .f64 || n < 16)
  | .vbcast d a n p t => d < 32 && a < 32 && n < 32 && p < 8 && (t != .f64 || n < 16)
  | .vxlane d a b p _ => d < 32 && a < 32 && b < 32 && p < 8
  | .vcompress d a p _ => d < 32 && a < 32 && p < 8
  | .vexpand d a p _ => d < 32 && a < 32 && p < 8
  | .vrsum d a p _ => d < 32 && a < 32 && p < 8
  | .vrmax d a p _ => d < 32 && a < 32 && p < 8
  | .vrmin d a p _ => d < 32 && a < 32 && p < 8
  | .vrsumo d a p _ => d < 32 && a < 32 && p < 8
  | .vld d a p _ => d < 32 && a < 32 && p < 8
  | .vlds d a b p _ => d < 32 && a < 32 && b < 32 && p < 8
  | .vgather d a b p _ => d < 32 && a < 32 && b < 32 && p < 8
  | .vst d a p _ => d < 32 && a < 32 && p < 8
  | .vsts d a b p _ => d < 32 && a < 32 && b < 32 && p < 8
  | .vscatter d a b p _ => d < 32 && a < 32 && b < 32 && p < 8
  | .vmovgv d a n p t => d < 32 && a < 32 && n < 32 && p < 8 && (t != .f64 || n < 16)
  | .vmovvg d a n t => d < 32 && a < 32 && n < 32 && (t != .f64 || n < 16)
  | .vsplat d a p _ => d < 32 && a < 32 && p < 8
  | .vqbind k a => k < 4 && a < 32
  | .vqdrop k => k < 4
  | .vpand d a b p => d < 8 && a < 8 && b < 8 && p < 8
  | .vpor d a b p => d < 8 && a < 8 && b < 8 && p < 8
  | .vpxor d a b p => d < 8 && a < 8 && b < 8 && p < 8
  | .vpnot d a p => d < 8 && a < 8 && p < 8
  | .vpcnt d a p => d < 32 && a < 8 && p < 8
  | .vpset d a p => d < 8 && a < 32 && p < 8
  | .vpfirst d a p => d < 8 && a < 8 && p < 8
  | .timerInterrupt => true
  | .uiEntry => true
  | .responseArrival _ => true
  | .lockLoss _ => true
  | .mma _ => true
  | .mmr _ => true
  | .accz _ => true
  | .accld _ => true
  | .accst _ => true
  | .cpy _ => true
  | .cpy2 _ => true
  | .deal _ => true
  | .xpose _ => true
  | .agset _ => true
  | .mldred _ => true
  | .mstore _ => true
  | .agstat _ => true
  | .engineElement _ _ => true
  | .latchChunkArrival _ => true
  | .mmrWriteBack _ => true
  | .streamEntryArrival _ => true
  | .completionMessage _ _ => true
  | .messageArrival _ => true
  | .firingPush _ _ _ => true
  | .stealProbe _ _ _ => true
  | .stealGrant _ _ => true
  | .dieAgentSteal _ _ => true
  | .sharePush _ _ => true
  | .barrierArrival _ _ => true
  | .barrierRelease _ _ => true
  | .lullWave _ => true
  | .contextWake _ _ => true
  | .contextSwitch _ => true
  | .preemptInterrupt => true
  | .deadlineMiss _ => true
  | .budgetExhausted _ => true
  | .reserveRefill => true
  | .rollback => true
  | .pairExchange _ => true
  | .watchdogFire _ => true
  | .intervalEnd _ => true
  | .snapshotTimeout _ => true
  | .checkpointCommit _ => true
  | .refusedMessageResend _ => true
  | .lehrFence _ => true
  | .lehrChoose _ => true
  | .lehrRestore _ => true
  | .rebindingFlip _ => true
  | .lehrReplay _ => true
  | .lehrResume _ => true
  | .plannedMigration _ => true
  | .flitArrival _ _ => true
  | .flitAcknowledgement _ _ => true
  | .negativeAcknowledgement _ _ => true
  | .laneSparingDone _ => true
  | .linkTrained _ _ => true
  | .trainingTimeout _ => true
  | .lossOfSignal _ => true
  | .meshFlitArrival _ _ => true
  | .galePortTrained _ _ => true
  | .hostPortDown _ => true
  | .launch _ => true
  | .waitpkt _ => true
  | .signal _ => true
  | .pin _ => true
  | .unpin _ => true
  | .copy _ => true
  | .nop _ => true
  | .packetWaitEnd _ => true
  | .copyDone _ _ => true
  | .qkick _ _ => true
  | .enable _ => true
  | .disable _ => true
  | .qctlResume _ => true
  | .skip _ => true
  | .clrstale _ => true
  | .partitionTableWrite _ _ => true
  | .registerWrite _ _ => true
  | .bar2Write _ _ => true
  | .bar2Read a _ => decide (a.port < 2)
  | .resyncRequest _ => true
  | .resyncComplete => true
  | .attach => true
  | .detach => true
  | .dbgHalt => true
  | .dbgResume => true
  | .dbgRead => true
  | .dbgWrite => true
  | .i3cReadDevstat => true
  | .i3cReadPower => true
  | .attestationReport _ => true
  | .bootStoreWrite _ => true
  | .versionFloorRaise _ _ _ => true
  | .debugWindowAccess _ _ => true
  | .bypass => true
  | .idcode => true
  | .samplePreload => true
  | .extest => true
  | .powerOnReset => true
  | .sensorSample _ _ _ => true
  | .overtemperature _ => true
  | .roleRestart _ => true
  | .illegalInstruction _ => true
  | .instructionFetch => true
  | .hostPortUp _ => true
  | .writeAcknowledgement _ => true
  | .malformedPacket _ => true
  | .pairingExchange _ _ _ => true
  | .pairedLaunchEnd _ _ => true

/-- A well-formed instruction. -/
abbrev WellFormed (i : Instr) : Prop := wf i = true

end Sys2Proof
end

