-- ==== Sys2Proof/Decode.lean ====
section
/-! DEFINITION. The decoder, total on every word and every list of bytes, and the encoder, both from R41 to R55. A word
that R51 calls no instruction decodes to none. -/

namespace Sys2Proof

/-- The n bits of w from bit lo upward (R13's field notation). -/
def fld (w lo n : Nat) : Nat := w / 2 ^ lo % 2 ^ n

/-- An n-bit field read as two's complement (sext of R16). -/
def sx (n x : Nat) : Int := if x < 2 ^ (n - 1) then (x : Int) else (x : Int) - 2 ^ n

/-- The n-bit field that holds an integer. -/
def ux (n : Nat) (x : Int) : Nat := (x % 2 ^ n).toNat

/-- Codes of `LWidth`. -/
def LWidth.ofCode : Nat → Option LWidth
  | 0 => some .i8
  | 1 => some .i16
  | 2 => some .i32
  | 3 => some .d64
  | 4 => some .n8
  | 5 => some .n16
  | 6 => some .n32
  | 7 => some .q128
  | _ => none

/-- Codes of `LWidth`. -/
def LWidth.code : LWidth → Nat
  | .i8 => 0
  | .i16 => 1
  | .i32 => 2
  | .d64 => 3
  | .n8 => 4
  | .n16 => 5
  | .n32 => 6
  | .q128 => 7

/-- Codes of `AWidth`. -/
def AWidth.ofCode : Nat → Option AWidth
  | 0 => some .w32
  | 1 => some .w64
  | _ => none

/-- Codes of `AWidth`. -/
def AWidth.code : AWidth → Nat
  | .w32 => 0
  | .w64 => 1

/-- Codes of `Scope`. -/
def Scope.ofCode : Nat → Option Scope
  | 0 => some .tile
  | 1 => some .die
  | 2 => some .dev
  | 3 => some .sys
  | _ => none

/-- Codes of `Scope`. -/
def Scope.code : Scope → Nat
  | .tile => 0
  | .die => 1
  | .dev => 2
  | .sys => 3

/-- Codes of `Ord`. -/
def Ord.ofCode : Nat → Option Ord
  | 0 => some .rlx
  | 1 => some .ar
  | _ => none

/-- Codes of `Ord`. -/
def Ord.code : Ord → Nat
  | .rlx => 0
  | .ar => 1

/-- Codes of `FFmt`. -/
def FFmt.ofCode : Nat → Option FFmt
  | 0 => some .f32
  | 1 => some .f64
  | _ => none

/-- Codes of `FFmt`. -/
def FFmt.code : FFmt → Nat
  | .f32 => 0
  | .f64 => 1

/-- Codes of `CvtType`. -/
def CvtType.ofCode : Nat → Option CvtType
  | 0 => some .other
  | 1 => some .i32
  | 2 => some .n32
  | 3 => some .i64
  | 4 => some .n64
  | 5 => some .f16
  | 6 => some .bf16
  | _ => none

/-- Codes of `CvtType`. -/
def CvtType.code : CvtType → Nat
  | .other => 0
  | .i32 => 1
  | .n32 => 2
  | .i64 => 3
  | .n64 => 4
  | .f16 => 5
  | .bf16 => 6

/-- Codes of `CvtDir`. -/
def CvtDir.ofCode : Nat → Option CvtDir
  | 0 => some .fromFmt
  | 1 => some .toFmt
  | _ => none

/-- Codes of `CvtDir`. -/
def CvtDir.code : CvtDir → Nat
  | .fromFmt => 0
  | .toFmt => 1

/-- Codes of `VType`. -/
def VType.ofCode : Nat → Option VType
  | 0 => some .f32
  | 1 => some .f16
  | 2 => some .bf16
  | 3 => some .i32
  | 4 => some .i16
  | 5 => some .i8
  | 6 => some .n32
  | 7 => some .n16
  | 8 => some .n8
  | 9 => some .f64
  | _ => none

/-- Codes of `VType`. -/
def VType.code : VType → Nat
  | .f32 => 0
  | .f16 => 1
  | .bf16 => 2
  | .i32 => 3
  | .i16 => 4
  | .i8 => 5
  | .n32 => 6
  | .n16 => 7
  | .n8 => 8
  | .f64 => 9

/-- Codes of `RMode`. -/
def RMode.ofCode : Nat → Option RMode
  | 0 => some .rne
  | 1 => some .rtz
  | 2 => some .rdn
  | 3 => some .rup
  | 4 => some .rna
  | 5 => some .sr
  | _ => none

/-- Codes of `RMode`. -/
def RMode.code : RMode → Nat
  | .rne => 0
  | .rtz => 1
  | .rdn => 2
  | .rup => 3
  | .rna => 4
  | .sr => 5

/-- Codes of `Eng`. -/
def Eng.ofCode : Nat → Option Eng
  | 0 => some .me
  | 1 => some .ce
  | 2 => some .ca
  | _ => none

/-- Codes of `Eng`. -/
def Eng.code : Eng → Nat
  | .me => 0
  | .ce => 1
  | .ca => 2

/-- Codes of `EProgSel`. -/
def EProgSel.ofCode : Nat → Option EProgSel
  | 0 => some .me
  | 1 => some .ce
  | 2 => some .ca
  | 3 => some .sr
  | _ => none

/-- Codes of `EProgSel`. -/
def EProgSel.code : EProgSel → Nat
  | .me => 0
  | .ce => 1
  | .ca => 2
  | .sr => 3

/-- Codes of `SWidth`. -/
def SWidth.ofCode : Nat → Option SWidth
  | 0 => some .b8
  | 1 => some .b16
  | 2 => some .b32
  | 3 => some .b64
  | 7 => some .q128
  | _ => none

/-- Codes of `SWidth`. -/
def SWidth.code : SWidth → Nat
  | .b8 => 0
  | .b16 => 1
  | .b32 => 2
  | .b64 => 3
  | .q128 => 7

/-- Major 0x01 (R45 to R49). -/
def dec01 (wd : Nat) : Option Instr :=
  match fld wd 0 8 with
  | 0 => some (.add (fld wd 20 6) (fld wd 14 6) (fld wd 8 6))
  | 1 => some (.sub (fld wd 20 6) (fld wd 14 6) (fld wd 8 6))
  | 2 => some (.and (fld wd 20 6) (fld wd 14 6) (fld wd 8 6))
  | 3 => some (.or (fld wd 20 6) (fld wd 14 6) (fld wd 8 6))
  | 4 => some (.xor (fld wd 20 6) (fld wd 14 6) (fld wd 8 6))
  | 5 => some (.andn (fld wd 20 6) (fld wd 14 6) (fld wd 8 6))
  | 6 => some (.shl (fld wd 20 6) (fld wd 14 6) (fld wd 8 6))
  | 7 => some (.shr (fld wd 20 6) (fld wd 14 6) (fld wd 8 6))
  | 8 => some (.sar (fld wd 20 6) (fld wd 14 6) (fld wd 8 6))
  | 9 => some (.rol (fld wd 20 6) (fld wd 14 6) (fld wd 8 6))
  | 10 => some (.slt (fld wd 20 6) (fld wd 14 6) (fld wd 8 6))
  | 11 => some (.sltn (fld wd 20 6) (fld wd 14 6) (fld wd 8 6))
  | 12 => some (.min (fld wd 20 6) (fld wd 14 6) (fld wd 8 6))
  | 13 => some (.max (fld wd 20 6) (fld wd 14 6) (fld wd 8 6))
  | 14 => some (.minn (fld wd 20 6) (fld wd 14 6) (fld wd 8 6))
  | 15 => some (.maxn (fld wd 20 6) (fld wd 14 6) (fld wd 8 6))
  | 16 => some (.mul (fld wd 20 6) (fld wd 14 6) (fld wd 8 6))
  | 17 => some (.mulh (fld wd 20 6) (fld wd 14 6) (fld wd 8 6))
  | 18 => some (.mulhn (fld wd 20 6) (fld wd 14 6) (fld wd 8 6))
  | 19 => some (.div (fld wd 20 6) (fld wd 14 6) (fld wd 8 6))
  | 20 => some (.divn (fld wd 20 6) (fld wd 14 6) (fld wd 8 6))
  | 21 => some (.rem (fld wd 20 6) (fld wd 14 6) (fld wd 8 6))
  | 22 => some (.remn (fld wd 20 6) (fld wd 14 6) (fld wd 8 6))
  | 23 => if fld wd 8 6 == 0 then some (.clz (fld wd 20 6) (fld wd 14 6)) else none
  | 24 => if fld wd 8 6 == 0 then some (.ctz (fld wd 20 6) (fld wd 14 6)) else none
  | 25 => if fld wd 8 6 == 0 then some (.popc (fld wd 20 6) (fld wd 14 6)) else none
  | 26 => if fld wd 8 6 == 0 then some (.bswap (fld wd 20 6) (fld wd 14 6)) else none
  | 27 => some (.addw (fld wd 20 6) (fld wd 14 6) (fld wd 8 6))
  | 28 => some (.subw (fld wd 20 6) (fld wd 14 6) (fld wd 8 6))
  | 29 => some (.mulw (fld wd 20 6) (fld wd 14 6) (fld wd 8 6))
  | 30 => some (.seq (fld wd 20 6) (fld wd 14 6) (fld wd 8 6))
  | 31 => some (.sne (fld wd 20 6) (fld wd 14 6) (fld wd 8 6))
  | _ => none

/-- Major 0x02 (R45 to R49). -/
def dec02 (wd : Nat) : Option Instr :=
  some (.addi (fld wd 20 6) (fld wd 14 6) (sx 14 (fld wd 0 14)))

/-- Major 0x03 (R45 to R49). -/
def dec03 (wd : Nat) : Option Instr :=
  some (.andi (fld wd 20 6) (fld wd 14 6) (sx 14 (fld wd 0 14)))

/-- Major 0x04 (R45 to R49). -/
def dec04 (wd : Nat) : Option Instr :=
  some (.ori (fld wd 20 6) (fld wd 14 6) (fld wd 0 14))

/-- Major 0x05 (R45 to R49). -/
def dec05 (wd : Nat) : Option Instr :=
  some (.xori (fld wd 20 6) (fld wd 14 6) (fld wd 0 14))

/-- Major 0x06 (R45 to R49). -/
def dec06 (wd : Nat) : Option Instr :=
  match fld wd 12 2 with
  | 0 => if fld wd 6 6 == 0 then some (.shli (fld wd 20 6) (fld wd 14 6) (fld wd 0 6)) else none
  | 1 => if fld wd 6 6 == 0 then some (.shri (fld wd 20 6) (fld wd 14 6) (fld wd 0 6)) else none
  | 2 => if fld wd 6 6 == 0 then some (.sari (fld wd 20 6) (fld wd 14 6) (fld wd 0 6)) else none
  | 3 => if fld wd 6 6 == 0 then some (.roli (fld wd 20 6) (fld wd 14 6) (fld wd 0 6)) else none
  | _ => none

/-- Major 0x07 (R45 to R49). -/
def dec07 (wd : Nat) : Option Instr :=
  match fld wd 13 1 with
  | 0 => some (.slti (fld wd 20 6) (fld wd 14 6) (sx 13 (fld wd 0 13)))
  | 1 => some (.sltni (fld wd 20 6) (fld wd 14 6) (sx 13 (fld wd 0 13)))
  | _ => none

/-- Major 0x08 (R45 to R49). -/
def dec08 (wd : Nat) : Option Instr :=
  some (.lui (fld wd 20 6) (sx 20 (fld wd 0 20)))

/-- Major 0x09 (R45 to R49). -/
def dec09 (wd : Nat) : Option Instr :=
  some (.cpc (fld wd 20 6) (sx 20 (fld wd 0 20)))

/-- Major 0x0A (R45 to R49). -/
def dec0A (wd : Nat) : Option Instr :=
  match fld wd 0 8 with
  | 0 => some (.cinc (fld wd 20 6) (fld wd 14 6) (fld wd 8 6))
  | 1 => some (.cbnd (fld wd 20 6) (fld wd 14 6) (fld wd 8 6))
  | 2 => some (.cbndx (fld wd 20 6) (fld wd 14 6) (fld wd 8 6))
  | 3 => some (.cperm (fld wd 20 6) (fld wd 14 6) (fld wd 8 6))
  | 4 => if fld wd 8 6 == 0 then some (.cgeta (fld wd 20 6) (fld wd 14 6)) else none
  | 5 => if fld wd 8 6 == 0 then some (.cgetb (fld wd 20 6) (fld wd 14 6)) else none
  | 6 => if fld wd 8 6 == 0 then some (.cgetl (fld wd 20 6) (fld wd 14 6)) else none
  | 7 => if fld wd 8 6 == 0 then some (.cgetp (fld wd 20 6) (fld wd 14 6)) else none
  | 8 => some (.cseta (fld wd 20 6) (fld wd 14 6) (fld wd 8 6))
  | 9 => if fld wd 8 6 == 0 then some (.ctag (fld wd 20 6) (fld wd 14 6)) else none
  | 10 => some (.csub (fld wd 20 6) (fld wd 14 6) (fld wd 8 6))
  | 11 => some (.ctest (fld wd 20 6) (fld wd 14 6) (fld wd 8 6))
  | 12 => if fld wd 8 6 == 0 then some (.cclr (fld wd 20 6) (fld wd 14 6)) else none
  | _ => none

/-- Major 0x0B (R45 to R49). -/
def dec0B (wd : Nat) : Option Instr :=
  some (.cinci (fld wd 20 6) (fld wd 14 6) (sx 14 (fld wd 0 14)))

/-- Major 0x0C (R45 to R49). -/
def dec0C (wd : Nat) : Option Instr :=
  LWidth.ofCode (fld wd 11 3) >>= fun w => some (.ld (fld wd 20 6) (fld wd 14 6) w (sx 11 (fld wd 0 11)))

/-- Major 0x0D (R45 to R49). -/
def dec0D (wd : Nat) : Option Instr :=
  LWidth.ofCode (fld wd 11 3) >>= fun w => some (.lds (fld wd 20 6) (fld wd 14 6) w (sx 11 (fld wd 0 11)))

/-- Major 0x0E (R45 to R49). -/
def dec0E (wd : Nat) : Option Instr :=
  SWidth.ofCode (fld wd 11 3) >>= fun w => some (.st (fld wd 20 6) (fld wd 14 6) w (sx 11 (fld wd 0 11)))

/-- Major 0x0F (R45 to R49). -/
def dec0F (wd : Nat) : Option Instr :=
  match fld wd 4 4 with
  | 0 => AWidth.ofCode (fld wd 3 1) >>= fun w => Scope.ofCode (fld wd 1 2) >>= fun s => Ord.ofCode (fld wd 0 1) >>= fun o => some (.aadd (fld wd 20 6) (fld wd 14 6) (fld wd 8 6) w s o)
  | 1 => AWidth.ofCode (fld wd 3 1) >>= fun w => Scope.ofCode (fld wd 1 2) >>= fun s => Ord.ofCode (fld wd 0 1) >>= fun o => some (.aand (fld wd 20 6) (fld wd 14 6) (fld wd 8 6) w s o)
  | 2 => AWidth.ofCode (fld wd 3 1) >>= fun w => Scope.ofCode (fld wd 1 2) >>= fun s => Ord.ofCode (fld wd 0 1) >>= fun o => some (.aor (fld wd 20 6) (fld wd 14 6) (fld wd 8 6) w s o)
  | 3 => AWidth.ofCode (fld wd 3 1) >>= fun w => Scope.ofCode (fld wd 1 2) >>= fun s => Ord.ofCode (fld wd 0 1) >>= fun o => some (.axor (fld wd 20 6) (fld wd 14 6) (fld wd 8 6) w s o)
  | 4 => AWidth.ofCode (fld wd 3 1) >>= fun w => Scope.ofCode (fld wd 1 2) >>= fun s => Ord.ofCode (fld wd 0 1) >>= fun o => some (.amin (fld wd 20 6) (fld wd 14 6) (fld wd 8 6) w s o)
  | 5 => AWidth.ofCode (fld wd 3 1) >>= fun w => Scope.ofCode (fld wd 1 2) >>= fun s => Ord.ofCode (fld wd 0 1) >>= fun o => some (.amax (fld wd 20 6) (fld wd 14 6) (fld wd 8 6) w s o)
  | 6 => AWidth.ofCode (fld wd 3 1) >>= fun w => Scope.ofCode (fld wd 1 2) >>= fun s => Ord.ofCode (fld wd 0 1) >>= fun o => some (.aminn (fld wd 20 6) (fld wd 14 6) (fld wd 8 6) w s o)
  | 7 => AWidth.ofCode (fld wd 3 1) >>= fun w => Scope.ofCode (fld wd 1 2) >>= fun s => Ord.ofCode (fld wd 0 1) >>= fun o => some (.amaxn (fld wd 20 6) (fld wd 14 6) (fld wd 8 6) w s o)
  | 8 => AWidth.ofCode (fld wd 3 1) >>= fun w => Scope.ofCode (fld wd 1 2) >>= fun s => Ord.ofCode (fld wd 0 1) >>= fun o => some (.aswap (fld wd 20 6) (fld wd 14 6) (fld wd 8 6) w s o)
  | 9 => AWidth.ofCode (fld wd 3 1) >>= fun w => Scope.ofCode (fld wd 1 2) >>= fun s => Ord.ofCode (fld wd 0 1) >>= fun o => some (.acas (fld wd 20 6) (fld wd 14 6) (fld wd 8 6) w s o)
  | 10 => AWidth.ofCode (fld wd 3 1) >>= fun w => Scope.ofCode (fld wd 1 2) >>= fun s => Ord.ofCode (fld wd 0 1) >>= fun o => some (.afadd (fld wd 20 6) (fld wd 14 6) (fld wd 8 6) w s o)
  | _ => none

/-- Major 0x10 (R45 to R49). -/
def dec10 (wd : Nat) : Option Instr :=
  match fld wd 0 8 with
  | 0 => if fld wd 10 16 == 0 then Scope.ofCode (fld wd 8 2) >>= fun s => some (.fence s) else none
  | 1 => if fld wd 10 16 == 0 then Scope.ofCode (fld wd 8 2) >>= fun s => some (.fencea s) else none
  | 2 => if fld wd 10 16 == 0 then Scope.ofCode (fld wd 8 2) >>= fun s => some (.fencel s) else none
  | 3 => if fld wd 10 4 == 0 then Scope.ofCode (fld wd 8 2) >>= fun s => some (.lda (fld wd 20 6) (fld wd 14 6) s) else none
  | 4 => if fld wd 10 4 == 0 then Scope.ofCode (fld wd 8 2) >>= fun s => some (.stl (fld wd 20 6) (fld wd 14 6) s) else none
  | 5 => if fld wd 8 6 == 0 then some (.ldlk (fld wd 20 6) (fld wd 14 6)) else none
  | 6 => if fld wd 8 6 == 0 then some (.stul (fld wd 20 6) (fld wd 14 6)) else none
  | _ => none

/-- Major 0x11 (R45 to R49). -/
def dec11 (wd : Nat) : Option Instr :=
  match fld wd 0 8 with
  | 0 => some (.ldv (fld wd 20 6) (fld wd 14 6) (fld wd 8 6))
  | 1 => some (.stv (fld wd 20 6) (fld wd 14 6) (fld wd 8 6))
  | 2 => if fld wd 8 6 == 0 then some (.verq (fld wd 20 6) (fld wd 14 6)) else none
  | 3 => if fld wd 20 6 == 0 then some (.reclaim (fld wd 14 6) (fld wd 8 6)) else none
  | _ => none

/-- Major 0x12 (R45 to R49). -/
def dec12 (wd : Nat) : Option Instr :=
  match fld wd 23 3 with
  | 0 => some (.beq (fld wd 17 6) (fld wd 11 6) (sx 11 (fld wd 0 11)))
  | 1 => some (.bne (fld wd 17 6) (fld wd 11 6) (sx 11 (fld wd 0 11)))
  | 2 => some (.blt (fld wd 17 6) (fld wd 11 6) (sx 11 (fld wd 0 11)))
  | 3 => some (.bge (fld wd 17 6) (fld wd 11 6) (sx 11 (fld wd 0 11)))
  | 4 => some (.bltn (fld wd 17 6) (fld wd 11 6) (sx 11 (fld wd 0 11)))
  | 5 => some (.bgen (fld wd 17 6) (fld wd 11 6) (sx 11 (fld wd 0 11)))
  | _ => none

/-- Major 0x13 (R45 to R49). -/
def dec13 (wd : Nat) : Option Instr :=
  match fld wd 23 3 with
  | 0 => some (.beqz (fld wd 17 6) (sx 17 (fld wd 0 17)))
  | 1 => some (.bnez (fld wd 17 6) (sx 17 (fld wd 0 17)))
  | 2 => some (.bltz (fld wd 17 6) (sx 17 (fld wd 0 17)))
  | 3 => some (.bgez (fld wd 17 6) (sx 17 (fld wd 0 17)))
  | 4 => some (.bgtz (fld wd 17 6) (sx 17 (fld wd 0 17)))
  | 5 => some (.blez (fld wd 17 6) (sx 17 (fld wd 0 17)))
  | _ => none

/-- Major 0x14 (R45 to R49). -/
def dec14 (wd : Nat) : Option Instr :=
  some (.j (sx 26 (fld wd 0 26)))

/-- Major 0x15 (R45 to R49). -/
def dec15 (wd : Nat) : Option Instr :=
  some (.jal (sx 26 (fld wd 0 26)))

/-- Major 0x16 (R45 to R49). -/
def dec16 (wd : Nat) : Option Instr :=
  match fld wd 0 8 with
  | 0 => if fld wd 8 6 == 0 && fld wd 20 6 == 0 then some (.jr (fld wd 14 6)) else none
  | 1 => if fld wd 8 6 == 0 then some (.jalr (fld wd 20 6) (fld wd 14 6)) else none
  | _ => none

/-- Major 0x17 (R45 to R49). -/
def dec17 (wd : Nat) : Option Instr :=
  if fld wd 0 8 == 0 then some (.rep (fld wd 22 4 + 1) (fld wd 14 8 + 1) (fld wd 12 2) (fld wd 10 2) (fld wd 8 2)) else none

/-- Major 0x18 (R45 to R49). -/
def dec18 (wd : Nat) : Option Instr :=
  match fld wd 0 7 with
  | 0 => FFmt.ofCode (fld wd 7 1) >>= fun p => some (.fadd (fld wd 20 6) (fld wd 14 6) (fld wd 8 6) p)
  | 1 => FFmt.ofCode (fld wd 7 1) >>= fun p => some (.fsub (fld wd 20 6) (fld wd 14 6) (fld wd 8 6) p)
  | 2 => FFmt.ofCode (fld wd 7 1) >>= fun p => some (.fmul (fld wd 20 6) (fld wd 14 6) (fld wd 8 6) p)
  | 3 => FFmt.ofCode (fld wd 7 1) >>= fun p => some (.fdiv (fld wd 20 6) (fld wd 14 6) (fld wd 8 6) p)
  | 4 => FFmt.ofCode (fld wd 7 1) >>= fun p => some (.fma (fld wd 20 6) (fld wd 14 6) (fld wd 8 6) p)
  | 5 => if fld wd 8 6 == 0 then FFmt.ofCode (fld wd 7 1) >>= fun p => some (.fsqrt (fld wd 20 6) (fld wd 14 6) p) else none
  | 6 => FFmt.ofCode (fld wd 7 1) >>= fun p => some (.fmin (fld wd 20 6) (fld wd 14 6) (fld wd 8 6) p)
  | 7 => FFmt.ofCode (fld wd 7 1) >>= fun p => some (.fmax (fld wd 20 6) (fld wd 14 6) (fld wd 8 6) p)
  | 8 => FFmt.ofCode (fld wd 7 1) >>= fun p => some (.fcmp (fld wd 20 6) (fld wd 14 6) (fld wd 8 6) p)
  | 9 => if fld wd 8 2 == 0 then CvtType.ofCode (fld wd 11 3) >>= fun t => CvtDir.ofCode (fld wd 10 1) >>= fun r => FFmt.ofCode (fld wd 7 1) >>= fun p => if !(t == .other && r == .toFmt) then some (.fcvt (fld wd 20 6) (fld wd 14 6) t r p) else none else none
  | 10 => if fld wd 8 6 == 0 then FFmt.ofCode (fld wd 7 1) >>= fun p => some (.fclass (fld wd 20 6) (fld wd 14 6) p) else none
  | _ => none

/-- Major 0x19 (R45 to R49). -/
def dec19 (wd : Nat) : Option Instr :=
  match fld wd 0 8 with
  | 0 => if fld wd 8 6 == 0 && fld wd 20 6 == 0 && pairOk (fld wd 14 6) then some (.spawn (fld wd 14 6)) else none
  | 1 => if fld wd 8 6 == 0 && fld wd 20 6 == 0 && pairOk (fld wd 14 6) then some (.range (fld wd 14 6)) else none
  | 2 => if fld wd 8 6 == 0 && pairOk (fld wd 14 6) then some (.take (fld wd 20 6) (fld wd 14 6)) else none
  | 3 => if fld wd 8 18 == 0 then some (.done) else none
  | 4 => if fld wd 8 18 == 0 then some (.yield) else none
  | 5 => if pairOk (fld wd 8 6) then some (.trig (fld wd 20 6) (fld wd 14 6) (fld wd 8 6)) else none
  | 6 => if fld wd 8 6 == 0 then some (.untrig (fld wd 20 6) (fld wd 14 6)) else none
  | 7 => if fld wd 8 12 == 0 then some (.deqn (fld wd 20 6)) else none
  | 8 => if fld wd 8 6 == 0 then some (.chunk (fld wd 20 6) (fld wd 14 6)) else none
  | _ => none

/-- Major 0x1A (R45 to R49). -/
def dec1A (wd : Nat) : Option Instr :=
  match fld wd 0 8 with
  | 0 => if fld wd 20 6 == 0 then some (.put (fld wd 14 6) (fld wd 8 6)) else none
  | 1 => if fld wd 20 6 == 0 then some (.puti (fld wd 14 6) (fld wd 8 6)) else none
  | 2 => if fld wd 8 6 == 0 then some (.get (fld wd 20 6) (fld wd 14 6)) else none
  | 3 => if fld wd 20 6 == 0 then some (.send (fld wd 14 6) (fld wd 8 6)) else none
  | 4 => if fld wd 8 6 == 0 then some (.recv (fld wd 20 6) (fld wd 14 6)) else none
  | 5 => if fld wd 20 6 == 0 then some (.sendh (fld wd 14 6) (fld wd 8 6)) else none
  | 6 => if fld wd 8 12 == 0 then some (.inboxn (fld wd 20 6)) else none
  | 7 => if fld wd 8 6 == 0 then some (.uien (fld wd 20 6) (fld wd 14 6)) else none
  | 8 => if fld wd 8 18 == 0 then some (.ihret) else none
  | _ => none

/-- Major 0x1B (R45 to R49). -/
def dec1B (wd : Nat) : Option Instr :=
  match fld wd 0 8 with
  | 0 => if fld wd 8 18 == 0 then some (.bar) else none
  | 1 => if fld wd 8 18 == 0 then some (.bara) else none
  | 2 => if fld wd 8 18 == 0 then some (.barw) else none
  | 3 => if fld wd 8 6 == 0 && fld wd 20 6 == 0 then some (.domset (fld wd 14 6)) else none
  | 4 => if fld wd 8 6 == 0 && fld wd 20 6 == 0 then some (.gang (fld wd 14 6)) else none
  | 5 => if fld wd 8 18 == 0 then some (.split) else none
  | 6 => if fld wd 8 12 == 0 then some (.pair (fld wd 20 6)) else none
  | 7 => if fld wd 8 18 == 0 then some (.unpair) else none
  | 8 => if fld wd 8 6 == 0 then some (.tname (fld wd 20 6) (fld wd 14 6)) else none
  | 9 => some (.tnbr (fld wd 20 6) (fld wd 14 6) (fld wd 8 6))
  | 10 => if fld wd 8 6 == 0 then some (.tdist (fld wd 20 6) (fld wd 14 6)) else none
  | _ => none

/-- Major 0x1C (R45 to R49). -/
def dec1C (wd : Nat) : Option Instr :=
  match fld wd 0 8 with
  | 0 => if fld wd 8 18 == 0 then some (.region) else none
  | 1 => if fld wd 8 6 == 0 && fld wd 20 6 == 0 then some (.chkp (fld wd 14 6)) else none
  | 2 => if fld wd 8 18 == 0 then some (.ckpt) else none
  | 3 => if fld wd 8 6 == 0 && fld wd 20 6 == 0 then some (.rngsnap (fld wd 14 6)) else none
  | 4 => if fld wd 8 6 == 0 && fld wd 20 6 == 0 then some (.rngrest (fld wd 14 6)) else none
  | 5 => some (.rng (fld wd 20 6) (fld wd 14 6) (fld wd 8 6))
  | _ => none

/-- Major 0x1D (R45 to R49). -/
def dec1D (wd : Nat) : Option Instr :=
  match fld wd 0 8 with
  | 0 => if fld wd 8 18 == 0 then some (.succhint) else none
  | 1 => if fld wd 8 12 == 0 then some (.waitpred (fld wd 20 6)) else none
  | 2 => if fld wd 8 18 == 0 then some (.publish) else none
  | _ => none

/-- Major 0x1E (R45 to R49). -/
def dec1E (wd : Nat) : Option Instr :=
  match fld wd 0 8 with
  | 0 => (if fld wd 10 4 == 0 && fld wd 20 6 == 0 && cmdOk (fld wd 14 6) then Eng.ofCode (fld wd 8 2) >>= fun e => some (.push (fld wd 14 6) e) else none) <|> (if fld wd 10 4 == 1 && cmdOk (fld wd 14 6) then Eng.ofCode (fld wd 8 2) >>= fun e => some (.pushTry (fld wd 20 6) (fld wd 14 6) e) else none)
  | 1 => if fld wd 10 10 == 0 then EProgSel.ofCode (fld wd 8 2) >>= fun e => some (.eprog (fld wd 20 6) e) else none
  | 2 => if fld wd 10 16 == 0 then Eng.ofCode (fld wd 8 2) >>= fun e => some (.ecancel e) else none
  | 3 => if fld wd 8 6 == 0 && fld wd 20 6 == 0 then some (.specommit (fld wd 14 6)) else none
  | 4 => if fld wd 8 6 == 0 && fld wd 20 6 == 0 then some (.specdrop (fld wd 14 6)) else none
  | _ => none

/-- Major 0x1F (R45 to R49). -/
def dec1F (wd : Nat) : Option Instr :=
  match fld wd 10 4 with
  | 0 => if fld wd 14 12 == 0 then some (.ecall (fld wd 0 10)) else none
  | 1 => if fld wd 14 12 == 0 then some (.ebreak (fld wd 0 10)) else none
  | 2 => if fld wd 0 10 == 0 && fld wd 14 12 == 0 then some (.eret) else none
  | 3 => if fld wd 0 10 == 0 && fld wd 14 12 == 0 then some (.wfi) else none
  | 4 => if fld wd 0 10 == 0 && fld wd 14 12 == 0 then some (.halt) else none
  | 5 => if fld wd 14 12 == 0 then some (.trap (fld wd 0 10)) else none
  | 6 => if fld wd 24 2 == 0 then some (.csrr (fld wd 20 4 * 1024 + fld wd 0 10) (fld wd 14 6)) else none
  | 7 => if fld wd 24 2 == 0 then some (.csrw (fld wd 20 4 * 1024 + fld wd 0 10) (fld wd 14 6)) else none
  | 8 => if fld wd 24 2 == 0 then some (.csrs (fld wd 20 4 * 1024 + fld wd 0 10) (fld wd 14 6)) else none
  | 9 => if fld wd 24 2 == 0 then some (.csrc (fld wd 20 4 * 1024 + fld wd 0 10) (fld wd 14 6)) else none
  | 10 => if fld wd 0 10 == 0 && fld wd 20 6 == 0 then some (.tlbinv (fld wd 14 6)) else none
  | _ => none

/-- Major 0x20 (R45 to R49). -/
def dec20 (wd : Nat) : Option Instr :=
  match fld wd 0 4 with
  | 0 => VType.ofCode (fld wd 4 4) >>= fun t => some (.vadd (fld wd 21 5) (fld wd 16 5) (fld wd 11 5) (fld wd 8 3) t)
  | 1 => VType.ofCode (fld wd 4 4) >>= fun t => some (.vsub (fld wd 21 5) (fld wd 16 5) (fld wd 11 5) (fld wd 8 3) t)
  | 2 => VType.ofCode (fld wd 4 4) >>= fun t => some (.vmul (fld wd 21 5) (fld wd 16 5) (fld wd 11 5) (fld wd 8 3) t)
  | 3 => VType.ofCode (fld wd 4 4) >>= fun t => some (.vmin (fld wd 21 5) (fld wd 16 5) (fld wd 11 5) (fld wd 8 3) t)
  | 4 => VType.ofCode (fld wd 4 4) >>= fun t => some (.vmax (fld wd 21 5) (fld wd 16 5) (fld wd 11 5) (fld wd 8 3) t)
  | 5 => if fld wd 11 5 == 0 then VType.ofCode (fld wd 4 4) >>= fun t => some (.vabs (fld wd 21 5) (fld wd 16 5) (fld wd 8 3) t) else none
  | 6 => if fld wd 11 5 == 0 then VType.ofCode (fld wd 4 4) >>= fun t => some (.vneg (fld wd 21 5) (fld wd 16 5) (fld wd 8 3) t) else none
  | 7 => VType.ofCode (fld wd 4 4) >>= fun t => if t.isInt then some (.vand (fld wd 21 5) (fld wd 16 5) (fld wd 11 5) (fld wd 8 3) t) else none
  | 8 => VType.ofCode (fld wd 4 4) >>= fun t => if t.isInt then some (.vor (fld wd 21 5) (fld wd 16 5) (fld wd 11 5) (fld wd 8 3) t) else none
  | 9 => VType.ofCode (fld wd 4 4) >>= fun t => if t.isInt then some (.vxor (fld wd 21 5) (fld wd 16 5) (fld wd 11 5) (fld wd 8 3) t) else none
  | 10 => VType.ofCode (fld wd 4 4) >>= fun t => if t.isInt then some (.vshl (fld wd 21 5) (fld wd 16 5) (fld wd 11 5) (fld wd 8 3) t) else none
  | 11 => VType.ofCode (fld wd 4 4) >>= fun t => if t.isInt then some (.vshr (fld wd 21 5) (fld wd 16 5) (fld wd 11 5) (fld wd 8 3) t) else none
  | 12 => VType.ofCode (fld wd 4 4) >>= fun t => if t.isInt then some (.vsar (fld wd 21 5) (fld wd 16 5) (fld wd 11 5) (fld wd 8 3) t) else none
  | 13 => VType.ofCode (fld wd 4 4) >>= fun t => if t.isInt then some (.vmulh (fld wd 21 5) (fld wd 16 5) (fld wd 11 5) (fld wd 8 3) t) else none
  | 14 => VType.ofCode (fld wd 4 4) >>= fun t => if t.isInt then some (.vadds (fld wd 21 5) (fld wd 16 5) (fld wd 11 5) (fld wd 8 3) t) else none
  | 15 => VType.ofCode (fld wd 4 4) >>= fun t => if t.isInt then some (.vsubs (fld wd 21 5) (fld wd 16 5) (fld wd 11 5) (fld wd 8 3) t) else none
  | _ => none

/-- Major 0x21 (R45 to R49). -/
def dec21 (wd : Nat) : Option Instr :=
  match fld wd 0 4 with
  | 0 => VType.ofCode (fld wd 4 4) >>= fun t => if t.isFloat then some (.vfma (fld wd 21 5) (fld wd 16 5) (fld wd 11 5) (fld wd 8 3) t) else none
  | 1 => VType.ofCode (fld wd 4 4) >>= fun t => if t.isFloat then some (.vfms (fld wd 21 5) (fld wd 16 5) (fld wd 11 5) (fld wd 8 3) t) else none
  | 2 => VType.ofCode (fld wd 4 4) >>= fun t => if t.isFloat then some (.vfnma (fld wd 21 5) (fld wd 16 5) (fld wd 11 5) (fld wd 8 3) t) else none
  | 3 => VType.ofCode (fld wd 4 4) >>= fun t => if t.isFloat then some (.vfnms (fld wd 21 5) (fld wd 16 5) (fld wd 11 5) (fld wd 8 3) t) else none
  | 4 => VType.ofCode (fld wd 4 4) >>= fun t => if t.isFloat then some (.vdiv (fld wd 21 5) (fld wd 16 5) (fld wd 11 5) (fld wd 8 3) t) else none
  | 5 => if fld wd 11 5 == 0 then VType.ofCode (fld wd 4 4) >>= fun t => if t.isFloat then some (.vsqrt (fld wd 21 5) (fld wd 16 5) (fld wd 8 3) t) else none else none
  | _ => none

/-- Major 0x22 (R45 to R49). -/
def dec22 (wd : Nat) : Option Instr :=
  match fld wd 0 4 with
  | 0 => if fld wd 4 4 == 0 && fld wd 11 5 == 0 then some (.vexp2 (fld wd 21 5) (fld wd 16 5) (fld wd 8 3)) else none
  | 1 => if fld wd 4 4 == 0 && fld wd 11 5 == 0 then some (.vlog2 (fld wd 21 5) (fld wd 16 5) (fld wd 8 3)) else none
  | 2 => if fld wd 4 4 == 0 && fld wd 11 5 == 0 then some (.vrcp (fld wd 21 5) (fld wd 16 5) (fld wd 8 3)) else none
  | 3 => if fld wd 4 4 == 0 && fld wd 11 5 == 0 then some (.vrsq (fld wd 21 5) (fld wd 16 5) (fld wd 8 3)) else none
  | _ => none

/-- Major 0x23 (R45 to R49). -/
def dec23 (wd : Nat) : Option Instr :=
  match fld wd 0 4 with
  | 0 => if fld wd 24 2 == 0 then VType.ofCode (fld wd 4 4) >>= fun t => some (.vceq (fld wd 21 3) (fld wd 16 5) (fld wd 11 5) (fld wd 8 3) t) else none
  | 1 => if fld wd 24 2 == 0 then VType.ofCode (fld wd 4 4) >>= fun t => some (.vcne (fld wd 21 3) (fld wd 16 5) (fld wd 11 5) (fld wd 8 3) t) else none
  | 2 => if fld wd 24 2 == 0 then VType.ofCode (fld wd 4 4) >>= fun t => some (.vclt (fld wd 21 3) (fld wd 16 5) (fld wd 11 5) (fld wd 8 3) t) else none
  | 3 => if fld wd 24 2 == 0 then VType.ofCode (fld wd 4 4) >>= fun t => some (.vcle (fld wd 21 3) (fld wd 16 5) (fld wd 11 5) (fld wd 8 3) t) else none
  | 4 => if fld wd 24 2 == 0 then VType.ofCode (fld wd 4 4) >>= fun t => some (.vcgt (fld wd 21 3) (fld wd 16 5) (fld wd 11 5) (fld wd 8 3) t) else none
  | 5 => if fld wd 24 2 == 0 then VType.ofCode (fld wd 4 4) >>= fun t => some (.vcge (fld wd 21 3) (fld wd 16 5) (fld wd 11 5) (fld wd 8 3) t) else none
  | 6 => if fld wd 24 2 == 0 then VType.ofCode (fld wd 4 4) >>= fun t => if t.isFloat then some (.vcun (fld wd 21 3) (fld wd 16 5) (fld wd 11 5) (fld wd 8 3) t) else none else none
  | _ => none

/-- Major 0x24 (R45 to R49). -/
def dec24 (wd : Nat) : Option Instr :=
  VType.ofCode (fld wd 12 4) >>= fun s => VType.ofCode (fld wd 4 4) >>= fun t => RMode.ofCode (fld wd 0 4) >>= fun m => some (.vcvt (fld wd 21 5) (fld wd 16 5) s (fld wd 11 1 == 1) (fld wd 8 3) t m)

/-- Major 0x25 (R45 to R49). -/
def dec25 (wd : Nat) : Option Instr :=
  match fld wd 0 4 with
  | 0 => VType.ofCode (fld wd 4 4) >>= fun t => some (.vshuf (fld wd 21 5) (fld wd 16 5) (fld wd 11 5) (fld wd 8 3) t)
  | 1 => VType.ofCode (fld wd 4 4) >>= fun t => if (t != .f64 || fld wd 11 5 < 16) then some (.vrot (fld wd 21 5) (fld wd 16 5) (fld wd 11 5) (fld wd 8 3) t) else none
  | 2 => VType.ofCode (fld wd 4 4) >>= fun t => if (t != .f64 || fld wd 11 5 < 16) then some (.vbcast (fld wd 21 5) (fld wd 16 5) (fld wd 11 5) (fld wd 8 3) t) else none
  | 3 => VType.ofCode (fld wd 4 4) >>= fun t => some (.vxlane (fld wd 21 5) (fld wd 16 5) (fld wd 11 5) (fld wd 8 3) t)
  | 4 => if fld wd 11 5 == 0 then VType.ofCode (fld wd 4 4) >>= fun t => some (.vcompress (fld wd 21 5) (fld wd 16 5) (fld wd 8 3) t) else none
  | 5 => if fld wd 11 5 == 0 then VType.ofCode (fld wd 4 4) >>= fun t => some (.vexpand (fld wd 21 5) (fld wd 16 5) (fld wd 8 3) t) else none
  | _ => none

/-- Major 0x26 (R45 to R49). -/
def dec26 (wd : Nat) : Option Instr :=
  match fld wd 0 4 with
  | 0 => if fld wd 11 5 == 0 then VType.ofCode (fld wd 4 4) >>= fun t => some (.vrsum (fld wd 21 5) (fld wd 16 5) (fld wd 8 3) t) else none
  | 1 => if fld wd 11 5 == 0 then VType.ofCode (fld wd 4 4) >>= fun t => some (.vrmax (fld wd 21 5) (fld wd 16 5) (fld wd 8 3) t) else none
  | 2 => if fld wd 11 5 == 0 then VType.ofCode (fld wd 4 4) >>= fun t => some (.vrmin (fld wd 21 5) (fld wd 16 5) (fld wd 8 3) t) else none
  | 3 => if fld wd 11 5 == 0 then VType.ofCode (fld wd 4 4) >>= fun t => some (.vrsumo (fld wd 21 5) (fld wd 16 5) (fld wd 8 3) t) else none
  | _ => none

/-- Major 0x27 (R45 to R49). -/
def dec27 (wd : Nat) : Option Instr :=
  match fld wd 0 4 with
  | 0 => if fld wd 11 5 == 0 then VType.ofCode (fld wd 4 4) >>= fun t => some (.vld (fld wd 21 5) (fld wd 16 5) (fld wd 8 3) t) else none
  | 1 => VType.ofCode (fld wd 4 4) >>= fun t => some (.vlds (fld wd 21 5) (fld wd 16 5) (fld wd 11 5) (fld wd 8 3) t)
  | 2 => VType.ofCode (fld wd 4 4) >>= fun t => some (.vgather (fld wd 21 5) (fld wd 16 5) (fld wd 11 5) (fld wd 8 3) t)
  | 3 => if fld wd 11 5 == 0 then VType.ofCode (fld wd 4 4) >>= fun t => some (.vst (fld wd 21 5) (fld wd 16 5) (fld wd 8 3) t) else none
  | 4 => VType.ofCode (fld wd 4 4) >>= fun t => some (.vsts (fld wd 21 5) (fld wd 16 5) (fld wd 11 5) (fld wd 8 3) t)
  | 5 => VType.ofCode (fld wd 4 4) >>= fun t => some (.vscatter (fld wd 21 5) (fld wd 16 5) (fld wd 11 5) (fld wd 8 3) t)
  | _ => none

/-- Major 0x28 (R45 to R49). -/
def dec28 (wd : Nat) : Option Instr :=
  match fld wd 0 4 with
  | 0 => VType.ofCode (fld wd 4 4) >>= fun t => if (t != .f64 || fld wd 11 5 < 16) then some (.vmovgv (fld wd 21 5) (fld wd 16 5) (fld wd 11 5) (fld wd 8 3) t) else none
  | 1 => if fld wd 8 3 == 0 then VType.ofCode (fld wd 4 4) >>= fun t => if (t != .f64 || fld wd 11 5 < 16) then some (.vmovvg (fld wd 21 5) (fld wd 16 5) (fld wd 11 5) t) else none else none
  | 2 => if fld wd 11 5 == 0 then VType.ofCode (fld wd 4 4) >>= fun t => some (.vsplat (fld wd 21 5) (fld wd 16 5) (fld wd 8 3) t) else none
  | 3 => if fld wd 4 12 == 0 && fld wd 23 3 == 0 then some (.vqbind (fld wd 21 2) (fld wd 16 5)) else none
  | 4 => if fld wd 4 17 == 0 && fld wd 23 3 == 0 then some (.vqdrop (fld wd 21 2)) else none
  | _ => none

/-- Major 0x29 (R45 to R49). -/
def dec29 (wd : Nat) : Option Instr :=
  match fld wd 0 4 with
  | 0 => if fld wd 4 4 == 0 && fld wd 14 2 == 0 && fld wd 19 2 == 0 && fld wd 24 2 == 0 then some (.vpand (fld wd 21 3) (fld wd 16 3) (fld wd 11 3) (fld wd 8 3)) else none
  | 1 => if fld wd 4 4 == 0 && fld wd 14 2 == 0 && fld wd 19 2 == 0 && fld wd 24 2 == 0 then some (.vpor (fld wd 21 3) (fld wd 16 3) (fld wd 11 3) (fld wd 8 3)) else none
  | 2 => if fld wd 4 4 == 0 && fld wd 14 2 == 0 && fld wd 19 2 == 0 && fld wd 24 2 == 0 then some (.vpxor (fld wd 21 3) (fld wd 16 3) (fld wd 11 3) (fld wd 8 3)) else none
  | 3 => if fld wd 4 4 == 0 && fld wd 11 5 == 0 && fld wd 19 2 == 0 && fld wd 24 2 == 0 then some (.vpnot (fld wd 21 3) (fld wd 16 3) (fld wd 8 3)) else none
  | 4 => if fld wd 4 4 == 0 && fld wd 11 5 == 0 && fld wd 19 2 == 0 then some (.vpcnt (fld wd 21 5) (fld wd 16 3) (fld wd 8 3)) else none
  | 5 => if fld wd 4 4 == 0 && fld wd 11 5 == 0 && fld wd 24 2 == 0 then some (.vpset (fld wd 21 3) (fld wd 16 5) (fld wd 8 3)) else none
  | 6 => if fld wd 4 4 == 0 && fld wd 11 5 == 0 && fld wd 19 2 == 0 && fld wd 24 2 == 0 then some (.vpfirst (fld wd 21 3) (fld wd 16 3) (fld wd 8 3)) else none
  | _ => none

/-- The instruction of a 32-bit word; none for a word that is not an instruction (R51). -/
def decodeWord (w : Nat) : Option Instr :=
  if w < 2 ^ 32 then
    match fld w 26 6 with
    | 1 => dec01 w
    | 2 => dec02 w
    | 3 => dec03 w
    | 4 => dec04 w
    | 5 => dec05 w
    | 6 => dec06 w
    | 7 => dec07 w
    | 8 => dec08 w
    | 9 => dec09 w
    | 10 => dec0A w
    | 11 => dec0B w
    | 12 => dec0C w
    | 13 => dec0D w
    | 14 => dec0E w
    | 15 => dec0F w
    | 16 => dec10 w
    | 17 => dec11 w
    | 18 => dec12 w
    | 19 => dec13 w
    | 20 => dec14 w
    | 21 => dec15 w
    | 22 => dec16 w
    | 23 => dec17 w
    | 24 => dec18 w
    | 25 => dec19 w
    | 26 => dec1A w
    | 27 => dec1B w
    | 28 => dec1C w
    | 29 => dec1D w
    | 30 => dec1E w
    | 31 => dec1F w
    | 32 => dec20 w
    | 33 => dec21 w
    | 34 => dec22 w
    | 35 => dec23 w
    | 36 => dec24 w
    | 37 => dec25 w
    | 38 => dec26 w
    | 39 => dec27 w
    | 40 => dec28 w
    | 41 => dec29 w
    | _ => none
  else none

/-- The value of bytes laid out by R12, the lowest address first. -/
def leNat : List Byte → Nat
  | [] => 0
  | b :: bs => b.toNat + 256 * leNat bs

/-- The low n bytes of a value, the lowest address first (R12). -/
def leBytes : Nat → Nat → List Byte
  | 0, _ => []
  | n + 1, x => BitVec.ofNat 8 x :: leBytes n (x / 256)

/-- Why a list of bytes is no instruction. -/
inductive DecodeError
  /-- fewer than four bytes. -/
  | short
  /-- a word that R51 makes illegal. -/
  | illegal (w : Nat)
  deriving DecidableEq, Repr

/-- The instruction at the head of a list of bytes, and the bytes after it (R41). -/
def decodeBytes : List Byte → Except DecodeError (Instr × List Byte)
  | b0 :: b1 :: b2 :: b3 :: rest =>
    match decodeWord (leNat [b0, b1, b2, b3]) with
    | some i => .ok (i, rest)
    | none => .error (.illegal (leNat [b0, b1, b2, b3]))
  | _ => .error .short

/-- What the decoder reads from an instruction of the opcode table whose bits are w: every word of this hardware is 32
bits, stored little-endian (R12, R41); the steps of the table without an encoding have no word. -/
def decodeTableWord (nbits w : Nat) : Option Instr :=
  if nbits ≤ 32 then
    match decodeBytes (leBytes 4 (w % 2 ^ nbits)) with
    | .ok (i, _) => some i
    | .error _ => none
  else none

/-- The word of a well-formed instruction; none for the steps that are not instruction words. -/
def encode : Instr → Option Nat
  | .add d a b => some (0x04000000 + d * 0x100000 + a * 0x4000 + b * 0x100)
  | .sub d a b => some (0x04000001 + d * 0x100000 + a * 0x4000 + b * 0x100)
  | .and d a b => some (0x04000002 + d * 0x100000 + a * 0x4000 + b * 0x100)
  | .or d a b => some (0x04000003 + d * 0x100000 + a * 0x4000 + b * 0x100)
  | .xor d a b => some (0x04000004 + d * 0x100000 + a * 0x4000 + b * 0x100)
  | .andn d a b => some (0x04000005 + d * 0x100000 + a * 0x4000 + b * 0x100)
  | .shl d a b => some (0x04000006 + d * 0x100000 + a * 0x4000 + b * 0x100)
  | .shr d a b => some (0x04000007 + d * 0x100000 + a * 0x4000 + b * 0x100)
  | .sar d a b => some (0x04000008 + d * 0x100000 + a * 0x4000 + b * 0x100)
  | .rol d a b => some (0x04000009 + d * 0x100000 + a * 0x4000 + b * 0x100)
  | .slt d a b => some (0x0400000A + d * 0x100000 + a * 0x4000 + b * 0x100)
  | .sltn d a b => some (0x0400000B + d * 0x100000 + a * 0x4000 + b * 0x100)
  | .min d a b => some (0x0400000C + d * 0x100000 + a * 0x4000 + b * 0x100)
  | .max d a b => some (0x0400000D + d * 0x100000 + a * 0x4000 + b * 0x100)
  | .minn d a b => some (0x0400000E + d * 0x100000 + a * 0x4000 + b * 0x100)
  | .maxn d a b => some (0x0400000F + d * 0x100000 + a * 0x4000 + b * 0x100)
  | .mul d a b => some (0x04000010 + d * 0x100000 + a * 0x4000 + b * 0x100)
  | .mulh d a b => some (0x04000011 + d * 0x100000 + a * 0x4000 + b * 0x100)
  | .mulhn d a b => some (0x04000012 + d * 0x100000 + a * 0x4000 + b * 0x100)
  | .div d a b => some (0x04000013 + d * 0x100000 + a * 0x4000 + b * 0x100)
  | .divn d a b => some (0x04000014 + d * 0x100000 + a * 0x4000 + b * 0x100)
  | .rem d a b => some (0x04000015 + d * 0x100000 + a * 0x4000 + b * 0x100)
  | .remn d a b => some (0x04000016 + d * 0x100000 + a * 0x4000 + b * 0x100)
  | .clz d a => some (0x04000017 + d * 0x100000 + a * 0x4000)
  | .ctz d a => some (0x04000018 + d * 0x100000 + a * 0x4000)
  | .popc d a => some (0x04000019 + d * 0x100000 + a * 0x4000)
  | .bswap d a => some (0x0400001A + d * 0x100000 + a * 0x4000)
  | .addw d a b => some (0x0400001B + d * 0x100000 + a * 0x4000 + b * 0x100)
  | .subw d a b => some (0x0400001C + d * 0x100000 + a * 0x4000 + b * 0x100)
  | .mulw d a b => some (0x0400001D + d * 0x100000 + a * 0x4000 + b * 0x100)
  | .seq d a b => some (0x0400001E + d * 0x100000 + a * 0x4000 + b * 0x100)
  | .sne d a b => some (0x0400001F + d * 0x100000 + a * 0x4000 + b * 0x100)
  | .addi d a i => some (0x08000000 + d * 0x100000 + a * 0x4000 + ux 14 i * 0x1)
  | .andi d a i => some (0x0C000000 + d * 0x100000 + a * 0x4000 + ux 14 i * 0x1)
  | .ori d a i => some (0x10000000 + d * 0x100000 + a * 0x4000 + i * 0x1)
  | .xori d a i => some (0x14000000 + d * 0x100000 + a * 0x4000 + i * 0x1)
  | .shli d a n => some (0x18000000 + d * 0x100000 + a * 0x4000 + n * 0x1)
  | .shri d a n => some (0x18001000 + d * 0x100000 + a * 0x4000 + n * 0x1)
  | .sari d a n => some (0x18002000 + d * 0x100000 + a * 0x4000 + n * 0x1)
  | .roli d a n => some (0x18003000 + d * 0x100000 + a * 0x4000 + n * 0x1)
  | .slti d a i => some (0x1C000000 + d * 0x100000 + a * 0x4000 + ux 13 i * 0x1)
  | .sltni d a i => some (0x1C002000 + d * 0x100000 + a * 0x4000 + ux 13 i * 0x1)
  | .lui d i => some (0x20000000 + d * 0x100000 + ux 20 i * 0x1)
  | .cpc d i => some (0x24000000 + d * 0x100000 + ux 20 i * 0x1)
  | .cinc d a b => some (0x28000000 + d * 0x100000 + a * 0x4000 + b * 0x100)
  | .cbnd d a b => some (0x28000001 + d * 0x100000 + a * 0x4000 + b * 0x100)
  | .cbndx d a b => some (0x28000002 + d * 0x100000 + a * 0x4000 + b * 0x100)
  | .cperm d a b => some (0x28000003 + d * 0x100000 + a * 0x4000 + b * 0x100)
  | .cgeta d a => some (0x28000004 + d * 0x100000 + a * 0x4000)
  | .cgetb d a => some (0x28000005 + d * 0x100000 + a * 0x4000)
  | .cgetl d a => some (0x28000006 + d * 0x100000 + a * 0x4000)
  | .cgetp d a => some (0x28000007 + d * 0x100000 + a * 0x4000)
  | .cseta d a b => some (0x28000008 + d * 0x100000 + a * 0x4000 + b * 0x100)
  | .ctag d a => some (0x28000009 + d * 0x100000 + a * 0x4000)
  | .csub d a b => some (0x2800000A + d * 0x100000 + a * 0x4000 + b * 0x100)
  | .ctest d a b => some (0x2800000B + d * 0x100000 + a * 0x4000 + b * 0x100)
  | .cclr d a => some (0x2800000C + d * 0x100000 + a * 0x4000)
  | .cinci d a i => some (0x2C000000 + d * 0x100000 + a * 0x4000 + ux 14 i * 0x1)
  | .ld d a w i => some (0x30000000 + d * 0x100000 + a * 0x4000 + w.code * 0x800 + ux 11 i * 0x1)
  | .lds d a w i => some (0x34000000 + d * 0x100000 + a * 0x4000 + w.code * 0x800 + ux 11 i * 0x1)
  | .st s a w i => some (0x38000000 + s * 0x100000 + a * 0x4000 + w.code * 0x800 + ux 11 i * 0x1)
  | .aadd d a b w s o => some (0x3C000000 + d * 0x100000 + a * 0x4000 + b * 0x100 + w.code * 0x8 + s.code * 0x2 + o.code * 0x1)
  | .aand d a b w s o => some (0x3C000010 + d * 0x100000 + a * 0x4000 + b * 0x100 + w.code * 0x8 + s.code * 0x2 + o.code * 0x1)
  | .aor d a b w s o => some (0x3C000020 + d * 0x100000 + a * 0x4000 + b * 0x100 + w.code * 0x8 + s.code * 0x2 + o.code * 0x1)
  | .axor d a b w s o => some (0x3C000030 + d * 0x100000 + a * 0x4000 + b * 0x100 + w.code * 0x8 + s.code * 0x2 + o.code * 0x1)
  | .amin d a b w s o => some (0x3C000040 + d * 0x100000 + a * 0x4000 + b * 0x100 + w.code * 0x8 + s.code * 0x2 + o.code * 0x1)
  | .amax d a b w s o => some (0x3C000050 + d * 0x100000 + a * 0x4000 + b * 0x100 + w.code * 0x8 + s.code * 0x2 + o.code * 0x1)
  | .aminn d a b w s o => some (0x3C000060 + d * 0x100000 + a * 0x4000 + b * 0x100 + w.code * 0x8 + s.code * 0x2 + o.code * 0x1)
  | .amaxn d a b w s o => some (0x3C000070 + d * 0x100000 + a * 0x4000 + b * 0x100 + w.code * 0x8 + s.code * 0x2 + o.code * 0x1)
  | .aswap d a b w s o => some (0x3C000080 + d * 0x100000 + a * 0x4000 + b * 0x100 + w.code * 0x8 + s.code * 0x2 + o.code * 0x1)
  | .acas d a b w s o => some (0x3C000090 + d * 0x100000 + a * 0x4000 + b * 0x100 + w.code * 0x8 + s.code * 0x2 + o.code * 0x1)
  | .afadd d a b w s o => some (0x3C0000A0 + d * 0x100000 + a * 0x4000 + b * 0x100 + w.code * 0x8 + s.code * 0x2 + o.code * 0x1)
  | .fence s => some (0x40000000 + s.code * 0x100)
  | .fencea s => some (0x40000001 + s.code * 0x100)
  | .fencel s => some (0x40000002 + s.code * 0x100)
  | .lda d a s => some (0x40000003 + d * 0x100000 + a * 0x4000 + s.code * 0x100)
  | .stl d a s => some (0x40000004 + d * 0x100000 + a * 0x4000 + s.code * 0x100)
  | .ldlk d a => some (0x40000005 + d * 0x100000 + a * 0x4000)
  | .stul d a => some (0x40000006 + d * 0x100000 + a * 0x4000)
  | .ldv d a b => some (0x44000000 + d * 0x100000 + a * 0x4000 + b * 0x100)
  | .stv d a b => some (0x44000001 + d * 0x100000 + a * 0x4000 + b * 0x100)
  | .verq d a => some (0x44000002 + d * 0x100000 + a * 0x4000)
  | .reclaim a b => some (0x44000003 + a * 0x4000 + b * 0x100)
  | .beq a b x => some (0x48000000 + a * 0x20000 + b * 0x800 + ux 11 x * 0x1)
  | .bne a b x => some (0x48800000 + a * 0x20000 + b * 0x800 + ux 11 x * 0x1)
  | .blt a b x => some (0x49000000 + a * 0x20000 + b * 0x800 + ux 11 x * 0x1)
  | .bge a b x => some (0x49800000 + a * 0x20000 + b * 0x800 + ux 11 x * 0x1)
  | .bltn a b x => some (0x4A000000 + a * 0x20000 + b * 0x800 + ux 11 x * 0x1)
  | .bgen a b x => some (0x4A800000 + a * 0x20000 + b * 0x800 + ux 11 x * 0x1)
  | .beqz a x => some (0x4C000000 + a * 0x20000 + ux 17 x * 0x1)
  | .bnez a x => some (0x4C800000 + a * 0x20000 + ux 17 x * 0x1)
  | .bltz a x => some (0x4D000000 + a * 0x20000 + ux 17 x * 0x1)
  | .bgez a x => some (0x4D800000 + a * 0x20000 + ux 17 x * 0x1)
  | .bgtz a x => some (0x4E000000 + a * 0x20000 + ux 17 x * 0x1)
  | .blez a x => some (0x4E800000 + a * 0x20000 + ux 17 x * 0x1)
  | .j x => some (0x50000000 + ux 26 x * 0x1)
  | .jal x => some (0x54000000 + ux 26 x * 0x1)
  | .jr a => some (0x58000000 + a * 0x4000)
  | .jalr d a => some (0x58000001 + d * 0x100000 + a * 0x4000)
  | .rep c n x y z => some (0x5C000000 + (c - 1) * 0x400000 + (n - 1) * 0x4000 + x * 0x1000 + y * 0x400 + z * 0x100)
  | .fadd d a b p => some (0x60000000 + d * 0x100000 + a * 0x4000 + b * 0x100 + p.code * 0x80)
  | .fsub d a b p => some (0x60000001 + d * 0x100000 + a * 0x4000 + b * 0x100 + p.code * 0x80)
  | .fmul d a b p => some (0x60000002 + d * 0x100000 + a * 0x4000 + b * 0x100 + p.code * 0x80)
  | .fdiv d a b p => some (0x60000003 + d * 0x100000 + a * 0x4000 + b * 0x100 + p.code * 0x80)
  | .fma d a b p => some (0x60000004 + d * 0x100000 + a * 0x4000 + b * 0x100 + p.code * 0x80)
  | .fsqrt d a p => some (0x60000005 + d * 0x100000 + a * 0x4000 + p.code * 0x80)
  | .fmin d a b p => some (0x60000006 + d * 0x100000 + a * 0x4000 + b * 0x100 + p.code * 0x80)
  | .fmax d a b p => some (0x60000007 + d * 0x100000 + a * 0x4000 + b * 0x100 + p.code * 0x80)
  | .fcmp d a b p => some (0x60000008 + d * 0x100000 + a * 0x4000 + b * 0x100 + p.code * 0x80)
  | .fcvt d a t r p => some (0x60000009 + d * 0x100000 + a * 0x4000 + t.code * 0x800 + r.code * 0x400 + p.code * 0x80)
  | .fclass d a p => some (0x6000000A + d * 0x100000 + a * 0x4000 + p.code * 0x80)
  | .spawn a => some (0x64000000 + a * 0x4000)
  | .range a => some (0x64000001 + a * 0x4000)
  | .take d a => some (0x64000002 + d * 0x100000 + a * 0x4000)
  | .done => some (0x64000003)
  | .yield => some (0x64000004)
  | .trig d a b => some (0x64000005 + d * 0x100000 + a * 0x4000 + b * 0x100)
  | .untrig d a => some (0x64000006 + d * 0x100000 + a * 0x4000)
  | .deqn d => some (0x64000007 + d * 0x100000)
  | .chunk d a => some (0x64000008 + d * 0x100000 + a * 0x4000)
  | .put a b => some (0x68000000 + a * 0x4000 + b * 0x100)
  | .puti a b => some (0x68000001 + a * 0x4000 + b * 0x100)
  | .get d a => some (0x68000002 + d * 0x100000 + a * 0x4000)
  | .send a b => some (0x68000003 + a * 0x4000 + b * 0x100)
  | .recv d a => some (0x68000004 + d * 0x100000 + a * 0x4000)
  | .sendh a b => some (0x68000005 + a * 0x4000 + b * 0x100)
  | .inboxn d => some (0x68000006 + d * 0x100000)
  | .uien d a => some (0x68000007 + d * 0x100000 + a * 0x4000)
  | .ihret => some (0x68000008)
  | .bar => some (0x6C000000)
  | .bara => some (0x6C000001)
  | .barw => some (0x6C000002)
  | .domset a => some (0x6C000003 + a * 0x4000)
  | .gang a => some (0x6C000004 + a * 0x4000)
  | .split => some (0x6C000005)
  | .pair d => some (0x6C000006 + d * 0x100000)
  | .unpair => some (0x6C000007)
  | .tname d a => some (0x6C000008 + d * 0x100000 + a * 0x4000)
  | .tnbr d a b => some (0x6C000009 + d * 0x100000 + a * 0x4000 + b * 0x100)
  | .tdist d a => some (0x6C00000A + d * 0x100000 + a * 0x4000)
  | .region => some (0x70000000)
  | .chkp a => some (0x70000001 + a * 0x4000)
  | .ckpt => some (0x70000002)
  | .rngsnap a => some (0x70000003 + a * 0x4000)
  | .rngrest a => some (0x70000004 + a * 0x4000)
  | .rng d a b => some (0x70000005 + d * 0x100000 + a * 0x4000 + b * 0x100)
  | .succhint => some (0x74000000)
  | .waitpred d => some (0x74000001 + d * 0x100000)
  | .publish => some (0x74000002)
  | .push a e => some (0x78000000 + a * 0x4000 + e.code * 0x100)
  | .pushTry d a e => some (0x78000400 + d * 0x100000 + a * 0x4000 + e.code * 0x100)
  | .eprog d e => some (0x78000001 + d * 0x100000 + e.code * 0x100)
  | .ecancel e => some (0x78000002 + e.code * 0x100)
  | .specommit a => some (0x78000003 + a * 0x4000)
  | .specdrop a => some (0x78000004 + a * 0x4000)
  | .ecall c => some (0x7C000000 + c * 0x1)
  | .ebreak c => some (0x7C000400 + c * 0x1)
  | .eret => some (0x7C000800)
  | .wfi => some (0x7C000C00)
  | .halt => some (0x7C001000)
  | .trap c => some (0x7C001400 + c * 0x1)
  | .csrr n a => some (0x7C001800 + n / 1024 * 0x100000 + n % 1024 + a * 0x4000)
  | .csrw n a => some (0x7C001C00 + n / 1024 * 0x100000 + n % 1024 + a * 0x4000)
  | .csrs n a => some (0x7C002000 + n / 1024 * 0x100000 + n % 1024 + a * 0x4000)
  | .csrc n a => some (0x7C002400 + n / 1024 * 0x100000 + n % 1024 + a * 0x4000)
  | .tlbinv a => some (0x7C002800 + a * 0x4000)
  | .vadd d a b p t => some (0x80000000 + d * 0x200000 + a * 0x10000 + b * 0x800 + p * 0x100 + t.code * 0x10)
  | .vsub d a b p t => some (0x80000001 + d * 0x200000 + a * 0x10000 + b * 0x800 + p * 0x100 + t.code * 0x10)
  | .vmul d a b p t => some (0x80000002 + d * 0x200000 + a * 0x10000 + b * 0x800 + p * 0x100 + t.code * 0x10)
  | .vmin d a b p t => some (0x80000003 + d * 0x200000 + a * 0x10000 + b * 0x800 + p * 0x100 + t.code * 0x10)
  | .vmax d a b p t => some (0x80000004 + d * 0x200000 + a * 0x10000 + b * 0x800 + p * 0x100 + t.code * 0x10)
  | .vabs d a p t => some (0x80000005 + d * 0x200000 + a * 0x10000 + p * 0x100 + t.code * 0x10)
  | .vneg d a p t => some (0x80000006 + d * 0x200000 + a * 0x10000 + p * 0x100 + t.code * 0x10)
  | .vand d a b p t => some (0x80000007 + d * 0x200000 + a * 0x10000 + b * 0x800 + p * 0x100 + t.code * 0x10)
  | .vor d a b p t => some (0x80000008 + d * 0x200000 + a * 0x10000 + b * 0x800 + p * 0x100 + t.code * 0x10)
  | .vxor d a b p t => some (0x80000009 + d * 0x200000 + a * 0x10000 + b * 0x800 + p * 0x100 + t.code * 0x10)
  | .vshl d a b p t => some (0x8000000A + d * 0x200000 + a * 0x10000 + b * 0x800 + p * 0x100 + t.code * 0x10)
  | .vshr d a b p t => some (0x8000000B + d * 0x200000 + a * 0x10000 + b * 0x800 + p * 0x100 + t.code * 0x10)
  | .vsar d a b p t => some (0x8000000C + d * 0x200000 + a * 0x10000 + b * 0x800 + p * 0x100 + t.code * 0x10)
  | .vmulh d a b p t => some (0x8000000D + d * 0x200000 + a * 0x10000 + b * 0x800 + p * 0x100 + t.code * 0x10)
  | .vadds d a b p t => some (0x8000000E + d * 0x200000 + a * 0x10000 + b * 0x800 + p * 0x100 + t.code * 0x10)
  | .vsubs d a b p t => some (0x8000000F + d * 0x200000 + a * 0x10000 + b * 0x800 + p * 0x100 + t.code * 0x10)
  | .vfma d a b p t => some (0x84000000 + d * 0x200000 + a * 0x10000 + b * 0x800 + p * 0x100 + t.code * 0x10)
  | .vfms d a b p t => some (0x84000001 + d * 0x200000 + a * 0x10000 + b * 0x800 + p * 0x100 + t.code * 0x10)
  | .vfnma d a b p t => some (0x84000002 + d * 0x200000 + a * 0x10000 + b * 0x800 + p * 0x100 + t.code * 0x10)
  | .vfnms d a b p t => some (0x84000003 + d * 0x200000 + a * 0x10000 + b * 0x800 + p * 0x100 + t.code * 0x10)
  | .vdiv d a b p t => some (0x84000004 + d * 0x200000 + a * 0x10000 + b * 0x800 + p * 0x100 + t.code * 0x10)
  | .vsqrt d a p t => some (0x84000005 + d * 0x200000 + a * 0x10000 + p * 0x100 + t.code * 0x10)
  | .vexp2 d a p => some (0x88000000 + d * 0x200000 + a * 0x10000 + p * 0x100)
  | .vlog2 d a p => some (0x88000001 + d * 0x200000 + a * 0x10000 + p * 0x100)
  | .vrcp d a p => some (0x88000002 + d * 0x200000 + a * 0x10000 + p * 0x100)
  | .vrsq d a p => some (0x88000003 + d * 0x200000 + a * 0x10000 + p * 0x100)
  | .vceq d a b p t => some (0x8C000000 + d * 0x200000 + a * 0x10000 + b * 0x800 + p * 0x100 + t.code * 0x10)
  | .vcne d a b p t => some (0x8C000001 + d * 0x200000 + a * 0x10000 + b * 0x800 + p * 0x100 + t.code * 0x10)
  | .vclt d a b p t => some (0x8C000002 + d * 0x200000 + a * 0x10000 + b * 0x800 + p * 0x100 + t.code * 0x10)
  | .vcle d a b p t => some (0x8C000003 + d * 0x200000 + a * 0x10000 + b * 0x800 + p * 0x100 + t.code * 0x10)
  | .vcgt d a b p t => some (0x8C000004 + d * 0x200000 + a * 0x10000 + b * 0x800 + p * 0x100 + t.code * 0x10)
  | .vcge d a b p t => some (0x8C000005 + d * 0x200000 + a * 0x10000 + b * 0x800 + p * 0x100 + t.code * 0x10)
  | .vcun d a b p t => some (0x8C000006 + d * 0x200000 + a * 0x10000 + b * 0x800 + p * 0x100 + t.code * 0x10)
  | .vcvt d a s x p t m => some (0x90000000 + d * 0x200000 + a * 0x10000 + s.code * 0x1000 + x.toNat * 0x800 + p * 0x100 + t.code * 0x10 + m.code * 0x1)
  | .vshuf d a b p t => some (0x94000000 + d * 0x200000 + a * 0x10000 + b * 0x800 + p * 0x100 + t.code * 0x10)
  | .vrot d a n p t => some (0x94000001 + d * 0x200000 + a * 0x10000 + n * 0x800 + p * 0x100 + t.code * 0x10)
  | .vbcast d a n p t => some (0x94000002 + d * 0x200000 + a * 0x10000 + n * 0x800 + p * 0x100 + t.code * 0x10)
  | .vxlane d a b p t => some (0x94000003 + d * 0x200000 + a * 0x10000 + b * 0x800 + p * 0x100 + t.code * 0x10)
  | .vcompress d a p t => some (0x94000004 + d * 0x200000 + a * 0x10000 + p * 0x100 + t.code * 0x10)
  | .vexpand d a p t => some (0x94000005 + d * 0x200000 + a * 0x10000 + p * 0x100 + t.code * 0x10)
  | .vrsum d a p t => some (0x98000000 + d * 0x200000 + a * 0x10000 + p * 0x100 + t.code * 0x10)
  | .vrmax d a p t => some (0x98000001 + d * 0x200000 + a * 0x10000 + p * 0x100 + t.code * 0x10)
  | .vrmin d a p t => some (0x98000002 + d * 0x200000 + a * 0x10000 + p * 0x100 + t.code * 0x10)
  | .vrsumo d a p t => some (0x98000003 + d * 0x200000 + a * 0x10000 + p * 0x100 + t.code * 0x10)
  | .vld d a p t => some (0x9C000000 + d * 0x200000 + a * 0x10000 + p * 0x100 + t.code * 0x10)
  | .vlds d a b p t => some (0x9C000001 + d * 0x200000 + a * 0x10000 + b * 0x800 + p * 0x100 + t.code * 0x10)
  | .vgather d a b p t => some (0x9C000002 + d * 0x200000 + a * 0x10000 + b * 0x800 + p * 0x100 + t.code * 0x10)
  | .vst d a p t => some (0x9C000003 + d * 0x200000 + a * 0x10000 + p * 0x100 + t.code * 0x10)
  | .vsts d a b p t => some (0x9C000004 + d * 0x200000 + a * 0x10000 + b * 0x800 + p * 0x100 + t.code * 0x10)
  | .vscatter d a b p t => some (0x9C000005 + d * 0x200000 + a * 0x10000 + b * 0x800 + p * 0x100 + t.code * 0x10)
  | .vmovgv d a n p t => some (0xA0000000 + d * 0x200000 + a * 0x10000 + n * 0x800 + p * 0x100 + t.code * 0x10)
  | .vmovvg d a n t => some (0xA0000001 + d * 0x200000 + a * 0x10000 + n * 0x800 + t.code * 0x10)
  | .vsplat d a p t => some (0xA0000002 + d * 0x200000 + a * 0x10000 + p * 0x100 + t.code * 0x10)
  | .vqbind k a => some (0xA0000003 + k * 0x200000 + a * 0x10000)
  | .vqdrop k => some (0xA0000004 + k * 0x200000)
  | .vpand d a b p => some (0xA4000000 + d * 0x200000 + a * 0x10000 + b * 0x800 + p * 0x100)
  | .vpor d a b p => some (0xA4000001 + d * 0x200000 + a * 0x10000 + b * 0x800 + p * 0x100)
  | .vpxor d a b p => some (0xA4000002 + d * 0x200000 + a * 0x10000 + b * 0x800 + p * 0x100)
  | .vpnot d a p => some (0xA4000003 + d * 0x200000 + a * 0x10000 + p * 0x100)
  | .vpcnt d a p => some (0xA4000004 + d * 0x200000 + a * 0x10000 + p * 0x100)
  | .vpset d a p => some (0xA4000005 + d * 0x200000 + a * 0x10000 + p * 0x100)
  | .vpfirst d a p => some (0xA4000006 + d * 0x200000 + a * 0x10000 + p * 0x100)
  | .timerInterrupt => none
  | .uiEntry => none
  | .responseArrival _ => none
  | .lockLoss _ => none
  | .mma _ => none
  | .mmr _ => none
  | .accz _ => none
  | .accld _ => none
  | .accst _ => none
  | .cpy _ => none
  | .cpy2 _ => none
  | .deal _ => none
  | .xpose _ => none
  | .agset _ => none
  | .mldred _ => none
  | .mstore _ => none
  | .agstat _ => none
  | .engineElement _ _ => none
  | .latchChunkArrival _ => none
  | .mmrWriteBack _ => none
  | .streamEntryArrival _ => none
  | .completionMessage _ _ => none
  | .messageArrival _ => none
  | .firingPush _ _ _ => none
  | .stealProbe _ _ _ => none
  | .stealGrant _ _ => none
  | .dieAgentSteal _ _ => none
  | .sharePush _ _ => none
  | .barrierArrival _ _ => none
  | .barrierRelease _ _ => none
  | .lullWave _ => none
  | .contextWake _ _ => none
  | .contextSwitch _ => none
  | .preemptInterrupt => none
  | .deadlineMiss _ => none
  | .budgetExhausted _ => none
  | .reserveRefill => none
  | .rollback => none
  | .pairExchange _ => none
  | .watchdogFire _ => none
  | .intervalEnd _ => none
  | .snapshotTimeout _ => none
  | .checkpointCommit _ => none
  | .refusedMessageResend _ => none
  | .lehrFence _ => none
  | .lehrChoose _ => none
  | .lehrRestore _ => none
  | .rebindingFlip _ => none
  | .lehrReplay _ => none
  | .lehrResume _ => none
  | .plannedMigration _ => none
  | .flitArrival _ _ => none
  | .flitAcknowledgement _ _ => none
  | .negativeAcknowledgement _ _ => none
  | .laneSparingDone _ => none
  | .linkTrained _ _ => none
  | .trainingTimeout _ => none
  | .lossOfSignal _ => none
  | .meshFlitArrival _ _ => none
  | .galePortTrained _ _ => none
  | .hostPortDown _ => none
  | .launch _ => none
  | .waitpkt _ => none
  | .signal _ => none
  | .pin _ => none
  | .unpin _ => none
  | .copy _ => none
  | .nop _ => none
  | .packetWaitEnd _ => none
  | .copyDone _ _ => none
  | .qkick _ _ => none
  | .enable _ => none
  | .disable _ => none
  | .qctlResume _ => none
  | .skip _ => none
  | .clrstale _ => none
  | .partitionTableWrite _ _ => none
  | .registerWrite _ _ => none
  | .bar2Write _ _ => none
  | .bar2Read _ _ => none
  | .resyncRequest _ => none
  | .resyncComplete => none
  | .attach => none
  | .detach => none
  | .dbgHalt => none
  | .dbgResume => none
  | .dbgRead => none
  | .dbgWrite => none
  | .i3cReadDevstat => none
  | .i3cReadPower => none
  | .attestationReport _ => none
  | .bootStoreWrite _ => none
  | .versionFloorRaise _ _ _ => none
  | .debugWindowAccess _ _ => none
  | .bypass => none
  | .idcode => none
  | .samplePreload => none
  | .extest => none
  | .powerOnReset => none
  | .sensorSample _ _ _ => none
  | .overtemperature _ => none
  | .roleRestart _ => none
  | .illegalInstruction _ => none
  | .instructionFetch => none
  | .hostPortUp _ => none
  | .writeAcknowledgement _ => none
  | .malformedPacket _ => none
  | .pairingExchange _ _ _ => none
  | .pairedLaunchEnd _ _ => none

end Sys2Proof
end

