-- ==== Sys2Proof/Machine/State.lean ====
section
/-! DEFINITION. The state of the device as plain data: everything the spec gives the machine, the reasons a step can
stop, and the state after power-on reset. Each field's docstring names the rule of the spec that gives it. -/

namespace Sys2Proof.Machine

/-! ## Registers (R69 to R75, R142, R143) -/

/-- The tag of a general register (R69); code 0b11 is never present, so it has no constructor. -/
inductive Tag | data | cap | poison
  deriving DecidableEq, Repr

/-- A general register: a 128-bit payload and its tag (R69). -/
structure GReg where
  tag : Tag
  val : Payload
  deriving DecidableEq, Repr

/-- DATA zero, what g0 reads as (R71). -/
def GReg.zero : GReg := ⟨.data, 0⟩

/-- The register files of a context. -/
structure Regs where
  /-- g0 to g63 of the interrupted code; slot 0 is never read (R69, R71). -/
  g : Vector GReg 64
  /-- the handler's bank of codes 48 to 55 (R72). -/
  gh : Vector GReg 8
  /-- v0 to v31 (R142). -/
  v : Vector (BitVec 1024) 32
  /-- p0 to p7; slot 0 is never read, p0 reads as all ones (R143). -/
  p : Vector (BitVec 32) 8
  /-- pending registers: code (handler bank as 64 + k) and the request awaited (R103). -/
  pend : List (Nat × Nat)
  deriving DecidableEq, Repr

/-- The level a core runs at (R136). -/
inductive Level | app | runtime | firmware
  deriving DecidableEq, Repr

/-- The CSRs that are context state and hold a value of their own (R140). -/
structure Csrs where
  /-- 0x002 DOMAIN (R127). -/
  domain : Word
  /-- 0x005 FRM (R37). -/
  frm : Word
  /-- 0x006 FFLAGS (R39). -/
  fflags : Word
  /-- 0x007 VQMAP (R147). -/
  vqmap : Word
  /-- 0x008 REPPROG of the interrupted code (R56). -/
  repprog : Word
  /-- REPPROG of the handler's bank (R72). -/
  repprogH : Word
  /-- 0x009 VPROG of the interrupted code (R164). -/
  vprog : Word
  /-- VPROG of the handler's bank (R164). -/
  vprogH : Word
  /-- 0x00A REGPC (R359). -/
  regpc : Word
  /-- 0x00B GENSEL (R39). -/
  gensel : Word
  /-- 0x00C UIVEC (R140). -/
  uivec : Word
  /-- 0x100 TCAUSE (R138). -/
  tcause : Word
  /-- 0x101 TVAL (R355). -/
  tval : Word
  /-- 0x102 TPC (R355). -/
  tpc : Word
  /-- 0x103 TELEM (R355). -/
  telem : Word
  /-- 0x104 TSTAT (R138). -/
  tstat : Word
  /-- 0x105 PREEMPT (R138). -/
  preempt : Word
  /-- 0x106 PAIRCTL (R129). -/
  pairctl : Word
  /-- 0x107 FPRINT (R367). -/
  fprint : Word
  /-- 0x108 RINGCFG (R184). -/
  ringcfg : Word
  /-- 0x109 TVEC (R140). -/
  tvec : Word
  /-- 0x10A TCMP (R140). -/
  tcmp : Word
  deriving DecidableEq, Repr

/-- The four generators of a context (R31), and the copy REGION records (R325). -/
structure Gens where
  key : Vector Word 4
  ctr : Vector Word 4
  savedKey : Vector Word 4
  savedCtr : Vector Word 4
  deriving DecidableEq, Repr

/-- The input mask of the open region (R361): bit c is register code c (g 0 to 63, v 64 to 95, p 96 + n). -/
structure RegionSt where
  /-- registers read before they were written. -/
  mask : BitVec 104
  /-- registers written since the REGION. -/
  written : BitVec 104
  /-- push number of the first command that belongs to the region (R360, R363). -/
  start : Nat
  deriving DecidableEq, Repr

/-! ## Tasks, barriers, inbox (R116 to R128, R209 to R221) -/

/-- What a descriptor carries besides ENTRY and ARG (R116). -/
inductive TaskBody
  | plain (a2 a3 : Word)
  | range (lo hi chunk : Nat)
  deriving DecidableEq, Repr

/-- A task descriptor (R116). -/
structure Task where
  entry : Nat
  arg : Word
  body : TaskBody
  deriving DecidableEq, Repr

/-- An entry of the waiting-task table (R218). -/
inductive TrigSt
  | free
  /-- the counter word's memory key, the threshold and the task. -/
  | armed (key : Nat) (thr : Word) (task : Task)
  | firing (task : Task)
  deriving DecidableEq, Repr

/-- The deque unit's state for one context (R211). -/
structure TaskSt where
  /-- the context runs a task (R210). -/
  running : Bool
  /-- the task that runs, whose range is the current range (R117). -/
  current : Option Task
  /-- the 64 hardware entries, top first (R211). -/
  deque : List Task
  /-- the spilled entries, top first (R211). -/
  spill : List Task
  /-- ring slot of the topmost spilled entry (R211). -/
  spillTop : Nat
  /-- the 32-entry waiting-task table (R119). -/
  trig : Vector TrigSt 32
  /-- the entry granted to this thief and on its way (R214). -/
  grant : Option Task
  /-- the core last probed in its own tile, and in another tile of its die (R215). -/
  probed : Nat
  probedFar : Nat
  /-- where the context waits in DONE: the PC, handler state and level of that wait (R102, R209, R214). -/
  idle : Option (Nat × Bool × Level)
  deriving DecidableEq, Repr

/-- The arrival state of a core (R221). -/
inductive Arrival | none | arrived | released
  deriving DecidableEq, Repr

/-- Barrier state of a context (R221). -/
structure BarSt where
  phase : BitVec 16
  arr : Arrival
  half : Bool
  deriving DecidableEq, Repr

/-- One inbox entry (R122, R123, R173). -/
structure InEntry where
  val : GReg
  source : Nat
  /-- kind 1, an engine completion, and the engine it frees. -/
  done : Option Eng
  /-- push number of the completed command (R363). -/
  cmd : Nat
  deriving DecidableEq, Repr

/-- One stream entry: 128 bytes and the poison marks of its 16 words (R148). -/
structure StreamEntry where
  data : BitVec 1024
  marks : BitVec 16
  deriving DecidableEq, Repr

/-- A gang as a member sees it (R128). -/
structure GangSt where
  size : Nat
  /-- false while GANG waits for the other members. -/
  formed : Bool
  /-- another member's n differs: this member's GANG traps. -/
  bad : Bool
  deriving DecidableEq, Repr

/-- One store held in the pair store buffer, or entered in a fingerprint record (R365, R367). -/
structure HeldStore where
  /-- memory key of the first byte. -/
  key : Nat
  /-- address named by the instruction. -/
  ea : Nat
  size : Nat
  data : Payload
  tag : Tag
  /-- a PUT, which counts as a message when it is released (R120). -/
  put : Bool
  deriving DecidableEq, Repr

/-- Pair state of a core (R129, R365 to R368). -/
structure PairSt where
  /-- gd of a PAIR of this core that waits for its partner. -/
  waiting : Option Nat
  /-- the 256-entry pair store buffer (R365). -/
  held : List HeldStore
  /-- CRC-32C of the records since the last exchange (R367). -/
  crc : BitVec 32
  /-- instructions covered since the last exchange (R367). -/
  count : Nat
  /-- registers whose pending response was written since the last retirement (R367). -/
  fresh : List Nat
  /-- the hardware upset a register of the core since the pair was formed or recovered (R368). -/
  upset : Bool
  deriving DecidableEq, Repr

/-! ## Engines (R58 to R60, R171 to R202, R320 to R327) -/

/-- A chunk in an operand latch (R186): its header, element codes and scale codes, the bytes they take on a link (R337), and
whether a word of it arrived poisoned (R341). -/
structure Chunk where
  launch : Nat
  step : Nat
  idx : Nat
  kc : Nat
  cls : Nat
  fmt : Nat
  elems : List Nat
  scales : List Nat
  size : Nat
  poisoned : Bool
  deriving DecidableEq, Repr

/-- How a command ended early: status, FIRST and INFO (R174). -/
structure EndCond where
  status : Nat
  first : Nat
  info : Nat
  /-- the address of an access fault. -/
  addr : Nat
  deriving DecidableEq, Repr

/-- The operand buffer of the ME: the chunks of one element of a command with these records, each element's code with its scale word,
as they were read while an earlier element computed; none when a word was marked (R323). -/
structure Operands where
  elem : Nat
  recs : List GReg
  val : Option (List (List (Nat × Option Nat)) × List (List (Nat × Option Nat)))
  deriving DecidableEq, Repr

/-- A command and its saved image (R58, R176, R326). -/
structure Cmd where
  hdr : Payload
  slot1 : GReg
  slot2 : GReg
  par : Payload
  /-- push number within the context. -/
  num : Nat
  /-- K and C0 of R324. -/
  k0 : Word
  c0 : Word
  /-- RINGCFG as copied at the start (R172). -/
  ring : Word
  started : Bool
  elem : Nat
  total : Nat
  /-- NV, DZ, OF, UF, NX (R173). -/
  flags : BitVec 5
  /-- granules copied from records, in reading order (R172). -/
  recs : List GReg
  /-- FIRST of the conditions that let a command run on (R174). -/
  absentAt : Option Nat
  poisonAt : Option Nat
  unboundAt : Option Nat
  /-- peers found absent by this command, as a mask (R202). -/
  gone : BitVec 64
  /-- a DEAL's pattern slot, or an MLDRED's slot of the reduction switch, is held (R287, R346). -/
  slot : Bool
  /-- the writes of element ELEM have been accepted and are on their way: a beat of CE counts once it is written (R192, R287). -/
  sent : Bool
  /-- early end. -/
  ended : Option EndCond
  /-- steps whose write-back is pending, oldest first, with the rows performed (R185). -/
  wb : List (Nat × List Nat)
  /-- messages of the core numbered below this precede the PUSH: the command starts behind them (R177). -/
  after : Nat
  /-- what the reduction switch holds of the elements in progress: element, peer index, and the value and mark read, none when the
  peer was absent (R346). -/
  held : List (Nat × Nat × Option (Nat × Bool))
  /-- operands read ahead (R323), and records read while the command ahead of it ran: slot and granules (R172, R323). -/
  buffer : List Operands
  ahead : List (Nat × List GReg)
  /-- the chunk that an MMR has taken from its latch for the element to come, which its send holds up (R185). -/
  taken : Option Chunk
  /-- chunks of an MMR that wait for a slot of NEXT's latch, oldest first (R185, R186; log entry 86). -/
  out : List Chunk
  /-- stopped with write-backs pending: they come before its next element (R185). -/
  flush : Bool
  deriving DecidableEq, Repr

/-- One engine's queue: active command first, at most two with those awaiting RECV (R171). -/
structure EngQ where
  cmds : List Cmd
  /-- completions placed and not yet collected (R171). -/
  uncollected : Nat
  deriving DecidableEq, Repr

/-- The engine state of a context. -/
structure Engines where
  me : EngQ
  ce : EngQ
  ca : EngQ
  /-- accumulator bits: key (8 × bank + x) × 32 + row, one 128-byte row each; unlisted rows are zero (R180, R326). -/
  acc : List (Nat × BitVec 1024)
  /-- accumulators last written as FP64 tiles: 8 × bank + x (R180, R416). -/
  wide : List Nat
  /-- key that holds each alternate bank (R188). -/
  hold : Vector (Option (BitVec 16)) 8
  /-- push number of the command that took each hold (R363). -/
  holdBy : Vector Nat 8
  /-- the operand latch, oldest first (R186, R351). -/
  latch : List Chunk
  /-- next push number. -/
  nextNum : Nat
  deriving DecidableEq, Repr

/-! ## Contexts and cores -/

/-- What a parked context waits in (R265); `gate` is an STV that waits for the floor of the page at a key (R113, R115). -/
inductive WaitIn | pred | done | barrier | wfi | version | gate (page : Nat) | recv
  deriving DecidableEq, Repr

/-- Where a context stands (R265, R270, R375). -/
inductive RunSt
  | running
  | ready
  | parked (w : WaitIn)
  | halted
  /-- replaced by the copy of the lower core of its pair (R129). -/
  | pairSaved
  | ended
  deriving DecidableEq, Repr

/-- A context: one launch's state on one core, the registers of the code it runs included. -/
structure Ctx where
  /-- logical core name (R289). -/
  core : Nat
  /-- number of its launch; none on a core that runs no context. -/
  launch : Option Nat
  run : RunSt
  regs : Regs
  csrs : Csrs
  gens : Gens
  region : RegionSt
  /-- the program counter capability; its ADDR is the PC (R74). -/
  pcc : Payload
  level : Level
  /-- user-level handler state (R72, R125). -/
  handler : Bool
  /-- the enable of R125. -/
  uien : Bool
  /-- the instruction at the PC waits by R102. -/
  stalled : Bool
  task : TaskSt
  bar : BarSt
  inbox : List InEntry
  /-- the arrival queues of vq0 to vq3 (R148). -/
  streams : Vector (List StreamEntry) 4
  /-- entries removed since the context was created (R150). -/
  popped : Nat
  /-- SENT and RCVD (R224). -/
  sent : Nat
  rcvd : Nat
  eng : Engines
  /-- unspent lease (R268). -/
  lease : Nat
  /-- the pool just after the last draw (R268). -/
  poolSeen : Nat
  gang : Option GangSt
  pair : PairSt
  /-- a trap that strikes between instructions: cause, TVAL, TELEM (R137, R174, R269). -/
  due : List (Nat × Nat × Nat)
  /-- TCAUSE of the traps and interrupts whose handlers have not returned, newest first (R272, R295). -/
  entered : List Word
  /-- the words of the frame in progress, captured at its start or its resumption (R54). -/
  frame : Option (List Nat)
  /-- idle without a break since the last lull wave (R225). -/
  idleSince : Bool
  deriving DecidableEq, Repr

/-- A TLB entry: launch, virtual page, page size in bits, the leaf's memory key base, CLASS, HOST and PORT (R294). -/
structure TlbEntry where
  launch : Nat
  page : Nat
  bits : Nat
  base : Nat
  cls : Nat
  deriving DecidableEq, Repr

/-- State of a core that is no context's (R72, R109, R139, R294, R375, R416). -/
structure CoreSt where
  /-- the runtime's own registers, codes 56 to 59 (R139). -/
  rt : Vector GReg 4
  /-- CSR 0x200 FVEC (R140). -/
  fvec : Word
  /-- the lock held by LDLK: word offset in the scratchpad and the clock at its LDLK (R109). -/
  lock : Option (Nat × Nat)
  itlb : List TlbEntry
  dtlb : List TlbEntry
  /-- a debugger is attached (R416). -/
  attached : Bool
  /-- interrupt 4 awaits the next boundary (R375). -/
  haltReq : Bool
  /-- a pre-emption request awaits the core (R266, R272). -/
  preReq : Bool
  /-- a rollback request awaits the next boundary (R363). -/
  rollReq : Bool
  /-- a context was dispatched and has not finished its first instruction: a switch is in progress (R274). -/
  switched : Bool
  /-- a word with the poison mark reaches the core's next load over the mesh, clean at its home (R358). -/
  meshBad : Bool
  deriving DecidableEq, Repr

/-! ## Memory (R78, R280, R285, R298, R373) -/

/-- All memory of the device and behind its ports, by key (Machine/Ops.lean lays the keys out): the bytes in one
canonical form, the granules whose capability tag is set and the words whose poison mark is set, rising. -/
structure Mem where
  bytes : List Host.Cell
  tags : List Nat
  marks : List Nat
  /-- words that hold an uncorrectable, or a correctable, error not yet met (R298). -/
  bad : List Nat
  soft : List Nat
  /-- lines whose check value does not match their bytes, and the check they carry (R373, R374). -/
  badCheck : List (Nat × Nat)
  deriving DecidableEq, Repr

/-- A slot of a versioned line (R111). -/
inductive SlotSt | free | opened | complete
  deriving DecidableEq, Repr

/-- A slot: its version, its state, its copy of the line with poison marks by word and capability tags by granule, and the words with
an error that no access has met yet, uncorrectable or correctable (R298). -/
structure VerSlot where
  ver : BitVec 12
  st : SlotSt
  data : BitVec 512
  marks : BitVec 8
  tags : BitVec 4
  bad : BitVec 8 := 0
  soft : BitVec 8 := 0
  deriving DecidableEq, Repr

/-- A 64-byte line of a VER page; memory itself holds what the newest complete slot holds (R111, R311). -/
structure VerLine where
  s0 : VerSlot
  s1 : VerSlot
  deriving DecidableEq, Repr

/-- Floors of a VER page, and the gates of R115 not yet open: the floor asked for, the clock at its RECLAIM and, by tile, what is
awaited: 4 × tile plus 3 until its interval ends, 2 until the next ends, 1 until that one's commit. -/
structure VerPage where
  fr : BitVec 12
  fe : BitVec 12
  gates : List (BitVec 12 × Nat × List Nat)
  deriving DecidableEq, Repr

/-! ## Messages and links (R120, R337 to R341, R385 to R388) -/

/-- What a message in flight does when it is performed. -/
inductive MsgKind
  /-- store, vector store lane, PUT or engine write: bytes, tag to set, marks to set, and the check that a line copied
  whole carries when it does not match (R178). -/
  | store (key : Nat) (data : List Byte) (setTag : Bool) (mark : Bool) (check : Option Nat)
  /-- PUTI. -/
  | add (key : Nat) (x : Word)
  | send (core : Nat) (v : GReg)
  /-- ATOM: op code, size, operand, expected value. -/
  | atom (key : Nat) (op : Nat) (size : Nat) (x : Word) (old : Word)
  | get (key : Nat)
  /-- response of an atomic or GET, for the register awaited. -/
  | resp (v : GReg)
  /-- a stream entry, with the sending engine, its command and the element it is (R148, R193). -/
  | stream (core : Nat) (tag : BitVec 8) (e : StreamEntry) (eng : Eng) (cmd : Nat) (elem : Nat)
  | chunk (core : Nat) (c : Chunk)
  /-- SENDH: the 28 bytes of a record for a queue's message area, whose key is given (R124). -/
  | record (q key : Nat) (body : List Byte)
  deriving DecidableEq, Repr

/-- How far a message has come: `held` until the buddy has acknowledged the determinants recorded before it (R391), `refused` by a
fenced tile (R395), `turned` away out of order or for want of room (R122, R186, R386), `lost` when a mesh flit of it was dropped for its
header (R341). -/
inductive MsgSt | held | sent | refused | turned | performed | lost
  deriving DecidableEq, Repr

/-- A message in flight or awaiting its acknowledgement (R120, R385). -/
structure Msg where
  id : Nat
  /-- issuing core name and launch. -/
  core : Nat
  launch : Option Nat
  /-- destination channel: destination code × 3 + virtual channel (R120, R304, R385). -/
  chan : Nat
  seq : BitVec 32
  kind : MsgKind
  st : MsgSt
  /-- counts in SENT and RCVD: PUT, PUTI and SEND (R120). -/
  counted : Bool
  /-- the engine that sent it; none for the core's own. -/
  engine : Option Eng
  /-- the widest narrow scope at which a fence or release has counted it as performed: 1 tile, 2 die, 0 none (R308, R309). -/
  seen : Nat
  /-- determinants of the sending tile recorded before it (R391). -/
  det : Nat
  /-- the agent for which the value its response brings is a determinant (R390, R392). -/
  noted : Option Nat
  /-- the collective command, element and peer index that sent it (R202). -/
  origin : Option (Nat × Nat × Nat)
  deriving DecidableEq, Repr

/-- A channel's counters (R385, R386): last number sent, last accepted, last atomic results. -/
structure Channel where
  /-- sending tile. -/
  src : Nat
  chan : Nat
  next : BitVec 32
  accepted : BitVec 32
  results : List (BitVec 32 × GReg)
  deriving DecidableEq, Repr

/-- What a drift log keeps a copy of: a message, or barrier or steal traffic, which is sent and performed in one step (R385, R387). -/
inductive DriftCopy
  | message (k : MsgKind)
  /-- the arrival or the release of an instance: launch, DOMAIN value and phase (R222). -/
  | arrival (launch dom phase : Nat)
  | release (launch dom phase : Nat)
  /-- a steal's request by a core of a launch, and the entry granted (R213, R216). -/
  | request (launch thief : Nat)
  | grant (launch thief : Nat) (x : Task)
  deriving DecidableEq, Repr

/-- A copy in a drift log (R387): its channel and number, and the die in whose log it was written. -/
structure DriftEntry where
  src : Nat
  dst : Nat
  vc : Nat
  seq : BitVec 32
  size : Nat
  die : Nat
  copy : DriftCopy
  deriving DecidableEq, Repr

/-- The states of a seam link or Gale port (R339). -/
inductive LinkSt | up | replay | spare | retrain | down
  deriving DecidableEq, Repr

/-- A flit: link sequence number, virtual channel, message and index within it (R337), and how many links of its route lie behind
it. -/
structure Flit where
  seq : BitVec 12
  vc : Nat
  msg : Nat
  idx : Nat
  hop : Nat
  deriving DecidableEq, Repr

/-- A seam link (id below 504) or Gale port (504 + port) (R332, R338, R339), with what its north or west end, or the device, sends on
it. What the other end sends is kept apart under id + 1024: of that record only the flits, their numbers and failures count. -/
structure Link where
  id : Nat
  st : LinkSt
  lanes : Nat
  spareUsed : Bool
  /-- send and receive sequence numbers. -/
  next : BitVec 12
  expect : BitVec 12
  /-- flits not yet acknowledged, oldest first; the first 128 are the replay buffer, the rest wait for space. -/
  buffer : List Flit
  /-- consecutive failures of the oldest flit. -/
  fails : Nat
  /-- a negative acknowledgement is on its way to the sender. -/
  nack : Bool
  /-- DTIME of the training attempts. -/
  attempts : List Nat
  /-- what the device at the far end of a Gale port has presented at the training in progress, or at the last one (R342). -/
  farId : Option (BitVec 256)
  /-- declared DOWN for its training attempts: it stays so until the next boot (R339). -/
  dead : Bool
  deriving DecidableEq, Repr

/-! ## Launches and queues (R203 to R270) -/

/-- A range of a working set (R256). -/
structure WRange where
  va : Nat
  count : Nat
  /-- page size in address bits: 16, 21 or 30. -/
  bits : Nat
  cls : Nat
  text : Bool
  deriving DecidableEq, Repr

/-- A launch's standing (R230, R264, R270). -/
inductive LaunchSt | held | running | ended (code : Nat)
  deriving DecidableEq, Repr

/-- The LAUNCH packet's fields that a launch keeps (R253). -/
structure LaunchPkt where
  queue : Nat
  pid : Nat
  handle : Nat
  budget : Nat
  ovr : Nat
  dlab : Bool
  hint : Bool
  every : Bool
  foot : Nat
  accn : Nat
  specok : Bool
  entry : Nat
  args : List Word
  /-- number of the predecessor's launch (R228). -/
  pred : Option Nat
  root : Nat
  ranges : List WRange
  /-- working-set descriptor address, whose pins the launch holds. -/
  wset : Nat
  deriving DecidableEq, Repr

/-- A pairing with a launch on a peer wafer (R343): the wafer, the ports of its bundle that were UP when it was made (R344),
and the tiles of the paired launch's partition. -/
structure Pairing where
  wafer : Nat
  ports : List Nat
  tiles : List Nat
  deriving DecidableEq, Repr

/-- A share of a spread range that waits at a die agent: the issuing die, its own die and the range (R217). -/
structure Share where
  src : Nat
  die : Nat
  task : Task
  deriving DecidableEq, Repr

/-- What a tile node has done with an instance: forwarded its arrival, lost it at a seam without an UP link, taken the release or lost
that (R222, R340). -/
inductive SweepKind | forwarded | dropped | released | cut
  deriving DecidableEq, Repr

/-- A step of the sweep of an instance at a tile (R222). -/
structure SweepMark where
  dom : Nat
  phase : Nat
  tile : Nat
  kind : SweepKind
  deriving DecidableEq, Repr

/-- An admitted launch. -/
structure Launch where
  pkt : LaunchPkt
  st : LaunchSt
  /-- the DOMAIN words of its partition, INDEX included (R127, R260). -/
  domains : List Word
  /-- TCM partition address P (R204, R258). -/
  base : Nat
  /-- deadline; 2^64 − 1 once demoted (R253, R264). -/
  deadline : Nat
  demoted : Bool
  /-- demoted by OVR 1: no budget limit (R269). -/
  unlimited : Bool
  /-- unspent budget held by the Mistral unit (R268). -/
  pool : Nat
  charged : Nat
  /-- DTIME of admission (R269). -/
  admitted : Nat
  hinted : Bool
  published : Bool
  missed : Bool
  /-- cycles in its recovery account (R401). -/
  recovery : Nat
  recovered : Bool
  /-- its pairings, and the peer wafers lost for good (R343). -/
  paired : List Pairing
  unpaired : List Nat
  /-- shares waiting at die agents (R217). -/
  shares : List Share
  /-- how far the sweeps of its instances have come (R222). -/
  sweep : List SweepMark
  /-- sums of the previous lull wave, when every member was idle (R225). -/
  wave : Option (Nat × Nat)
  /-- the pages and frames it holds pinned, each by `Pin.code` (R257, R296). -/
  pins : List Nat
  /-- RAW mark of each tile: tile id and the first RAW page's address (R393). -/
  raw : List (Nat × Nat)
  /-- the END record that waits to be written: code, bytes 4 to 7, 8 to 15, 24 to 27 (R251, R252). -/
  endRec : Option (Nat × Nat × Nat × Nat)
  /-- what the ended launch held waits for the resume of a tile in recovery, where its contexts stop (R402). -/
  toFree : Bool
  deriving DecidableEq, Repr

/-- Queue states (R241). -/
inductive QState | disabled | running | error
  deriving DecidableEq, Repr

/-- A kept packet id and whether it has ended or been rejected (R249). -/
structure KeptId where
  id : Nat
  ended : Bool
  /-- number of the launch; none for COPY and rejected packets. -/
  launch : Option Nat
  /-- number of the COPY it is. -/
  copy : Option Nat
  deriving DecidableEq, Repr

/-- A COPY in progress (R248). -/
structure CopyJob where
  id : Nat
  /-- a number that tells it from others of one id. -/
  num : Nat
  src : Nat
  dst : Nat
  len : Nat
  deriving DecidableEq, Repr

/-- A queue: its registers and what the front end keeps for it (R235 to R250). -/
structure Queue where
  st : QState
  base : Word
  cfg : Word
  widx : BitVec 32
  ridx : BitVec 32
  err : BitVec 8
  stale : BitVec 16
  erra : Word
  msga : Word
  msgw : BitVec 32
  msgh : BitVec 32
  /-- records dropped (R250). -/
  overflow : BitVec 32
  /-- ids of the last 256 LAUNCH and COPY packets, newest first (R249). -/
  kept : List KeptId
  /-- numbers of the last 256 admitted launches, newest first (R228). -/
  admitted : List Nat
  copies : List CopyJob
  /-- the packet at RIDX that was read and waits (R249). -/
  hand : Option (List Byte)
  /-- the kept packet for which a WAITPKT in hand waits, once it has been read (R249). -/
  awaits : Option KeptId
  /-- the COPY that RESUME reads again, by the number under which its id is kept (R241, R249). -/
  again : Option Nat
  deriving DecidableEq, Repr

/-- A partition table entry (R260) and what is left of its reserve (R269). -/
structure Part where
  dom : Vector Word 4
  reserve : BitVec 32
  left : Nat
  deriving DecidableEq, Repr

/-- A pinned page or page-table frame: memory key base, address bits, class (4 for a frame), pin count (R257, R296). -/
structure Pin where
  key : Nat
  bits : Nat
  cls : Nat
  count : Nat
  deriving DecidableEq, Repr

/-- A PIN packet's pins (R248). -/
structure PinJob where
  queue : Nat
  wset : Nat
  pins : List Nat
  deriving DecidableEq, Repr

/-- The queue front end and the Mistral units. -/
structure Front where
  /-- queue q at key q; an unlisted queue is DISABLED with every register zero. -/
  queues : List (Nat × Queue)
  /-- partition entry h at key h; an unlisted entry is zero (R260). -/
  parts : List (Nat × Part)
  /-- ADMFRAC[15:0] (R262). -/
  admfrac : BitVec 16
  pins : List Pin
  pinJobs : List PinJob
  /-- MSI-X vectors pending: port and vector (R250, R275). -/
  vectors : List (Nat × Nat)
  /-- MSI-X table entries the host has written, 2048 × port + vector at its key: address, data, control (R275). -/
  msix : List (Nat × BitVec 128)
  deriving DecidableEq, Repr

/-! ## Tiles, checkpoints and recovery (R290, R376 to R403) -/

/-- The states of the Lehr sequence (R394), and a planned migration's stop (R403). -/
inductive RecSt | run | fence | choose | restore | flip | replay | resume | lost | migrate
  deriving DecidableEq, Repr

/-- A determinant (R390): an episode of an agent, an arrival, a value from outside the tile, a switch of a core. -/
inductive Det
  | episode (agent steps : Nat)
  | arrival (src vc : Nat)
  | value (agent : Nat) (bytes : List Byte)
  | switch (core steps event ctx : Nat)
  deriving DecidableEq, Repr

/-- The content of a generation: the tile's contexts, its memory, the tile record's counters (R382), and the determinants of
the interval that it ended (R380). -/
structure Snap where
  ctxs : List Ctx
  bytes : List Host.Cell
  tags : List Nat
  marks : List Nat
  /-- check values of lines that differ from what their bytes give, by line key (R373, R380). -/
  checks : List (Nat × Nat)
  channels : List Channel
  watchdog : Nat
  dets : List Det
  /-- the cores' registers that are no context's (R139, R140, R382, R400). -/
  cores : List (Nat × CoreSt)
  deriving DecidableEq, Repr

/-- A logical tile. -/
structure TileSt where
  /-- PHYS of the tile it is bound to, its class and SHARED (R290). -/
  phys : Nat
  cls : Nat
  shared : Bool
  /-- PHYS of the buddy's tile (R378). -/
  buddy : Nat
  /-- a committed checkpoint exists (R379). -/
  safe : Bool
  st : RecSt
  /-- the watchdog counter and the DTIME of the last watchdog recovery (R376, R377). -/
  watchdog : Nat
  lastWatch : Option Nat
  byWatch : Bool
  /-- clock at which the interval began (R381). -/
  since : Nat
  /-- an end is due: CKPT or a request (R381). -/
  endDue : Bool
  /-- dirty lines of the interval (R383), and its determinants, newest first (R390). -/
  dirty : List Nat
  dets : List Det
  /-- determinants recorded since boot, and how many of them the buddy has acknowledged (R391). -/
  detSeq : Nat
  detAck : Nat
  /-- the open episode: its agent's code and its steps (R389). -/
  episode : Option (Nat × Nat)
  /-- launches whose contexts on the tile are created at its resume (R230, R395). -/
  owed : List Nat
  /-- requests that wait for a lock bit of the scratchpad, in order of arrival: a core name, or 2^20 plus a message's id, and
  the word's offset (R284). -/
  lockQ : List (Nat × Nat)
  /-- committed generation, the one being committed, and what the tile held at its fence. -/
  committed : Option Snap
  committing : Option Snap
  fenced : Option Snap
  /-- the spare reserved by CHOOSE. -/
  chosen : Option (Nat × Nat × Bool)
  /-- a full checkpoint is owed (R384, R400). -/
  full : Bool
  /-- PHYS of the previous store, the restore point until the full checkpoint commits (R384). -/
  oldStore : Option Nat
  /-- it needs a new buddy and no store is free (R379). -/
  seeks : Bool
  /-- clock since when an end of the interval is due and not deferred (R418). -/
  dueSince : Option Nat
  /-- the shared TLB level, newest first (R294). -/
  tlb : List TlbEntry
  deriving DecidableEq, Repr

/-- A naming rectangle: corner row, corner column, rows, columns (R288). -/
structure Rect where
  row : Nat
  col : Nat
  rows : Nat
  cols : Nat
  deriving DecidableEq, Repr

/-- State of physical tiles and links. -/
structure Fabric where
  /-- links that differ from a whole link that is UP. -/
  links : List Link
  channels : List Channel
  drift : List DriftEntry
  /-- host ports whose link is UP (R276). -/
  hostUp0 : Bool
  hostUp1 : Bool
  /-- words to be delivered with the poison mark: message and word within it (R341). -/
  badWords : List (Nat × Nat)
  /-- numbered rectangles (R288). -/
  rects : List Rect
  /-- flips waiting or in progress, tile ids in order (R398). -/
  flips : List Nat
  /-- events per unit: unit code and DTIME of its last events, newest first (R371). -/
  units : List (Nat × List Nat)
  /-- tiles recorded as lost in service, and those marked for the next boot (R372). -/
  lost : List Nat
  /-- tiles out of service until boot (R410). -/
  retired : List Nat
  /-- throttling by site code: tile PHYS, or 4096 + link (R410). -/
  throttle : List (Nat × Nat)
  /-- the temperature that each site last sampled, in tenths of a degree, by site code (R410, R411). -/
  temps : List (Nat × Nat)
  /-- tiles of peer wafers that do not answer, 2^16 × wafer + tile: 1 fenced for a recovery, 2 fenced beyond recovery (R346). -/
  peerTiles : List (Nat × Nat)
  /-- DTIME since when a tile reads above 125 °C, or above 105 °C (R403, R410). -/
  hot : List (Nat × Nat)
  warm : List (Nat × Nat)
  deriving DecidableEq, Repr

/-! ## The device (R404 to R416) -/

/-- DEVSTAT.STATE (R411). -/
inductive DevState | boot | ready | fail
  deriving DecidableEq, Repr

/-- The configuration table (R406) and the tables verified beside it. -/
structure CfgTable where
  fcol : Nat
  fwidth : Nat
  /-- role of each firmware core, by firmware tile row and core; empty for the default (R409). -/
  rolemap : List Nat
  galemap : List Nat
  peerid : List (Nat × BitVec 256)
  grants : List Word
  debug : Bool
  /-- link table entries as 64-bit words (R333). -/
  linkTable : List Word
  /-- PHYS of the tiles in the lost-tile record (R372). -/
  lostTiles : List Nat
  deriving DecidableEq, Repr

/-- A debug command with the window's registers as they stood when it arrived (R416). -/
structure DbgCmd where
  sel : Word
  cmd : Nat
  reg : Word
  tag : Word
  data : BitVec 2048
  /-- the logical tile of the core that it names, when it arrived: in recovery it holds the command until RESUME, past the flip. -/
  tile : Option Nat
  deriving DecidableEq, Repr

/-- The debug window (R416). -/
structure DbgWin where
  sel : Word
  /-- the error code of the last command; 0 shows ERR clear. -/
  err : Nat
  reg : Word
  tag : Word
  data : BitVec 2048
  /-- commands that wait for a recovery to end, and those that arrived behind them, oldest first. -/
  waiting : List DbgCmd
  deriving DecidableEq, Repr

/-- RESYNC registers (R411, R413). -/
structure Resync where
  addr : Word
  len : BitVec 32
  busy : Bool
  done : Bool
  err : Bool
  vec : BitVec 32
  deriving DecidableEq, Repr

/-- What the last read by the host, a peer wafer, I3C or boundary scan returned. -/
structure Reply where
  bytes : List Byte
  /-- the PCIe poisoned bit, or a NACK (R374, R414). -/
  bad : Bool
  deriving DecidableEq, Repr

/-- Device-level state. -/
structure Device where
  state : DevState
  /-- DEVSTAT.CODE (R404). -/
  code : BitVec 8
  cfg : CfgTable
  /-- the boot store's images (R404, R414). -/
  store : List BootImage
  /-- version floors in the fuses: firmware, configuration, links, lost (R405). -/
  floors : Vector (BitVec 32) 4
  /-- health counters 0 to 15 (R412). -/
  health : Vector Nat 16
  /-- cycles skipped by throttling (R410, R412). -/
  skipped : Nat
  /-- records of the die health logs: die and 32 bytes (R299, R374). -/
  log : List (Nat × BitVec 256)
  resync : Resync
  dbg : DbgWin
  reply : Reply
  /-- the test-mode strap at power-on (R415). -/
  strap : Bool
  /-- boundary-scan instruction in force: 0 BYPASS, 1 IDCODE, 2 SAMPLE/PRELOAD, 3 EXTEST (R415). -/
  scan : Nat
  /-- role and firmware core: role, PHYS and core index (R409). -/
  roles : List (Nat × Nat × Nat)
  /-- the firmware's text capability (R139). -/
  fwText : Payload
  /-- the boot summary: for each rectangle, its narrowed and its slower links (R288, R404 step 8). -/
  bootSummary : List (Nat × Nat)
  deriving DecidableEq, Repr

/-! ## The whole machine -/

/-- What the outside world does to the machine: hardware faults (R298, R363, R370, R394; `driftLog`: an entry that the tile's
replay needs has an uncorrectable error; `slotError`: a word of a VER slot that is not the newest), accesses of a peer wafer's launch to this one (R343, R345, R347), of a
firmware core of a die (R408), the host's accesses to BAR4 (R275), and writes of the host's or a peer's own agents to their own memory. -/
inductive HwFault
  | wordError (key : Nat)
  | softError (key : Nat)
  | checkError (line : Nat) (check : BitVec 32)
  | residue (core : Nat)
  | parity (core unit : Nat)
  | pairUpset (core : Nat) (reg : Nat)
  | buddyStore (tile off : Nat) (hard : Bool)
  | spareFails (tile : Nat)
  | tileFails (tile : Nat)
  | peerWrite (wafer src tile off : Nat) (seq : BitVec 32) (data : List Byte) (complete : Bool)
  | peerRead (wafer tile off size : Nat)
  | firmwareAccess (die key size : Nat) (data : Option (List Byte))
  | driftLog (tile : Nat)
  | msixWrite (port off : Nat) (data : BitVec 32)
  | msixRead (port off : Nat)
  | peerMemory (wafer tile off : Nat) (data : List Byte)
  | peerTile (wafer tile state : Nat)
  | slotError (line word : Nat) (second hard : Bool)
  | hostMemory (port addr : Nat) (data : List Byte)
  deriving DecidableEq, Repr

/-- Whose turn the next step is: plain data that says which agent moves next. -/
inductive Turn
  | event (i : Instr)
  | core (name : Nat)
  | cycles (n : Nat)
  | fault (f : HwFault)
  /-- the buddy acknowledges the determinants of a tile (R391). -/
  | buddy (tile : Nat)
  /-- an agent of the device that can do something. -/
  | own
  deriving DecidableEq, Repr

/-- The state of the whole device. -/
structure State where
  /-- the context on the core that acts. -/
  cpu : Ctx
  /-- every other context. -/
  others : List Ctx
  /-- core state by core name; an unlisted core is as reset leaves it. -/
  cores : List (Nat × CoreSt)
  mem : Mem
  /-- versioned lines by line key, and VER pages by page key (R111). -/
  verLines : List (Nat × VerLine)
  verPages : List (Nat × VerPage)
  /-- messages in flight, oldest first. -/
  net : List Msg
  nextId : Nat
  /-- launch n at key n. -/
  launches : List (Nat × Launch)
  nextLaunch : Nat
  front : Front
  /-- logical tile id at its key; an unlisted tile is as boot leaves it. -/
  tiles : List (Nat × TileSt)
  fabric : Fabric
  dev : Device
  /-- time since power-on in 33rds of a tick: ten make a cycle, 33 a tick (R9, R10). -/
  clk : Nat
  agenda : List Turn
  /-- the model's own counter of free values drawn. -/
  free : Nat
  deriving DecidableEq, Repr

/-- Reasons a step can stop with a fault: none. Every condition the spec describes is a trap, a wait, a status or a
record, and each of those is a next state; no step raises a fault (safe). -/
inductive Fault
  deriving DecidableEq, Repr

/-- Reasons a step can refuse. -/
inductive Refusal
  /-- An instruction without a meaning, by its mnemonic; raised by the dispatch alone (safe). -/
  | notModelled (mnemonic : String)
  deriving DecidableEq, Repr

/-! ## Reset (R13, R34, R140, R404, R411) -/

/-- Registers: DATA zero and zero (R73 for a created context; DESIGN CHOICE at power-on, log entry 2). -/
def Regs.reset : Regs :=
  { g := Vector.replicate 64 GReg.zero, gh := Vector.replicate 8 GReg.zero,
    v := Vector.replicate 32 0, p := Vector.replicate 8 0, pend := [] }

/-- CSRs at their Reset columns (R37, R138, R140); TVEC is DESIGN CHOICE (log entry 4). -/
def Csrs.reset : Csrs :=
  { domain := 0x10000000, frm := 0, fflags := 0, vqmap := 0, repprog := 0, repprogH := 0, vprog := 0, vprogH := 0,
    regpc := 0, gensel := 0, uivec := 0, tcause := 0, tval := 0, tpc := 0, telem := 0, tstat := 0,
    preempt := 2000, pairctl := 0, fprint := 0, ringcfg := 0, tvec := 0x1E000, tcmp := 0xFFFFFFFFFFFFFFFF }

/-- Generators: key 0 and counter 0 (R34). -/
def Gens.reset : Gens :=
  { key := Vector.replicate 4 0, ctr := Vector.replicate 4 0,
    savedKey := Vector.replicate 4 0, savedCtr := Vector.replicate 4 0 }

def TaskSt.reset : TaskSt :=
  { running := false, current := none, deque := [], spill := [], spillTop := 0,
    trig := Vector.replicate 32 .free, grant := none, probed := 0, probedFar := 0, idle := none }

def EngQ.reset : EngQ := { cmds := [], uncollected := 0 }

def Engines.reset : Engines :=
  { me := EngQ.reset, ce := EngQ.reset, ca := EngQ.reset, acc := [], wide := [], hold := Vector.replicate 8 none,
    holdBy := Vector.replicate 8 0, latch := [], nextNum := 0 }

def PairSt.reset : PairSt := { waiting := none, held := [], crc := 0, count := 0, fresh := [], upset := false }

/-- A core without a context: every register at its reset value. -/
def Ctx.reset : Ctx :=
  { core := 0, launch := none, run := .ended, regs := Regs.reset, csrs := Csrs.reset, gens := Gens.reset,
    region := ⟨0, 0, 0⟩, pcc := 0, level := .app, handler := false, uien := false, stalled := false,
    task := TaskSt.reset, bar := ⟨0, .none, false⟩, inbox := [], streams := Vector.replicate 4 [], popped := 0,
    sent := 0, rcvd := 0, eng := Engines.reset, lease := 0, poolSeen := 0, gang := none, pair := PairSt.reset,
    due := [], entered := [], frame := none, idleSince := false }

def CoreSt.reset : CoreSt :=
  { rt := Vector.replicate 4 GReg.zero, fvec := 0, lock := none, itlb := [], dtlb := [], attached := false,
    haltReq := false, preReq := false, rollReq := false, switched := false, meshBad := false }

def Mem.reset : Mem := { bytes := [], tags := [], marks := [], bad := [], soft := [], badCheck := [] }

/-- The defaults of the configuration table (R406). -/
def CfgTable.reset : CfgTable :=
  { fcol := 0, fwidth := 2, rolemap := [], galemap := [], peerid := [], grants := [], debug := false, linkTable := [],
    lostTiles := [] }

def Queue.reset : Queue :=
  { st := .disabled, base := 0, cfg := 0, widx := 0, ridx := 0, err := 0, stale := 0, erra := 0, msga := 0,
    msgw := 0, msgh := 0, overflow := 0, kept := [], admitted := [], copies := [], hand := none, awaits := none, again := none }

def Part.reset : Part := { dom := Vector.replicate 4 0, reserve := 0, left := 0 }

def Front.reset : Front :=
  { queues := [], parts := [], admfrac := 0xE000, pins := [], pinJobs := [], vectors := [], msix := [] }

/-- Before boot no rectangle is numbered and no link is trained; ports are counted UP until they go down. -/
def Fabric.reset : Fabric :=
  { links := [], channels := [], drift := [], hostUp0 := true, hostUp1 := true, badWords := [], rects := [],
    flips := [], units := [], lost := [], retired := [], throttle := [], temps := [], peerTiles := [], hot := [], warm := [] }

def DbgWin.reset : DbgWin :=
  { sel := 0, err := 0, reg := 0, tag := 0, data := 0, waiting := [] }

/-- The images of the boot store: one of each kind, signed, version 0, with the tables' defaults (R404, R406; DESIGN CHOICE, log
entry 27). -/
def BootImage.reset : List BootImage :=
  [⟨.firmware, 0, 0, true⟩, ⟨.config ⟨0, 2, [], [], [], [], false⟩, 0, 0, true⟩, ⟨.links [], 0, 0, true⟩, ⟨.lost [], 0, 0, true⟩]

/-- DEVSTAT shows BOOT; counters are clear (R411, R412). -/
def Device.reset : Device :=
  { state := .boot, code := 0, cfg := CfgTable.reset, store := BootImage.reset, floors := Vector.replicate 4 0,
    health := Vector.replicate 16 0, skipped := 0, log := [],
    resync := { addr := 0, len := 0, busy := false, done := false, err := false, vec := 0 },
    dbg := DbgWin.reset, reply := ⟨[], false⟩, strap := false, scan := 0, roles := [], fwText := 0,
    bootSummary := [] }

/-- The machine right after power-on reset: the boot of R404 has not run. -/
def State.reset : State :=
  { cpu := Ctx.reset, others := [], cores := [], mem := Mem.reset, verLines := [], verPages := [], net := [],
    nextId := 0, launches := [], nextLaunch := 0, front := Front.reset, tiles := [], fabric := Fabric.reset,
    dev := Device.reset, clk := 0, agenda := [], free := 0 }

end Sys2Proof.Machine
end

