-- ==== Sys2Proof/Machine/Bits.lean ====
section
/-! DEFINITION. Bit-field helpers of the pseudocode dialect (R16), canonical association lists and key sets, vectors
read and written at any index, and CRC-32C (R245, R367, R373). -/

namespace Sys2Proof.Machine

/-! ## Association lists in canonical form: keys strictly rising, no entry equal to the default -/

/-- The value at a key; the default for a key that is not listed. -/
def aget {α : Type} (d : α) : List (Nat × α) → Nat → α
  | [], _ => d
  | (k, x) :: m, a => if a = k then x else aget d m a

/-- The value at a key of a table without a default. -/
def afind {α : Type} : List (Nat × α) → Nat → Option α
  | [], _ => none
  | (k, x) :: m, a => if a = k then some x else afind m a

/-- Put a value in a table without a default. -/
def ains {α : Type} : List (Nat × α) → Nat → α → List (Nat × α)
  | [], a, v => [(a, v)]
  | (k, x) :: m, a, v =>
    if a < k then (a, v) :: (k, x) :: m else if a = k then (a, v) :: m else (k, x) :: ains m a v

/-- Put a value at a key, keeping the canonical form: an entry equal to the default is not listed. -/
def aput {α : Type} [DecidableEq α] (d : α) (m : List (Nat × α)) (a : Nat) (v : α) : List (Nat × α) :=
  if v = d then m.filter fun e => e.1 != a else ains m a v

/-- Add a key to a rising key set. -/
def nadd : List Nat → Nat → List Nat
  | [], a => [a]
  | k :: m, a => if a < k then a :: k :: m else if a = k then k :: m else k :: nadd m a

/-- Remove a key from a rising key set. -/
def ndel (m : List Nat) (a : Nat) : List Nat := m.filter fun k => k != a

/-- Membership in a key set. -/
def nmem : List Nat → Nat → Bool
  | [], _ => false
  | k :: m, a => a == k || nmem m a

/-- Insert by a key into a list sorted by it. -/
def insertBy {α : Type} (key : α → Nat) (x : α) : List α → List α
  | [] => [x]
  | y :: ys => if key x < key y then x :: y :: ys else y :: insertBy key x ys

/-- Sort by a key, equal keys in their order. -/
def sortBy {α : Type} (key : α → Nat) (xs : List α) : List α := xs.foldl (fun ys x => insertBy key x ys) []

/-! ## Vectors at any index -/

/-- An element, or the default outside the vector. -/
def vget {α : Type} {n : Nat} (d : α) (v : Vector α n) (i : Nat) : α := v[i]?.getD d

/-- Write an element; outside the vector nothing changes. -/
def vset {α : Type} {n : Nat} (v : Vector α n) (i : Nat) (x : α) : Vector α n := v.setIfInBounds i x

/-! ## Bits and integers -/

/-- Bits hi down to lo of a natural number (R16). -/
def bits (x hi lo : Nat) : Nat := x / 2 ^ lo % 2 ^ (hi + 1 - lo)

/-- Bit k of a natural number. -/
def bit (x k : Nat) : Bool := x / 2 ^ k % 2 == 1

/-- sext of R16. -/
def sext (x n : Nat) : Int := let y := x % 2 ^ n; if y < 2 ^ (n - 1) then (y : Int) else (y : Int) - 2 ^ n

/-- The n-bit two's complement code of an integer. -/
def codeOf (n : Nat) (x : Int) : Nat := (x % (2 : Int) ^ n).toNat

/-- An integer taken modulo 2^64 (the put of R80). -/
def wordOf (x : Int) : Word := BitVec.ofInt 64 x

/-- Addresses are 52 bits (R76). -/
def mod52 (x : Int) : Nat := (x % (2 : Int) ^ 52).toNat

/-- The first natural number below n that satisfies p. -/
def findBelow (p : Nat → Bool) (n : Nat) : Option Nat := (List.range n).find? p

/-- Replace bits of x under a mask (RW fields of a register, R13). -/
def under (mask old new : Word) : Word := (old &&& ~~~mask) ||| (new &&& mask)

/-- Number of one bits below n. -/
def popcount (x n : Nat) : Nat := ((List.range n).filter (bit x)).length

/-- Floor of log2 for a positive number, with fuel n bits. -/
def log2Nat (x : Nat) : Nat := Nat.log2 x

/-! ## CRC-32C (RFC 3720) -/

/-- One bit of the reflected CRC. -/
def crcBit (c : BitVec 32) : BitVec 32 :=
  if c.getLsbD 0 then (c >>> (1 : Nat)) ^^^ 0x82F63B78 else c >>> (1 : Nat)

/-- One byte of the CRC. -/
def crcByte (c : BitVec 32) (b : Byte) : BitVec 32 :=
  let c := c ^^^ b.zeroExtend 32
  crcBit (crcBit (crcBit (crcBit (crcBit (crcBit (crcBit (crcBit c)))))))

/-- The CRC register after more bytes. -/
def crcFold : BitVec 32 → List Byte → BitVec 32
  | c, [] => c
  | c, b :: bs => crcFold (crcByte c b) bs

/-- CRC-32C of bytes. -/
def crc32c (bs : List Byte) : BitVec 32 := ~~~ crcFold 0xFFFFFFFF bs

/-- n zero bytes. -/
def zeros (n : Nat) : List Byte := List.replicate n 0

/-- The bytes with their CRC-32C after them, little-endian. -/
def withCrc (bs : List Byte) : List Byte := bs ++ leBytes 4 (crc32c bs).toNat

/-! ## Capabilities (R75, R76) -/

def capAddr (c : Payload) : Nat := bits c.toNat 51 0
def capBase (c : Payload) : Nat := bits c.toNat 103 52
def capLm (c : Payload) : Nat := bits c.toNat 115 104
def capLe (c : Payload) : Nat := bits c.toNat 121 116
def capPerms (c : Payload) : Nat := bits c.toNat 127 122
/-- The length Lm × 2^Le (R76). -/
def capLen (c : Payload) : Nat := capLm c * 2 ^ capLe c

/-- The permissions, by their bit of [127:122]. -/
inductive Perm | g | sc | lc | x | w | r
  deriving DecidableEq, Repr

def Perm.idx : Perm → Nat
  | .g => 0 | .sc => 1 | .lc => 2 | .x => 3 | .w => 4 | .r => 5

def capHas (c : Payload) (p : Perm) : Bool := bit (capPerms c) p.idx

/-- A capability from its fields (R75). -/
def mkCap (perms le lm base addr : Nat) : Payload :=
  BitVec.ofNat 128 (perms % 64 * 2 ^ 122 + le % 64 * 2 ^ 116 + lm % 4096 * 2 ^ 104 + base % 2 ^ 52 * 2 ^ 52
    + addr % 2 ^ 52)

/-- A capability with another ADDR. -/
def capSetAddr (c : Payload) (a : Nat) : Payload := mkCap (capPerms c) (capLe c) (capLm c) (capBase c) a

/-- The conditions every CAP value satisfies (R76). -/
def capOk (c : Payload) : Bool := decide (capLe c ≤ 40 ∧ capBase c + capLen c ≤ 2 ^ 52)

/-- repr_len of R76, searching exponents upward with fuel. -/
def reprLenFrom : Nat → Nat → Nat → Nat × Nat
  | 0, e, n => ((n + 2 ^ e - 1) / 2 ^ e, e)
  | f + 1, e, n => if (n + 2 ^ e - 1) / 2 ^ e > 4095 then reprLenFrom f (e + 1) n else ((n + 2 ^ e - 1) / 2 ^ e, e)

/-- repr_len of R76: the mantissa and the smallest exponent; 64 exponents cover every 64-bit length. -/
def reprLen (n : Nat) : Nat × Nat := reprLenFrom 64 0 n

/-- A capability over [base, base + len) with ADDR and permissions, its length rounded up by R76. -/
def capOver (perms base len addr : Nat) : Payload :=
  let (lm, le) := reprLen len
  mkCap perms le lm base addr

end Sys2Proof.Machine

namespace Sys2Proof

/-! ## Code tables -/

/-- Element width w in bits (R142). -/
def VType.width : VType → Nat
  | .f32 | .i32 | .n32 => 32 | .f16 | .bf16 | .i16 | .n16 => 16 | .i8 | .n8 => 8 | .f64 => 64

/-- L, the number of lanes (R142). -/
def VType.lanes : VType → Nat
  | .f64 => 16 | _ => 32

/-- The i types (R142). -/
def VType.signed : VType → Bool
  | .i32 | .i16 | .i8 => true | _ => false

/-- Access size of a load (R85). -/
def LWidth.bytes : LWidth → Nat
  | .i8 | .n8 => 1 | .i16 | .n16 => 2 | .i32 | .n32 => 4 | .d64 => 8 | .q128 => 16

/-- Access size of a store (R85). -/
def SWidth.bytes : SWidth → Nat
  | .b8 => 1 | .b16 => 2 | .b32 => 4 | .b64 => 8 | .q128 => 16

/-- Access size of an atomic (R105). -/
def AWidth.bytes : AWidth → Nat
  | .w32 => 4 | .w64 => 8

end Sys2Proof
end

