-- ==== Sys2Proof/Machine/Float.lean ====
section
/-! DEFINITION. The number formats and the one rounding function (R19 to R36), the float operations of the scalar and
vector sets (R25, R96, R152, R153), the special functions (R154) and the S12 scale (R23). Every result is computed
exactly, as a ratio of natural numbers and a power of two, and rounded once. -/

namespace Sys2Proof.Machine

/-- The floating-point formats of R20. -/
inductive FF | fp64 | fp32 | fp16 | bf16 | e5m2 | e4m3 | e3m2 | e2m3 | e2m1
  deriving DecidableEq, Repr

/-- Exponent bits E (R20). -/
def FF.e : FF → Nat
  | .fp64 => 11 | .fp32 => 8 | .fp16 => 5 | .bf16 => 8 | .e5m2 => 5 | .e4m3 => 4 | .e3m2 => 3 | .e2m3 => 2 | .e2m1 => 2

/-- Mantissa bits M (R20). -/
def FF.m : FF → Nat
  | .fp64 => 52 | .fp32 => 23 | .fp16 => 10 | .bf16 => 7 | .e5m2 => 2 | .e4m3 => 3 | .e3m2 => 2 | .e2m3 => 3 | .e2m1 => 1

/-- Bias B (R20). -/
def FF.bias : FF → Nat
  | .fp64 => 1023 | .fp32 => 127 | .fp16 => 15 | .bf16 => 127 | .e5m2 => 15 | .e4m3 => 7 | .e3m2 => 3 | .e2m3 => 1 | .e2m1 => 1

/-- The format has infinities, and NaNs as e all ones, m ≠ 0 (R20). -/
def FF.hasInf : FF → Bool
  | .fp64 | .fp32 | .fp16 | .bf16 | .e5m2 => true
  | .e4m3 | .e3m2 | .e2m3 | .e2m1 => false

/-- Width in bits. -/
def FF.width (f : FF) : Nat := 1 + f.e + f.m

/-- The largest exponent field of a finite value, and the largest mantissa there (R20). -/
def FF.top (f : FF) : Nat × Nat :=
  if f.hasInf then (2 ^ f.e - 2, 2 ^ f.m - 1)
  else if f = .e4m3 then (15, 6) else (2 ^ f.e - 1, 2 ^ f.m - 1)

/-- Exception flags in FFLAGS order: NV, DZ, OF, UF, NX from bit 4 down (R38's map, R173). -/
abbrev Flags := BitVec 5

def flNV : Flags := 16
def flDZ : Flags := 8
def flOF : Flags := 4
def flUF : Flags := 2
def flNX : Flags := 1

/-- A result code and the flags raised. -/
structure FR where
  code : Nat
  fl : Flags
  deriving DecidableEq, Repr

/-- The value of an encoding: a NaN, an infinity, or (−1)^neg × num × 2^exp. -/
inductive FVal
  | nan (neg quiet : Bool) (payload : Nat)
  | inf (neg : Bool)
  | fin (neg : Bool) (num : Nat) (exp : Int)
  deriving DecidableEq, Repr

/-- Sign bit of a code. -/
def FF.neg (f : FF) (c : Nat) : Bool := bit c (f.e + f.m)

/-- Sign bit placed. -/
def FF.signBit (f : FF) (neg : Bool) : Nat := if neg then 2 ^ (f.e + f.m) else 0

/-- The value of a code (R19, R20, R21). -/
def FF.val (f : FF) (c : Nat) : FVal :=
  let neg := f.neg c
  let e := bits c (f.e + f.m - 1) f.m
  let m := bits c (f.m - 1) 0
  if f.hasInf && e == 2 ^ f.e - 1 then
    if m = 0 then .inf neg
    else .nan neg (bit m (f.m - 1)) (m % 2 ^ (f.m - 1))
  else if f = .e4m3 && e == 15 && m == 7 then .nan neg true 3
  else if e = 0 then .fin neg m (1 - (f.bias : Int) - f.m)
  else .fin neg (2 ^ f.m + m) ((e : Int) - f.bias - f.m)

/-- The code of an infinity (formats that have one). -/
def FF.infCode (f : FF) (neg : Bool) : Nat := f.signBit neg + (2 ^ f.e - 1) * 2 ^ f.m

/-- The code of the largest finite value (R20). -/
def FF.maxCode (f : FF) (neg : Bool) : Nat := f.signBit neg + f.top.1 * 2 ^ f.m + f.top.2

/-- The canonical quiet NaN, positive (R20); +0 in the formats without one, which no rule asks for. -/
def FF.qnan (f : FF) : Nat :=
  if f.hasInf then (2 ^ f.e - 1) * 2 ^ f.m + 2 ^ (f.m - 1) else if f = .e4m3 then 0x7F else 0

/-- A NaN in a format: quiet, sign and as much of the payload kept as the format holds (R26). -/
def FF.nanCode (f : FF) (neg : Bool) (payload srcBits : Nat) : FR :=
  if f.hasInf then
    let k := f.m - 1
    let p := if k ≥ srcBits then payload * 2 ^ (k - srcBits) else payload / 2 ^ (srcBits - k)
    ⟨f.signBit neg + (2 ^ f.e - 1) * 2 ^ f.m + 2 ^ (f.m - 1) + p % 2 ^ k, 0⟩
  else if f = .e4m3 then ⟨f.signBit neg + 0x7F, 0⟩
  else ⟨0, flNV⟩

/-- The payload bits of a format's NaNs (R21). -/
def FF.payloadBits (f : FF) : Nat := f.m - 1

/-- An overflow (R30). -/
def FF.overflow (f : FF) (neg : Bool) (mode : RMode) (sat : Bool) : FR :=
  let fl := flOF ||| flNX
  if sat then ⟨f.maxCode neg, fl⟩
  else if !f.hasInf && f ≠ .e4m3 then ⟨f.maxCode neg, fl⟩
  else if mode = .rtz || (mode = .rdn && !neg) || (mode = .rup && neg) then ⟨f.maxCode neg, fl⟩
  else if f.hasInf then ⟨f.infCode neg, fl⟩
  else ⟨f.signBit neg + 0x7F, fl⟩

/-- The round-up decision of R28 for a remainder r of a divisor den above an integer part n. -/
def roundUp (mode : RMode) (neg : Bool) (n r den draw : Nat) : Bool :=
  match mode with
  | .rne => decide (2 * r > den) || (decide (2 * r = den) && n % 2 == 1)
  | .rna => decide (2 * r ≥ den)
  | .rtz => false
  | .rup => decide (r > 0) && !neg
  | .rdn => decide (r > 0) && neg
  | .sr => decide (r * 2 ^ 16 / den + draw ≥ 2 ^ 16)

/-- floor(log2(num / den × 2^exp)) for positive num and den. -/
def floorLog2 (num den : Nat) (exp : Int) : Int :=
  let k : Int := (Nat.log2 num : Int) - Nat.log2 den
  let big : Bool := if k ≥ 0 then decide (num ≥ den * 2 ^ k.toNat) else decide (num * 2 ^ (-k).toNat ≥ den)
  (if big then k else k - 1) + exp

/-- The scaled ratio num × 2^sh / den as a quotient pair. -/
def scaled (num den : Nat) (sh : Int) : Nat × Nat :=
  if sh ≥ 0 then (num * 2 ^ sh.toNat, den) else (num, den * 2 ^ (-sh).toNat)

/-- round of R28 into a float format, for the value (−1)^neg × num / den × 2^exp, den positive. -/
def roundF (f : FF) (mode : RMode) (sat : Bool) (draw : Nat) (neg : Bool) (num den : Nat) (exp : Int) : FR :=
  if num = 0 then ⟨f.signBit neg, 0⟩
  else
    let l := floorLog2 num den exp
    let q : Int := (if l ≥ 1 - (f.bias : Int) then l else 1 - (f.bias : Int)) - f.m
    let (a, d) := scaled num den (exp - q)
    let n := a / d
    let r := a % d
    let n' := if roundUp mode neg n r d draw then n + 1 else n
    let fl : Flags := (if r > 0 then flNX else 0) |||
      (if r > 0 && decide (l < 1 - (f.bias : Int)) then flUF else 0)
    let (n', q) := if n' = 2 ^ (f.m + 1) then (2 ^ f.m, q + 1) else (n', q)
    if n' < 2 ^ f.m then ⟨f.signBit neg + n', fl⟩
    else
      let e := (q + f.m + f.bias).toNat
      let m := n' - 2 ^ f.m
      if e > f.top.1 || (e == f.top.1 && decide (m > f.top.2)) then
        let o := f.overflow neg mode sat
        ⟨o.code, o.fl ||| fl⟩
      else ⟨f.signBit neg + e * 2 ^ f.m + m, fl⟩

/-- The nearest end of an integer type's range, or the value (R32); the code is w bits. -/
def intRange (signed : Bool) (w : Nat) (neg : Bool) (m : Nat) (fl : Flags) : FR :=
  let v : Int := if neg then -(m : Int) else m
  let lo : Int := if signed then -(2 : Int) ^ (w - 1) else 0
  let hi : Int := if signed then (2 : Int) ^ (w - 1) - 1 else (2 : Int) ^ w - 1
  if v < lo then ⟨codeOf w lo, flNV⟩ else if v > hi then ⟨codeOf w hi, flNV⟩ else ⟨codeOf w v, fl⟩

/-- round of R28 into an integer type. -/
def roundI (signed : Bool) (w : Nat) (mode : RMode) (draw : Nat) (neg : Bool) (num den : Nat) (exp : Int) : FR :=
  let (a, d) := scaled num den exp
  let n := a / d
  let r := a % d
  let n' := if roundUp mode neg n r d draw then n + 1 else n
  intRange signed w neg n' (if r > 0 then flNX else 0)

/-! ## NaNs of the scalar and vector sets (R25) -/

/-- A value is a NaN, and whether it signals. -/
def FVal.isNan : FVal → Bool
  | .nan _ _ _ => true | _ => false

def FVal.signals : FVal → Bool
  | .nan _ false _ => true | _ => false

def FVal.isNeg : FVal → Bool
  | .nan n _ _ => n | .inf n => n | .fin n _ _ => n

def FVal.isZero : FVal → Bool
  | .fin _ 0 _ => true | _ => false

/-- NV when any operand signals. -/
def nvOf (xs : List FVal) : Flags := if xs.any FVal.signals then flNV else 0

/-- The first NaN made quiet, in its own format (R25 step 2). -/
def firstNan (f : FF) (xs : List FVal) : Option FR :=
  match xs.find? FVal.isNan with
  | some (.nan n _ p) => some ⟨(f.nanCode n p f.payloadBits).code, nvOf xs⟩
  | _ => none

/-- The canonical quiet NaN with NV (R25 step 3). -/
def invalid (f : FF) : FR := ⟨f.qnan, flNV⟩

/-! ## Exact sums and products -/

/-- A finite value as an integer multiple of 2^e, for e at most its exponent. -/
def atExp (neg : Bool) (num : Nat) (exp e : Int) : Int :=
  let v : Int := (num * 2 ^ (exp - e).toNat : Nat)
  if neg then -v else v

/-- The sign of an exact zero sum (R29). -/
def zeroSign (mode : RMode) (n1 n2 : Bool) : Bool := if n1 = n2 then n1 else decide (mode = .rdn)

/-- round of the exact sum of two finite values. -/
def sumF (f : FF) (mode : RMode) (draw : Nat) (n1 : Bool) (a1 : Nat) (e1 : Int) (n2 : Bool) (a2 : Nat) (e2 : Int) : FR :=
  let e := if e1 ≤ e2 then e1 else e2
  let v := atExp n1 a1 e1 e + atExp n2 a2 e2 e
  if v = 0 then ⟨f.signBit (zeroSign mode n1 n2), 0⟩
  else roundF f mode false draw (decide (v < 0)) v.natAbs 1 e

/-- A value with its sign inverted. -/
def FVal.negate : FVal → FVal
  | .nan n q p => .nan n q p | .inf n => .inf (!n) | .fin n a e => .fin (!n) a e

/-- a + b (R96, R152). -/
def fadd (f : FF) (mode : RMode) (draw : Nat) (a b : FVal) : FR :=
  match firstNan f [a, b] with
  | some r => r
  | none =>
    match a, b with
    | .inf n1, .inf n2 => if n1 = n2 then ⟨f.infCode n1, 0⟩ else invalid f
    | .inf n, _ => ⟨f.infCode n, 0⟩
    | _, .inf n => ⟨f.infCode n, 0⟩
    | .fin n1 a1 e1, .fin n2 a2 e2 => sumF f mode draw n1 a1 e1 n2 a2 e2
    | _, _ => invalid f

/-- a − b. -/
def fsub (f : FF) (mode : RMode) (draw : Nat) (a b : FVal) : FR := fadd f mode draw a b.negate

/-- a × b. -/
def fmul (f : FF) (mode : RMode) (draw : Nat) (a b : FVal) : FR :=
  match firstNan f [a, b] with
  | some r => r
  | none =>
    let n := a.isNeg != b.isNeg
    match a, b with
    | .fin _ a1 e1, .fin _ a2 e2 => roundF f mode false draw n (a1 * a2) 1 (e1 + e2)
    | x, y => if x.isZero || y.isZero then invalid f else ⟨f.infCode n, 0⟩

/-- a / b; a finite non-zero a over zero is an infinity with DZ. -/
def fdiv (f : FF) (mode : RMode) (draw : Nat) (a b : FVal) : FR :=
  match firstNan f [a, b] with
  | some r => r
  | none =>
    let n := a.isNeg != b.isNeg
    match a, b with
    | .inf _, .inf _ => invalid f
    | .inf _, _ => ⟨f.infCode n, 0⟩
    | _, .inf _ => ⟨f.signBit n, 0⟩
    | .fin _ a1 e1, .fin _ a2 e2 =>
      if a2 = 0 then (if a1 = 0 then invalid f else ⟨f.infCode n, flDZ⟩)
      else roundF f mode false draw n a1 a2 (e1 - e2)
    | _, _ => invalid f

/-- x × y + z with one rounding; `np` negates the product. 0 × ∞ is invalid whatever z (R25). DESIGN CHOICE (log entry 85): a NaN in z
alone gives that NaN made quiet, which R25 leaves open: its step 2 applies to a NaN multiplicand only. -/
def ffma (f : FF) (mode : RMode) (draw : Nat) (np : Bool) (x y z : FVal) : FR :=
  let bad := match x, y with
    | .inf _, .fin _ 0 _ => true
    | .fin _ 0 _, .inf _ => true
    | _, _ => false
  if bad then invalid f
  else
    match firstNan f [x, y, z] with
    | some r => r
    | none =>
      let n := (x.isNeg != y.isNeg) != np
      match x, y, z with
      | .fin _ a1 e1, .fin _ a2 e2, .fin n3 a3 e3 => sumF f mode draw n (a1 * a2) (e1 + e2) n3 a3 e3
      | .fin _ _ _, .fin _ _ _, z => ⟨f.infCode z.isNeg, 0⟩
      | _, _, .inf n3 => if n = n3 then ⟨f.infCode n, 0⟩ else invalid f
      | _, _, _ => ⟨f.infCode n, 0⟩

/-- Floor of the square root, bit by bit from bit k − 1 down. -/
def isqrtFrom : Nat → Nat → Nat → Nat
  | 0, _, r => r
  | k + 1, x, r => if (r + 2 ^ k) * (r + 2 ^ k) ≤ x then isqrtFrom k x (r + 2 ^ k) else isqrtFrom k x r

/-- Floor of the square root of x. -/
def isqrt (x : Nat) : Nat := isqrtFrom (Nat.log2 x / 2 + 1) x 0

/-- An irrational or exact root as a number with a last bit that stands for everything below: scaled by 2^80. -/
def rootSticky (x : Nat) : Nat :=
  let y := x * 2 ^ 256
  let r := isqrt y
  2 * r + (if r * r = y then 0 else 1)

/-- √a. -/
def fsqrt (f : FF) (mode : RMode) (draw : Nat) (a : FVal) : FR :=
  match firstNan f [a] with
  | some r => r
  | none =>
    match a with
    | .inf n => if n then invalid f else ⟨f.infCode false, 0⟩
    | .fin n a1 e1 =>
      if a1 = 0 then ⟨f.signBit n, 0⟩
      else if n then invalid f
      else
        let (a2, e2) := if e1 % 2 = 0 then (a1, e1) else (2 * a1, e1 - 1)
        roundF f mode false draw false (rootSticky a2) 1 (e2 / 2 - 129)
    | _ => invalid f

/-- Order of two non-NaN values. -/
def fcmpVal (a b : FVal) : Ordering :=
  let key : FVal → Int × Int × Nat := fun v => match v with
    | .inf n => (if n then -1 else 1, 0, 0)
    | .fin n a e => (0, (if n then -(a : Int) else a), e.toNat)
    | .nan _ _ _ => (0, 0, 0)
  match a, b with
  | .fin n1 a1 e1, .fin n2 a2 e2 =>
    let e := if e1 ≤ e2 then e1 else e2
    compare (atExp n1 a1 e1 e) (atExp n2 a2 e2 e)
  | a, b => compare (key a).1 (key b).1

/-- a < b, a = b, a > b, unordered as four bits, and NV for a signaling NaN (R96 FCMP, R155). -/
def fcompare (a b : FVal) : Nat × Flags :=
  if a.isNan || b.isNan then (8, nvOf [a, b])
  else match fcmpVal a b with
    | .lt => (1, 0) | .eq => (2, 0) | .gt => (4, 0)

/-- minimumNumber and maximumNumber: a number beats a NaN, −0 orders below +0 (R25). -/
def fminmax (f : FF) (isMax : Bool) (ca cb : Nat) : FR :=
  let a := f.val ca
  let b := f.val cb
  let fl := nvOf [a, b]
  if a.isNan && b.isNan then (firstNan f [a, b]).getD ⟨f.qnan, fl⟩
  else if a.isNan then ⟨cb, fl⟩
  else if b.isNan then ⟨ca, fl⟩
  else
    match fcmpVal a b with
    | .lt => ⟨if isMax then cb else ca, 0⟩
    | .gt => ⟨if isMax then ca else cb, 0⟩
    | .eq => if a.isNeg != b.isNeg then ⟨if a.isNeg != isMax then ca else cb, 0⟩ else ⟨ca, 0⟩

/-! ## Conversions (R35, R26) -/

/-- A source or destination of a conversion. -/
inductive NumTy
  | flt (f : FF)
  | int (signed : Bool) (w : Nat)
  deriving DecidableEq, Repr

/-- Convert a code by R35 and R36. -/
def convert (src dst : NumTy) (mode : RMode) (sat : Bool) (draw : Nat) (c : Nat) : FR :=
  match src, dst with
  | .flt f, .flt g =>
    match f.val c with
    | .nan n q p =>
      let r := g.nanCode n p f.payloadBits
      ⟨r.code, r.fl ||| (if q then 0 else flNV)⟩
    | .inf n =>
      if g.hasInf then ⟨if sat then g.maxCode n else g.infCode n, 0⟩
      else if g = .e4m3 then ⟨if sat then g.maxCode n else g.signBit n + 0x7F, flNV⟩
      else ⟨g.maxCode n, flNV⟩
    | .fin n a e => roundF g mode sat draw n a 1 e
  | .flt f, .int s w =>
    match f.val c with
    | .nan _ _ _ => ⟨0, flNV⟩
    | .inf n => intRange s w n (2 ^ (w + 1)) 0
    | .fin n a e => roundI s w mode draw n a 1 e
  | .int s w, .flt g =>
    let v : Int := if s then sext c w else (c % 2 ^ w : Nat)
    if v = 0 then ⟨0, 0⟩ else roundF g mode sat draw (decide (v < 0)) v.natAbs 1 0
  | .int s w, .int s2 w2 =>
    let v : Int := if s then sext c w else (c % 2 ^ w : Nat)
    let lo : Int := if s2 then -(2 : Int) ^ (w2 - 1) else 0
    let hi : Int := if s2 then (2 : Int) ^ (w2 - 1) - 1 else (2 : Int) ^ w2 - 1
    if sat then ⟨codeOf w2 (if v < lo then lo else if v > hi then hi else v), 0⟩ else ⟨codeOf w2 v, 0⟩

/-- The number type of a lane type (R49). -/
def numTy : VType → NumTy
  | .f32 => .flt .fp32 | .f16 => .flt .fp16 | .bf16 => .flt .bf16 | .f64 => .flt .fp64
  | .i32 => .int true 32 | .i16 => .int true 16 | .i8 => .int true 8
  | .n32 => .int false 32 | .n16 => .int false 16 | .n8 => .int false 8

/-- The float format of a scalar instruction (R96). -/
def ffOf : FFmt → FF
  | .f32 => .fp32 | .f64 => .fp64

/-- FCLASS (R96): one bit of ten. -/
def fclass (f : FF) (c : Nat) : Nat :=
  match f.val c with
  | .inf n => if n then 1 else 128
  | .nan _ q _ => if q then 512 else 256
  | .fin n a _ =>
    if a = 0 then (if n then 8 else 16)
    else if bits c (f.e + f.m - 1) f.m = 0 then (if n then 4 else 32)
    else (if n then 2 else 64)

/-! ## Special functions (R154), f32 only -/

/-- floor(ln 2 × 2^320). -/
def ln2Scaled : Nat := 0xb17217f7d1cf79abc9e3b39803f2f6af40f343267298b62d8a0d175b8baafa2be7b876206debac98

/-- Taylor terms of exp in units of 2^−320: the sum from term t = y^k / k! on. -/
def expTerms : Nat → Nat → Nat → Nat → Nat → Nat
  | 0, _, _, _, acc => acc
  | n + 1, k, y, t, acc =>
    let t' := t * y / 2 ^ 320 / (k + 1)
    expTerms n (k + 1) y t' (acc + t')

/-- 2^(fr / 2^320) in units of 2^−320, for 0 ≤ fr < 2^320, truncated. -/
def exp2Frac (fr : Nat) : Nat := expTerms 70 0 (fr * ln2Scaled / 2 ^ 320) (2 ^ 320) (2 ^ 320)

/-- VEXP2 of one code (R154). The fraction is taken to 320 bits: below that, RNE of a result near 1 does not change. -/
def vexp2 (c : Nat) : FR :=
  match FF.fp32.val c with
  | .nan n q p => ⟨(FF.fp32.nanCode n p 22).code, if q then 0 else flNV⟩
  | .inf n => ⟨if n then 0 else FF.fp32.infCode false, 0⟩
  | .fin n a e =>
    let v : Int := if n then -(a : Int) else a
    -- x = v × 2^e; integer part and 320-bit fraction
    let x320 : Int := if e ≥ -320 then v * 2 ^ (e + 320).toNat else v / 2 ^ (-(e + 320)).toNat
    if x320 ≥ 128 * 2 ^ 320 then ⟨FF.fp32.infCode false, flOF⟩
    else if x320 < -149 * 2 ^ 320 then ⟨0, 0⟩
    else
      let ip := x320 / 2 ^ 320
      let fr := (x320 % 2 ^ 320).toNat
      let num := if fr = 0 then 2 * 2 ^ 320 else 2 * exp2Frac fr + 1
      let mode : RMode := if x320 ≥ -126 * 2 ^ 320 then .rne else .rtz
      ⟨(roundF .fp32 mode false 0 false num 1 (ip - 321)).code, 0⟩

/-- Bits of log2 of a mantissa y in [1, 2) held in units of 2^−400, most significant first. -/
def log2Bits : Nat → Nat → Nat → Nat
  | 0, _, acc => acc
  | n + 1, y, acc =>
    let y2 := y * y / 2 ^ 400
    if y2 ≥ 2 * 2 ^ 400 then log2Bits n (y2 / 2) (2 * acc + 1) else log2Bits n y2 (2 * acc)

/-- VLOG2 of one code (R154). -/
def vlog2 (c : Nat) : FR :=
  match FF.fp32.val c with
  | .nan n q p => ⟨(FF.fp32.nanCode n p 22).code, if q then 0 else flNV⟩
  | .inf n => if n then invalid .fp32 else ⟨FF.fp32.infCode false, 0⟩
  | .fin n a e =>
    if a = 0 then ⟨FF.fp32.infCode true, flDZ⟩
    else if n then invalid .fp32
    else
      let k := Nat.log2 a
      let ip : Int := e + k
      if a = 2 ^ k then ⟨(roundF .fp32 .rne false 0 (decide (ip < 0)) ip.natAbs 1 0).code, 0⟩
      else
        let fr := log2Bits 128 (a * 2 ^ (400 - k)) 0
        let t : Int := ip * 2 ^ 128 + fr
        let num : Nat := if t ≥ 0 then 2 * t.toNat + 1 else 2 * ((-t).toNat - 1) + 1
        ⟨(roundF .fp32 .rne false 0 (decide (t < 0)) num 1 (-129)).code, 0⟩

/-- VRCP of one code (R154). -/
def vrcp (c : Nat) : FR :=
  match FF.fp32.val c with
  | .nan n q p => ⟨(FF.fp32.nanCode n p 22).code, if q then 0 else flNV⟩
  | .inf n => ⟨FF.fp32.signBit n, 0⟩
  | .fin n a e =>
    if a = 0 then ⟨FF.fp32.infCode n, flDZ⟩
    else
      let r := roundF .fp32 .rne false 0 n 1 a (-e)
      ⟨r.code, r.fl &&& flOF⟩

/-- VRSQ of one code (R154). -/
def vrsq (c : Nat) : FR :=
  match FF.fp32.val c with
  | .nan n q p => ⟨(FF.fp32.nanCode n p 22).code, if q then 0 else flNV⟩
  | .inf n => if n then invalid .fp32 else ⟨0, 0⟩
  | .fin n a e =>
    if a = 0 then ⟨FF.fp32.infCode n, flDZ⟩
    else if n then invalid .fp32
    else
      -- 1/√(a × 2^e) with an even exponent: √(2^512 / a') × 2^(−256 − e'/2)
      let (a2, e2) := if e % 2 = 0 then (a, e) else (2 * a, e - 1)
      let y := 2 ^ 512 / a2
      let r := isqrt y
      let exact := decide (r * r * a2 = 2 ^ 512)
      ⟨(roundF .fp32 .rne false 0 false (2 * r + (if exact then 0 else 1)) 1 (-257 - e2 / 2)).code, 0⟩

/-! ## The S12 block scale (R23) -/

/-- The value of an S12 code: none is a NaN; otherwise num × 2^exp. -/
def s12 (c : Nat) : Option (Nat × Int) :=
  let e := bits c 11 4
  let m := bits c 3 0
  if e = 0 then some (0, 0) else if e = 255 then none else some (16 + m, (e : Int) - 131)

end Sys2Proof.Machine
end

