-- ==== Sys2Proof/Machine/Memory.lean ====
section
/-! DEFINITION. Memory by key: every byte the device or its ports reach has one key, whatever window names it (R12,
R280, R285); reads and writes with capability tags, poison marks, error correction, check values and triggers (R78,
R218, R298, R299, R373, R383). Time, tiles and contexts, as far as memory needs them. -/

namespace Sys2Proof.Machine

/-! ## Keys -/

/-- Key of a TCM byte, by logical core name (R204, R289). -/
def tcmKey (core off : Nat) : Nat := core * 0x20000 + off
/-- Key of a scratchpad byte, by logical tile id. -/
def spadKey (tile off : Nat) : Nat := 2 ^ 37 + tile * 0x200000 + off
/-- Key of a device address (R285). -/
def devKey (a : Nat) : Nat := 2 ^ 38 + a
/-- Key of a host bus address behind a port (R236). -/
def hostKey (port a : Nat) : Nat := 2 ^ 42 + port * 2 ^ 64 + a
/-- Key of a byte of a peer wafer's tile window (R343). -/
def peerKey (w tile off : Nat) : Nat := 2 ^ 70 + (w * 2 ^ 16 + tile) * 2 ^ 24 + off

/-- Where a location is served (R301). -/
inductive Home | tile (t : Nat) | die (d : Nat) | hbm (stack : Nat) | host (port : Nat) | peer (w t : Nat)
  deriving DecidableEq, Repr

/-- First device address of die SRAM, and the end of device memory (R285). -/
def sramBase : Nat := 0x18000000000
def devEnd : Nat := 0x18200000000

/-- The home of a key (R301). -/
def homeOf (k : Nat) : Home :=
  if k < 2 ^ 37 then .tile (k / 2 ^ 21)
  else if k < 2 ^ 38 then .tile ((k - 2 ^ 37) / 2 ^ 21)
  else if k < 2 ^ 42 then
    let a := k - 2 ^ 38
    if a < sramBase then .hbm (a / 4096 % 24) else .die ((a - sramBase) / 0x8000000)
  else if k < 2 ^ 70 then .host ((k - 2 ^ 42) / 2 ^ 64)
  else .peer ((k - 2 ^ 70) / 2 ^ 40) ((k - 2 ^ 70) / 2 ^ 24 % 2 ^ 16)

/-- A number for a destination of channel 0 (R304). -/
def Home.code : Home → Nat
  | .tile t => t
  | .die d => 0x10000 + d
  | .hbm s => 0x10100 + s
  | .host p => 0x10200 + p
  | .peer w t => 0x20000 + w * 2 ^ 16 + t

/-- A drift-log area of device memory (R285). -/
def inDriftLog (a : Nat) : Bool := decide (sramBase ≤ a ∧ a < devEnd ∧ (a - sramBase) % 0x8000000 ≥ 0x7000000)

/-- Device memory that a program or host may reach (R285). -/
def devOk (a : Nat) : Bool := decide (a < devEnd) && !inDriftLog a

/-! ## Bytes, tags and marks -/

/-- The byte at a key; memory that nothing has written reads zero (R404 step 6; log entry 3). -/
def Mem.byte (m : Mem) (k : Nat) : Byte := aget 0 m.bytes k

/-- n bytes from a key upward. -/
def Mem.read (m : Mem) : Nat → Nat → List Byte
  | _, 0 => []
  | k, n + 1 => m.byte k :: m.read (k + 1) n

/-- n bytes as a little-endian value (R12). -/
def Mem.nat (m : Mem) (k n : Nat) : Nat := leNat (m.read k n)

/-- Write bytes into the canonical list. -/
def putBytes : List Host.Cell → Nat → List Byte → List Host.Cell
  | l, _, [] => l
  | l, k, b :: bs => putBytes (aput 0 l k b) (k + 1) bs

/-- Keys of the aligned 8-byte words that n bytes from k touch; n at most 8 × fuel. -/
def wordsIn (k n : Nat) : List Nat :=
  if n = 0 then [] else (List.range ((k + n - 1) / 8 + 1 - k / 8)).map fun j => (k / 8 + j) * 8

/-- Keys of the 16-byte granules touched. -/
def granulesIn (k n : Nat) : List Nat :=
  if n = 0 then [] else (List.range ((k + n - 1) / 16 + 1 - k / 16)).map fun j => (k / 16 + j) * 16

/-- Keys of the 64-byte lines touched. -/
def linesIn (k n : Nat) : List Nat :=
  if n = 0 then [] else (List.range ((k + n - 1) / 64 + 1 - k / 64)).map fun j => (k / 64 + j) * 64

/-- Some word read carries the poison mark (R87). -/
def Mem.marked (m : Mem) (k n : Nat) : Bool := (wordsIn k n).any (nmem m.marks)

/-- The capability tag of the granule that holds a key (R78). -/
def Mem.tagged (m : Mem) (k : Nat) : Bool := nmem m.tags (k / 16 * 16)

/-- A word is covered whole by a write of n bytes at k. -/
def whole (k n w : Nat) : Bool := decide (k ≤ w ∧ w + 8 ≤ k + n)

/-- The marks after a write: set on every word when the data is poisoned, cleared on words written whole, kept, and
set for a word that holds an uncorrectable error, on words written in part (R78, R298). -/
def marksAfter (m : Mem) (k n : Nat) (mark : Bool) : List Nat :=
  (wordsIn k n).foldl (fun ms w =>
    if mark then nadd ms w
    else if whole k n w then ndel ms w
    else if nmem m.bad w then nadd ms w else ms) m.marks

/-- The tags after a write (R78). -/
def tagsAfter (m : Mem) (k n : Nat) (setTag : Bool) : List Nat :=
  (granulesIn k n).foldl (fun ts g => if setTag then nadd ts g else ndel ts g) m.tags

/-- A write at its home: bytes, tags, marks; errors and check mismatches of what it covers are gone (R298, R373). -/
def Mem.write (m : Mem) (k : Nat) (bs : List Byte) (setTag mark : Bool) : Mem :=
  { bytes := putBytes m.bytes k bs
    tags := tagsAfter m k bs.length setTag
    marks := marksAfter m k bs.length mark
    bad := (wordsIn k bs.length).foldl ndel m.bad
    soft := (wordsIn k bs.length).foldl ndel m.soft
    badCheck := m.badCheck.filter fun c => !(linesIn k bs.length).elem c.1 }

/-- Keys strictly rising. -/
def rising : List Nat → Bool
  | [] => true
  | [_] => true
  | a :: b :: l => decide (a < b) && rising (b :: l)

/-- The canonical form: every list of keys strictly rising, and no byte listed with the value an unlisted one reads as. -/
def Memory.wf (m : Mem) : Bool :=
  rising (m.bytes.map Prod.fst) && m.bytes.all (fun c => c.2 != 0) && rising m.tags && rising m.marks && rising m.bad &&
    rising m.soft && rising (m.badCheck.map Prod.fst)

/-! ## Time, contexts, tiles -/

/-- DTIME (R10). -/
def State.dtime (s : State) : Nat := s.clk / 33

/-- Cycles since power-on (R9). -/
def State.cycle (s : State) : Nat := s.clk / 10

/-- Every context of the device, the acting core's first. -/
def State.ctxs (s : State) : List Ctx := s.cpu :: s.others

/-- Apply a function to every context. -/
def State.mapCtx (s : State) (f : Ctx → Ctx) : State := { s with cpu := f s.cpu, others := s.others.map f }

/-- Change the acting context. -/
def State.modCpu (s : State) (f : Ctx → Ctx) : State := { s with cpu := f s.cpu }

/-- Whether a context is the launch's context on a core. -/
def Ctx.is (c : Ctx) (core launch : Nat) : Bool := c.core == core && c.launch == some launch

/-- The launch's context on a core. -/
def State.ctxOf (s : State) (core launch : Nat) : Option Ctx := s.ctxs.find? fun c => c.is core launch

/-- Change the launch's context on a core. -/
def State.updCtx (s : State) (core launch : Nat) (f : Ctx → Ctx) : State :=
  s.mapCtx fun c => if c.is core launch then f c else c

/-- State of a core; a core not listed is as reset leaves it. -/
def State.core (s : State) (name : Nat) : CoreSt := aget CoreSt.reset s.cores name

/-- Change the state of a core. -/
def State.updCore (s : State) (name : Nat) (f : CoreSt → CoreSt) : State :=
  { s with cores := aput CoreSt.reset s.cores name (f (s.core name)) }

/-- Rectangle number, row and column offset of a tile id (R289). -/
def tileRect (t : Nat) : Nat := t / 1024
def tileRow (t : Nat) : Nat := t / 32 % 32
def tileCol (t : Nat) : Nat := t % 32

/-- The rectangle of a tile id, when the id is enumerated (R289). -/
def State.rectOf (s : State) (t : Nat) : Option Rect :=
  if t < 2 ^ 16 then
    match s.fabric.rects[tileRect t]? with
    | some r => if tileRow t < r.rows && tileCol t < r.cols then some r else none
    | none => none
  else none

/-- An enumerated tile id (R289). -/
def State.enumerated (s : State) (t : Nat) : Bool := (s.rectOf t).isSome

/-- Service position (row, column) of a tile id (R288); of an id without rectangle, as in rectangle 0. -/
def State.posOf (s : State) (t : Nat) : Nat × Nat :=
  match s.rectOf t with
  | some r => (r.row + tileRow t, r.col + tileCol t)
  | none => (tileRow t, tileCol t)

/-- PHYS of a service position's own tile (R290). -/
def physAt (row col : Nat) : Nat := row / 4 * 512 + col / 4 * 64 + row % 4 * 16 + col % 4

/-- Die number 8 × die row + die column of a PHYS. -/
def physDie (p : Nat) : Nat := p / 512 % 8 * 8 + p / 64 % 8

/-- PHYS of the tile at the same place on die d XOR 1 (R378). -/
def buddyPhys (p : Nat) : Nat := if p / 64 % 2 = 0 then p + 64 else p - 64

/-- A tile as boot leaves it (R288, R378, R385). -/
def State.freshTile (s : State) (t : Nat) : TileSt :=
  let (r, c) := s.posOf t
  { phys := physAt r c, cls := 0, shared := false, buddy := buddyPhys (physAt r c), safe := true, st := .run,
    watchdog := 0, lastWatch := none, byWatch := false, since := 0, endDue := false, dirty := [], dets := [], detSeq := 0,
    detAck := 0, episode := none, owed := [], lockQ := [],
    committed := none, committing := none, fenced := none, chosen := none, full := false, oldStore := none, seeks := false, dueSince := none,
    tlb := [] }

/-- State of a logical tile. -/
def State.tile (s : State) (t : Nat) : TileSt := (afind s.tiles t).getD (s.freshTile t)

/-- Change the state of a logical tile. -/
def State.updTile (s : State) (t : Nat) (f : TileSt → TileSt) : State :=
  { s with tiles := ains s.tiles t (f (s.tile t)) }

/-- The die of a tile's logical position (R300). -/
def State.dieOf (s : State) (t : Nat) : Nat :=
  let (r, c) := s.posOf t
  physDie (physAt r c)

/-! ## Logical and physical tiles (R289, R290, R397) -/

/-- Tile id of a service position (R289). -/
def State.idAt (s : State) (row col : Nat) : Option Nat :=
  ((List.range s.fabric.rects.length).zip s.fabric.rects).findSome? fun (k, r) =>
    if decide (r.row ≤ row ∧ row < r.row + r.rows ∧ r.col ≤ col ∧ col < r.col + r.cols) then
      some (k * 1024 + (row - r.row) * 32 + (col - r.col)) else none

/-- Tile id of the service position whose own tile a PHYS names. -/
def State.ownId (s : State) (p : Nat) : Option Nat :=
  if p % 16 < 4 then s.idAt (p / 512 * 4 + p / 16 % 4) (p / 64 % 8 * 4 + p % 16) else none

/-- The logical tile in service on a physical tile, its guest apart. -/
def State.boundAt (s : State) (p : Nat) : Option Nat :=
  match s.tiles.find? fun t => t.2.phys == p && t.2.st != .lost && !t.2.shared with
  | some t => some t.1
  | none => (s.ownId p).filter fun i => (afind s.tiles i).isNone

/-- The guest of a physical tile (R397). -/
def State.guestAt (s : State) (p : Nat) : Option Nat :=
  (s.tiles.find? fun t => t.2.phys == p && t.2.st != .lost && t.2.shared).map (·.1)

/-- The logical tiles of a physical tile: the one in service there, and its guest (R397). -/
def State.onPhys (s : State) (p : Nat) : List Nat := (s.boundAt p).toList ++ (s.guestAt p).toList

/-- A tile's flip no longer waits (R398). -/
def State.dropFlip (s : State) (t : Nat) : State :=
  { s with fabric := { s.fabric with flips := s.fabric.flips.filter fun i => i != t } }

/-- Tiles whose recovery has reserved a physical tile as their host (R394, R397). -/
def State.movingTo (s : State) (p : Nat) : List Nat :=
  (s.tiles.filter fun t => match t.2.chosen with
    | some c => c.1 == p && c.2.2
    | none => false).map (·.1)

/-- A logical tile enters recovery with its physical tile (R394): one that migrates has not flipped and recovers where it was (R403); a
guest that is being rebuilt there, or is to be, starts again. -/
def State.fenceOne (s : State) (p t : Nat) : State :=
  let x := s.tile t
  let again := (s.dropFlip t).updTile t fun x => { x with st := .fence, chosen := none }
  match x.st with
  | .run | .migrate => again
  | .replay | .resume => if x.shared then again else s
  | .restore | .flip => if x.phys = p then s else again
  | .fence | .choose | .lost => s

/-- Detection: the physical tile of a logical one fails, and every logical tile that runs there enters recovery (R394, R397). -/
def State.detect (s : State) (t : Nat) : State :=
  let p := (s.tile t).phys
  ((t :: s.onPhys p ++ s.movingTo p).eraseDups).foldl (fun s u => s.fenceOne p u) s

/-- A logical tile's physical tile is fenced for a recovery, or stands still for a migration: its own, or that of the tile with which it
shares the physical tile (R395, R403). -/
def State.refusing (s : State) (t : Nat) : Bool :=
  let x := s.tile t
  match x.st with
  | .run => (x.shared || (s.guestAt x.phys).isSome) && (s.onPhys x.phys).any fun u => match (s.tile u).st with
      | .fence | .choose | .restore | .flip => true
      | .run | .replay | .resume | .lost | .migrate => false
  | .lost => false
  | .fence | .choose | .restore | .flip | .replay | .resume | .migrate => true

/-! ## Guest memory (R397) -/

/-- A guest's memory lies in the SRAM of its host's die from offset 0x7C0_0000 (R397). DESIGN CHOICE (log entry 121): its TCMs by core, and
behind them its scratchpad. -/
def guestBase (die : Nat) : Nat := sramBase + die * 0x8000000 + 0x7C00000

/-- The device address of a byte of a tile that is a guest; none for any other byte. -/
def State.guestAddr (s : State) (k : Nat) : Option Nat :=
  match homeOf k with
  | .tile t =>
    if (s.tile t).shared then
      some (guestBase (physDie (s.tile t).phys) + (if k < 2 ^ 37 then k % 0x200000 else 0x200000 + k % 0x200000))
    else none
  | .die _ | .hbm _ | .host _ | .peer _ _ => none

/-- The key of the byte of memory that a device address holds: a guest's in the guest area of its host's die. -/
def State.guestKey (s : State) (k : Nat) : Nat :=
  let o := (k - 2 ^ 38 - sramBase) % 0x8000000
  match homeOf k with
  | .die d =>
    if o < 0x7C00000 then k
    else match s.tiles.find? fun t => t.2.shared && t.2.st != .lost && physDie t.2.phys == d with
      | some t =>
        let x := o - 0x7C00000
        if x < 0x200000 then t.1 * 0x200000 + x else spadKey t.1 (x - 0x200000)
      | none => k
  | .tile _ | .hbm _ | .host _ | .peer _ _ => k

/-! ## Health (R299, R412) -/

/-- Add to a health counter, saturating (R412). -/
def State.count (s : State) (i : Nat) (n : Nat := 1) : State :=
  { s with dev := { s.dev with health := vset s.dev.health i (Nat.min (vget 0 s.dev.health i + n) (2 ^ 64 - 1)) } }

/-- The die whose health log keeps a record about a key (R299): that of the tile, the die SRAM, or die 0 for HBM, whose
stacks the spec gives no die (log entry 16). -/
def State.dieOfKey (s : State) (k : Nat) : Nat :=
  match homeOf k with
  | .tile t => physDie (s.tile t).phys
  | .die d => d
  | _ => 0

/-- The memory code of a health record, byte 2 of R299; a guest's memory is die SRAM (R397). -/
def State.memCode (s : State) (k : Nat) : Nat :=
  if (s.guestAddr k).isSome then 3
  else if k < 2 ^ 37 then 0 else if k < 2 ^ 38 then 1 else if k - 2 ^ 38 < sramBase then 4 else 3

/-- Bytes 8 to 15 of a memory record (R299). -/
def State.recAddr (s : State) (k : Nat) : Nat :=
  match s.guestAddr k, homeOf k with
  | some a, _ => a
  | none, .tile t => (s.tile t).phys * 2 ^ 52 + (if k < 2 ^ 37 then k % 0x20000 else k % 2 ^ 21)
  | none, _ => k - 2 ^ 38

/-- A memory error record in a die's health log (R299): its code, memory, core name and address. -/
def State.errorRecord (s : State) (code mem by_ addr die : Nat) : State :=
  let rec_ : List Byte := [0x10, BitVec.ofNat 8 code, BitVec.ofNat 8 mem, 0] ++ leBytes 4 by_ ++
    leBytes 8 addr ++ leBytes 8 s.dtime ++ zeros 8
  { s with dev := { s.dev with log := (die, BitVec.ofNat 256 (leNat rec_)) :: s.dev.log } }.count 10

/-- The record of an error met at a key (R298, R299); `by_` is the core name of bytes 4 to 7. Host and peer memory is not the
device's, and has no record. -/
def State.memRecord (s : State) (code k by_ : Nat) : State :=
  if 2 ^ 42 ≤ k then s else s.errorRecord code (s.memCode k) by_ (s.recAddr k) (s.dieOfKey k)

/-- Name in a record for an access of no core (R299). -/
def noName : Nat := 0xFFFFFFFF

/-- Record an event of a physical unit and say whether it makes the unit lasting: less than 10^9 ticks after the
second-last event recorded before it (R371). -/
def State.unitEvent (s : State) (u : Nat) : Bool × State :=
  let old := (afind s.fabric.units u).getD []
  let lasting := match old with
    | _ :: b :: _ => decide (s.dtime < b + 1000000000)
    | _ => false
  (lasting, { s with fabric := { s.fabric with units := ains s.fabric.units u ((s.dtime :: old).take 2) } })

/-- Unit codes of R371: core 0, ME 1, CE 2, CA 3, TCM 4 of a physical core; router 5 and scratchpad bank 8 + b of a
physical tile. -/
def coreUnit (phys core kind : Nat) : Nat := (phys * 16 + core % 16) * 64 + kind
def tileUnit (phys kind : Nat) : Nat := phys * 16 * 64 + kind

/-- The unit an uncorrectable word counts against: its TCM or its scratchpad bank, which hold no guest's words (R371, R397). -/
def State.wordUnit (s : State) (w : Nat) : Option Nat :=
  match homeOf w with
  | .tile t =>
    if (s.tile t).shared then none
    else if w < 2 ^ 37 then some (coreUnit (s.tile t).phys (w / 0x20000) 4)
    else some (tileUnit (s.tile t).phys (8 + w / 8 % 32))
  | _ => none

/-- An uncorrectable word counts against its unit; a lasting unit sends the tile into recovery and marks its physical
tile as lost (R371, R372). -/
def State.uncorrectable (s : State) (w : Nat) : State :=
  match s.wordUnit w, homeOf w with
  | some u, .tile t =>
    let (lasting, s) := s.unitEvent u
    if lasting then (({ s with fabric := { s.fabric with lost := nadd s.fabric.lost (s.tile t).phys } } : State).detect t) else s
  | _, _ => s

/-- What a read meets (R298): an uncorrectable error sets the mark, a correctable one is written back corrected. -/
def State.meetRead (s : State) (k n by_ : Nat) : State :=
  (wordsIn k n).foldl (fun s w =>
    if nmem s.mem.bad w then
      (({ s with mem := { s.mem with bad := ndel s.mem.bad w, marks := nadd s.mem.marks w } } : State).memRecord 2 w
        by_).uncorrectable w
    else if nmem s.mem.soft w then
      ({ s with mem := { s.mem with soft := ndel s.mem.soft w } } : State).memRecord 1 w by_
    else s) s

/-- What a write meets (R298): records for words written in part. -/
def State.meetWrite (s : State) (k n by_ : Nat) : State :=
  (wordsIn k n).foldl (fun s w =>
    if whole k n w then s
    else if nmem s.mem.bad w then (s.memRecord 3 w by_).uncorrectable w
    else if nmem s.mem.marks w then (s.memRecord 3 w by_).uncorrectable w
    else if nmem s.mem.soft w then s.memRecord 1 w by_
    else s) s

/-! ## Determinants (R389 to R391) -/

/-- Bytes of a determinant (R390). -/
def Det.size : Det → Nat
  | .value _ bs => 8 + (bs.length + 7) / 8 * 8
  | .episode _ _ | .arrival _ _ | .switch _ _ _ _ => 8

/-- Bytes of the interval's determinant area (R390). -/
def TileSt.detBytes (x : TileSt) : Nat := (x.dets.map Det.size).sum

/-- The buddy has not acknowledged every determinant of the tile: nothing leaves it (R391). -/
def State.detsOpen (s : State) (t : Nat) : Bool := decide ((s.tile t).detAck < (s.tile t).detSeq)

/-- A determinant is recorded (R390). -/
def State.noteDet (s : State) (t : Nat) (d : Det) : State :=
  s.updTile t fun x => { x with dets := d :: x.dets, detSeq := x.detSeq + 1 }

/-- The buddy acknowledges what it was sent (R391). -/
def State.ackDets (s : State) (t : Nat) : State :=
  if s.detsOpen t then s.updTile t fun x => { x with detAck := x.detSeq } else s

/-- The open episode of a tile ends (R389). -/
def State.closeEpisode (s : State) (t : Nat) : State :=
  match (s.tile t).episode with
  | some (a, n) => (s.noteDet t (.episode a n)).updTile t fun x => { x with episode := none }
  | none => s

/-- A step of an agent of a tile (R389). The tile keeps one episode open, and ends it when another agent moves: more often
than conflicts ask for, which the rule leaves to the tile (log entry 77). -/
def State.noteStep (s : State) (t agent : Nat) : State :=
  match (s.tile t).episode with
  | some (a, n) =>
    if a = agent then s.updTile t fun x => { x with episode := some (a, n + 1) }
    else (s.closeEpisode t).updTile t fun x => { x with episode := some (agent, 1) }
  | none => s.updTile t fun x => { x with episode := some (agent, 1) }

/-- A core's switch: it stops, dispatches, parks or wakes a context, enters a handler, or takes an interrupt or one of the
causes 0x0E and 0x0F (R390). The context is named by its launch; the event codes are the model's (log entry 77). -/
def State.noteSwitch (s : State) (core event ctx : Nat) : State :=
  let n := match (s.tile (core / 16)).episode with
    | some (a, n) => if a = core % 16 then n else 0
    | none => 0
  s.noteDet (core / 16) (.switch core n event ctx)

/-! ## Writes performed at their home -/

/-- An armed entry fires when the word it watches equals its threshold (R218). -/
def TrigSt.watch (m : Mem) (words : List Nat) : TrigSt → TrigSt
  | .armed k thr t => if words.elem k && m.nat k 8 == thr.toNat then .firing t else .armed k thr t
  | x => x

/-- Compare every armed entry with the words just written (R218). -/
def fireTriggers (m : Mem) (words : List Nat) (c : Ctx) : Ctx :=
  { c with task := { c.task with trig := c.task.trig.map (TrigSt.watch m words) } }

/-- Lines of a tile's memory written in the interval (R383). -/
def State.markDirty (s : State) (k n : Nat) : State :=
  if n = 0 then s else
  match homeOf k with
  | .tile t => s.updTile t fun x => { x with dirty := (linesIn k n).foldl nadd x.dirty }
  | _ => s

/-- Every line of a range of a tile's memory is written in the interval (R383). -/
def State.markRange (s : State) (t k n : Nat) : State :=
  let ls := linesIn k n
  s.updTile t fun x => { x with
    dirty := (x.dirty.filter fun l => decide (l + 64 ≤ k)) ++ ls ++ x.dirty.filter fun l => decide (k + n ≤ l) }

/-- A write performed at its home, with everything that follows it there: errors met, dirty lines and triggers. -/
def State.writeMem (s : State) (k : Nat) (bs : List Byte) (setTag mark : Bool) (by_ : Nat) : State :=
  let s := s.meetWrite k bs.length by_
  let m := s.mem.write k bs setTag mark
  (({ s with mem := m }.markDirty k bs.length).mapCtx (fireTriggers m (wordsIn k bs.length)))

/-- A line copied whole keeps the check of its source, which here does not match (R178, R373). -/
def State.carryCheck (s : State) (k : Nat) (check : Option Nat) : State :=
  match check with
  | some v => { s with mem := { s.mem with badCheck := ains s.mem.badCheck (k / 64 * 64) v } }
  | none => s

/-! ## Queue addresses (R236) -/

/-- The key of a queue address, for the port of its queue. -/
def qKey (port : Nat) (a : Word) : Nat :=
  if a.getLsbD 63 then hostKey port (a.toNat % 2 ^ 63) else devKey a.toNat

/-- A host port's link is UP (R276). -/
def State.hostUp (s : State) (port : Nat) : Bool := if port = 0 then s.fabric.hostUp0 else s.fabric.hostUp1

/-- A queue address can be reached. -/
def State.qReach (s : State) (port : Nat) (a : Word) : Bool :=
  if a.getLsbD 63 then s.hostUp port else devOk a.toNat

/-- Host memory, device memory or a tile: a key behind a dead port is absent (R97, R276). -/
def State.portAbsent (s : State) (k : Nat) : Bool :=
  match homeOf k with
  | .host p => !s.hostUp p
  | _ => false

/-- Draw a new free value (log entry 13). -/
def State.drawFree (s : State) : Nat × State := (s.free, { s with free := s.free + 1 })

end Sys2Proof.Machine
end

