-- ==== Sys2Proof/Machine/Net.lean ====
section
/-! DEFINITION. Domains and partitions (R127, R209, R260), reach and absence (R97, R335 to R344), and messages: how they
are sent, performed, refused, answered and acknowledged (R103, R120, R385 to R388). -/

namespace Sys2Proof.Machine

/-! ## Domains (R127) -/

def domValid (d : Word) : Bool := d.getLsbD 28
def domCols (d : Word) : Nat := bits d.toNat 27 23 + 1
def domRows (d : Word) : Nat := bits d.toNat 22 18 + 1
def domOrigin (d : Word) : Nat := bits d.toNat 17 2

/-- A tile lies in a domain's rectangle. -/
def inDomain (d : Word) (t : Nat) : Bool :=
  let o := domOrigin d
  tileRect t == tileRect o && decide (tileRow o ≤ tileRow t ∧ tileRow t < tileRow o + domRows d) &&
    decide (tileCol o ≤ tileCol t ∧ tileCol t < tileCol o + domCols d)

/-- The tiles of a domain, row-major. -/
def domTiles (d : Word) : List Nat :=
  (List.range (domRows d)).flatMap fun r => (List.range (domCols d)).map fun c => domOrigin d + 32 * r + c

/-- A tile id with in-range offsets keeps the carries of domTiles within the fields: a domain fits its rectangle. -/
def domFits (rc : Rect) (d : Word) : Bool :=
  decide (tileRow (domOrigin d) + domRows d ≤ rc.rows ∧ tileCol (domOrigin d) + domCols d ≤ rc.cols)

/-- A launch's record. -/
def State.launch? (s : State) (n : Nat) : Option Launch := afind s.launches n

/-- Change a launch. -/
def State.updLaunch (s : State) (n : Nat) (f : Launch → Launch) : State :=
  match s.launch? n with
  | some l => { s with launches := ains s.launches n (f l) }
  | none => s

/-- The acting context's launch. -/
def State.curLaunch (s : State) : Option Launch := s.cpu.launch.bind s.launch?

/-- The launch has not ended. -/
def Launch.live (l : Launch) : Bool :=
  match l.st with
  | .ended _ => false
  | _ => true

/-- A tile lies in the launch's partition (R209). -/
def Launch.hasTile (l : Launch) (t : Nat) : Bool := l.domains.any fun d => inDomain d t

/-- Every tile of the launch's partition. -/
def Launch.tiles (l : Launch) : List Nat := l.domains.flatMap domTiles

/-- Every core name of the partition. -/
def Launch.cores (l : Launch) : List Nat := l.tiles.flatMap fun t => (List.range 16).map fun c => t * 16 + c

/-- The length of a context's TCM reservation (R258). -/
def reservation (foot accn : Nat) (specok : Bool) : Nat :=
  foot + 8192 + 4096 * accn * (if specok then 2 else 1) + 8192 + 6144 + 5120

/-- Base of the group area: the last part of the reservation (R197, R258). -/
def Launch.groupBase (l : Launch) : Nat := l.base + reservation l.pkt.foot l.pkt.accn l.pkt.specok - 5120

/-- Base of the deque spill area (R211, R258). -/
def Launch.spillBase (l : Launch) : Nat := l.groupBase - 6144

/-! ## Links (R332, R339) -/

/-- A link as it stands; one not listed is whole and UP. -/
def State.link (s : State) (id : Nat) : Link :=
  (s.fabric.links.find? fun l => l.id == id).getD
    { id := id, st := .up, lanes := 8, spareUsed := false, next := 0, expect := 0, buffer := [], fails := 0,
      nack := false, attempts := [], farId := none, dead := false }

/-- The link itself, of what one of its ends sends on it. -/
def linkBase (id : Nat) : Nat := id % 1024

/-- The other end's sending of a link. -/
def linkBack (id : Nat) : Nat := linkBase id + 1024

/-- Put a link. -/
def State.setLink (s : State) (l : Link) : State :=
  { s with fabric := { s.fabric with links := l :: s.fabric.links.filter fun x => x.id != l.id } }

/-- The state of the link on which an end sends (R339). -/
def State.linkSt (s : State) (id : Nat) : LinkSt := (s.link (linkBase id)).st

/-- Put the state of a link. -/
def State.setLinkSt (s : State) (id : Nat) (st : LinkSt) : State := s.setLink { s.link (linkBase id) with st := st }

/-- First link id and number of links of the seam east of a die, or south of it (R332). -/
def seamEast (dr dc : Nat) : Nat × Nat := ((dr * 7 + dc) * 4, 4)
def seamSouth (dr dc : Nat) : Nat × Nat := (224 + (dr * 8 + dc) * 5, 5)

/-- Id of the seam link that joins two tiles by PHYS, A north or west of B (R332, R333). -/
def seamLinkId (a b : Nat) : Option Nat :=
  if a / 512 = b / 512 ∧ a / 64 % 8 + 1 = b / 64 % 8 ∧ a % 16 = 4 ∧ b % 16 = 0 ∧ a / 16 % 4 = b / 16 % 4 then
    some ((seamEast (a / 512) (a / 64 % 8)).1 + a / 16 % 4)
  else if a / 512 + 1 = b / 512 ∧ a / 64 % 8 = b / 64 % 8 ∧ a / 16 % 4 = 3 ∧ b / 16 % 4 = 0 ∧ a % 16 = b % 16 then
    some ((seamSouth (a / 512) (a / 64 % 8)).1 + a % 16)
  else none

/-- The signed link table lists a seam link or a Gale port as missing (R333). -/
def State.linkMissing (s : State) (id : Nat) : Bool :=
  s.dev.cfg.linkTable.any fun w =>
    bits w.toNat 15 8 == 1 &&
      (if id < 504 then bits w.toNat 7 0 == 1 && seamLinkId (bits w.toNat 47 32) (bits w.toNat 63 48) == some id
       else bits w.toNat 7 0 == 2 && bits w.toNat 47 32 + 504 == id)

/-- The links of a seam that are present at boot, in ascending index (R333, R336). -/
def State.presentLinks (s : State) (seam : Nat × Nat) : List Nat :=
  ((List.range seam.2).map (seam.1 + ·)).filter fun i => !s.linkMissing i

/-- No link of a seam is UP: those not DOWN are none, or none was present at boot (R340). -/
def State.seamDead (s : State) (seam : Nat × Nat) : Bool := (s.presentLinks seam).all fun i => (s.link i).st == .down

/-- The seam that joins two adjacent dies. -/
def seamOfDies (a b : Nat) : Nat × Nat :=
  let d := Nat.min a b
  if a / 8 = b / 8 then seamEast (d / 8) (d % 8) else seamSouth (d / 8) (d % 8)

/-- The numbers from a, without it, to b, in the direction of b. -/
def stepsTo (a b : Nat) : List Nat :=
  if a ≤ b then (List.range (b - a)).map fun i => a + 1 + i else (List.range (a - b)).map fun i => a - 1 - i

/-- The dies after the first on the straight route: die columns first, then die rows (R335). -/
def straightDies (d1 d2 : Nat) : List Nat :=
  (stepsTo (d1 % 8) (d2 % 8)).map (fun c => d1 / 8 * 8 + c) ++ (stepsTo (d1 / 8) (d2 / 8)).map fun r => r * 8 + d2 % 8

/-- Dies across the seams of a die that have a link present at boot, lowest first. -/
def State.diesBeside (s : State) (d : Nat) : List Nat :=
  ((if 8 ≤ d then [d - 8] else []) ++ (if d % 8 = 0 then [] else [d - 1]) ++ (if d % 8 = 7 then [] else [d + 1]) ++
    (if d < 56 then [d + 8] else [])).filter fun e => !(s.presentLinks (seamOfDies d e)).isEmpty

/-- The shortest way over other dies, by breadth: of equal ones the lowest-numbered next die (R335; the choice among equal
detours is log entry 17). The paths are reversed; `seen` holds the dies reached. -/
def State.detour (s : State) (target : Nat) : Nat → List (List Nat) → List Nat → Option (List Nat)
  | 0, _, _ => none
  | fuel + 1, paths, seen =>
    match paths.find? fun p => p.head? == some target with
    | some p => some p.reverse.tail
    | none =>
      let next := paths.foldl (fun (acc : List (List Nat) × List Nat) p =>
        ((p.head?.map s.diesBeside).getD []).foldl (fun acc e =>
          if acc.2.elem e then acc else (acc.1 ++ [e :: p], e :: acc.2)) acc) ([], seen)
      s.detour target fuel next.1 next.2

/-- The dies after the first on the boot route (R335): the straight route, each die pair without a present link passed round;
none when there is no way. -/
def State.dieRoute (s : State) (d1 d2 : Nat) : Option (List Nat) :=
  (straightDies d1 d2).foldl (fun acc e =>
    acc.bind fun ds =>
      let cur := (ds.getLast?).getD d1
      if !(s.presentLinks (seamOfDies cur e)).isEmpty then some (ds ++ [e])
      else (s.detour e 64 [[cur]] [cur]).map fun way => ds ++ way) (some [])

/-- The seams on the boot route between two dies, in the order in which a flit crosses them (R335). -/
def State.routeSeams (s : State) (d1 d2 : Nat) : Option (List (Nat × Nat)) :=
  (s.dieRoute d1 d2).map fun ds => ((d1 :: ds).zip ds).map fun p => seamOfDies p.1 p.2

/-- Seam crossings of the boot route; more than any route has where there is none. -/
def State.crossings (s : State) (d1 d2 : Nat) : Nat :=
  match s.routeSeams d1 d2 with
  | some seams => seams.length
  | none => 64

/-- A die cannot be reached from another (R340). -/
def State.cut (s : State) (d1 d2 : Nat) : Bool :=
  match s.routeSeams d1 d2 with
  | some seams => seams.any s.seamDead
  | none => true

/-- The way from one tile to another crosses a seam without an UP link (R340). -/
def State.cutTiles (s : State) (a b : Nat) : Bool := a != b && s.cut (physDie (s.tile a).phys) (physDie (s.tile b).phys)

/-- The response of a home cannot reach a die: the boot route from the home crosses a dead seam (R335, R340). -/
def State.cutBack (s : State) (core : Nat) (h : Home) : Bool :=
  let me := physDie (s.tile (core / 16)).phys
  match h with
  | .tile t => s.cut (physDie (s.tile t).phys) me
  | .die d => s.cut d me
  | .hbm _ | .host _ | .peer _ _ => false

/-- Peer number of a Gale port (R342). -/
def State.peerOf (s : State) (port : Nat) : Nat := (s.dev.cfg.galemap[port]?).getD 0

/-- The ports of a peer's bundle (R342). -/
def State.bundle (s : State) (w : Nat) : List Nat :=
  (List.range 32).filter fun p => decide (w ≠ 0) && s.peerOf p == w

/-- A peer is present while a port of its bundle is UP (R342). -/
def State.peerPresent (s : State) (w : Nat) : Bool := (s.bundle w).any fun p => (s.link (504 + p)).st != .down

/-- A launch's pairing with a peer wafer. -/
def Launch.pairing (l : Launch) (w : Nat) : Option Pairing := l.paired.find? fun p => p.wafer == w

/-- The tiles a launch reaches on a peer wafer: those of its paired launch (R343). -/
def Launch.pairedTiles (l : Launch) (w : Nat) : List Nat :=
  match l.pairing w with
  | some p => p.tiles
  | none => []

/-- A home is absent for a core and its launch (R97, R340, R343). -/
def State.absent (s : State) (core : Nat) (launch : Option Nat) (h : Home) : Bool :=
  let me := physDie (s.tile (core / 16)).phys
  match h with
  | .tile t => (s.tile t).st == .lost || s.cut me (physDie (s.tile t).phys)
  | .die d => s.cut me d
  | .hbm _ => false
  | .host p => !s.hostUp p
  | .peer w t =>
    !s.peerPresent w || aget 0 s.fabric.peerTiles (w * 2 ^ 16 + t) == 2 ||
      match launch.bind s.launch? with
      | some l => !(l.pairedTiles w).elem t
      | none => true

/-- A home is absent for a read: its request or its response has no way (R97, R340). -/
def State.absentRead (s : State) (core : Nat) (launch : Option Nat) (h : Home) : Bool := s.absent core launch h || s.cutBack core h

/-- A tile between its fence and its resume refuses traffic (R395), and so does one whose agents all stand still for a planned
migration (R403). -/
def RecSt.refuses : RecSt → Bool
  | .run | .lost => false
  | .fence | .choose | .restore | .flip | .replay | .resume | .migrate => true

/-! ## Channels (R385, R386) -/

/-- A channel's counters; a channel not listed is as boot leaves it. -/
def State.channel (s : State) (src chan : Nat) : Channel :=
  (s.fabric.channels.find? fun c => c.src == src && c.chan == chan).getD
    { src := src, chan := chan, next := 0, accepted := 0, results := [] }

/-- Put a channel's counters. -/
def State.setChannel (s : State) (c : Channel) : State :=
  { s with fabric := { s.fabric with
      channels := c :: s.fabric.channels.filter fun x => !(x.src == c.src && x.chan == c.chan) } }

/-- The outcome of the sequence test (R386). -/
inductive SeqTest | inOrder | early | duplicate
  deriving DecidableEq, Repr

/-- The test of R386 for a number s against the last accepted number. -/
def seqTest (last s : BitVec 32) : SeqTest :=
  let d := (s - last).toNat
  if d = 1 then .inOrder else if 2 ≤ d ∧ d ≤ 2 ^ 20 then .early else .duplicate

/-- A loads' and GET's request carries no number (R385). -/
def MsgKind.sequenced : MsgKind → Bool
  | .get _ => false
  | .resp _ => false
  | _ => true

/-- An atomic on a word of the sender's own scratchpad: it goes to its bank, not to the tile's port (R282, R284). -/
def MsgKind.ownBank (src : Nat) : MsgKind → Bool
  | .atom k _ _ _ _ => decide (2 ^ 37 ≤ k ∧ k < 2 ^ 38 ∧ (k - 2 ^ 37) / 2 ^ 21 = src)
  | .store _ _ _ _ _ | .add _ _ | .send _ _ | .get _ | .resp _ | .stream _ _ _ _ _ _ | .chunk _ _ | .record _ _ _ => false

/-- A message of a tile carries a number (R385): every one that changes state, but for an atomic on its own scratchpad. -/
def MsgKind.takesNumber (k : MsgKind) (src : Nat) : Bool := k.sequenced && !k.ownBank src

/-- The virtual channel of a message (R120). -/
def MsgKind.vc : MsgKind → Nat
  | .get _ => 1
  | .resp _ => 2
  | _ => 0

/-- Where a message is performed. -/
def MsgKind.home : MsgKind → Option Home
  | .store k _ _ _ _ => some (homeOf k)
  | .add k _ => some (homeOf k)
  | .send c _ => some (.tile (c / 16))
  | .atom k _ _ _ _ => some (homeOf k)
  | .get k => some (homeOf k)
  | .resp _ => none
  | .stream c _ _ _ _ _ => some (.tile (c / 16))
  | .chunk c _ => some (.tile (c / 16))
  | .record _ k _ => some (homeOf k)

/-- Two byte ranges meet. -/
def overlap (a n b m : Nat) : Bool := decide (a < b + m ∧ b < a + n)

/-- The bytes of memory that a request reads or writes, as key and count. -/
def MsgKind.span : MsgKind → Nat × Nat
  | .store k d _ _ _ => (k, d.length)
  | .add k _ => (k, 8)
  | .atom k _ n _ _ => (k, n)
  | .get k => (k, 8)
  | .send _ _ | .resp _ | .stream _ _ _ _ _ _ | .chunk _ _ | .record _ _ _ => (0, 0)

/-- Drift-log bytes of a message: a 16-byte header and the payload rounded up (R387). -/
def MsgKind.logBytes : MsgKind → Nat
  | .store _ d _ _ _ => 16 + (d.length + 15) / 16 * 16
  | .stream _ _ _ _ _ _ => 16 + 128
  | .chunk _ c => 16 + (c.size + 15) / 16 * 16
  | _ => 32

/-! ## Flits on seam links and Gale ports (R336 to R338, R344) -/

/-- Flits that carry a message, 64 bytes of payload each (R337). -/
def MsgKind.flits : MsgKind → Nat
  | .store _ d _ _ _ => Nat.max 1 ((d.length + 63) / 64)
  | .stream _ _ _ _ _ _ => 2
  | .chunk _ c => Nat.max 1 ((c.size + 63) / 64)
  | .add _ _ | .send _ _ | .atom _ _ _ _ _ | .get _ | .resp _ | .record _ _ _ => 1

/-- First link and number of links of the seam, or the port, that a link belongs to. -/
def seamOf (id : Nat) : Nat × Nat :=
  if id < 224 then (id / 4 * 4, 4) else if id < 504 then (224 + (id - 224) / 5 * 5, 5) else (id, 1)

/-- A mesh link is listed as missing (R333). -/
def State.meshMissing (s : State) (a b : Nat) : Bool :=
  s.dev.cfg.linkTable.any fun w =>
    bits w.toNat 7 0 == 0 && bits w.toNat 15 8 == 1 && bits w.toNat 47 32 == a && bits w.toNat 63 48 == b

/-- k of R336 before the modulus. -/
def linkTerm (p : Nat) : Nat := p / 16 % 4 + p % 16 + 2 * (p / 512 + p / 64 % 8)

/-- The row whose links two tiles use as service neighbours across a seam, west tile first (R336). -/
def serviceRow (a b : Nat) : Option Nat :=
  if a / 512 = b / 512 ∧ a / 64 % 8 + 1 = b / 64 % 8 ∧ a % 16 = 3 ∧ b % 16 = 0 ∧ a / 16 % 4 = b / 16 % 4 then some (a / 16 % 4)
  else none

/-- The link of a seam that a flit between two physical tiles uses (R336). -/
def State.seamLink (s : State) (src dst : Nat) (seam : Nat × Nat) : Option Nat :=
  let present := s.presentLinks seam
  let joined := (seamLinkId src dst).or (seamLinkId dst src)
  let west := if (serviceRow src dst).isSome then src else dst
  let row := ((serviceRow src dst).or (serviceRow dst src)).filter fun r => !s.meshMissing west (west + 1) && present.elem (seam.1 + r) &&
    seam == seamOfDies (physDie src) (physDie dst)
  match joined, row with
  | some id, _ => if present.elem id then some id else present[linkTerm dst % present.length]?
  | none, some r => some (seam.1 + r)
  | none, none => present[linkTerm dst % present.length]?

/-- A link can carry flits: present, and not DOWN. -/
def State.linkOk (s : State) (id : Nat) : Bool := !s.linkMissing id && (s.link id).st != .down

/-- The link in use for a chosen one: the next of its seam, in ascending index with wrap, that is present and not DOWN; for a
Gale port, the next such port of its bundle (R340, R344). -/
def State.useLink (s : State) (id : Nat) : Option Nat :=
  let i := linkBase id
  let use : Option Nat :=
    if i < 504 then
      let (b, n) := seamOf i
      ((List.range n).map fun k => b + (i - b + k) % n).find? s.linkOk
    else
      let ps := s.bundle (s.peerOf (i - 504))
      (((ps.filter fun p => decide (i - 504 ≤ p)) ++ ps.filter fun p => decide (p < i - 504)).map (504 + ·)).find? s.linkOk
  use.map fun j => id - i + j

/-- The port of a pairing that traffic to a tile of the peer uses: the chosen one of those UP at the pairing, or the one that
took over from it (R344). -/
def State.galeLink (s : State) (p : Pairing) (tile : Nat) : Option Nat :=
  (p.ports[tile % p.ports.length]?).bind fun q => s.useLink (504 + q)

/-- The seam links that a flit between two physical tiles crosses, in order, each with the end that sends it (R335, R336). -/
def State.seamPath (s : State) (a b : Nat) : List Nat :=
  let ds := (s.dieRoute (physDie a) (physDie b)).getD []
  ((physDie a :: ds).zip ds).filterMap fun p =>
    (s.seamLink a b (seamOfDies p.1 p.2)).map fun i => if p.1 < p.2 then i else linkBack i

/-- The physical tile that stands for a die's SRAM and agent on a route: DESIGN CHOICE (log entry 16), the spec gives them no place on
their die, and routes to them cross the seams as routes to its first tile do. -/
def diePhys (d : Nat) : Nat := d / 8 * 512 + d % 8 * 64

/-- The links that a request of a tile crosses, in order: seams to another tile or another die's SRAM, or a port to a peer wafer. HBM and
host ports have no place on the mesh that the spec names (log entry 16). -/
def State.linksTo (s : State) (src : Nat) (launch : Option Nat) : Home → List Nat
  | .tile t => s.seamPath (s.tile src).phys (s.tile t).phys
  | .peer w t =>
    match (launch.bind s.launch?).bind fun l => l.pairing w with
    | some p => (s.galeLink p t).toList
    | none => []
  | .die d => s.seamPath (s.tile src).phys (diePhys d)
  | .hbm _ | .host _ => []

/-- The links that the response crosses. -/
def State.linksFrom (s : State) (src : Nat) (launch : Option Nat) (h : Home) : List Nat :=
  match h with
  | .tile t => s.seamPath (s.tile t).phys (s.tile src).phys
  | .die d => s.seamPath (diePhys d) (s.tile src).phys
  | .hbm _ | .host _ | .peer _ _ => (s.linksTo src launch h).map linkBack

/-- The home that a destination code numbers. -/
def Home.ofCode (c : Nat) : Home :=
  if c < 0x10000 then .tile c
  else if c < 0x10100 then .die (c - 0x10000)
  else if c < 0x10200 then .hbm (c - 0x10100)
  else if c < 0x20000 then .host (c - 0x10200)
  else .peer ((c - 0x20000) / 2 ^ 16) ((c - 0x20000) % 2 ^ 16)

/-- Where a message is, or its response comes from. -/
def Msg.dest (m : Msg) : Home := Home.ofCode (m.chan / 3)

/-- The links that a message crosses, in order. -/
def State.path (s : State) (m : Msg) : List Nat :=
  match m.kind with
  | .resp _ => s.linksFrom (m.core / 16) m.launch m.dest
  | _ => s.linksTo (m.core / 16) m.launch m.dest

/-- Flits that the sender may have under way: the replay buffer's 128 (R338). -/
def replaySize : Nat := 128

/-- A flit joins those of a link: behind all in the replay buffer, and among those that wait for space in it behind those of its own
virtual channel, but before those of a lower one, behind which none of its own ever waits (R335, R338). The numbers run on. -/
def Link.enqueue (l : Link) (f : Flit) : Link :=
  let rest := l.buffer.drop replaySize
  let all := l.buffer.take replaySize ++ rest.takeWhile (fun g => decide (f.vc ≤ g.vc)) ++ [f] ++ rest.dropWhile fun g => decide (f.vc ≤ g.vc)
  { l with next := l.next + 1, buffer := all.mapIdx fun i g => { g with seq := l.next + 1 - BitVec.ofNat 12 all.length + BitVec.ofNat 12 i } }

/-- Flits of a message sent on a link. -/
def Link.push (l : Link) (vc msg : Nat) : Nat → Nat → Link
  | _, 0 => l
  | i, n + 1 => (l.enqueue ⟨0, vc, msg, i, 0⟩).push vc msg (i + 1) n

/-- A message's flits are sent on a link. -/
def State.sendFlits (s : State) (id vc msg n : Nat) : State :=
  match s.useLink id with
  | some j => s.setLink ((s.link j).push vc msg 0 n)
  | none => s

/-- Flits of the buffer that the receiver has accepted and not yet acknowledged. -/
def Link.arrived (l : Link) : Nat :=
  match l.buffer with
  | [] => 0
  | f :: _ => (l.expect - f.seq).toNat

/-- A flit of the message has not yet crossed some link. -/
def State.crossing (s : State) (msg : Nat) : Bool := s.fabric.links.any fun l => (l.buffer.drop l.arrived).any fun f => f.msg == msg

/-- A message's flits are sent on the first link of its route (R338). -/
def State.launchFlits (s : State) (m : Msg) : State :=
  match s.path m with
  | l :: _ => s.sendFlits l m.kind.vc m.id m.kind.flits
  | [] => s

/-- Send a message from a core for a launch: it takes the channel's next number when it carries one, a copy enters the drift log of the
sender's die when it goes to another tile, SENT rises for PUT, PUTI and SEND, and it leaves the tile, or is held there until
the buddy has acknowledged the determinants recorded before it (R120, R385, R387, R391). `noted` is the agent for which the
value of its response is a determinant, `origin` the collective command that sent it. -/
def State.post (s : State) (core : Nat) (launch : Option Nat) (kind : MsgKind) (counted : Bool) (engine : Option Eng)
    (noted : Option Nat := none) (origin : Option (Nat × Nat × Nat) := none) : State :=
  let src := core / 16
  match kind.home with
  | none => s
  | some h =>
    let chan := h.code * 3 + kind.vc
    let c := s.channel src chan
    let seq := c.next + 1
    let s := if kind.takesNumber src then s.setChannel { c with next := seq } else s
    let s : State := match h with
      | .tile t =>
        if kind.sequenced && t != src then
          { s with fabric := { s.fabric with
              drift := s.fabric.drift ++ [(⟨src, t, kind.vc, seq, kind.logBytes, physDie (s.tile src).phys, .message kind⟩ : DriftEntry)] } }
        else s
      | _ => s
    let s := match launch with
      | some l => if counted then s.updCtx core l fun x => { x with sent := x.sent + 1 } else s
      | none => s
    let stays := h == .tile src || !s.detsOpen src
    let m : Msg := ⟨s.nextId, core, launch, chan, seq, kind, if stays then .sent else .held, counted, engine, 0,
      (s.tile src).detSeq, noted, origin⟩
    let s : State := { s with net := s.net ++ [m], nextId := s.nextId + 1 }
    if stays then s.launchFlits m else s

/-- The tile that a message leaves: that of its sender, or of a response's home. -/
def Msg.leaves (m : Msg) : Nat :=
  match m.kind, m.dest with
  | .resp _, .tile t => t
  | _, _ => m.core / 16

/-- The buddy's acknowledgement: what the tile held for it leaves, in order (R391). -/
def State.buddyAck (s : State) (t : Nat) : State :=
  let s := s.ackDets t
  (s.net.filter fun m => m.st == .held && m.leaves == t && decide (m.det ≤ (s.tile t).detAck)).foldl (fun s m =>
    ({ s with net := s.net.map fun x => if x.id = m.id then { x with st := .sent } else x } : State).launchFlits m) s

/-- A message in flight. -/
def State.msg? (s : State) (id : Nat) : Option Msg := s.net.find? fun m => m.id == id

/-- Change a message. -/
def State.updMsg (s : State) (id : Nat) (f : Msg → Msg) : State :=
  { s with net := s.net.map fun m => if m.id = id then f m else m }

/-- A message leaves the network. -/
def State.dropMsg (s : State) (id : Nat) : State := { s with net := s.net.filter fun m => m.id != id }

/-- RCVD of the launch's context on a core (R120, R224). -/
def State.receive (s : State) (core : Nat) (launch : Option Nat) : State :=
  match launch with
  | some l => s.updCtx core l fun x => { x with rcvd := x.rcvd + 1 }
  | none => s

/-- The core whose context counts a message to a key: the TCM's core, or core 0 of the scratchpad's tile (R120). -/
def receiver (k : Nat) : Nat := if k < 2 ^ 37 then k / 0x20000 else (k - 2 ^ 37) / 2 ^ 21 * 16

/-! ## Atomics at their home (R105, R106) -/

/-- The new value of an atomic, when it writes one: op as R105 numbers it, on s bytes. -/
def atomNew (op size old x expected : Nat) : Option Nat :=
  let w := 8 * size
  let m := 2 ^ w
  match op with
  | 0 => some ((old + x) % m)
  | 1 => some (Nat.land old x)
  | 2 => some (Nat.lor old x)
  | 3 => some (Nat.xor old x)
  | 4 => some (if sext old w ≤ sext x w then old else x)
  | 5 => some (if sext old w ≥ sext x w then old else x)
  | 6 => some (Nat.min old x)
  | 7 => some (Nat.max old x)
  | 8 => some x
  | 9 => if old = expected then some x else none
  | _ =>
    let f : FF := if size = 4 then .fp32 else .fp64
    some (fadd f .rne 0 (f.val old) (f.val x)).code

/-- What gd receives: old, zero-extended for the natural and float ops, sign-extended otherwise (R105). -/
def atomOld (op size old : Nat) : Word :=
  if op = 6 || op = 7 || op = 10 then BitVec.ofNat 64 old else wordOf (sext old (8 * size))

/-- POISON as LDS, GET and atomics deliver it (R70, R87, R106). -/
def poisonOnes (reason : Nat) : GReg := ⟨.poison, BitVec.ofNat 128 (reason * 2 ^ 64 + (2 ^ 64 - 1))⟩

/-- An atomic performed at its home, indivisibly (R106 steps 5 and 6): the value for gd and the state. -/
def State.atomAt (s : State) (key op size : Nat) (x expected : Word) (by_ : Nat) : GReg × State :=
  let s := s.meetRead key size by_
  if s.mem.marked key size then (poisonOnes 1, s)
  else
    let old := s.mem.nat key size
    let m := 2 ^ (8 * size)
    let g : GReg := ⟨.data, (atomOld op size old).zeroExtend 128⟩
    match atomNew op size old (x.toNat % m) (expected.toNat % m) with
    | some v => (g, s.writeMem key (leBytes size v) false false by_)
    | none => (g, s)

/-! ## Records (R250) -/

/-- A queue; one not listed is DISABLED with every register zero. -/
def State.queue (s : State) (q : Nat) : Queue := aget Queue.reset s.front.queues q

/-- Change a queue. -/
def State.updQueue (s : State) (q : Nat) (f : Queue → Queue) : State :=
  { s with front := { s.front with queues := aput Queue.reset s.front.queues q (f (s.queue q)) } }

def Queue.port (q : Queue) : Nat := bits q.cfg.toNat 28 28
def Queue.vec (q : Queue) : Nat := bits q.cfg.toNat 27 17
def Queue.size (q : Queue) : Nat := 2 ^ (bits q.cfg.toNat 12 9 + 4)
def Queue.areaSize (q : Queue) : Nat := 2 ^ (bits q.cfg.toNat 16 13 + 4)

/-- An entry of a port's MSI-X table: address in bits [63:0], data in [95:64], the mask bit in [96] (R275); masked until the host
writes it (log entry 80). -/
def State.msix (s : State) (port vec : Nat) : BitVec 128 := (afind s.front.msix (port * 2048 + vec)).getD (BitVec.ofNat 128 (2 ^ 96))

/-- Deliver a vector that is not masked: a write of its data at its address, behind its port (R275). -/
def State.sendMsix (s : State) (port vec : Nat) : State :=
  let e := (s.msix port vec).toNat
  s.writeMem (hostKey port (bits e 63 2 * 4)) (leBytes 4 (bits e 95 64)) false false noName

/-- Raise an MSI-X vector; a raise while it is pending merges (R250). On a dead port it is dropped and counted (R347). -/
def State.raise (s : State) (port vec : Nat) : State :=
  if !s.hostUp port then s.count 15
  else if (s.msix port vec).getLsbD 96 then
    if s.front.vectors.elem (port, vec) then s
    else { s with front := { s.front with vectors := s.front.vectors ++ [(port, vec)] } }
  else s.sendMsix port vec

/-- The address of the record that a queue's area takes next (R250). -/
def Queue.slot (x : Queue) : Word := x.msga + BitVec.ofNat 64 (32 * (x.msgw.toNat % x.areaSize))

/-- Write a 32-byte record into a queue's message area, or drop it: the area is full, the record's place cannot be reached, or
the host behind the queue's port is gone (R250, R276); `body` is bytes 0 to 27. -/
def State.record (s : State) (q : Nat) (body : List Byte) : State :=
  let x := s.queue q
  let full := decide ((x.msgw - x.msgh).toNat = x.areaSize)
  if full || !s.hostUp x.port || !s.qReach x.port x.slot || !s.qReach x.port (x.slot + 31) then
    s.updQueue q fun x => { x with overflow := x.overflow + 1 }
  else
    let s := s.writeMem (qKey x.port x.slot) (withCrc body) false false noName
    (s.updQueue q fun x => { x with msgw := x.msgw + 1 }).raise x.port x.vec

/-! ## Performing a message -/

/-- SEND entries in an inbox; six slots are held back for completions (R122). -/
def sendEntries (c : Ctx) : Nat := (c.inbox.filter fun e => e.done.isNone).length

/-- Place a SEND message in the inbox of the launch's context on a core; none when the inbox refuses it (R122). -/
def State.placeSend (s : State) (core : Nat) (launch : Option Nat) (v : GReg) (source : Nat) : Option State :=
  match launch.bind fun l => s.ctxOf core l with
  | none => some s
  | some c =>
    if sendEntries c < 26 then
      some (s.mapCtx fun x =>
        if x.core == core && x.launch == c.launch then
          { x with inbox := x.inbox ++ [{ val := v, source := source, done := none, cmd := 0 }] }
        else x)
    else none

/-- The stream register a channel tag is bound to (R147). -/
def boundTo (vqmap : Word) (tag : BitVec 8) : Option Nat :=
  (List.range 4).find? fun k => vqmap.getLsbD (4 + k) && BitVec.ofNat 8 (bits vqmap.toNat (15 + 8 * k) (8 + 8 * k)) == tag

/-- The first element a command sent to an unbound tag (R193). -/
def Cmd.noteUnbound (cmd elem : Nat) (q : EngQ) : EngQ :=
  { q with cmds := q.cmds.map fun c =>
      if c.num = cmd then { c with unboundAt := match c.unboundAt with
        | some e => some (Nat.min e elem)
        | none => some elem } else c }

/-- Words of a message that a mesh flit delivers with the poison mark set (R341), when it is performed at a key. -/
def State.markWords (s : State) (m : Msg) (k : Nat) : State :=
  let ws := (s.fabric.badWords.filter fun w => w.1 == m.id).map fun w => (k / 8 + w.2) * 8
  { s with
    mem := { s.mem with marks := ws.foldl nadd s.mem.marks }
    fabric := { s.fabric with badWords := s.fabric.badWords.filter fun w => w.1 != m.id } }

/-- A word of the message's payload was bad on the mesh (R341). -/
def State.wordsBad (s : State) (m : Msg) : Bool := s.fabric.badWords.any fun w => w.1 == m.id

/-- A request becomes its response, which leaves the home for the issuing core; a tile's response to another tile waits for
the buddy's acknowledgement (R103, R120, R340, R391). -/
def State.reply (s : State) (m : Msg) (g : GReg) : State :=
  -- a response without a way back: the read completes with the absent value (R340)
  let g := if s.cutBack m.core m.dest then poisonOnes 2 else g
  match m.dest with
  | .tile t =>
    if t != m.core / 16 && s.detsOpen t then
      let n := (s.tile t).detSeq
      s.updMsg m.id fun y => { y with kind := .resp g, st := .held, det := n }
    else (s.updMsg m.id fun y => { y with kind := .resp g, st := .sent }).launchFlits { m with kind := .resp g }
  | _ => (s.updMsg m.id fun y => { y with kind := .resp g, st := .sent }).launchFlits { m with kind := .resp g }

/-- A message performed at its receiver; none when it is refused for want of room and stays with its sender. -/
def State.perform (s : State) (m : Msg) : Option State :=
  match m.kind with
  | .store k d t mark check =>
    let s := ((s.writeMem k d t mark m.core).carryCheck k check).markWords m k
    some (if m.counted then s.receive (receiver k) m.launch else s)
  | .add k x =>
    let s := s.meetRead k 8 m.core
    let v := (s.mem.nat k 8 + x.toNat) % 2 ^ 64
    let s := (s.writeMem k (leBytes 8 v) false (s.mem.marked k 8) m.core).markWords m k
    some (if m.counted then s.receive (receiver k) m.launch else s)
  | .send c v => (s.placeSend c m.launch v m.core).map fun s => if m.counted then s.receive c m.launch else s
  | .atom k op sz x e =>
    -- an operand word that arrived poisoned: nothing is written, as for a marked word (log entry 26)
    if s.wordsBad m then some (s.reply m (poisonOnes 1))
    else
      let (g, s) := s.atomAt k op sz x e m.core
      some (s.reply m g)
  | .get k =>
    let s := s.meetRead k 8 m.core
    let g : GReg := if s.mem.marked k 8 then poisonOnes 1 else ⟨.data, BitVec.ofNat 128 (s.mem.nat k 8)⟩
    some (s.reply m g)
  | .resp _ => some s
  | .stream c tag e eng cmd elem =>
    match m.launch.bind fun l => s.ctxOf c l with
    | none => some (s.count 3)
    | some x =>
      match boundTo x.csrs.vqmap tag with
      | none =>
        let s := s.count 3
        some (match m.launch with
          | some l => s.updCtx m.core l fun y =>
              match eng with
              | .me => y
              | .ce => { y with eng := { y.eng with ce := Cmd.noteUnbound cmd elem y.eng.ce } }
              | .ca => { y with eng := { y.eng with ca := Cmd.noteUnbound cmd elem y.eng.ca } }
          | none => s)
      | some k =>
        if (vget [] x.streams k).length < 15 then
          some (match m.launch with
            | some l => s.updCtx c l fun y => { y with streams := vset y.streams k (vget [] y.streams k ++ [e]) }
            | none => s)
        else none
  | .chunk c ch =>
    match s.ctxs.find? fun x => x.core == c && x.launch == m.launch && x.run == .running with
    -- a launch that has ended takes no chunk any more (R270)
    | none => if ((m.launch.bind s.launch?).map Launch.live).getD false then none else some s
    | some x =>
      if x.eng.latch.length < 2 then
        some (match m.launch with
          | some l => s.updCtx c l fun y => { y with eng := { y.eng with latch := y.eng.latch ++ [ch] } }
          | none => s)
      else none
  | .record q _ body =>
    let x := s.queue q
    let t := s.record q body
    some (if (t.queue q).msgw = x.msgw then t else t.markWords m (qKey x.port x.slot))

/-- The first of two elements, when there is one. -/
def firstOf (a : Option Nat) (e : Nat) : Nat := (a.map fun x => Nat.min x e).getD e

/-- An MSTORE write dropped at a removed peer: its command reports the peer, and the group's absent mask takes its bit (R202,
R329, R347). `g` is 64 × group + peer index. -/
def State.noteDropped (s : State) (m : Msg) : State :=
  match m.origin, m.launch, (m.launch.bind s.launch?).filter Launch.live with
  | some (num, elem, g), some n, some l =>
    let k := tcmKey m.core (l.groupBase + 4096 + 64 * (g / 64))
    let s := s.writeMem k (leBytes 8 (Nat.lor (s.mem.nat k 8) (2 ^ (g % 64)))) false false m.core
    s.updCtx m.core n fun x => { x with eng := { x.eng with ca := { x.eng.ca with cmds := x.eng.ca.cmds.map fun c =>
      if c.num = num then
        { c with absentAt := some (firstOf c.absentAt elem), gone := c.gone ||| BitVec.ofNat 64 (2 ^ (g % 64)) }
      else c } } }
  | _, _, _ => s

/-- A home refuses requests for now: its physical tile lies between fence and resume, here or on a peer wafer (R346, R395). -/
def State.homeRefuses (s : State) (h : Home) : Bool :=
  match h with
  | .tile t => s.refusing t
  | .peer w t => aget 0 s.fabric.peerTiles (w * 2 ^ 16 + t) == 1
  | .die _ | .hbm _ | .host _ => false

/-- A message dropped at an absent target (R89, R97, R120): counted, RCVD of its sender raised, a request answered with
the absent value, an MSTORE write noted by its command. -/
def State.dropAbsent (s : State) (m : Msg) : State :=
  let s := s.count 2
  match m.kind with
  | .atom _ _ _ _ _ => s.updMsg m.id fun y => { y with kind := .resp (poisonOnes 2), st := .sent }
  | .get _ => s.updMsg m.id fun y => { y with kind := .resp (poisonOnes 2), st := .sent }
  | _ =>
    let s := if m.counted then s.receive m.core m.launch else s
    (s.noteDropped m).dropMsg m.id

/-- The kind of a message stays what it is once performed, but for requests, which became responses. -/
def Msg.isRequest (m : Msg) : Bool :=
  match m.kind with
  | .atom _ _ _ _ _ => true
  | .get _ => true
  | _ => false

/-- A request that reads memory at its home: GET, an atomic, and PUTI, which is an atomic event (R302). -/
def Msg.reads (m : Msg) : Bool :=
  match m.kind with
  | .atom _ _ _ _ _ | .get _ | .add _ _ => true
  | .store _ _ _ _ _ | .send _ _ | .resp _ | .stream _ _ _ _ _ _ | .chunk _ _ | .record _ _ _ => false

/-- A SENDH record, which is dropped and counted by its own rule (R124, R250). -/
def Msg.isRecord (m : Msg) : Bool :=
  match m.kind with
  | .record _ _ _ => true
  | _ => false

/-- A ring chunk (R186). -/
def Msg.isChunk (m : Msg) : Bool :=
  match m.kind with
  | .chunk _ _ => true
  | .store _ _ _ _ _ | .add _ _ | .send _ _ | .atom _ _ _ _ _ | .get _ | .resp _ | .stream _ _ _ _ _ _ | .record _ _ _ => false

/-- A home is near for a core: both tiles of class 0 or 1 on one die, or that die's SRAM (R301). -/
def State.near (s : State) (core : Nat) (h : Home) : Bool :=
  let t := core / 16
  decide ((s.tile t).cls ≤ 1) &&
    match h with
    | .tile u => decide ((s.tile u).cls ≤ 1) && s.dieOf u == s.dieOf t
    | .die d => d == s.dieOf t
    | .hbm _ | .host _ | .peer _ _ => false

/-- A request that its home has not yet performed. -/
def Msg.waiting (m : Msg) : Bool :=
  m.st != .performed && (match m.kind with
    | .resp _ => false
    | _ => true)

/-- A link of a list is not UP, or flits of no lower virtual channel wait before it: what takes it waits in order (R335, R338, R339). -/
def State.linksBusy (s : State) (path : List Nat) (vc : Nat) : Bool :=
  path.any fun i =>
    match s.useLink i with
    | some j => s.linkSt j != .up || ((s.link j).buffer.drop (s.link j).arrived).any fun f => decide (vc ≤ f.vc)
    | none => true

/-- The seam links between the agents of two dies (R217, R339; log entry 16). -/
def State.agentLinks (s : State) (a b : Nat) : List Nat := s.seamPath (diePhys a) (diePhys b)

/-- Traffic of a tile to another may be performed now: both are in service, the links between them carry it, nothing sequenced is
ahead of it on its channel, and the buddy has acknowledged what stands before it (R120, R339, R391, R395). -/
def State.wayClear (s : State) (src dst vc : Nat) : Bool :=
  src == dst || (!s.refusing src && !s.refusing dst && !s.detsOpen src && !s.linksBusy (s.linksTo src none (.tile dst)) vc &&
    !(s.net.any fun m => m.core / 16 == src && m.chan == dst * 3 + vc && m.waiting))

/-- Numbered traffic of n bytes between two tiles that is sent and performed in one step, a barrier's or a steal's: its number, `copy`
in the drift log, its step of the port and its determinant (R385, R387, R389, R390). -/
def State.numbered (s : State) (src dst vc n : Nat) (copy : DriftCopy) : State :=
  if src = dst then s
  else
    let c := s.channel src (dst * 3 + vc)
    let s := s.setChannel { c with next := c.next + 1, accepted := c.next + 1 }
    let s : State := { s with fabric := { s.fabric with drift := s.fabric.drift ++ [(⟨src, dst, vc, c.next + 1, n, physDie (s.tile src).phys, copy⟩ : DriftEntry)] } }
    (s.noteStep dst 64).noteDet dst (.arrival src vc)

/-- Sequenced atomics of a tile outstanding on a channel, at most 64 (R386). -/
def State.atomicsOut (s : State) (tile chan : Nat) : Nat :=
  (s.net.filter fun m => m.core / 16 == tile && m.chan == chan && (match m.kind with
    | .atom _ _ _ _ _ => true
    | .resp _ => true
    | _ => false)).length

/-- An earlier near request of a core, not of its engines, is on its way (R304); `old` tells the earlier ones. -/
def State.nearEarlier (s : State) (core : Nat) (launch : Option Nat) (old : Nat → Bool) : Bool :=
  s.net.any fun m => m.core == core && m.launch == launch && m.engine.isNone && m.waiting && old m.id &&
    match m.kind.home with
    | some h => s.near core h
    | none => false

/-- lock_index of R284. -/
def lockIndex (o : Nat) : Nat :=
  let w := o / 8
  Nat.xor (Nat.xor w (w / 32)) (w / 1024) % 4

/-- Two scratchpad offsets share a lock bit: one bank, one index (R283, R284). -/
def sameLock (o p : Nat) : Bool := o / 8 % 32 == p / 8 % 32 && lockIndex o == lockIndex p

/-- The scratchpad offset a core holds locked: 4,096 cycles from its LDLK at most (R110). -/
def State.lockOf (s : State) (core : Nat) : Option Nat :=
  match (s.core core).lock with
  | some (o, t) => if s.clk < t + 40960 then some o else none
  | none => none

/-- A message is an atomic on the bank of a scratchpad word, and still to be performed. -/
def Msg.onBank (x : Msg) (k : Nat) : Bool :=
  x.waiting && match x.kind with
    | .atom j _ _ _ _ => decide (2 ^ 37 ≤ j) && j / 2 ^ 21 == k / 2 ^ 21 && j / 8 % 32 == k / 8 % 32
    | _ => false

/-- The port by which a lock request reaches its bank has presented another one that waits (R284): each core of the tile has a port of
its own, and requests of other tiles come by the network's. -/
def State.portTaken (s : State) (m : Msg) : Bool :=
  match m.kind with
  | .atom k _ _ _ _ =>
    let t := (k - 2 ^ 37) / 2 ^ 21
    decide (2 ^ 37 ≤ k ∧ k < 2 ^ 38) && s.net.any fun x => decide (x.id ≠ m.id) && x.onBank k &&
      (if m.kind.ownBank (m.core / 16) then x.core == m.core && decide (x.id < m.id)
       else x.core / 16 != t && (s.tile t).lockQ.any fun e => e.1 == 2 ^ 20 + x.id)
  | _ => false

/-- An earlier atomic of the acting core on the bank of a scratchpad word holds its port (R284). -/
def State.coreAtBank (s : State) (key : Nat) : Bool := s.net.any fun x => x.core == s.cpu.core && x.onBank key

/-- Another core of the tile holds the lock bit of a scratchpad word (R284). -/
def State.lockedByOther (s : State) (core key : Nat) : Bool :=
  decide (2 ^ 37 ≤ key ∧ key < 2 ^ 38) &&
    (List.range 16).any fun c =>
      let name := (key - 2 ^ 37) / 2 ^ 21 * 16 + c
      name != core && (match s.lockOf name with
        | some o => sameLock o ((key - 2 ^ 37) % 2 ^ 21)
        | none => false)

/-- A request that waits for a lock bit: still there, and not performed (R284). -/
def State.lockWaits (s : State) (who : Nat) : Bool :=
  decide (who < 2 ^ 20) || (match s.msg? (who - 2 ^ 20) with
    | some m => m.waiting
    | none => false)

/-- A lock request must wait (R284): another core holds the bit, or an earlier request waits for it. `who` is the request, as
`TileSt.lockQ` numbers it, of a core; the core that holds the bit does not wait. -/
def State.lockBlocked (s : State) (who core key : Nat) : Bool :=
  let o := (key - 2 ^ 37) % 2 ^ 21
  s.lockedByOther core key ||
    (decide (2 ^ 37 ≤ key ∧ key < 2 ^ 38) && !((s.lockOf core).any (sameLock o)) &&
      ((s.tile ((key - 2 ^ 37) / 2 ^ 21)).lockQ.takeWhile fun e => e.1 != who).any fun e => sameLock e.2 o && s.lockWaits e.1)

/-- A request that finds its bit held joins those that wait, in order of arrival (R284). -/
def State.queueLock (s : State) (who key : Nat) : State :=
  let t := (key - 2 ^ 37) / 2 ^ 21
  if (s.tile t).lockQ.any fun e => e.1 == who then s
  else s.updTile t fun x => { x with lockQ := x.lockQ ++ [(who, (key - 2 ^ 37) % 2 ^ 21)] }

/-- A request that has taken the bit, or gives up waiting, leaves the queue (R102, R284). -/
def State.unqueueLock (s : State) (tile who : Nat) : State :=
  if (s.tile tile).lockQ.any fun e => e.1 == who then
    s.updTile tile fun x => { x with lockQ := x.lockQ.filter fun e => e.1 != who }
  else s

/-- An agent of a core lies in the scope at which a message counts as performed: 1 the sender's tile, 2 the die of its logical
position (R300). -/
def State.inScope (s : State) (m : Msg) (core : Nat) : Bool :=
  (m.seen == 1 && core / 16 == m.core / 16) || (m.seen == 2 && s.dieOf (core / 16) == s.dieOf (m.core / 16))

/-- Bytes that a request of another agent, which counts as performed at a scope that holds this core, has yet to reach: an access
of this core or its engines to them waits, so that no agent of the scope sees them as they were (R300, R308, R309). Engines are agents
of their own, for which their core's requests count too. -/
def State.shaded (s : State) (core k n : Nat) (engine : Bool := false) : Bool :=
  s.net.any fun m => m.waiting && m.seen != 0 && (engine || m.core != core) && s.inScope m core && overlap k n m.kind.span.1 m.kind.span.2

/-- An earlier request of the same core, not of its engines, to bytes of the range is on its way (R90, R303). -/
def State.overlapEarlier (s : State) (core : Nat) (launch : Option Nat) (k n : Nat) (old : Nat → Bool) : Bool :=
  s.net.any fun m => m.core == core && m.launch == launch && m.engine.isNone && m.waiting && old m.id &&
    overlap k n m.kind.span.1 m.kind.span.2

/-- A request is not performed yet: behind an earlier one of its core to the same bytes (R303), a near request behind an
earlier near one (R304), behind what counts as performed at a scope that holds its core (R308), a SENDH record behind any
earlier request of its core (R124). -/
def State.heldUp (s : State) (m : Msg) (h : Home) : Bool :=
  (m.engine.isNone && s.overlapEarlier m.core m.launch m.kind.span.1 m.kind.span.2 fun i => decide (i < m.id)) ||
  (m.engine.isNone && s.near m.core h && s.nearEarlier m.core m.launch fun i => decide (i < m.id)) ||
  s.net.any (fun x => x.waiting && x.seen != 0 && (m.engine.isSome || x.core != m.core) && decide (x.id < m.id) && s.inScope x m.core &&
    overlap m.kind.span.1 m.kind.span.2 x.kind.span.1 x.kind.span.2) ||
  -- a tile's own atomics carry no number: a core's requests to its tile keep their order (R120)
  (m.engine.isNone && m.kind.sequenced && s.net.any fun x => x.core == m.core && x.launch == m.launch && x.engine.isNone && x.waiting &&
    decide (x.id < m.id) && x.chan == m.chan && (x.kind.ownBank (x.core / 16) || m.kind.ownBank (m.core / 16))) ||
  (m.isRecord && s.net.any fun x => x.core == m.core && x.launch == m.launch && x.engine.isNone && x.waiting && decide (x.id < m.id))

/-- An atomic that must wait for the lock bit of its scratchpad word (R106, R284). -/
def State.lockHolds (s : State) (m : Msg) : Option Nat :=
  match m.kind with
  | .atom k _ _ _ _ => if s.lockBlocked (2 ^ 20 + m.id) m.core k then some k else none
  | _ => none

/-- The tile of a message's sender is between fence and resume: what it sent is dropped and its replay sends it again
(R395), so the message stands still until then. -/
def State.senderStopped (s : State) (m : Msg) : Bool := s.refusing (m.core / 16)

/-- A sequenced arrival performed is a step of the tile's port, and a determinant (R389, R390); one of the tile's own at a bank ends the
open episode, which places it among the steps. An atomic that waited for a lock bit has it. -/
def State.notePort (s : State) (m : Msg) (h : Home) : State :=
  match h with
  | .tile t =>
    let s := s.unqueueLock t (2 ^ 20 + m.id)
    if m.kind.takesNumber (m.core / 16) then (s.noteStep t 64).noteDet t (.arrival (m.core / 16) m.kind.vc)
    else if m.kind.ownBank (m.core / 16) then s.closeEpisode t else s
  | _ => s

/-- A request at its receiver (R386): performed when in order, refused by a fenced tile, turned away when early or for want of
room, dropped when it is a duplicate. -/
def State.reach (s : State) (id : Nat) : State :=
  match s.msg? id with
  | none => s
  | some m =>
    match m.kind.home with
    | none => s
    | some h =>
      if m.st = .held ∨ m.st = .performed ∨ m.st = .lost ∨ s.heldUp m h = true ∨ s.senderStopped m = true then s
      else if !m.isRecord && s.absent m.core m.launch h then s.dropAbsent m
      else
        if s.homeRefuses h then s.updMsg id fun y => { y with st := .refused }
        else
          let c := s.channel (m.core / 16) m.chan
          let test := if m.kind.takesNumber (m.core / 16) then seqTest c.accepted m.seq else .inOrder
          match test with
          | .early => s.updMsg id fun y => { y with st := .turned }
          | .duplicate =>
            let s := s.count 11
            match m.kind with
            | .atom _ _ _ _ _ =>
              match c.results.find? fun r => r.1 == m.seq with
              | some r => s.updMsg id fun y => { y with kind := .resp r.2, st := .sent }
              | none => s.dropMsg id
            | _ => s.updMsg id fun y => { y with st := .performed }
          | .inOrder =>
            -- an atomic in order waits for its port and its lock bit (R284)
            if s.portTaken m then s
            else match s.lockHolds m with
            | some k => s.queueLock (2 ^ 20 + id) k
            | none =>
            match (s.notePort m h).perform m with
            | none => s.updMsg id fun y => { y with st := .turned }
            | some s' =>
              let s' := if m.kind.takesNumber (m.core / 16) then
                  let c := s'.channel (m.core / 16) m.chan
                  let res := match (s'.msg? id).map (·.kind) with
                    | some (.resp g) => ((m.seq, g) :: c.results).take 64
                    | _ => c.results
                  s'.setChannel { c with accepted := m.seq, results := res }
                else s'
              if m.isRequest then s' else s'.updMsg id fun y => { y with st := .performed }

/-- A request arrives once every flit of it has crossed the links of its route (R337). -/
def State.arrive (s : State) (id : Nat) : State := if s.crossing id then s else s.reach id

/-- The acknowledgement of a performed write reaches its issuer (R108). -/
def State.acknowledge (s : State) (id : Nat) : State :=
  match s.msg? id with
  | some m => if m.st = .performed ∧ s.senderStopped m = false then s.dropMsg id else s
  | none => s

/-- A general register of a context by its pending code: the handler's bank is 64 + k (R72). Codes from 72 upward are no
register of the context: 72 + k the runtime's own (R139), 128 the mark of an acquiring atomic (R107). -/
def Regs.putCode (r : Regs) (code : Nat) (v : GReg) : Regs :=
  if code = 0 then r
  else if code < 64 then { r with g := vset r.g code v } else { r with gh := vset r.gh (code - 64) v }

/-- The response of an atomic or GET is written into its pending register, or its slot in the saved image (R103); in a pair
both cores receive it (R365). A value from outside the tile is a determinant of the interval in which it arrives (R103, R392). -/
def State.respond (s : State) (id : Nat) : State :=
  match s.msg? id with
  | none => s
  | some m =>
    match m.kind with
    | .resp v =>
      if m.st = .held ∨ m.st = .lost ∨ s.senderStopped m = true ∨ s.crossing id = true then s else
      let s := match (m.launch.bind fun l => s.ctxOf m.core l).bind fun x => x.regs.pend.find? fun p => p.2 == id with
        | some p =>
          if 72 ≤ p.1 ∧ p.1 < 76 then
            let set := fun (s : State) (core : Nat) => s.updCore core fun c => { c with rt := vset c.rt (p.1 - 72) v }
            let pair := s.ctxs.any fun x => x.core == m.core + 1 && x.csrs.pairctl.getLsbD 1 && x.regs.pend.any fun q => q.2 == id
            if pair then set (set s m.core) (m.core + 1) else set s m.core
          else s
        | none => s
      let s := match m.noted with
        | some a => s.noteDet (m.core / 16) (.value a (leBytes 8 v.val.toNat))
        | none => s
      let s := s.mapCtx fun x =>
        if (x.core == m.core && x.launch == m.launch) || x.csrs.pairctl.getLsbD 1 then
          match x.regs.pend.find? fun p => p.2 == id with
          | some p =>
            { x with
              regs := { (x.regs.putCode p.1 v) with pend := x.regs.pend.filter fun q => q.2 != id }
              pair := if x.csrs.pairctl.getLsbD 0 then { x.pair with fresh := x.pair.fresh ++ [p.1] } else x.pair }
          | none => x
        else x
      s.dropMsg id
    | _ => s

/-- A write of the launch has not been performed: its END record waits (R252). -/
def State.unperformed (s : State) (n : Nat) : Bool := s.net.any fun m => m.launch == some n && m.waiting

/-- A write or a pending register of the context is outstanding (R210). -/
def State.outstanding (s : State) (c : Ctx) : Bool :=
  s.net.any (fun m => m.core == c.core && m.launch == c.launch) || !c.regs.pend.isEmpty

/-- A write of the acting core, not of its engines, is not yet acknowledged (R108). -/
def State.unacked (s : State) : Bool :=
  s.net.any fun m => m.core == s.cpu.core && m.launch == s.cpu.launch && m.engine.isNone

/-! ## Scopes of fences and releases (R300, R305, R308, R309) -/

/-- A fence or release at a narrow scope of the acting core need not wait for a request to reach its home: a request to memory
that no rebound tile holds or sends counts as performed for the scope's agents, which wait for it in its place (R300, R308; log
entry 78). -/
def State.coverable (s : State) (m : Msg) : Bool :=
  decide (0 < m.kind.span.2 ∧ (s.tile (s.cpu.core / 16)).cls ≤ 1) &&
    match m.kind.home with
    | some (.tile t) => decide ((s.tile t).cls ≤ 1)
    | _ => true

/-- The number of a narrow scope: 1 tile, 2 die; 0 for dev and sys. -/
def narrowScope : Scope → Nat
  | .tile => 1 | .die => 2 | .dev => 0 | .sys => 0

/-- An earlier access of the acting core is not yet performed at the scope (R309). -/
def State.unackedAt (s : State) (sc : Scope) : Bool :=
  if narrowScope sc = 0 then s.unacked
  else s.net.any fun m => m.core == s.cpu.core && m.launch == s.cpu.launch && m.engine.isNone && m.waiting && !s.coverable m

/-- The acting core's earlier requests, or those of a kind, count as performed at a narrow scope from now on. -/
def State.seenAt (s : State) (sc : Scope) (which : Msg → Bool := fun _ => true) : State :=
  if narrowScope sc = 0 then s
  else { s with net := s.net.map fun m =>
    if m.core == s.cpu.core && m.launch == s.cpu.launch && m.engine.isNone && which m then
      { m with seen := Nat.max m.seen (narrowScope sc) } else m }

end Sys2Proof.Machine
end

