-- ==== Sys2Proof/Machine/Ops.lean ====
section
/-! DEFINITION. The named operations the meanings share: reading and writing registers (R69 to R72, R139), the program
counter (R74), records of the message area (R250, R251), dispatch (R265, R266), creating and ending launches (R73,
R203, R230, R270), taking a trap (R137) and returning from one (R138). -/

namespace Sys2Proof.Machine

/-! ## Registers -/

/-- Read a general register by its code: g0 is DATA zero; codes 56 to 59 name the runtime's own at runtime level, and
48 to 55 the handler's bank in handler state (R71, R72, R139). -/
def State.getG (s : State) (n : Nat) : GReg :=
  if n = 0 then GReg.zero
  else if s.cpu.level = .runtime ∧ 56 ≤ n ∧ n ≤ 59 then vget GReg.zero (s.core s.cpu.core).rt (n - 56)
  else if s.cpu.handler = true ∧ 48 ≤ n ∧ n ≤ 55 then vget GReg.zero s.cpu.regs.gh (n - 48)
  else vget GReg.zero s.cpu.regs.g n

/-- Change the register files of the acting context. -/
def State.modRegs (s : State) (f : Regs → Regs) : State := s.modCpu fun c => { c with regs := f c.regs }

/-- Write a general register by its code; a write to g0 is discarded (R71, R72, R139). -/
def State.setG (s : State) (n : Nat) (v : GReg) : State :=
  if n = 0 then s
  else if s.cpu.level = .runtime ∧ 56 ≤ n ∧ n ≤ 59 then
    s.updCore s.cpu.core fun c => { c with rt := vset c.rt (n - 56) v }
  else if s.cpu.handler = true ∧ 48 ≤ n ∧ n ≤ 55 then s.modRegs fun r => { r with gh := vset r.gh (n - 48) v }
  else s.modRegs fun r => { r with g := vset r.g n v }

/-- put of R80: a DATA result in bits [63:0], bits [127:64] zero. -/
def State.put (s : State) (d : Nat) (x : Word) : State := s.setG d ⟨.data, x.zeroExtend 128⟩

/-- ival of R80: a CAP contributes its ADDR, anything else bits [63:0]. -/
def GReg.ival (g : GReg) : Word :=
  match g.tag with
  | .cap => BitVec.ofNat 64 (capAddr g.val)
  | _ => g.val.truncate 64

/-- ival of a register. -/
def State.ival (s : State) (n : Nat) : Word := (s.getG n).ival

/-- The reason code of a POISON register (R70). -/
def GReg.reason (g : GReg) : Nat := bits g.val.toNat 71 64

/-- The pending code of a register in the present bank (R72, R103, R139). -/
def State.codeOfG (s : State) (n : Nat) : Nat :=
  if s.cpu.level = .runtime ∧ 56 ≤ n ∧ n ≤ 59 then n + 16
  else if s.cpu.handler = true ∧ 48 ≤ n ∧ n ≤ 55 then n + 16 else n

/-- Read a vector register. -/
def State.getV (s : State) (n : Nat) : BitVec 1024 := vget 0 s.cpu.regs.v n

/-- Write a vector register. -/
def State.setV (s : State) (n : Nat) (x : BitVec 1024) : State := s.modRegs fun r => { r with v := vset r.v n x }

/-- Read a predicate register; p0 reads as all ones (R143). -/
def State.getP (s : State) (n : Nat) : BitVec 32 := if n = 0 then 0xFFFFFFFF else vget 0 s.cpu.regs.p n

/-- Write a predicate register; a write to p0 is discarded (R143). -/
def State.setP (s : State) (n : Nat) (x : BitVec 32) : State :=
  if n = 0 then s else s.modRegs fun r => { r with p := vset r.p n x }

/-- Change the CSRs of the acting context. -/
def State.modCsr (s : State) (f : Csrs → Csrs) : State := s.modCpu fun c => { c with csrs := f c.csrs }

/-- REPPROG and VPROG of the present bank (R72, R164). -/
def State.repprog (s : State) : Word := if s.cpu.handler then s.cpu.csrs.repprogH else s.cpu.csrs.repprog
def State.setRepprog (s : State) (x : Word) : State :=
  if s.cpu.handler then s.modCsr fun c => { c with repprogH := x } else s.modCsr fun c => { c with repprog := x }
def State.vprog (s : State) : Word := if s.cpu.handler then s.cpu.csrs.vprogH else s.cpu.csrs.vprog
def State.setVprog (s : State) (x : Word) : State :=
  if s.cpu.handler then s.modCsr fun c => { c with vprogH := x } else s.modCsr fun c => { c with vprog := x }

/-- Seal the open region: REGPC.OPEN becomes 0 (R362). -/
def State.seal (s : State) : State := s.modCsr fun c => { c with regpc := c.regpc &&& 0x7FFFFFFFFFFFFFFF }

/-! ## The program counter -/

/-- The PC: the address field of PCC (R74). -/
def State.pc (s : State) : Nat := capAddr s.cpu.pcc

/-- Replace PCC. -/
def State.setPcc (s : State) (c : Payload) : State := s.modCpu fun x => { x with pcc := c }

/-- Set the PC within PCC. -/
def State.setPc (s : State) (a : Nat) : State := s.setPcc (capSetAddr s.cpu.pcc a)

/-- The PC that an address from a register, a descriptor or a packet gives: a multiple of 4 (R41). What becomes of the low two
bits of a UIVEC, TVEC, TPC, REGPC or ENTRY the spec leaves open; they are dropped (log entry 79). -/
def pcOf (a : Nat) : Nat := a % 2 ^ 52 / 4 * 4

/-- Replace PCC by a capability with ADDR at such an address (R74). -/
def State.enter (s : State) (c : Payload) (a : Nat) : State := s.setPcc (capSetAddr c (pcOf a))

/-- The address after the instruction at the PC. -/
def State.pc4 (s : State) : Nat := (s.pc + 4) % 2 ^ 52

/-- Retire the instruction at the PC: it waits no longer, and the PC moves on by 4. -/
def State.advance (s : State) : State := (s.modCpu fun x => { x with stalled := false }).setPc s.pc4

/-- Something is asked of the acting context's core, or of either core of its pair (R369). -/
def State.asks (s : State) (f : CoreSt → Bool) : Bool :=
  f (s.core s.cpu.core) || (s.cpu.csrs.pairctl.getLsbD 0 && f (s.core (s.cpu.core + 1)))

/-- The instruction at the PC waits by R102: nothing changes but that it is known to wait. -/
def State.stall (s : State) : State := s.modCpu fun x => { x with stalled := true }

/-! ## Front-end records (R251) -/

/-- A front-end record (R251). -/
def State.frontRecord (s : State) (q kind code pid b4 b8 b24 : Nat) : State :=
  s.record q ([BitVec.ofNat 8 kind, BitVec.ofNat 8 code] ++ leBytes 2 pid ++ leBytes 4 b4 ++ leBytes 8 b8 ++
    leBytes 8 s.dtime ++ leBytes 4 b24)

/-! ## Dispatch (R265, R266) -/

/-- A context is on its core: running there, or halted there (R375). -/
def RunSt.onCore : RunSt → Bool
  | .running => true
  | .halted => true
  | _ => false

/-- The acting context of a pair whose checking core this is, on its own core (R129, R369). -/
def State.actingFor (s : State) (core : Nat) : Option Ctx :=
  s.ctxs.find? fun a => a.core + 1 == core && a.csrs.pairctl.getLsbD 0 && !a.csrs.pairctl.getLsbD 1 && a.run.onCore

/-- The launch that a context runs for; a pair's checking context runs for that of the acting one (R369). -/
def State.launchOn (s : State) (c : Ctx) : Option Nat :=
  c.launch.or (if c.csrs.pairctl.getLsbD 1 then (s.actingFor c.core).bind Ctx.launch else none)

/-- The deadline a context is dispatched by (R264, R266). -/
def State.deadlineOf (s : State) (c : Ctx) : Nat :=
  match (s.launchOn c).bind s.launch? with
  | some l => if l.demoted then 2 ^ 64 - 1 else l.deadline
  | none => 2 ^ 64 - 1

/-- Dispatch order of two contexts: deadline, then queue number, then admission (R266). -/
def State.before (s : State) (a b : Ctx) : Bool :=
  let q := fun c : Ctx => match c.launch.bind s.launch? with
    | some l => l.pkt.queue
    | none => 256
  let da := s.deadlineOf a; let db := s.deadlineOf b
  decide (da < db) || (da == db && (decide (q a < q b) || (q a == q b && decide (a.launch.getD 0 < b.launch.getD 0))))

/-- Two core names stand for one physical core: they are the same, or a guest tile shares the physical tile of the other (R397). -/
def State.sameCore (s : State) (a b : Nat) : Bool :=
  a == b || (a % 16 == b % 16 && (s.tile (a / 16)).phys == (s.tile (b / 16)).phys &&
    ((s.tile (a / 16)).shared || (s.tile (b / 16)).shared))

/-- The ready context that runs next on a core, a guest's among them (R266, R397). -/
def State.pick (s : State) (core : Nat) : Option Ctx :=
  (s.others.filter fun c => s.sameCore c.core core && c.run == .ready).foldl
    (fun best c => match best with
      | none => some c
      | some b => if s.before c b then some c else some b) none

/-- The names of a physical core: the given one, and those of the tiles that share its physical tile (R397). -/
def State.namesOf (s : State) (core : Nat) : List Nat :=
  (core :: (s.onPhys (s.tile (core / 16)).phys).map fun t => t * 16 + core % 16).eraseDups

/-- A debugger is attached to the physical core (R397, R416). -/
def State.attachedAt (s : State) (core : Nat) : Bool := (s.namesOf core).any fun k => (s.core k).attached

/-- Some context is on the core. -/
def State.busyCore (s : State) (core : Nat) : Bool := s.ctxs.any fun c => s.sameCore c.core core && c.run.onCore

/-- Replace one context of the others by its core and launch. -/
def State.dropOther (s : State) (c : Ctx) : State :=
  { s with others := s.others.filter fun x => !(x.core == c.core && x.launch == c.launch && x.run == c.run) }

/-- The core is the checking core of a pair that waits for it, and no context that is ready there comes before the pair's (R266,
R369). -/
def State.pairFirst (s : State) (core : Nat) : Bool :=
  match s.actingFor core with
  | none => false
  | some a => match s.pick core with
    | some y => !s.before y a
    | none => true

/-- A core with no context on it takes the earliest ready one at once (R266). -/
def State.dispatch (s : State) (core : Nat) : State :=
  if s.busyCore core || s.pairFirst core then s
  else
    match s.pick core with
    | none => s
    | some c =>
      let s := ((s.dropOther c).updCore c.core fun x => { x with preReq := false, switched := true }).noteSwitch c.core 2
        (c.launch.getD 0)
      let c := { c with run := .running }
      if s.cpu.core = c.core then
        let old := s.cpu
        let s := { s with cpu := c }
        if old.launch.isSome && !old.run.onCore && old.run != .ended then { s with others := s.others ++ [old] } else s
      else { s with others := s.others ++ [c] }

/-- A context that becomes ready requests pre-emption when its deadline plus MIN of the running context lies before the
running one's (R266). -/
def State.requestFor (s : State) (core launch : Nat) : State :=
  match s.ctxOf core launch, s.ctxs.find? fun c => s.sameCore c.core core && c.run == .running with
  | some c, some r =>
    if s.deadlineOf c + bits r.csrs.preempt.toNat 31 0 < s.deadlineOf r then
      s.updCore r.core fun x => { x with preReq := true }
    else s
  | _, _ => s

/-- A context becomes ready (R265): dispatched at once on a core that is free, else it may request pre-emption. -/
def State.makeReady (s : State) (core launch : Nat) : State :=
  let s := (s.updCtx core launch fun c => if c.run.onCore then c else { c with run := .ready }).noteSwitch core 4 launch
  (s.dispatch core).requestFor core launch

/-- A held lock is lost at a stop through the switch sequence, and an LDLK that waits gives up (R102, R110). -/
def State.loseLock (s : State) (core : Nat) : State :=
  (s.updCore core fun c => { c with lock := none }).unqueueLock (core / 16) core

/-- Change every command of an engine set. -/
def Engines.each (e : Engines) (f : Cmd → Cmd) : Engines :=
  let g : EngQ → EngQ := fun q => { q with cmds := q.cmds.map f }
  { e with me := g e.me, ce := g e.ce, ca := g e.ca }

/-- A stop releases the pattern slots and the slots of the reduction switch that its commands hold (R287, R346) and discards operand
buffers (R323); write-backs that are pending are performed again in full before their command goes on (R185), a reduction in progress is abandoned (R202), and a frame that is cut short is captured
again (R54). -/
def Ctx.releaseSlots (c : Ctx) : Ctx :=
  { c with eng := c.eng.each (fun x => { x with
    slot := false, buffer := [], held := [], wb := x.wb.map fun w => (w.1, []), flush := !x.wb.isEmpty }), frame := none }

/-- A core without a context: what stands on it then. -/
def emptyCore (core : Nat) : Ctx := { Ctx.reset with core := core }

/-- A placeholder: no context is on the acting core. -/
def Ctx.isEmpty (c : Ctx) : Bool := c.launch.isNone && c.run == .ended

/-- Make one of the other contexts the acting one. -/
def State.focus (s : State) (c : Ctx) : State :=
  let rest := s.others.filter fun x => !(x.core == c.core && x.launch == c.launch && x.run == c.run)
  { s with cpu := c, others := if s.cpu.isEmpty then rest else rest ++ [s.cpu] }

/-- Make a core the acting one: the context on it, or none. -/
def State.turnTo (s : State) (core : Nat) : State :=
  if s.cpu.core = core ∧ s.cpu.run.onCore = true then s
  else
    match s.others.find? fun c => c.core == core && c.run.onCore with
    | some c => s.focus c
    | none => { s with cpu := emptyCore core, others := if s.cpu.isEmpty then s.others else s.others ++ [s.cpu] }

/-- The cores that halt and resume with a core: its gang, or its pair (R416). -/
def State.together (s : State) (core : Nat) : List Nat :=
  match s.ctxs.find? fun c => c.core == core && c.run.onCore with
  | none => [core]
  | some c =>
    if c.csrs.pairctl.getLsbD 0 then [core / 2 * 2, core / 2 * 2 + 1]
    else match c.gang with
      | some g => if g.formed then (List.range g.size).map fun i => core / g.size * g.size + i else [core]
      | none => [core]

/-- The acting context is one that issues instructions: it runs, its tile is in service, and it is no checking core (R356, R375, R394). -/
def State.live (s : State) : Bool :=
  s.cpu.run == .running && (s.tile (s.cpu.core / 16)).st == .run && !s.cpu.csrs.pairctl.getLsbD 1

/-- Do something as another context, and return to the acting core. -/
def State.asCtx (s : State) (c : Ctx) (f : State → State) : State :=
  let me := s.cpu.core
  if c.core = me ∧ s.cpu.run.onCore = true then f s else (f (s.focus c)).turnTo me

/-- The save and the spill of a context that stops write its save image, accumulators included, and its context buffer: their lines are
dirty (R258, R271, R383). What the lines hold is the context's record (log entry 11). -/
def State.saveLines (s : State) (c : Ctx) : State :=
  match c.launch.bind s.launch? with
  | none => s
  | some l =>
    let k := tcmKey c.core (l.base + l.pkt.foot)
    let banks := 1 + (c.eng.hold.toList.filter Option.isSome).length
    (s.markRange (c.core / 16) k (8192 + 4096 * l.pkt.accn * banks)).markRange (c.core / 16)
      (k + 8192 + 4096 * l.pkt.accn * (if l.pkt.specok then 2 else 1)) 8192

/-- The acting context parks (R265): it leaves its core, which takes the next ready context. -/
def State.park (s : State) (w : WaitIn) : State :=
  let core := s.cpu.core
  let s := (((s.modCpu fun c => { c with run := .parked w, stalled := true }).loseLock core).noteSwitch core 3
    (s.cpu.launch.getD 0)).saveLines s.cpu
  let old := s.cpu
  ({ s with cpu := emptyCore core, others := s.others ++ [old] }).dispatch core

/-- A wait in which a context parks once its engines have nothing queued or active (R265); a context of no launch, which
only `withFetchWord` makes, just waits (log entry 1). -/
def State.waitIn (s : State) (w : WaitIn) : State :=
  let e := s.cpu.eng
  if s.cpu.launch.isSome && e.me.cmds.isEmpty && e.ce.cmds.isEmpty && e.ca.cmds.isEmpty then s.park w else s.stall

/-! ## Launches -/

/-- Permissions of R67 and R73, R in bit 5 down to G in bit 0. -/
def permText : Nat := 44
def permTcm : Nat := 54
def permSpad : Nat := 55
def permWindow : Nat := 49

/-- The launch's text capability: the KIND 1 range with R, X and LC (R257). -/
def Launch.text (l : Launch) : Payload :=
  match l.pkt.ranges.find? fun r => r.text with
  | some r => capOver permText r.va (r.count * 2 ^ r.bits) r.va
  | none => 0

/-- What PCC covers for a context without a launch, which only `withFetchWord` makes: its core's TCM (log entry 1). -/
def bareText : Payload := capOver permText 0 0x20000 0

/-- The text capability of application level (R138). -/
def State.appText (s : State) : Payload :=
  match s.curLaunch with
  | some l => l.text
  | none => bareText

/-- The runtime's text capability: the top 8 KiB of the TCM with R, X and LC (R139, R258). -/
def runtimeText : Payload := capOver permText 0x1E000 0x2000 0x1E000

/-- Registers of a created context (R73, R203, R204). -/
def Launch.regs (l : Launch) (root : Bool) : Regs :=
  let lo := l.tiles.foldl Nat.min (2 ^ 16)
  let hi := l.tiles.foldl Nat.max 0
  let wbase := 0x080000000000 + lo * 2 ^ 24
  let g := (Vector.replicate 64 GReg.zero)
  let args : List Word := if root then l.pkt.args else []
  let g := (List.range 5).foldl (fun g i => vset g (i + 1) ⟨.data, ((args[i]?).getD 0).zeroExtend 128⟩) g
  let g := if root then vset g 6 ⟨.cap, capOver permWindow wbase ((hi + 1 - lo) * 2 ^ 24) wbase⟩ else g
  let g := vset g 60 ⟨.cap, capOver permTcm l.base l.pkt.foot l.base⟩
  let g := vset g 61 ⟨.cap, capOver permSpad 0x10000000 0x200000 0x10000000⟩
  let g := vset g 62 ⟨.cap, capOver permTcm (l.base + l.pkt.foot - l.pkt.foot / 8) (l.pkt.foot / 8)
    (l.base + l.pkt.foot)⟩
  { Regs.reset with g := g }

/-- The root task's cores: every core with EVERY, else core 0 of the tile at ORIGIN of domain 0 (R203, R209). -/
def Launch.isRoot (l : Launch) (core : Nat) : Bool :=
  l.pkt.every || (match l.domains with
    | d :: _ => core == domOrigin d * 16
    | [] => false)

/-- A context of a launch as the device creates it (R73, R140, R209). -/
def Launch.newCtx (l : Launch) (n core : Nat) : Ctx :=
  let root := l.isRoot core
  let pcc := capSetAddr l.text (pcOf l.pkt.entry)
  let dom := ((l.domains.find? fun d => inDomain d (core / 16)).getD 0)
  { Ctx.reset with
    core := core, launch := some n, run := if root then .ready else .parked .done,
    regs := l.regs root, csrs := { Csrs.reset with domain := dom },
    pcc := pcc, poolSeen := l.pkt.budget * 1024 - l.charged
    task := { TaskSt.reset with
      running := root
      idle := if root then none else some (capAddr pcc, false, .app)
      current := if root then some { entry := l.pkt.entry, arg := 0, body := .plain 0 0 } else none }
    stalled := !root }

/-- Zero a launch's reservation on a core (R258); its lines are dirty (R383). -/
def State.zeroReservation (s : State) (l : Launch) (core : Nat) : State :=
  let n := reservation l.pkt.foot l.pkt.accn l.pkt.specok
  let k := tcmKey core l.base
  let s := s.markRange (core / 16) k n
  { s with mem := { s.mem with
      bytes := s.mem.bytes.filter fun c => !(decide (k ≤ c.1 ∧ c.1 < k + n))
      tags := s.mem.tags.filter fun t => !(decide (k ≤ t ∧ t < k + n))
      marks := s.mem.marks.filter fun t => !(decide (k ≤ t ∧ t < k + n))
      bad := s.mem.bad.filter fun t => !(decide (k ≤ t ∧ t < k + n))
      soft := s.mem.soft.filter fun t => !(decide (k ≤ t ∧ t < k + n))
      badCheck := s.mem.badCheck.filter fun c => !(decide (k ≤ c.1 ∧ c.1 < k + n)) } }

/-- Create a launch's context on a core, and start its root task there (R73, R203, R209, R230). -/
def State.createContext (s : State) (l : Launch) (n core : Nat) : State :=
  let s := s.zeroReservation l core
  let s := { s with others := s.others ++ [l.newCtx n core] }
  if l.isRoot core then (s.dispatch core).requestFor core n else s

/-- Create a launch's contexts; those of a tile between fence and resume are owed until its resume (R230, R395). A tile that migrates
as planned is in no recovery (R403). -/
def State.createContexts (s : State) (n : Nat) : State :=
  match s.launch? n with
  | none => s
  | some l =>
    let inRecovery := l.tiles.any fun t => (s.tile t).st.refuses && (s.tile t).st != .migrate
    let s := s.updLaunch n fun l => { l with st := .running, recovered := l.recovered || inRecovery }
    l.tiles.foldl (fun s t =>
      if (s.tile t).st.refuses then s.updTile t fun x => { x with owed := x.owed ++ [n] }
      else ((List.range 16).map fun c => t * 16 + c).foldl (fun s core => s.createContext l n core) s) s

/-- At a tile's resume its owed contexts are created, for launches that have not ended (R230). -/
def State.createOwed (s : State) (t : Nat) : State :=
  let ns := (s.tile t).owed
  ns.foldl (fun s n => match s.launch? n with
    | some l => if l.live then ((List.range 16).map fun c => t * 16 + c).foldl (fun s core => s.createContext l n core) s else s
    | none => s) (s.updTile t fun x => { x with owed := [] })

/-- Held launches that name a predecessor start (R230). -/
def State.startSuccessors (s : State) (n : Nat) : State :=
  (s.launches.filter fun p => p.2.pkt.pred == some n && p.2.st == .held).foldl
    (fun s p => s.createContexts p.1) s

/-- What tells one pin from another: its key, size and class. -/
def Pin.code (p : Pin) : Nat := (p.key * 64 + p.bits) * 8 + p.cls

/-- Release one pin of each code (R257). -/
def releasePins (pins : List Pin) (codes : List Nat) : List Pin :=
  (codes.foldl (fun ps k => ps.map fun p => if p.code = k then { p with count := p.count - 1 } else p) pins).filter
    fun p => decide (p.count > 0)

/-- Kept packets have ended: in the lists, and for a WAITPKT that waits for one (R249). -/
def State.keptEnded (s : State) (p : KeptId → Bool) : State :=
  let f : KeptId → KeptId := fun k => { k with ended := k.ended || p k }
  { s with front := { s.front with queues := s.front.queues.map fun q =>
      (q.1, { q.2 with kept := q.2.kept.map f, awaits := q.2.awaits.map f }) } }

/-- The LAUNCH packet of a launch has ended (R249). -/
def State.markEnded (s : State) (n : Nat) : State := s.keptEnded fun k => k.launch == some n

/-- A context of a launch that ends leaves its core, which loses its lock, and what it asked of the core goes with it (R110, R270
step 1, R363); the core's stop is a determinant (R390). -/
def State.removeCtxs (s : State) (n : Nat) : State :=
  let s := (s.ctxs.filter fun c => c.launch == some n && c.run.onCore).foldl (fun s c =>
    let s := (s.loseLock c.core).updCore c.core fun k => { k with rollReq := false }
    if (s.tile (c.core / 16)).st = .run then s.noteSwitch c.core 6 n else s) s
  let s := { s with others := s.others.filter fun c => c.launch != some n }
  if s.cpu.launch = some n then { s with cpu := emptyCore s.cpu.core } else s

/-- TLB entries of a launch leave the tile's levels (R294). -/
def State.flushTlb (s : State) (n : Nat) : State :=
  { s with
    cores := s.cores.map fun c => (c.1, { c.2 with
      itlb := c.2.itlb.filter (fun e => e.launch != n), dtlb := c.2.dtlb.filter (fun e => e.launch != n) })
    tiles := s.tiles.map fun t => (t.1, { t.2 with tlb := t.2.tlb.filter fun e => e.launch != n }) }

/-- The END record of a launch waits for it (R252): a write of it is still to be performed, a tile of its partition lies in
recovery, where its contexts stop at the resume (R402), or one has determinants that the buddy has not acknowledged (R391). -/
def State.endWaits (s : State) (n : Nat) (l : Launch) : Bool :=
  s.unperformed n || l.tiles.any fun t => (s.tile t).st.refuses || ((s.tile t).st == .run && s.detsOpen t)

/-- A tile of the launch's partition lies in recovery, where its contexts stop at the resume (R402); a held launch has none. -/
def State.recovering (s : State) (l : Launch) : Bool := l.st != .held && l.tiles.any fun t => (s.tile t).st.refuses && (s.tile t).st != .migrate

/-- What an ended launch held is free once its contexts have stopped: its pins, its packet's number for those that wait on it, and its
successors start (R270). -/
def State.freeLaunch (s : State) (n : Nat) (pins : List Nat) : State :=
  let s := { s with front := { s.front with pins := releasePins s.front.pins pins } }
  (s.markEnded n).startSuccessors n

/-- Write the END record of a launch that has ended, once nothing holds it up (R252); what a recovery still held is freed first
(R402). -/
def State.finishEnd (s : State) (n : Nat) : State :=
  match s.launch? n with
  | none => s
  | some l =>
    match l.endRec with
    | none => s
    | some (code, b4, b8, b24) =>
      let s := if l.toFree && !s.recovering l then (s.updLaunch n fun l => { l with toFree := false }).freeLaunch n l.pins else s
      if s.endWaits n l then s
      else
        let s := s.updLaunch n fun l => { l with endRec := none }
        s.frontRecord l.pkt.queue 2 code l.pkt.pid b4 b8 (if code = 3 then b24 else Nat.min (l.recovery / 1024) (2 ^ 32 - 1))

/-- END records that wait are written as soon as they may be. -/
def State.finishEnds (s : State) : State :=
  (s.launches.filter fun l => l.2.endRec.isSome).foldl (fun s l => s.finishEnd l.1) s

/-- End a launch (R252, R270): its contexts stop, its engine commands go, its reservations and pins are freed, its successors
start, and the END record is written once its writes are performed. What contexts of a tile in recovery hold is freed at the resume,
where they stop (R402). `b4` and `b24` are the core name and cause of code 0x03, `b8` the page of code 0x04. -/
def State.endLaunch (s : State) (n code b4 b24 : Nat) (b8 : Option Nat := none) : State :=
  match s.launch? n with
  | none => s
  | some l =>
    if !l.live then s else
    let cores := l.cores
    let late := s.recovering l
    let s := (s.removeCtxs n).flushTlb n
    let s := s.updLaunch n fun l => { l with
      st := .ended code, pool := 0, shares := [], toFree := late
      endRec := some (code, b4, b8.getD l.charged, b24) }
    let s := if late then s else s.freeLaunch n l.pins
    cores.foldl State.dispatch (s.finishEnd n)

/-! ## Translation (R292, R293) -/

/-- The index of a level (R292). -/
def walkIndex (lvl va : Nat) : Nat :=
  match lvl with
  | 0 => bits va 51 39 | 1 => bits va 38 30 | 2 => bits va 29 21 | _ => bits va 20 16

/-- Address bits of a page whose leaf lies at a level (R292). -/
def pageBits (lvl : Nat) : Nat :=
  match lvl with
  | 1 => 30 | 2 => 21 | _ => 16

/-- Address bits of a node at a level (R292). -/
def nodeBits (lvl : Nat) : Nat :=
  match lvl with
  | 0 => 16 | 3 => 8 | _ => 12

/-- A node lies in a frame that a pin holds (R296); a frame is 64 KiB, the smallest page (log entry 18). -/
def State.framePinned (s : State) (a : Nat) : Bool :=
  s.front.pins.any fun p => p.cls == 4 && p.key == devKey (a / 2 ^ 16 * 2 ^ 16)

/-- A leaf as the walk returns it: the key of the page's first byte, its size in bits, its class. -/
structure Leaf where
  key : Nat
  bits : Nat
  cls : Nat
  deriving DecidableEq, Repr

/-- The host a leaf names, or device memory (R292). -/
def leafKey (e : Nat) : Nat := if bit e 4 then hostKey (bits e 5 5) (bits e 63 8 * 256) else devKey (bits e 63 8 * 256)

/-- The frame of a node is among pins, which name each by `Pin.code` (R293, R296). -/
def pinnedBy (pins : List Nat) (a : Nat) : Bool := pins.elem (Pin.code { key := devKey (a / 2 ^ 16 * 2 ^ 16), bits := 16, cls := 4, count := 1 })

/-- One level of the walk of R293 from node n; `pins` are the launch's, among which a node's frame must be; a walk that pins has none
yet. The fuel is the levels left. -/
def walkFrom (s : State) (ranges : List WRange) (va : Nat) (pins : Option (List Nat)) : Nat → Nat → Nat → Option Leaf
  | 0, _, _ => none
  | fuel + 1, lvl, n =>
    if !devOk n || pins.any (fun ps => !pinnedBy ps n) then none
    else
      let k := devKey (n + 8 * walkIndex lvl va)
      let e := s.mem.nat k 8
      let a := bits e 63 8 * 256
      if s.mem.marked k 8 || nmem s.mem.bad k || !bit e 0 || bits e 7 6 != 0 then none
      else if !bit e 1 then
        if lvl = 3 || bits e 5 2 != 0 || a % 2 ^ nodeBits (lvl + 1) != 0 then none
        else walkFrom s ranges va pins fuel (lvl + 1) a
      else
        let pb := pageBits lvl
        let cls := bits e 3 2
        if lvl = 0 || a % 2 ^ pb != 0 then none
        else if bit e 4 && cls == 1 then none
        else if !bit e 4 && (decide (a + 2 ^ pb > devEnd) || inDriftLog a || inDriftLog (a + 2 ^ pb - 1)) then none
        else
          match ranges.find? fun r => decide (r.va ≤ va ∧ va < r.va + r.count * 2 ^ r.bits) with
          | none => none
          | some r => if r.bits = pb ∧ r.cls = cls then some ⟨leafKey e, pb, cls⟩ else none

/-- walk of R293. -/
def walk (s : State) (l : Launch) (va : Nat) : Option Leaf := walkFrom s l.pkt.ranges va (some l.pins) 4 0 l.pkt.root

/-- The entries that a walk reads, level by level (R293). -/
def walkKeys (s : State) (va : Nat) (pins : Option (List Nat)) : Nat → Nat → Nat → List Nat
  | 0, _, _ => []
  | fuel + 1, lvl, n =>
    if !devOk n || pins.any (fun ps => !pinnedBy ps n) then []
    else
      let k := devKey (n + 8 * walkIndex lvl va)
      let e := s.mem.nat k 8
      if s.mem.marked k 8 || nmem s.mem.bad k || !bit e 0 || bit e 1 then [k]
      else k :: walkKeys s va pins fuel (lvl + 1) (bits e 63 8 * 256)

/-- What a walk's reads meet: errors are corrected or marked, and recorded (R298). -/
def State.meetWalk (s : State) (launch : Option Nat) (va by_ : Nat) : State :=
  match launch.bind s.launch? with
  | some l => (walkKeys s va (some l.pins) 4 0 l.pkt.root).foldl (fun s k => s.meetRead k 8 by_) s
  | none => s

/-! ## Traps (R137, R138) -/

/-- A trap that an instruction raises: cause, TVAL and TELEM (R17, R141). -/
structure Trap where
  cause : Nat
  tval : Nat
  telem : Nat := 0
  deriving DecidableEq, Repr

/-- TSTAT fields (R138). -/
def Level.code : Level → Nat
  | .app => 0 | .runtime => 1 | .firmware => 2

/-- The level of a code. -/
def levelOf : Nat → Level
  | 0 => .app | 1 => .runtime | _ => .firmware
def tstatIE (t : Word) : Bool := t.getLsbD 0

/-- A trap at firmware level, or at runtime level with IE = 0, escalates: the context stops and its launch ends by
fault, with the core's name and the cause (R137, R139). -/
def State.escalate (s : State) (cause : Nat) : State :=
  match s.cpu.launch with
  | some n => s.endLaunch n 3 s.cpu.core cause
  | none => s.modCpu fun c => { c with run := .ended, stalled := false }

/-- Dissolve the gang of the acting core: a trap in a member stops every member after the same instruction (R128). -/
def State.dissolveGang (s : State) : State :=
  match s.cpu.gang with
  | none => s
  | some g =>
    let base := s.cpu.core / g.size * g.size
    s.mapCtx fun c =>
      if g.formed && decide (base ≤ c.core ∧ c.core < base + g.size) && c.launch == s.cpu.launch then
        { c with gang := none }
      else c

/-- A stop abandons a GANG or a PAIR that waits: it leaves no effect (R102). -/
def State.abandon (s : State) : State :=
  s.modCpu fun c => { c with
    gang := match c.gang with
      | some g => if g.formed then some g else none
      | none => none
    pair := { c.pair with waiting := none } }

/-- Taking an exception (R137): the one operation every trap and interrupt goes through. `tcause` is the word written to
TCAUSE, interrupt bit included. A held lock is lost and the region is sealed (R110, R362). -/
def State.takeTrapWord (s : State) (tcause : Word) (tval telem : Nat) : State :=
  let s := s.dissolveGang.abandon
  if s.cpu.level = .firmware ∨ (s.cpu.level = .runtime ∧ tstatIE s.cpu.csrs.tstat = false) then
    s.escalate (tcause.toNat % 2 ^ 63)
  else
    let pc := s.pc
    let lvl := s.cpu.level.code
    let s := s.seal.loseLock s.cpu.core
    let s := if tcause.getLsbD 63 || tcause == 14 || tcause == 15 then s.noteSwitch s.cpu.core 5 (s.cpu.launch.getD 0) else s
    let s := s.modCsr fun c =>
      { c with
        tcause := tcause, tval := BitVec.ofNat 64 tval, telem := BitVec.ofNat 64 (telem % 2 ^ 28),
        tpc := BitVec.ofNat 64 pc,
        tstat := BitVec.ofNat 64 ((if s.cpu.handler then 16 else 0) + lvl * 4 +
          (if tstatIE c.tstat then 2 else 0)) }
    (s.modCpu fun c => { c with level := .runtime, handler := false, stalled := false, entered := tcause :: c.entered, frame := none }).enter
      runtimeText s.cpu.csrs.tvec.toNat

/-- Take the trap of an instruction; a walk that failed has met what its reads met (R298). -/
def State.takeTrap (s : State) (t : Trap) : State :=
  (if t.cause = 8 then s.meetWalk s.cpu.launch t.tval s.cpu.core else s).takeTrapWord (BitVec.ofNat 64 t.cause) t.tval t.telem

/-- Take an interrupt: TCAUSE[63] is set (R137). DESIGN CHOICE (log entry 100): TVAL and TELEM become 0, for which the spec states no
value. -/
def State.takeInterrupt (s : State) (code : Nat) : State := s.takeTrapWord (BitVec.ofNat 64 (2 ^ 63 + code)) 0 0

/-- Illegal instruction, or an operand value an instruction declares illegal: cause 0x01, TVAL the word (R141). -/
def illegal (w : Nat) : Trap := ⟨1, w, 0⟩

/-- A meaning's pure part and its final state: a trap is taken, a wait stalls, a result retires. -/
inductive Out (α : Type)
  | ok (a : α)
  | trap (t : Trap)
  | wait

/-- Bind of checks: the first trap or wait decides. -/
def Out.bind {α β : Type} : Out α → (α → Out β) → Out β
  | .ok a, f => f a
  | .trap t, _ => .trap t
  | .wait, _ => .wait

/-- What a step of the machine answers. -/
abbrev Res := Host.Outcome State Fault Refusal

/-- Finish an instruction: retire into the given state, trap, or wait, all of them next states. -/
def State.finish (s : State) : Out State → Res
  | .ok t => .next t.advance
  | .trap t => .next (s.takeTrap t)
  | .wait => .next s.stall

/-- Finish an instruction that sets the PC itself. -/
def State.finishJump (s : State) : Out State → Res
  | .ok t => .next (t.modCpu fun x => { x with stalled := false })
  | .trap t => .next (s.takeTrap t)
  | .wait => .next s.stall

/-- Returning from an exception (R138), for PREV at most the present level: level, IE and handler state come back, and
PCC is the text capability of that level with ADDR = TPC; that of firmware level is what boot set (R139). -/
def State.eretTo (s : State) : State :=
  let t := s.cpu.csrs.tstat.toNat
  let lvl := levelOf (bits t 3 2)
  let cap := match lvl with
    | .app => s.appText
    | .runtime => runtimeText
    | .firmware => s.dev.fwText
  let s := s.modCsr fun c =>
    { c with tstat := BitVec.ofNat 64 (t / 2 * 2 + bits t 1 1) }
  (s.modCpu fun c => { c with level := lvl, handler := bit t 4, stalled := false, entered := c.entered.drop 1 }).enter cap
    s.cpu.csrs.tpc.toNat

/-- The level of the acting core is below the one an instruction needs (R136). -/
def State.below (s : State) (l : Level) : Bool := decide (s.cpu.level.code < l.code)

end Sys2Proof.Machine
end

