-- ==== Sys2Proof/Machine/Operands.lean ====
section
/-! DEFINITION. Every operand form: capability checks (R77), windows and translation (R280, R281, R292 to R295),
scalar reads and writes of memory (R85 to R91), value operands (R101), descriptors in register pairs (R116), vector
lanes and stream sources (R50, R142 to R149). -/

namespace Sys2Proof.Machine

/-! ## Capability check (R77) -/

/-- cap_check of R77 for a register value at ea. -/
def capCheck (g : GReg) (ea size : Nat) (need : Perm) : Out Unit :=
  match g.tag with
  | .poison => .trap ⟨6, g.reason, 0⟩
  | .data => .trap ⟨2, ea, 0⟩
  | .cap =>
    if !capHas g.val need then .trap ⟨4, ea, 0⟩
    else if ea < capBase g.val || capBase g.val + capLen g.val < ea + size then .trap ⟨3, ea, 0⟩
    else if ea % size ≠ 0 then .trap ⟨5, ea, 0⟩
    else .ok ()

/-- ADDR bits [51:0] of a register, whatever its tag (R77, R101). -/
def GReg.addr (g : GReg) : Nat := capAddr g.val

/-! ## Windows (R280, R281) -/

/-- Where an address leads: the key, the page class (4 for tile memory), and the TLB entry used. -/
structure Loc where
  key : Nat
  cls : Nat
  tlb : Option TlbEntry
  deriving DecidableEq, Repr

/-- Base of the remote-tile window (R280). -/
def remoteBase : Nat := 0x080000000000

/-- An address of the translated window (R280). -/
def inTranslated (ea : Nat) : Bool :=
  decide ((0x010000000000 ≤ ea ∧ ea ≤ 0x07FFFFFFFFFF) ∨ (0x090000000000 ≤ ea ∧ ea < 2 ^ 52))

/-- A TLB entry of the launch that covers an address (R294). -/
def tlbHit (es : List TlbEntry) (launch ea : Nat) : Option TlbEntry :=
  es.find? fun e => e.launch == launch && e.page == ea / 2 ^ e.bits

/-- Translate an address for a launch from the TLB levels given or by the walk (R293, R294); none is a walk failure. -/
def State.translate (s : State) (n : Nat) (tlb : List TlbEntry) (ea : Nat) : Option TlbEntry :=
  match tlbHit tlb n ea with
  | some e => some e
  | none =>
    match s.launch? n with
    | none => none
    | some l => (walk s l ea).map fun lf =>
        { launch := n, page := ea / 2 ^ lf.bits, bits := lf.bits, base := lf.key, cls := lf.cls }

/-- The checks of R281 on a remote-tile address. -/
def State.remote (s : State) (launch : Option Nat) (ea : Nat) : Out Loc :=
  let t := (ea - remoteBase) / 2 ^ 24
  let x := ea % 2 ^ 24
  if !s.enumerated t then .trap ⟨7, ea, 0⟩
  else
    match launch.bind s.launch? with
    | none => .trap ⟨4, ea, 0⟩
    | some l =>
      if !l.hasTile t then .trap ⟨4, ea, 0⟩
      else if x < 0x200000 then .ok ⟨spadKey t x, 4, none⟩
      else if x < 0x800000 || 0xA00000 ≤ x then .trap ⟨4, ea, 0⟩
      else
        let c := (x - 0x800000) / 0x20000
        let y := x % 0x20000
        if y < l.base || l.base + l.pkt.foot ≤ y then .trap ⟨4, ea, 0⟩
        else .ok ⟨tcmKey (t * 16 + c) y, 4, none⟩

/-- Where a data access of a core leads (R280, R281, R86 step 2). -/
def State.locate (s : State) (core : Nat) (launch : Option Nat) (tlb : List TlbEntry) (ea : Nat) : Out Loc :=
  if ea < 0x20000 then .ok ⟨tcmKey core ea, 4, none⟩
  else if 0x10000000 ≤ ea ∧ ea < 0x10200000 then .ok ⟨spadKey (core / 16) (ea - 0x10000000), 4, none⟩
  else if remoteBase ≤ ea ∧ ea < 0x090000000000 then s.remote launch ea
  else if inTranslated ea then
    match launch with
    | none => .trap ⟨8, ea, 0⟩
    | some n =>
      match s.translate n tlb ea with
      | some e => .ok ⟨e.base + ea % 2 ^ e.bits, e.cls, some e⟩
      | none => .trap ⟨8, ea, 0⟩
  else .trap ⟨4, ea, 0⟩

/-- A TLB takes an entry it did not hold, dropping its oldest when full (R294; the choice is log entry 19). -/
def tlbFill (cap : Nat) (es : List TlbEntry) (e : TlbEntry) : List TlbEntry :=
  if es.elem e then es else (e :: es).take cap

/-- The TLB levels that a core's data accesses look up: its own, then the tile's shared one (R294). -/
def State.dataTlb (s : State) (core : Nat) : List TlbEntry := (s.core core).dtlb ++ (s.tile (core / 16)).tlb

/-- What an access to a page leaves behind: the TLB entries, the core's own only for its own access, with what a walk met
(R294, R298), and the RAW mark of R393. -/
def State.noteAccess (s : State) (core : Nat) (launch : Option Nat) (loc : Loc) (ea : Nat) (engine : Bool := false) : State :=
  let s := match loc.tlb with
    | some e =>
      let s := if ((if engine then [] else (s.core core).dtlb) ++ (s.tile (core / 16)).tlb).elem e then s
        else s.meetWalk launch ea core
      let s := if engine then s else s.updCore core fun c => { c with dtlb := tlbFill 32 c.dtlb e }
      s.updTile (core / 16) fun t => { t with tlb := tlbFill 1024 t.tlb e }
    | none => s
  match launch with
  | some l =>
    if loc.cls = 3 then
      s.updLaunch l fun x =>
        if x.raw.any fun r => r.1 == core / 16 then x
        else { x with raw := x.raw ++ [(core / 16, match loc.tlb with
          | some e => e.page * 2 ^ e.bits
          | none => ea)] }
    else s
  | none => s

/-- A value read there is a determinant: through the remote-tile window, from a LOG page, or by an ordinary read from a VER page
(R297, R392). -/
def Loc.recorded (loc : Loc) (ea : Nat) : Bool :=
  loc.cls == 2 || loc.cls == 1 || decide (remoteBase ≤ ea ∧ ea < 0x090000000000)

/-- The value is recorded for an agent of the core's tile (R390). -/
def State.noteValue (s : State) (core agent : Nat) (loc : Loc) (ea : Nat) (bs : List Byte) : State :=
  if loc.recorded ea then s.noteDet (core / 16) (.value agent bs) else s

/-! ## Scalar reads and writes (R86 to R91) -/

/-- An earlier write of the acting core to bytes of the range, or for its own TCM to any byte of it, is still on its way
(R90). -/
def State.ownInFlight (s : State) (k n : Nat) : Bool :=
  s.net.any fun m => m.core == s.cpu.core && m.launch == s.cpu.launch && m.engine.isNone && m.waiting &&
    (overlap k n m.kind.span.1 m.kind.span.2 ||
      (decide (k < 2 ^ 37) && k / 0x20000 == s.cpu.core && decide (m.kind.span.1 < 2 ^ 37 ∧ 0 < m.kind.span.2) &&
        m.kind.span.1 / 0x20000 == s.cpu.core))

/-- The acting core's own TCM, or its tile's scratchpad. -/
def State.isOwn (s : State) (k : Nat) : Bool :=
  decide (k < 2 ^ 37 ∧ k / 0x20000 = s.cpu.core) || decide (2 ^ 37 ≤ k ∧ k < 2 ^ 38 ∧ (k - 2 ^ 37) / 2 ^ 21 = s.cpu.core / 16)

/-- An earlier near read, a GET, an atomic or a PUTI, is on its way: a later near read may not pass it (R302, R304). -/
def State.nearReadInFlight (s : State) : Bool :=
  s.net.any fun m => m.core == s.cpu.core && m.launch == s.cpu.launch && m.engine.isNone && m.waiting && m.reads &&
    s.near s.cpu.core (homeOf m.kind.span.1)

/-- A link between a core's tile and a home is not UP, or flits wait before it: a request or response that takes it waits in
order (R338, R339). -/
def State.pathBusy (s : State) (core : Nat) (launch : Option Nat) (h : Home) : Bool :=
  s.linksBusy (s.linksTo (core / 16) launch h) 1 || s.linksBusy (s.linksFrom (core / 16) launch h) 2

/-- A home cannot answer a read of a core now: it is fenced, a link on the way is busy, or determinants of the core's tile, or of the
home, await the buddy before the request or the response leaves it (R391, R395). -/
def State.homeBusy (s : State) (core : Nat) (launch : Option Nat) (h : Home) : Bool :=
  s.homeRefuses h || s.pathBusy core launch h || (h != .tile (core / 16) && s.detsOpen (core / 16)) ||
    (match h with
      | .tile t => t != core / 16 && s.detsOpen t
      | .die _ | .hbm _ | .host _ | .peer _ _ => false)

/-- A read of the acting core may not be performed yet: behind its own earlier requests to the bytes, behind an earlier near
read when it is near, or behind what counts as performed at its scope (R90, R304, R308). -/
def State.readHeld (s : State) (k n : Nat) : Bool :=
  s.ownInFlight k n || (s.near s.cpu.core (homeOf k) && s.nearReadInFlight) || s.shaded s.cpu.core k n

/-- A write of the acting core performed at once would pass an earlier access: to the same bytes, on channel 0 to the same
destination, a near one when it is near, or one that counts as performed at its scope (R90, R120, R304, R308). -/
def State.writeHeld (s : State) (k n : Nat) : Bool :=
  s.overlapEarlier s.cpu.core s.cpu.launch k n (fun _ => true) ||
    (s.near s.cpu.core (homeOf k) && s.nearEarlier s.cpu.core s.cpu.launch fun _ => true) ||
    s.net.any (fun m => m.core == s.cpu.core && m.launch == s.cpu.launch && m.engine.isNone && m.waiting &&
      m.chan == (homeOf k).code * 3) || s.shaded s.cpu.core k n

/-- The core is in a pair (R129). -/
def Ctx.paired (c : Ctx) : Bool := c.csrs.pairctl.getLsbD 0

/-- Memory as a pair's loads see it: held stores included (R365). -/
def State.view (s : State) : Mem :=
  s.cpu.pair.held.foldl (fun m h => m.write h.key (leBytes h.size h.data.toNat) (h.tag == .cap && h.size == 16)
    (h.tag == .poison)) s.mem

/-- What a read of memory found. -/
inductive Found | absent | poisoned | value (x : Nat) (tag : Bool)
  deriving DecidableEq, Repr

/-- A checked data access: capability, then windows and translation (R86 steps 1 and 2). -/
def State.check (s : State) (a ea size : Nat) (need : Perm) : Out Loc :=
  (capCheck (s.getG a) ea size need).bind fun _ =>
    s.locate s.cpu.core s.cpu.launch (s.dataTlb s.cpu.core) ea

/-- A read of n bytes performed at its home by the acting core (R86 step 3, R97, R298): the state it leaves and what
it found; wait while an earlier access of its own, or a home that cannot answer, holds it up. -/
def State.readAt (s : State) (loc : Loc) (ea n : Nat) : Out (State × Found) :=
  let h := homeOf loc.key
  let core := s.cpu.core
  if s.readHeld loc.key n then .wait
  else if s.absentRead core s.cpu.launch h then
    .ok ((s.noteAccess core s.cpu.launch loc ea).noteValue core (core % 16) loc ea (List.replicate n 0xFF), .absent)
  else if s.homeBusy core s.cpu.launch h then .wait
  else
    let s := (s.meetRead loc.key n core).noteAccess core s.cpu.launch loc ea
    let v := s.view
    let s := s.noteValue core (core % 16) loc ea (v.read loc.key n)
    if v.marked loc.key n then .ok (s, .poisoned)
    else .ok (s, .value (v.nat loc.key n) (v.tagged loc.key))

/-- A write of the acting core at a checked place (R89 step 4): own memory at once, held in a pair, posted otherwise;
wait while it would pass an earlier access. -/
def State.writeAt (s : State) (loc : Loc) (ea : Nat) (bs : List Byte) (setTag mark : Bool) (put : Bool := false) :
    Out State :=
  let s := s.noteAccess s.cpu.core s.cpu.launch loc ea
  if s.cpu.paired then
    let t : Tag := if mark then .poison else if setTag then .cap else .data
    .ok (s.modCpu fun c => { c with pair := { c.pair with
      held := c.pair.held ++ [⟨loc.key, ea, bs.length, BitVec.ofNat 128 (leNat bs), t, put⟩] } })
  else if s.isOwn loc.key && !put then
    if s.writeHeld loc.key bs.length then .wait
    else .ok (s.writeMem loc.key bs setTag mark s.cpu.core)
  else .ok (s.post s.cpu.core s.cpu.launch (.store loc.key bs setTag mark none) put none)

/-- The class rule of stores: RO and VER pages trap (R89 step 3, R297). -/
def classStore (loc : Loc) (ea : Nat) : Out Unit := if loc.cls = 0 ∨ loc.cls = 1 then .trap ⟨4, ea, 0⟩ else .ok ()

/-- Bytes, capability tag and mark a store writes (R89's table). -/
def storeData (g : GReg) (size : Nat) : List Byte × Bool × Bool :=
  match g.tag with
  | .data => (leBytes size g.val.toNat, false, false)
  | .cap => if size = 16 then (leBytes 16 g.val.toNat, true, false) else (leBytes size g.ival.toNat, false, false)
  | .poison => (leBytes size g.val.toNat, false, true)

/-- A capability that the store may not let out: the store's own lacks SC, or the value lacks G and leaves the TCM (R89 step 2). -/
def storeTagTraps (c : Payload) (g : GReg) (ea size : Nat) : Bool :=
  decide (size = 16) && g.tag == .cap && (!capHas c .sc || (!capHas g.val .g && decide (0x20000 ≤ ea)))

/-- What the walk of a checked access has met, where the access then traps (R298). -/
def State.walked (s : State) (a ea size : Nat) (need : Perm) : State :=
  match s.check a ea size need with
  | .ok loc => match loc.tlb with
    | some e => if (s.dataTlb s.cpu.core).elem e then s else s.meetWalk s.cpu.launch ea s.cpu.core
    | none => s
  | .trap _ | .wait => s

/-- What the walk of a write met, where the write then traps for the class of the page (R89 step 3, R106, R298). -/
def State.metWalk (s : State) (a ea size : Nat) (t : Trap) : State := if t.cause ≠ 4 then s else s.walked a ea size .w

/-- A store of a register through a capability (R89): the checks of steps 1 to 3, then the write. -/
def State.storeReg (s : State) (g : GReg) (a ea size : Nat) : Out State :=
  (capCheck (s.getG a) ea size .w).bind fun _ =>
    if storeTagTraps (s.getG a).val g ea size then .trap ⟨4, ea, 0⟩
    else
      (s.locate s.cpu.core s.cpu.launch (s.dataTlb s.cpu.core) ea).bind fun loc =>
        (classStore loc ea).bind fun _ =>
          let (bs, t, m) := storeData g size
          s.writeAt loc ea bs t m

/-- Finish a store of a register: a trap for the page's class comes after what its walk met (R298). -/
def State.finishStore (s : State) (g : GReg) (a ea size : Nat) (o : Out State) : Res :=
  match o with
  | .trap t => .next ((if storeTagTraps (s.getG a).val g ea size then s else s.metWalk a ea size t).takeTrap t)
  | .ok t => .next t.advance
  | .wait => .next s.stall

/-- The value of a load in gd, by width (R85). -/
def loadValue (w : LWidth) (x : Nat) : Word :=
  match w with
  | .i8 => wordOf (sext x 8) | .i16 => wordOf (sext x 16) | .i32 => wordOf (sext x 32)
  | .d64 | .n8 | .n16 | .n32 | .q128 => BitVec.ofNat 64 x

/-- gd after a load that found a value (R85, R88). -/
def loadReg (w : LWidth) (c : Payload) (x : Nat) (tag : Bool) : GReg :=
  if w = .q128 then ⟨if tag && capHas c .lc then .cap else .data, BitVec.ofNat 128 x⟩
  else ⟨.data, (loadValue w x).zeroExtend 128⟩

/-- A checked load trapping on poison: with an open region and the word clean at its home the core asks for a rollback
in place of the trap, and waits for it (R358, R363). A word marked in memory is marked at its home. -/
def State.meshPoison (s : State) : Bool × State :=
  if (s.core s.cpu.core).meshBad then
    let s := s.updCore s.cpu.core fun c => { c with meshBad := false }
    if s.cpu.csrs.regpc.getLsbD 63 then
      let t := s.cpu.core / 16
      let (lasting, s) := s.unitEvent (tileUnit (s.tile t).phys 5)
      if lasting then
        (true, ({ s with fabric := { s.fabric with lost := nadd s.fabric.lost (s.tile t).phys } } : State).detect t)
      else (true, s.updCore s.cpu.core fun c => { c with rollReq := true })
    else (true, s)
  else (false, s)

/-! ## Value operands (R101, R116) -/

/-- A value operand: POISON traps with its reason (R101). -/
def GReg.value (g : GReg) : Out Word := if g.tag = .poison then .trap ⟨6, g.reason, 0⟩ else .ok g.ival

/-- A value operand by register code. -/
def State.value (s : State) (n : Nat) : Out Word := (s.getG n).value

/-- A descriptor half: tags are dropped, POISON traps (R116). -/
def GReg.raw (g : GReg) : Out Payload := if g.tag = .poison then .trap ⟨6, g.reason, 0⟩ else .ok g.val

/-- The descriptor in registers n and n + 1 (R116), with the byte offset of the failing field as TELEM when
malformed: bits [63:52] begin in byte 6. The bit of SPREAD is answered apart. `w` is the word for TVAL. -/
def State.descriptor (s : State) (n w : Nat) (range : Bool) : Out (Task × Bool) :=
  (s.getG n).raw.bind fun p0 =>
    (s.getG (n + 1)).raw.bind fun p1 =>
      let spread := bit p0.toNat 52
      if bits p0.toNat 63 53 != 0 then .trap ⟨13, w, 6⟩
      else if spread && !range then .trap ⟨13, w, 6⟩
      else
        let entry := bits p0.toNat 51 0
        let arg : Word := BitVec.ofNat 64 (p0.toNat / 2 ^ 64)
        if range then
          let lo := bits p1.toNat 63 0
          let hi := bits p1.toNat 111 64
          let chunk := bits p1.toNat 127 112
          -- HI and CHUNK share bytes 24 to 31: both failing fields lie there
          if hi < lo then .trap ⟨13, w, 24⟩
          else if chunk = 0 then .trap ⟨13, w, 30⟩
          else .ok (⟨entry, arg, .range lo hi chunk⟩, spread)
        else .ok (⟨entry, arg, .plain (BitVec.ofNat 64 p1.toNat) (BitVec.ofNat 64 (p1.toNat / 2 ^ 64))⟩, false)

/-! ## Vector lanes (R142) and stream sources (R50, R149) -/

/-- Lane i of a vector register for a type: f64 lanes are 64 bits, all others 32 (R142). -/
def laneRaw (t : VType) (v : BitVec 1024) (i : Nat) : Nat :=
  if t = .f64 then bits v.toNat (64 * i + 63) (64 * i) else bits v.toNat (32 * i + 31) (32 * i)

/-- An element as it is read from a lane: its low w bits (R142). -/
def laneGet (t : VType) (v : BitVec 1024) (i : Nat) : Nat := laneRaw t v i % 2 ^ t.width

/-- The bits a result takes in its lane (R142): sign-extended for i types, zero-extended otherwise. -/
def laneImage (t : VType) (x : Nat) : Nat :=
  if t.signed then codeOf 32 (sext x t.width) else x % 2 ^ t.width

/-- Replace lane i of width lw bits. -/
def laneSetRaw (lw : Nat) (v : BitVec 1024) (i x : Nat) : BitVec 1024 :=
  (v &&& ~~~(BitVec.ofNat 1024 ((2 ^ lw - 1) * 2 ^ (lw * i)))) ||| BitVec.ofNat 1024 (x % 2 ^ lw * 2 ^ (lw * i))

/-- Width of a lane in bits. -/
def laneBits (t : VType) : Nat := if t = .f64 then 64 else 32

/-- Write an element to lane i by R142. -/
def laneSet (t : VType) (v : BitVec 1024) (i x : Nat) : BitVec 1024 :=
  laneSetRaw (laneBits t) v i (if t = .f64 then x else laneImage t x)

/-- Lane i is active under a predicate (R143). -/
def active (p : BitVec 32) (i : Nat) : Bool := p.getLsbD i

/-- The stream register that a source field names, when VQMAP substitutes it (R50). -/
def State.streamOf (s : State) (f : Nat) : Option Nat :=
  if 28 ≤ f ∧ f < 32 ∧ s.cpu.csrs.vqmap.getLsbD (f - 28) = true then some (f - 28) else none

/-- A vector source: an ordinary register, or the head of a stream queue, which waits while empty and traps when unbound
or poisoned (R149). `w` is the word for TVAL. -/
def State.srcV (s : State) (f w : Nat) : Out (BitVec 1024) :=
  match s.streamOf f with
  | none => .ok (s.getV f)
  | some k =>
    if !s.cpu.csrs.vqmap.getLsbD (4 + k) then .trap (illegal w)
    else
      match vget [] s.cpu.streams k with
      | [] => .wait
      | e :: _ => if e.marks ≠ 0 then .trap ⟨6, 3, 0⟩ else .ok e.data

/-- Retirement removes one entry from each stream register a field named (R149). -/
def State.popStreams (s : State) (fs : List Nat) : State :=
  (List.range 4).foldl (fun s k =>
    if fs.any fun f => s.streamOf f == some k then
      s.modCpu fun c => { c with
        streams := vset c.streams k ((vget [] c.streams k).drop 1), popped := (c.popped + 1) % 2 ^ 28 }
    else s) s

end Sys2Proof.Machine
end

