-- ==== Sys2Proof/Machine/Flags.lean ====
section
/-! DEFINITION. Rounding mode, exception flags and random generators (R31, R33, R37 to R39). -/

namespace Sys2Proof.Machine

/-- FRM.RM as a rounding mode; it is never 6 or 7 (R38), whose codes read as RNE here. -/
def State.rm (s : State) : RMode :=
  match bits s.cpu.csrs.frm.toNat 2 0 with
  | 1 => .rtz | 2 => .rdn | 3 => .rup | 4 => .rna | 5 => .sr | _ => .rne

/-- OR flags into FFLAGS (R39). -/
def State.raiseFlags (s : State) (f : Flags) : State :=
  s.modCsr fun c => { c with fflags := c.fflags ||| f.zeroExtend 64 }

/-- The output of gen_next for a key and a counter (R31). -/
def genOut (key ctr : Word) : Word :=
  let z := (key ^^^ ctr) + 0x5BD1E9953C6EF372
  let z := z ^^^ (z >>> (30 : Nat))
  let z := z * 0xA3B195F42C67D10B
  let z := z ^^^ (z >>> (27 : Nat))
  let z := z * 0x6F2D8E19C4A57B35
  z ^^^ (z >>> (31 : Nat))

/-- Output j from now of generator k. -/
def Gens.out (g : Gens) (k j : Nat) : Word := genOut (vget 0 g.key k) (vget 0 g.ctr k + BitVec.ofNat 64 j)

/-- Generator k has produced n outputs more (R31). -/
def Gens.skip (g : Gens) (k n : Nat) : Gens := { g with ctr := vset g.ctr k (vget 0 g.ctr k + BitVec.ofNat 64 n) }

/-- GENSEL.SEL (R33). -/
def State.sel (s : State) : Nat := bits s.cpu.csrs.gensel.toNat 1 0

/-- The 16-bit draw of lane i: output i div 4, bits [16(i mod 4) + 15 : 16(i mod 4)] (R33). -/
def State.drawOf (s : State) (i : Nat) : Nat := (s.cpu.gens.out s.sel (i / 4)).toNat / 2 ^ (16 * (i % 4)) % 2 ^ 16

/-- The draw lane i rounds with: of use under SR alone. -/
def State.laneDraw (s : State) (m : RMode) (i : Nat) : Nat := if m = .sr then s.drawOf i else 0

/-- Outputs consumed at retirement under SR (R33). -/
def State.consume (s : State) (m : RMode) (n : Nat) : State :=
  if m = .sr then s.modCpu fun c => { c with gens := c.gens.skip (bits c.csrs.gensel.toNat 1 0) n } else s

end Sys2Proof.Machine
end

