-- ==== Sys2Proof/Machine/Integer.lean ====
section
/-! DEFINITION. Integer instructions, majors 0x01 to 0x08 (R80 to R82). For each one, `eff` is the effect, which a repeat
frame runs too (R99), and `exec` the whole instruction. -/

namespace Sys2Proof.Machine

/-- Two-source integer instruction (R80): the first POISON operand in order a, b is copied whole, else f of the values. -/
def State.int2 (s : State) (d a b : Nat) (f : Word → Word → Word) : Out State :=
  if (s.getG a).tag = .poison then .ok (s.setG d (s.getG a))
  else if (s.getG b).tag = .poison then .ok (s.setG d (s.getG b))
  else .ok (s.put d (f (s.ival a) (s.ival b)))

/-- One-source integer instruction (R80). -/
def State.int1 (s : State) (d a : Nat) (f : Word → Word) : Out State :=
  if (s.getG a).tag = .poison then .ok (s.setG d (s.getG a)) else .ok (s.put d (f (s.ival a)))

/-- 1 or 0. -/
def flag (b : Bool) : Word := if b then 1 else 0

def shlBy (x : Word) (n : Nat) : Word := x <<< n
def shrBy (x : Word) (n : Nat) : Word := x >>> n
def sarBy (x : Word) (n : Nat) : Word := x.sshiftRight n
/-- ROL of R81. -/
def rolBy (x : Word) (n : Nat) : Word := if n = 0 then x else (x <<< n) ||| (x >>> (64 - n))

/-- DIV of R81: truncating toward zero, with its two fixed cases. -/
def divS (x y : Word) : Word :=
  if y = 0 then BitVec.allOnes 64
  else if x.toInt = -(2 : Int) ^ 63 ∧ y.toInt = -1 then BitVec.ofNat 64 (2 ^ 63)
  else wordOf (x.toInt.tdiv y.toInt)

/-- REM of R81. -/
def remS (x y : Word) : Word :=
  if y = 0 then x
  else if x.toInt = -(2 : Int) ^ 63 ∧ y.toInt = -1 then 0
  else wordOf (x.toInt - x.toInt.tdiv y.toInt * y.toInt)

/-- Leading zeros of a 64-bit value. -/
def clzNat (x : Nat) : Nat := if x = 0 then 64 else 63 - Nat.log2 x

/-- Trailing zeros of a 64-bit value. -/
def ctzNat (x : Nat) : Nat := (findBelow (bit x) 64).getD 64

/-- The low 32 bits, sign-extended. -/
def low32 (x : Word) : Word := (x.truncate 32).signExtend 64

/-- Byte k of the result is byte 7 − k. -/
def bswapW (x : Word) : Word := BitVec.ofNat 64 (leNat (leBytes 8 x.toNat).reverse)

/-- ADD: A + B (R81). -/
def effAdd (d a b : Nat) (s : State) : Out State := s.int2 d a b fun x y => x + y
def execAdd (d a b : Nat) (s : State) : Res := s.finish (effAdd d a b s)

/-- SUB: A − B (R81). -/
def effSub (d a b : Nat) (s : State) : Out State := s.int2 d a b fun x y => x - y
def execSub (d a b : Nat) (s : State) : Res := s.finish (effSub d a b s)

/-- AND: A AND B (R81). -/
def effAnd (d a b : Nat) (s : State) : Out State := s.int2 d a b fun x y => x &&& y
def execAnd (d a b : Nat) (s : State) : Res := s.finish (effAnd d a b s)

/-- OR: A OR B (R81). -/
def effOr (d a b : Nat) (s : State) : Out State := s.int2 d a b fun x y => x ||| y
def execOr (d a b : Nat) (s : State) : Res := s.finish (effOr d a b s)

/-- XOR: A XOR B (R81). -/
def effXor (d a b : Nat) (s : State) : Out State := s.int2 d a b fun x y => x ^^^ y
def execXor (d a b : Nat) (s : State) : Res := s.finish (effXor d a b s)

/-- ANDN: A AND NOT B (R81). -/
def effAndn (d a b : Nat) (s : State) : Out State := s.int2 d a b fun x y => x &&& ~~~y
def execAndn (d a b : Nat) (s : State) : Res := s.finish (effAndn d a b s)

/-- SHL: A × 2^sh (R81). -/
def effShl (d a b : Nat) (s : State) : Out State := s.int2 d a b fun x y => shlBy x (y.toNat % 64)
def execShl (d a b : Nat) (s : State) : Res := s.finish (effShl d a b s)

/-- SHR: A >> sh (R81). -/
def effShr (d a b : Nat) (s : State) : Out State := s.int2 d a b fun x y => shrBy x (y.toNat % 64)
def execShr (d a b : Nat) (s : State) : Res := s.finish (effShr d a b s)

/-- SAR: sA div 2^sh (R81). -/
def effSar (d a b : Nat) (s : State) : Out State := s.int2 d a b fun x y => sarBy x (y.toNat % 64)
def execSar (d a b : Nat) (s : State) : Res := s.finish (effSar d a b s)

/-- ROL: A rotated left by sh (R81). -/
def effRol (d a b : Nat) (s : State) : Out State := s.int2 d a b fun x y => rolBy x (y.toNat % 64)
def execRol (d a b : Nat) (s : State) : Res := s.finish (effRol d a b s)

/-- SLT: 1 if sA < sB (R81). -/
def effSlt (d a b : Nat) (s : State) : Out State := s.int2 d a b fun x y => flag (x.slt y)
def execSlt (d a b : Nat) (s : State) : Res := s.finish (effSlt d a b s)

/-- SLTN: 1 if A < B (R81). -/
def effSltn (d a b : Nat) (s : State) : Out State := s.int2 d a b fun x y => flag (x.ult y)
def execSltn (d a b : Nat) (s : State) : Res := s.finish (effSltn d a b s)

/-- MIN: the smaller of sA and sB (R81). -/
def effMin (d a b : Nat) (s : State) : Out State := s.int2 d a b fun x y => if x.slt y then x else y
def execMin (d a b : Nat) (s : State) : Res := s.finish (effMin d a b s)

/-- MAX: the larger of sA and sB (R81). -/
def effMax (d a b : Nat) (s : State) : Out State := s.int2 d a b fun x y => if x.slt y then y else x
def execMax (d a b : Nat) (s : State) : Res := s.finish (effMax d a b s)

/-- MINN: the smaller of A and B (R81). -/
def effMinn (d a b : Nat) (s : State) : Out State := s.int2 d a b fun x y => if x.ult y then x else y
def execMinn (d a b : Nat) (s : State) : Res := s.finish (effMinn d a b s)

/-- MAXN: the larger of A and B (R81). -/
def effMaxn (d a b : Nat) (s : State) : Out State := s.int2 d a b fun x y => if x.ult y then y else x
def execMaxn (d a b : Nat) (s : State) : Res := s.finish (effMaxn d a b s)

/-- MUL: A × B (R81). -/
def effMul (d a b : Nat) (s : State) : Out State := s.int2 d a b fun x y => x * y
def execMul (d a b : Nat) (s : State) : Res := s.finish (effMul d a b s)

/-- MULH: (sA × sB) div 2^64 (R81). -/
def effMulh (d a b : Nat) (s : State) : Out State := s.int2 d a b fun x y => wordOf (x.toInt * y.toInt / 2 ^ 64)
def execMulh (d a b : Nat) (s : State) : Res := s.finish (effMulh d a b s)

/-- MULHN: (A × B) div 2^64 (R81). -/
def effMulhn (d a b : Nat) (s : State) : Out State := s.int2 d a b fun x y => BitVec.ofNat 64 (x.toNat * y.toNat / 2 ^ 64)
def execMulhn (d a b : Nat) (s : State) : Res := s.finish (effMulhn d a b s)

/-- DIV: DIV (R81). -/
def effDiv (d a b : Nat) (s : State) : Out State := s.int2 d a b fun x y => divS x y
def execDiv (d a b : Nat) (s : State) : Res := s.finish (effDiv d a b s)

/-- DIVN: A div B, all ones for B = 0 (R81). -/
def effDivn (d a b : Nat) (s : State) : Out State := s.int2 d a b fun x y => if y = 0 then BitVec.allOnes 64 else BitVec.ofNat 64 (x.toNat / y.toNat)
def execDivn (d a b : Nat) (s : State) : Res := s.finish (effDivn d a b s)

/-- REM: REM (R81). -/
def effRem (d a b : Nat) (s : State) : Out State := s.int2 d a b fun x y => remS x y
def execRem (d a b : Nat) (s : State) : Res := s.finish (effRem d a b s)

/-- REMN: A mod B, A for B = 0 (R81). -/
def effRemn (d a b : Nat) (s : State) : Out State := s.int2 d a b fun x y => if y = 0 then x else BitVec.ofNat 64 (x.toNat % y.toNat)
def execRemn (d a b : Nat) (s : State) : Res := s.finish (effRemn d a b s)

/-- ADDW: the 32-bit sum (R81). -/
def effAddw (d a b : Nat) (s : State) : Out State := s.int2 d a b fun x y => low32 (x + y)
def execAddw (d a b : Nat) (s : State) : Res := s.finish (effAddw d a b s)

/-- SUBW: the 32-bit difference (R81). -/
def effSubw (d a b : Nat) (s : State) : Out State := s.int2 d a b fun x y => low32 (x - y)
def execSubw (d a b : Nat) (s : State) : Res := s.finish (effSubw d a b s)

/-- MULW: the 32-bit product (R81). -/
def effMulw (d a b : Nat) (s : State) : Out State := s.int2 d a b fun x y => low32 (x * y)
def execMulw (d a b : Nat) (s : State) : Res := s.finish (effMulw d a b s)

/-- SEQ: 1 if A = B (R81). -/
def effSeq (d a b : Nat) (s : State) : Out State := s.int2 d a b fun x y => flag (x == y)
def execSeq (d a b : Nat) (s : State) : Res := s.finish (effSeq d a b s)

/-- SNE: 1 if A ≠ B (R81). -/
def effSne (d a b : Nat) (s : State) : Out State := s.int2 d a b fun x y => flag (x != y)
def execSne (d a b : Nat) (s : State) : Res := s.finish (effSne d a b s)

/-- CLZ: leading zeros (R81). -/
def effClz (d a : Nat) (s : State) : Out State := s.int1 d a fun x => BitVec.ofNat 64 (clzNat x.toNat)
def execClz (d a : Nat) (s : State) : Res := s.finish (effClz d a s)

/-- CTZ: trailing zeros (R81). -/
def effCtz (d a : Nat) (s : State) : Out State := s.int1 d a fun x => BitVec.ofNat 64 (ctzNat x.toNat)
def execCtz (d a : Nat) (s : State) : Res := s.finish (effCtz d a s)

/-- POPC: one bits (R81). -/
def effPopc (d a : Nat) (s : State) : Out State := s.int1 d a fun x => BitVec.ofNat 64 (popcount x.toNat 64)
def execPopc (d a : Nat) (s : State) : Res := s.finish (effPopc d a s)

/-- BSWAP: bytes reversed (R81). -/
def effBswap (d a : Nat) (s : State) : Out State := s.int1 d a fun x => bswapW x
def execBswap (d a : Nat) (s : State) : Res := s.finish (effBswap d a s)

/-- ADDI: A + i (R82). -/
def effAddi (d a : Nat) (i : Int) (s : State) : Out State := s.int1 d a fun x => x + wordOf i
def execAddi (d a : Nat) (i : Int) (s : State) : Res := s.finish (effAddi d a i s)

/-- ANDI: A AND i (R82). -/
def effAndi (d a : Nat) (i : Int) (s : State) : Out State := s.int1 d a fun x => x &&& wordOf i
def execAndi (d a : Nat) (i : Int) (s : State) : Res := s.finish (effAndi d a i s)

/-- ORI: A OR i (R82). -/
def effOri (d a : Nat) (i : Nat) (s : State) : Out State := s.int1 d a fun x => x ||| BitVec.ofNat 64 i
def execOri (d a : Nat) (i : Nat) (s : State) : Res := s.finish (effOri d a i s)

/-- XORI: A XOR i (R82). -/
def effXori (d a : Nat) (i : Nat) (s : State) : Out State := s.int1 d a fun x => x ^^^ BitVec.ofNat 64 i
def execXori (d a : Nat) (i : Nat) (s : State) : Res := s.finish (effXori d a i s)

/-- SHLI: SHL with sh = n (R82). -/
def effShli (d a : Nat) (i : Nat) (s : State) : Out State := s.int1 d a fun x => shlBy x i
def execShli (d a : Nat) (i : Nat) (s : State) : Res := s.finish (effShli d a i s)

/-- SHRI: SHR with sh = n (R82). -/
def effShri (d a : Nat) (i : Nat) (s : State) : Out State := s.int1 d a fun x => shrBy x i
def execShri (d a : Nat) (i : Nat) (s : State) : Res := s.finish (effShri d a i s)

/-- SARI: SAR with sh = n (R82). -/
def effSari (d a : Nat) (i : Nat) (s : State) : Out State := s.int1 d a fun x => sarBy x i
def execSari (d a : Nat) (i : Nat) (s : State) : Res := s.finish (effSari d a i s)

/-- ROLI: ROL with sh = n (R82). -/
def effRoli (d a : Nat) (i : Nat) (s : State) : Out State := s.int1 d a fun x => rolBy x i
def execRoli (d a : Nat) (i : Nat) (s : State) : Res := s.finish (effRoli d a i s)

/-- SLTI: SLT with B = i (R82). -/
def effSlti (d a : Nat) (i : Int) (s : State) : Out State := s.int1 d a fun x => flag (x.slt (wordOf i))
def execSlti (d a : Nat) (i : Int) (s : State) : Res := s.finish (effSlti d a i s)

/-- SLTNI: SLTN with B = i (R82). -/
def effSltni (d a : Nat) (i : Int) (s : State) : Out State := s.int1 d a fun x => flag (x.ult (wordOf i))
def execSltni (d a : Nat) (i : Int) (s : State) : Res := s.finish (effSltni d a i s)

/-- LUI: i × 2^12 (R82). It reads no register. -/
def execLui (d : Nat) (i : Int) (s : State) : Res := s.finish (.ok (s.put d (wordOf (i * 2 ^ 12))))

end Sys2Proof.Machine
end

