-- ==== Sys2Proof/Machine/Capability.lean ====
section
/-! DEFINITION. CPC and the capability instructions (R79, R83, R84). -/

namespace Sys2Proof.Machine

/-- PCC with its address replaced, as a CAP value: what CPC, JAL and JALR give software (R74). -/
def State.pccAt (s : State) (a : Nat) : GReg := ⟨.cap, capSetAddr s.cpu.pcc a⟩

/-- CPC (R83). -/
def execCpc (d : Nat) (i : Int) (s : State) : Res :=
  s.finish (.ok (s.setG d (s.pccAt (mod52 (s.pc + 4 * i)))))

/-- A derivation from ga alone (R84): POISON is copied, DATA traps, and `f` of the capability is the result or a trap. -/
def State.derive1 (s : State) (d a : Nat) (f : Payload → Out Payload) : Out State :=
  match (s.getG a).tag with
  | .poison => .ok (s.setG d (s.getG a))
  | .data => .trap ⟨2, (s.getG a).val.toNat % 2 ^ 64, 0⟩
  | .cap => (f (s.getG a).val).bind fun c => .ok (s.setG d ⟨.cap, c⟩)

/-- A derivation that reads gb as well (R84). -/
def State.derive2 (s : State) (d a b : Nat) (f : Payload → Word → Out Payload) : Out State :=
  if (s.getG a).tag = .poison then .ok (s.setG d (s.getG a))
  else if (s.getG b).tag = .poison then .ok (s.setG d (s.getG b))
  else s.derive1 d a fun c => f c (s.ival b)

/-- A field of ga as DATA: 0 for DATA, POISON is copied (R84). -/
def State.capField (s : State) (d a : Nat) (f : Payload → Nat) : Out State :=
  match (s.getG a).tag with
  | .poison => .ok (s.setG d (s.getG a))
  | .data => .ok (s.put d 0)
  | .cap => .ok (s.put d (BitVec.ofNat 64 (f (s.getG a).val)))

/-- Bounds of CBND: [ADDR, ADDR + Lm × 2^Le) inside the parent's, or cause 0x03 (R84, R79). -/
def capBound (exact : Bool) (c : Payload) (n : Word) : Out Payload :=
  let r := reprLen n.toNat
  let len := r.1 * 2 ^ r.2
  if capAddr c < capBase c ∨ capBase c + capLen c < capAddr c + len ∨ (exact = true ∧ len ≠ n.toNat) then
    .trap ⟨3, capAddr c, 0⟩
  else .ok (mkCap (capPerms c) r.2 r.1 (capAddr c) (capAddr c))

/-- CINC: ADDR := (ADDR + B) mod 2^52 (R84). -/
def execCinc (d a b : Nat) (s : State) : Res :=
  s.finish (s.derive2 d a b fun c x => .ok (capSetAddr c ((capAddr c + x.toNat) % 2 ^ 52)))

/-- CINCI: ADDR := (ADDR + i) mod 2^52 (R84). -/
def execCinci (d a : Nat) (i : Int) (s : State) : Res :=
  s.finish (s.derive1 d a fun c => .ok (capSetAddr c (mod52 (capAddr c + i))))

/-- CBND (R84). -/
def execCbnd (d a b : Nat) (s : State) : Res := s.finish (s.derive2 d a b fun c x => capBound false c x)

/-- CBNDX: as CBND, and the length must be exact (R84). -/
def execCbndx (d a b : Nat) (s : State) : Res := s.finish (s.derive2 d a b fun c x => capBound true c x)

/-- CPERM: permissions AND B[5:0] (R84). -/
def execCperm (d a b : Nat) (s : State) : Res :=
  s.finish (s.derive2 d a b fun c x =>
    .ok (mkCap (Nat.land (capPerms c) (x.toNat % 64)) (capLe c) (capLm c) (capBase c) (capAddr c)))

/-- CSETA: ADDR := B[51:0] (R84). -/
def execCseta (d a b : Nat) (s : State) : Res :=
  s.finish (s.derive2 d a b fun c x => .ok (capSetAddr c (x.toNat % 2 ^ 52)))

/-- CGETA (R84). -/
def execCgeta (d a : Nat) (s : State) : Res := s.finish (s.capField d a capAddr)

/-- CGETB (R84). -/
def execCgetb (d a : Nat) (s : State) : Res := s.finish (s.capField d a capBase)

/-- CGETL (R84). -/
def execCgetl (d a : Nat) (s : State) : Res := s.finish (s.capField d a capLen)

/-- CGETP (R84). -/
def execCgetp (d a : Nat) (s : State) : Res := s.finish (s.capField d a capPerms)

/-- CTAG: 0 for DATA, 1 for CAP, 2 for POISON; it neither propagates nor traps (R84). -/
def execCtag (d a : Nat) (s : State) : Res :=
  s.finish (.ok (s.put d (match (s.getG a).tag with
    | .data => 0
    | .cap => 1
    | .poison => 2)))

/-- CSUB: the difference of two addresses, sign-extended from 52 bits; POISON is copied as R80's put rules say
(R84; DEDUCED, log entry 21). -/
def execCsub (d a b : Nat) (s : State) : Res :=
  s.finish (s.int2 d a b fun x y => wordOf (sext (mod52 ((x.toNat : Int) - y.toNat)) 52))

/-- One capability lies within another: bounds and permissions (R84 CTEST). -/
def capWithin (x y : Payload) : Bool :=
  decide (capBase y ≤ capBase x ∧ capBase x + capLen x ≤ capBase y + capLen y) &&
    Nat.land (capPerms x) (capPerms y) == capPerms x

/-- CTEST (R84). -/
def execCtest (d a b : Nat) (s : State) : Res :=
  s.finish (.ok (s.put d (flag ((s.getG a).tag == .cap && (s.getG b).tag == .cap &&
    capWithin (s.getG a).val (s.getG b).val))))

/-- CCLR: ga's payload tagged DATA; POISON stays (R84). -/
def execCclr (d a : Nat) (s : State) : Res :=
  s.finish (.ok (s.setG d (if (s.getG a).tag = .poison then s.getG a else ⟨.data, (s.getG a).val⟩)))

end Sys2Proof.Machine
end

