-- ==== Sys2Proof/Machine/Transfer.lean ====
section
/-! DEFINITION. Branches and jumps, majors 0x12 to 0x16 (R92 to R94). -/

namespace Sys2Proof.Machine

/-- A transfer target within PCC's bounds, or cause 0x03 with the target (R92). -/
def State.target (s : State) (x : Int) : Out Nat :=
  let t := mod52 (s.pc + 4 * x)
  if t < capBase s.cpu.pcc ∨ capBase s.cpu.pcc + capLen s.cpu.pcc < t + 4 then .trap ⟨3, t, 0⟩ else .ok t

/-- The end of a branch: to the target when taken, to the next instruction otherwise (R92). -/
def State.branch (s : State) (taken : Bool) (x : Int) : Out State :=
  if taken then (s.target x).bind fun t => .ok (s.setPc t) else .ok (s.setPc s.pc4)

/-- A branch on two registers (R92): a POISON operand traps, a before b. -/
def State.br (s : State) (a b : Nat) (x : Int) (f : Word → Word → Bool) : Res :=
  s.finishJump ((s.value a).bind fun va => (s.value b).bind fun vb => s.branch (f va vb) x)

/-- A branch on one register against zero (R92). -/
def State.brz (s : State) (a : Nat) (x : Int) (f : Word → Bool) : Res :=
  s.finishJump ((s.value a).bind fun va => s.branch (f va) x)

/-- BEQ (R92). -/
def execBeq (a b : Nat) (x : Int) (s : State) : Res := s.br a b x fun u v => u == v

/-- BNE (R92). -/
def execBne (a b : Nat) (x : Int) (s : State) : Res := s.br a b x fun u v => u != v

/-- BLT (R92). -/
def execBlt (a b : Nat) (x : Int) (s : State) : Res := s.br a b x fun u v => u.slt v

/-- BGE (R92). -/
def execBge (a b : Nat) (x : Int) (s : State) : Res := s.br a b x fun u v => !u.slt v

/-- BLTN (R92). -/
def execBltn (a b : Nat) (x : Int) (s : State) : Res := s.br a b x fun u v => u.ult v

/-- BGEN (R92). -/
def execBgen (a b : Nat) (x : Int) (s : State) : Res := s.br a b x fun u v => !u.ult v

/-- BEQZ (R92). -/
def execBeqz (a : Nat) (x : Int) (s : State) : Res := s.brz a x fun u => u == 0

/-- BNEZ (R92). -/
def execBnez (a : Nat) (x : Int) (s : State) : Res := s.brz a x fun u => u != 0

/-- BLTZ (R92). -/
def execBltz (a : Nat) (x : Int) (s : State) : Res := s.brz a x fun u => u.slt 0

/-- BGEZ (R92). -/
def execBgez (a : Nat) (x : Int) (s : State) : Res := s.brz a x fun u => !u.slt 0

/-- BGTZ (R92). -/
def execBgtz (a : Nat) (x : Int) (s : State) : Res := s.brz a x fun u => (0 : Word).slt u

/-- BLEZ (R92). -/
def execBlez (a : Nat) (x : Int) (s : State) : Res := s.brz a x fun u => !(0 : Word).slt u

/-- J (R93). -/
def execJ (x : Int) (s : State) : Res := s.finishJump ((s.target x).bind fun t => .ok (s.setPc t))

/-- JAL: the link, PCC with ADDR = PC + 4, goes to g63 (R93). -/
def execJal (x : Int) (s : State) : Res :=
  s.finishJump ((s.target x).bind fun t => .ok ((s.setG 63 (s.pccAt s.pc4)).setPc t))

/-- The checks of R94 on the capability jumped through. -/
def jumpCheck (g : GReg) : Out Payload :=
  let t := g.addr
  match g.tag with
  | .poison => .trap ⟨6, g.reason, 0⟩
  | .data => .trap ⟨2, t, 0⟩
  | .cap =>
    if !capHas g.val .x then .trap ⟨4, t, 0⟩
    else if t < capBase g.val ∨ capBase g.val + capLen g.val < t + 4 then .trap ⟨3, t, 0⟩
    else if t % 4 ≠ 0 then .trap ⟨5, t, 0⟩
    else .ok g.val

/-- JR (R94). -/
def execJr (a : Nat) (s : State) : Res :=
  s.finishJump ((jumpCheck (s.getG a)).bind fun c => .ok (s.setPcc c))

/-- JALR: the capability is read before the link is written (R94). -/
def execJalr (d a : Nat) (s : State) : Res :=
  s.finishJump ((jumpCheck (s.getG a)).bind fun c => .ok ((s.setG d (s.pccAt s.pc4)).setPcc c))

end Sys2Proof.Machine
end

