-- ==== Sys2Proof/Machine/LoadStore.lean ====
section
/-! DEFINITION. Scalar loads and stores, majors 0x0C to 0x0E (R85 to R91). -/

namespace Sys2Proof.Machine

/-- Effective address (R85): ival(a), or payload bits [51:0] of a register that is no capability, plus the offset. -/
def State.ea (s : State) (a : Nat) (off : Int) : Nat := mod52 ((s.getG a).addr + off)

/-- The place a word comes from is reached over the mesh: it is not the core's own TCM or scratchpad (R341). -/
def State.overMesh (s : State) (k : Nat) : Bool := !s.isOwn k

/-- A load checked and read (R86 steps 1 to 3). -/
def State.loadRead (s : State) (a ea n : Nat) : Out (Nat × State × Found) :=
  (s.check a ea n .r).bind fun loc => (s.readAt loc ea n).bind fun r => .ok (loc.key, r)

/-- LD, LD.w gd, off(ga) (R86 to R88): absence and poison trap; a word marked on the mesh alone rolls the open region
back (R358). -/
def execLd (d a : Nat) (w : LWidth) (i : Int) (s : State) : Res :=
  let n := w.bytes
  let ea := s.ea a (i * n)
  match s.loadRead a ea n with
  | .trap t => .next (s.takeTrap t)
  | .wait => .next s.stall
  | .ok (_, t, .absent) => .next (t.takeTrap ⟨7, ea, 0⟩)
  | .ok (_, t, .poisoned) => .next (t.takeTrap ⟨6, ea, 0⟩)
  | .ok (k, t, .value x tag) =>
    if (s.core s.cpu.core).meshBad && s.overMesh k then
      if s.cpu.csrs.regpc.getLsbD 63 then .next (t.meshPoison.2).stall else .next ((t.meshPoison.2).takeTrap ⟨6, ea, 0⟩)
    else .next (t.setG d (loadReg w (s.getG a).val x tag)).advance

/-- LDS: absence and poison are delivered as POISON (R87, R88). -/
def execLds (d a : Nat) (w : LWidth) (i : Int) (s : State) : Res :=
  let n := w.bytes
  let ea := s.ea a (i * n)
  match s.loadRead a ea n with
  | .trap t => .next (s.takeTrap t)
  | .wait => .next s.stall
  | .ok (_, t, .absent) => .next (t.setG d (poisonOnes 2)).advance
  | .ok (_, t, .poisoned) => .next (t.setG d (poisonOnes 1)).advance
  | .ok (k, t, .value x tag) =>
    if (s.core s.cpu.core).meshBad && s.overMesh k then
      .next ((t.updCore s.cpu.core fun c => { c with meshBad := false }).setG d (poisonOnes 1)).advance
    else .next (t.setG d (loadReg w (s.getG a).val x tag)).advance

/-- ST, ST.w gs, off(ga) (R89). -/
def execSt (v a : Nat) (w : SWidth) (i : Int) (s : State) : Res :=
  let ea := s.ea a (i * w.bytes)
  s.finishStore (s.getG v) a ea w.bytes (s.storeReg (s.getG v) a ea w.bytes)

end Sys2Proof.Machine
end

