-- ==== Sys2Proof/Machine/FloatOps.lean ====
section
/-! DEFINITION. Scalar floating point, major 0x18 (R96, R98). -/

namespace Sys2Proof.Machine

/-- The code an operand reads: ival's low bits for the format (R96). -/
def State.fcode (s : State) (p : FFmt) (n : Nat) : Nat := (s.ival n).toNat % 2 ^ (ffOf p).width

/-- The end of an FPS instruction (R98): the first POISON source is copied whole without flags, else the result is put
and its flags raised; an instruction that rounds draws either way. -/
def State.fps (s : State) (d : Nat) (srcs : List Nat) (rounds : Bool) (f : Nat → FR) : Out State :=
  let draw := s.laneDraw s.rm 0
  let t : State := match srcs.find? fun n => (s.getG n).tag == .poison with
    | some n => s.setG d (s.getG n)
    | none => (s.put d (BitVec.ofNat 64 (f draw).code)).raiseFlags (f draw).fl
  .ok (if rounds then t.consume s.rm 1 else t)

/-- FADD: round(a + b) (R96). -/
def effFadd (d a b : Nat) (p : FFmt) (s : State) : Out State :=
  s.fps d [a, b] true fun r => fadd (ffOf p) s.rm r ((ffOf p).val (s.fcode p a)) ((ffOf p).val (s.fcode p b))
def execFadd (d a b : Nat) (p : FFmt) (s : State) : Res := s.finish (effFadd d a b p s)

/-- FSUB: round(a − b) (R96). -/
def effFsub (d a b : Nat) (p : FFmt) (s : State) : Out State :=
  s.fps d [a, b] true fun r => fsub (ffOf p) s.rm r ((ffOf p).val (s.fcode p a)) ((ffOf p).val (s.fcode p b))
def execFsub (d a b : Nat) (p : FFmt) (s : State) : Res := s.finish (effFsub d a b p s)

/-- FMUL: round(a × b) (R96). -/
def effFmul (d a b : Nat) (p : FFmt) (s : State) : Out State :=
  s.fps d [a, b] true fun r => fmul (ffOf p) s.rm r ((ffOf p).val (s.fcode p a)) ((ffOf p).val (s.fcode p b))
def execFmul (d a b : Nat) (p : FFmt) (s : State) : Res := s.finish (effFmul d a b p s)

/-- FDIV: round(a / b) (R96). -/
def effFdiv (d a b : Nat) (p : FFmt) (s : State) : Out State :=
  s.fps d [a, b] true fun r => fdiv (ffOf p) s.rm r ((ffOf p).val (s.fcode p a)) ((ffOf p).val (s.fcode p b))
def execFdiv (d a b : Nat) (p : FFmt) (s : State) : Res := s.finish (effFdiv d a b p s)

/-- FMA: round(a × b + d), gd read as the addend (R96). -/
def effFma (d a b : Nat) (p : FFmt) (s : State) : Out State :=
  s.fps d [a, b, d] true fun r =>
    ffma (ffOf p) s.rm r false ((ffOf p).val (s.fcode p a)) ((ffOf p).val (s.fcode p b)) ((ffOf p).val (s.fcode p d))
def execFma (d a b : Nat) (p : FFmt) (s : State) : Res := s.finish (effFma d a b p s)

/-- FMIN: minimumNumber (R96). -/
def effFmin (d a b : Nat) (p : FFmt) (s : State) : Out State :=
  s.fps d [a, b] false fun _ => fminmax (ffOf p) false (s.fcode p a) (s.fcode p b)
def execFmin (d a b : Nat) (p : FFmt) (s : State) : Res := s.finish (effFmin d a b p s)

/-- FMAX: maximumNumber (R96). -/
def effFmax (d a b : Nat) (p : FFmt) (s : State) : Out State :=
  s.fps d [a, b] false fun _ => fminmax (ffOf p) true (s.fcode p a) (s.fcode p b)
def execFmax (d a b : Nat) (p : FFmt) (s : State) : Res := s.finish (effFmax d a b p s)

/-- FCMP: bits [0] <, [1] =, [2] >, [3] unordered (R96). -/
def effFcmp (d a b : Nat) (p : FFmt) (s : State) : Out State :=
  s.fps d [a, b] false fun _ =>
    let r := fcompare ((ffOf p).val (s.fcode p a)) ((ffOf p).val (s.fcode p b))
    ⟨r.1, r.2⟩
def execFcmp (d a b : Nat) (p : FFmt) (s : State) : Res := s.finish (effFcmp d a b p s)

/-- FSQRT: round(√a) (R96). -/
def effFsqrt (d a : Nat) (p : FFmt) (s : State) : Out State :=
  s.fps d [a] true fun r => fsqrt (ffOf p) s.rm r ((ffOf p).val (s.fcode p a))
def execFsqrt (d a : Nat) (p : FFmt) (s : State) : Res := s.finish (effFsqrt d a p s)

/-- FCLASS (R96). -/
def effFclass (d a : Nat) (p : FFmt) (s : State) : Out State :=
  s.fps d [a] false fun _ => ⟨fclass (ffOf p) (s.fcode p a), 0⟩
def execFclass (d a : Nat) (p : FFmt) (s : State) : Res := s.finish (effFclass d a p s)

/-- The b type of FCVT beside the fn[7] format (R46). -/
def cvtNum (t : CvtType) (p : FFmt) : NumTy :=
  match t with
  | .other => .flt (match p with
    | .f32 => .fp64
    | .f64 => .fp32)
  | .i32 => .int true 32 | .n32 => .int false 32 | .i64 => .int true 64 | .n64 => .int false 64
  | .f16 => .flt .fp16 | .bf16 => .flt .bf16

/-- Width of a number type's code. -/
def NumTy.width : NumTy → Nat
  | .flt f => f.width
  | .int _ w => w

/-- How FCVT places a result: i32 sign-extended, every other type with zeros above (R96). -/
def NumTy.place (t : NumTy) (c : Nat) : Nat :=
  match t with
  | .int true 32 => codeOf 64 (sext c 32)
  | _ => c

/-- FCVT (R46, R35 with sat = 0). -/
def effFcvt (d a : Nat) (t : CvtType) (r : CvtDir) (p : FFmt) (s : State) : Out State :=
  let fmt : NumTy := .flt (ffOf p)
  let (src, dst) := match r with
    | .fromFmt => (fmt, cvtNum t p)
    | .toFmt => (cvtNum t p, fmt)
  s.fps d [a] true fun draw =>
    let x := convert src dst s.rm false draw ((s.ival a).toNat % 2 ^ src.width)
    ⟨dst.place x.code, x.fl⟩
def execFcvt (d a : Nat) (t : CvtType) (r : CvtDir) (p : FFmt) (s : State) : Res := s.finish (effFcvt d a t r p s)

end Sys2Proof.Machine
end

