-- ==== Sys2Proof/Machine/Atomics.lean ====
section
/-! DEFINITION. Atomics, fences, ordered accesses, locks and versioned memory, majors 0x0F to 0x11 (R105 to R115). -/

namespace Sys2Proof.Machine

/-! ## Atomics (R105 to R107) -/

/-- Steps 1 to 3 of R106: both permissions, the value operands, the place, and the classes an atomic may not reach
(R286, R297). -/
def State.atomCheck (s : State) (d a b n : Nat) (readsD : Bool) : Out (Loc × Nat × Word × Word) :=
  let g := s.getG a
  let ea := g.addr
  (capCheck g ea n .r).bind fun _ => (capCheck g ea n .w).bind fun _ =>
    (s.value b).bind fun x => (if readsD then s.value d else .ok 0).bind fun e =>
      (s.locate s.cpu.core s.cpu.launch (s.dataTlb s.cpu.core) ea).bind fun loc =>
        (classStore loc ea).bind fun _ =>
          match homeOf loc.key with
          | .host _ => .trap ⟨4, ea, 0⟩
          | _ => .ok (loc, ea, x, e)

/-- What the walk of an atomic met, where the atomic then traps for the class of the page (R106, R298). -/
def State.atomMet (s : State) (a n : Nat) (t : Trap) : State :=
  match capCheck (s.getG a) (s.getG a).addr n .r with
  | .ok _ => s.metWalk a (s.getG a).addr n t
  | .trap _ | .wait => s

/-- Mark gd as awaiting the request that is sent next (R103); an acquiring atomic leaves a mark of its own (R107). -/
def State.awaitNext (s : State) (d : Nat) (acquire : Bool) : State :=
  let id := s.nextId
  let code := s.codeOfG d
  s.modRegs fun r => { r with pend := r.pend ++ [(code, id)] ++ (if acquire then [(128, id)] else []) }

/-- An ATOM up to the point where its request leaves the core (R106 step 4); with ar it waits until every earlier access
is performed at its scope (R107); the tile has at most 64 outstanding on a channel (R386). -/
def State.atom (s : State) (op : Nat) (d a b : Nat) (w : AWidth) (sc : Scope) (o : Ord) : Res :=
  match s.atomCheck d a b w.bytes (op == 9) with
  | .trap t => .next ((s.atomMet a w.bytes t).takeTrap t)
  | .wait => .next s.stall
  | .ok (loc, ea, x, e) =>
    if o = .ar ∧ s.unackedAt sc = true then .next s.stall
    else if 64 ≤ s.atomicsOut (s.cpu.core / 16) ((homeOf loc.key).code * 3) then .next s.stall
    else
      let s := if o = .ar then s.seenAt sc else s
      let s := s.noteAccess s.cpu.core s.cpu.launch loc ea
      let s := s.awaitNext d (o == .ar)
      .next (s.post s.cpu.core s.cpu.launch (.atom loc.key op w.bytes x e) false none
        (if loc.recorded ea then some (s.cpu.core % 16) else none)).advance

/-- AADD (R105). -/
def execAadd (d a b : Nat) (w : AWidth) (sc : Scope) (o : Ord) (s : State) : Res := s.atom 0 d a b w sc o
/-- AAND (R105). -/
def execAand (d a b : Nat) (w : AWidth) (sc : Scope) (o : Ord) (s : State) : Res := s.atom 1 d a b w sc o
/-- AOR (R105). -/
def execAor (d a b : Nat) (w : AWidth) (sc : Scope) (o : Ord) (s : State) : Res := s.atom 2 d a b w sc o
/-- AXOR (R105). -/
def execAxor (d a b : Nat) (w : AWidth) (sc : Scope) (o : Ord) (s : State) : Res := s.atom 3 d a b w sc o
/-- AMIN (R105). -/
def execAmin (d a b : Nat) (w : AWidth) (sc : Scope) (o : Ord) (s : State) : Res := s.atom 4 d a b w sc o
/-- AMAX (R105). -/
def execAmax (d a b : Nat) (w : AWidth) (sc : Scope) (o : Ord) (s : State) : Res := s.atom 5 d a b w sc o
/-- AMINN (R105). -/
def execAminn (d a b : Nat) (w : AWidth) (sc : Scope) (o : Ord) (s : State) : Res := s.atom 6 d a b w sc o
/-- AMAXN (R105). -/
def execAmaxn (d a b : Nat) (w : AWidth) (sc : Scope) (o : Ord) (s : State) : Res := s.atom 7 d a b w sc o
/-- ASWAP (R105). -/
def execAswap (d a b : Nat) (w : AWidth) (sc : Scope) (o : Ord) (s : State) : Res := s.atom 8 d a b w sc o
/-- ACAS: gd is the expected value (R105). -/
def execAcas (d a b : Nat) (w : AWidth) (sc : Scope) (o : Ord) (s : State) : Res := s.atom 9 d a b w sc o
/-- AFADD (R105). -/
def execAfadd (d a b : Nat) (w : AWidth) (sc : Scope) (o : Ord) (s : State) : Res := s.atom 10 d a b w sc o

/-! ## Fences and ordered accesses (R108, R309) -/

/-- A GET, an atomic or a PUTI of the acting core has not been performed, or a GET or an atomic has no response yet; at a narrow scope, one that has not been performed and does not
count as performed. -/
def State.readsOut (s : State) (sc : Scope) : Bool :=
  s.net.any fun m => m.core == s.cpu.core && m.launch == s.cpu.launch && m.engine.isNone &&
    (match m.kind with
      | .get _ | .atom _ _ _ _ _ => narrowScope sc == 0 || !s.coverable m
      | .add _ _ => m.waiting && (narrowScope sc == 0 || !s.coverable m)
      | .resp _ => narrowScope sc == 0
      | .store _ _ _ _ _ | .send _ _ | .stream _ _ _ _ _ _ | .chunk _ _ | .record _ _ _ => false)

/-- Retire once nothing earlier is outstanding, else wait. -/
def State.waitFor (s : State) (busy : Bool) (o : Out State) : Res := if busy then .next s.stall else s.finish o

/-- FENCE: every prior access is performed at the scope first (R108, R309). -/
def execFence (sc : Scope) (s : State) : Res := s.waitFor (s.unackedAt sc) (.ok (s.seenAt sc))

/-- FENCEA: prior loads and atomics are performed first (R108). -/
def execFencea (sc : Scope) (s : State) : Res := s.waitFor (s.readsOut sc) (.ok (s.seenAt sc Msg.reads))

/-- FENCEL: every prior access is performed at the scope before any later write (R108). -/
def execFencel (sc : Scope) (s : State) : Res := s.waitFor (s.unackedAt sc) (.ok (s.seenAt sc))

/-- LDA: LD.d64 at ea with acquire (R108). A load has been performed when it retires, at whatever scope, so that no later access
precedes it. -/
def execLda (d a : Nat) (_sc : Scope) (s : State) : Res :=
  let ea := s.ea a 0
  match s.loadRead a ea 8 with
  | .trap t => .next (s.takeTrap t)
  | .wait => .next s.stall
  | .ok (_, t, .absent) => .next (t.takeTrap ⟨7, ea, 0⟩)
  | .ok (_, t, .poisoned) => .next (t.takeTrap ⟨6, ea, 0⟩)
  | .ok (k, t, .value x tag) =>
    if (s.core s.cpu.core).meshBad && s.overMesh k then
      if s.cpu.csrs.regpc.getLsbD 63 then .next (t.meshPoison.2).stall else .next ((t.meshPoison.2).takeTrap ⟨6, ea, 0⟩)
    else .next (t.setG d (loadReg .d64 (s.getG a).val x tag)).advance

/-- STL: the checks of R89, then, once every prior write is acknowledged at the scope, ST.b64 (R108). -/
def execStl (v a : Nat) (sc : Scope) (s : State) : Res :=
  match (s.seenAt sc).storeReg (s.getG v) a (s.ea a 0) 8 with
  | .trap t => s.finishStore (s.getG v) a (s.ea a 0) 8 (.trap t)
  | o => s.waitFor (s.unackedAt sc) o

/-! ## Locks (R109, R110, R284) -/

/-- The scratchpad window of R109, or cause 0x04. -/
def inScratch (ea : Nat) : Out Nat :=
  if 0x10000000 ≤ ea ∧ ea < 0x10200000 then .ok (ea - 0x10000000) else .trap ⟨4, ea, 0⟩

/-- LDLK (R109): an earlier lock is lost first; the word is loaded under the bit by R86 and R87. While the bit is held, or an
earlier request waits for it, LDLK waits in its turn; it joins the queue once no earlier atomic of its core holds the port to the bank
(R284). -/
def execLdlk (d a : Nat) (s : State) : Res :=
  let ea := s.ea a 0
  match (capCheck (s.getG a) ea 8 .r).bind fun _ => inScratch ea with
  | .trap t => .next (s.takeTrap t)
  | .wait => .next s.stall
  | .ok o =>
    let s := s.updCore s.cpu.core fun c => { c with lock := none }
    let k := spadKey (s.cpu.core / 16) o
    if s.coreAtBank k then .next s.stall
    else if s.lockBlocked s.cpu.core s.cpu.core k then .next (s.queueLock s.cpu.core k).stall
    else
      let now := s.clk
      match s.loadRead a ea 8 with
      | .trap t => .next (s.takeTrap t)
      | .wait => .next s.stall
      | .ok (_, t, .absent) => .next (t.takeTrap ⟨7, ea, 0⟩)
      | .ok (_, t, .poisoned) => .next (t.takeTrap ⟨6, ea, 0⟩)
      | .ok (_, t, .value x tag) =>
        .next (((t.unqueueLock (t.cpu.core / 16) t.cpu.core).updCore t.cpu.core fun c => { c with lock := some (o, now) }).setG d
          (loadReg .d64 (s.getG a).val x tag)).advance

/-- STUL (R109): with the lock that covers ea it stores with release, frees the lock and writes 0 to gs; else it stores
nothing, frees any lock the core holds and writes 1. -/
def execStul (v a : Nat) (s : State) : Res :=
  let ea := s.ea a 0
  match (capCheck (s.getG a) ea 8 .w).bind fun _ => inScratch ea with
  | .trap t => .next (s.takeTrap t)
  | .wait => .next s.stall
  | .ok o =>
    match s.lockOf s.cpu.core with
    | some p =>
      if sameLock o p then
        if s.unackedAt .tile then .next s.stall
        else s.finish (((s.seenAt .tile).storeReg (s.getG v) a ea 8).bind fun t => .ok ((t.loseLock t.cpu.core).put v 0))
      else s.finish (.ok ((s.loseLock s.cpu.core).put v 1))
    | none => s.finish (.ok ((s.loseLock s.cpu.core).put v 1))

/-- LOCK_LOSS: a lock held for 4,096 cycles is lost (R110). -/
def execLockLoss (core : Nat) (s : State) : Res :=
  match (s.core core).lock with
  | some (_, t) => .next (if t + 40960 ≤ s.clk then s.loseLock core else s)
  | none => .next s

/-! ## Versioned memory (R111 to R115) -/

/-- Serial order: v is newer than w (R111). -/
def newer (v w : BitVec 12) : Bool := let d := (v - w).toNat; decide (0 < d ∧ d < 2048)

def VerSlot.empty : VerSlot := { ver := 0, st := .free, data := 0, marks := 0, tags := 0 }

/-- What memory holds of a line, as a slot. -/
def Mem.slot (m : Mem) (line : Nat) (ver : BitVec 12) : VerSlot :=
  { ver := ver, st := .complete, data := BitVec.ofNat 512 (m.nat line 64)
    marks := BitVec.ofNat 8 (((List.range 8).map fun i => if nmem m.marks (line + 8 * i) then 2 ^ i else 0).sum)
    tags := BitVec.ofNat 4 (((List.range 4).map fun i => if nmem m.tags (line + 16 * i) then 2 ^ i else 0).sum) }

/-- A line of a VER page; one not listed is as pinning leaves it: version 0 complete beside a free slot (R111). -/
def State.verLine (s : State) (line : Nat) : VerLine :=
  (afind s.verLines line).getD { s0 := s.mem.slot line 0, s1 := VerSlot.empty }

/-- A VER page; one not listed has both floors zero (R111). -/
def State.verPage (s : State) (page : Nat) : VerPage := (afind s.verPages page).getD { fr := 0, fe := 0, gates := [] }

def VerSlot.holds (x : VerSlot) (v : BitVec 12) : Bool := x.st != .free && x.ver == v
def VerSlot.done (x : VerSlot) : Bool := x.st == .complete

/-- The newest complete slot's copy (R113). -/
def VerLine.newest (l : VerLine) : VerSlot :=
  if l.s1.done && (!l.s0.done || newer l.s1.ver l.s0.ver) then l.s1 else l.s0

/-- Memory takes what a slot holds: bytes, marks, tags and pending errors of its line. -/
def Mem.putSlot (m : Mem) (line : Nat) (x : VerSlot) : Mem :=
  let m := m.write line (leBytes 64 x.data.toNat) false false
  let m := (List.range 8).foldl (fun m i => if x.marks.getLsbD i then { m with marks := nadd m.marks (line + 8 * i) }
    else m) m
  let m := (List.range 4).foldl (fun m i => if x.tags.getLsbD i then { m with tags := nadd m.tags (line + 16 * i) } else m) m
  let words := fun b : BitVec 8 => ((List.range 8).filter fun i => b.getLsbD i).map fun i => line + 8 * i
  { m with bad := (words x.bad).foldl nadd m.bad, soft := (words x.soft).foldl nadd m.soft }

/-- The errors of the newest slot are memory's own: the slot lists none (R298, R311). -/
def VerLine.settled (l : VerLine) : VerLine :=
  if l.newest = l.s1 then { l with s1 := { l.s1 with bad := 0, soft := 0 } } else { l with s0 := { l.s0 with bad := 0, soft := 0 } }

/-- Put a line; when its newest complete slot has changed, ordinary loads read the new one (R311). -/
def State.setVerLine (s : State) (line : Nat) (l : VerLine) : State :=
  let t : State := { s with verLines := ains s.verLines line l.settled }
  if (s.verLine line).newest = l.newest then t else { t with mem := t.mem.putSlot line l.newest }

/-- The place of a VER instruction: its capability, its value operand, translation, absence of a host, class VER (R112
steps 1, R286). The answer is the place and the key of the page. -/
def State.verPlace (s : State) (a size : Nat) (need : Perm) : Out (Loc × Nat × Nat) :=
  let ea := s.ea a 0
  (s.check a ea size need).bind fun loc =>
    match homeOf loc.key, loc.tlb with
    | .host _, _ => .trap ⟨4, ea, 0⟩
    | _, some e => if loc.cls = 1 then .ok (loc, e.base, ea) else .trap ⟨4, ea, 0⟩
    | _, none => .trap ⟨4, ea, 0⟩

/-- Finish a VER instruction that traps: its walk has met what it read (R298). -/
def State.verTrap (s : State) (a size : Nat) (need : Perm) (t : Trap) : Res := .next ((s.walked a (s.ea a 0) size need).takeTrap t)

/-- Change one slot of a line. -/
def VerLine.upd (l : VerLine) (second : Bool) (f : VerSlot → VerSlot) : VerLine :=
  if second then { l with s1 := f l.s1 } else { l with s0 := f l.s0 }

/-- A read of a word in a slot that is not the newest meets its errors, as one in memory does (R298). -/
def VerSlot.meet (x : VerSlot) (k : Nat) : VerSlot :=
  let m : BitVec 8 := BitVec.ofNat 8 (2 ^ (k / 8 % 8))
  { x with marks := x.marks ||| (x.bad &&& m), bad := x.bad &&& ~~~m, soft := x.soft &&& ~~~m }

/-- The record of an error that such a read meets: 2 for an uncorrectable one, 1 for a corrected one (R298). -/
def State.slotRecord (s : State) (x : VerSlot) (k by_ : Nat) : State :=
  if x.bad.getLsbD (k / 8 % 8) then s.memRecord 2 (k / 8 * 8) by_
  else if x.soft.getLsbD (k / 8 % 8) then s.memRecord 1 (k / 8 * 8) by_ else s

/-- The word of a slot at an address, or poison (R87). -/
def VerSlot.word (x : VerSlot) (k : Nat) : Option Word :=
  let i := k / 8 % 8
  if x.marks.getLsbD i then none else some (BitVec.ofNat 64 (x.data.toNat / 2 ^ (64 * i)))

/-- A read of a VER line at its home, as far as it may be performed: wait, or whether the home is absent (R97, R304). -/
def State.verRead (s : State) (k : Nat) : Out Bool :=
  if s.readHeld k 8 then .wait
  else if s.absentRead s.cpu.core s.cpu.launch (homeOf k) then .ok true
  else if s.homeBusy s.cpu.core s.cpu.launch (homeOf k) then .wait else .ok false

/-- LDV (R112): a complete slot with version v answers, acting as an acquire; a version below the floor, or passed by, traps
0x10; else it waits. -/
def execLdv (d a b : Nat) (s : State) : Res :=
  match (s.verPlace a 8 .r).bind fun p => (s.value b).bind fun x => (s.verRead p.1.key).bind fun gone => .ok (p, x, gone) with
  | .trap t => s.verTrap a 8 .r t
  | .wait => .next s.stall
  | .ok ((loc, page, ea), x, gone) =>
    let v : BitVec 12 := x.truncate 12
    let l := s.verLine (loc.key / 64 * 64)
    let held := l.s0.holds v || l.s1.holds v
    let passed := (l.s0.done && newer l.s0.ver v) || (l.s1.done && newer l.s1.ver v)
    let t := s.noteAccess s.cpu.core s.cpu.launch loc ea
    if gone then .next (t.takeTrap ⟨7, ea, 0⟩)
    else if newer (s.verPage page).fr v || (!held && passed) then .next (t.takeTrap ⟨16, ea, 0⟩)
    else
      match [l.s0, l.s1].find? fun x => x.done && x.ver == v with
      | none => .next (s.waitIn .version)
      | some x =>
        let t := if l.newest = x then t.meetRead loc.key 8 s.cpu.core
          else if x.meet loc.key = x then t
          else (t.slotRecord x loc.key s.cpu.core).setVerLine (loc.key / 64 * 64) (l.upd (l.s0 != x) fun y => y.meet loc.key)
        if (s.core s.cpu.core).meshBad && s.overMesh loc.key then
          .next ((t.updCore s.cpu.core fun c => { c with meshBad := false }).takeTrap ⟨6, ea, 0⟩)
        else
        if l.newest = x ∧ t.mem.marked loc.key 8 = true then .next (t.takeTrap ⟨6, ea, 0⟩)
        else
          match (x.meet loc.key).word loc.key with
          | none => .next (t.takeTrap ⟨6, ea, 0⟩)
          | some y => .next (t.put d y).advance

/-- Write a word of gs into a slot (R89's table for ST.b64). -/
def VerSlot.write (x : VerSlot) (k : Nat) (g : GReg) : VerSlot :=
  let i := k / 8 % 8
  let m : BitVec 8 := BitVec.ofNat 8 (2 ^ i)
  { x with
    data := (x.data &&& ~~~(BitVec.ofNat 512 ((2 ^ 64 - 1) * 2 ^ (64 * i)))) |||
      BitVec.ofNat 512 (g.ival.toNat * 2 ^ (64 * i))
    marks := if g.tag = .poison then x.marks ||| m else x.marks &&& ~~~m
    tags := x.tags &&& ~~~(BitVec.ofNat 4 (2 ^ (i / 2)))
    bad := x.bad &&& ~~~m, soft := x.soft &&& ~~~m }

/-- What STV does to a line (R113's table). -/
inductive StvOutcome
  | into (second : Bool)
  | claim (second : Bool)
  | bad
  | blocked
  deriving DecidableEq, Repr

/-- R113's table, first row first. -/
def VerLine.stv (l : VerLine) (v fe : BitVec 12) : StvOutcome :=
  if l.s0.holds v then (if l.s0.st = .opened then .into false else .bad)
  else if l.s1.holds v then (if l.s1.st = .opened then .into true else .bad)
  else if l.s0.st = .opened ∨ l.s1.st = .opened then .bad
  else if (l.s0.st ≠ .free ∧ newer v l.s0.ver = false) ∨ (l.s1.st ≠ .free ∧ newer v l.s1.ver = false) then .bad
  else if l.s0.st = .free then .claim false
  else if l.s1.st = .free then .claim true
  else
    let second := newer l.s0.ver l.s1.ver
    let old := if second then l.s1.ver else l.s0.ver
    if newer fe old then .claim second else .blocked

/-- A slot claimed for a version, filled with a copy, whose reading met its errors (R113, R298). -/
def VerSlot.claimed (x : VerSlot) (v : BitVec 12) : VerSlot := { x with ver := v, st := .opened, bad := 0, soft := 0 }

/-- The mark of a word set, where a mesh flit delivered it poisoned (R341). -/
def VerSlot.poison (x : VerSlot) (k : Nat) (bad : Bool) : VerSlot :=
  if bad then { x with marks := x.marks ||| BitVec.ofNat 8 (2 ^ (k / 8 % 8)) } else x

/-- Reading a line for a copy meets its errors: its newest complete slot takes what memory then holds of it (R113, R298). -/
def State.meetLine (s : State) (line by_ : Nat) : State × VerLine :=
  let s := s.meetRead line 64 by_
  let l := s.verLine line
  let m := s.mem.slot line l.newest.ver
  (s, if l.newest = l.s1 then { l with s1 := { l.s1 with marks := l.s1.marks ||| m.marks } }
      else { l with s0 := { l.s0 with marks := l.s0.marks ||| m.marks } })

/-- A write of a page's versions performed at its home leaves the tile: it waits while an earlier access holds it up, a numbered message
of the tile is on its way on the channel, the home cannot answer, or determinants await the buddy (R304, R386, R391); else whether the
home is absent. -/
def State.verWrite (s : State) (k n : Nat) : Out Bool :=
  if s.writeHeld k n then .wait
  else if s.absent s.cpu.core s.cpu.launch (homeOf k) then .ok true
  else if s.homeBusy s.cpu.core s.cpu.launch (homeOf k) ||
      s.net.any (fun m => m.core / 16 == s.cpu.core / 16 && m.chan == (homeOf k).code * 3 && m.waiting) then .wait
  else .ok false

/-- A write performed at its home outside the tiles in the step that makes it: it takes its channel's next number, and is accepted
(R385, R386). -/
def State.numberHome (s : State) (k : Nat) : State :=
  let c := s.channel (s.cpu.core / 16) ((homeOf k).code * 3)
  s.setChannel { c with next := c.next + 1, accepted := c.next + 1 }

/-- STV (R113), a release at dev scope. A word that the mesh delivers poisoned is written with its mark set (R341, log entry 66). -/
def execStv (v a b : Nat) (s : State) : Res :=
  match (s.verPlace a 8 .w).bind fun p => (s.value b).bind fun x =>
      if s.unacked then .wait else (s.verWrite p.1.key 8).bind fun gone => .ok (p, x, gone) with
  | .trap t => s.verTrap a 8 .w t
  | .wait => .next s.stall
  | .ok ((loc, page, ea), x, gone) =>
    let s := s.noteAccess s.cpu.core s.cpu.launch loc ea
    let ver : BitVec 12 := x.truncate 12
    let fin := x.getLsbD 12
    let line := loc.key / 64 * 64
    let l := s.verLine line
    let g := s.getG v
    let bad := (s.core s.cpu.core).meshBad && s.overMesh loc.key
    let close : VerSlot → VerSlot := fun y => let y := y.poison loc.key bad
      if fin then { y with st := .complete } else y
    if gone then .next (s.count 2).advance
    else
      let s := if bad then s.updCore s.cpu.core fun c => { c with meshBad := false } else s
      match l.stv ver (s.verPage page).fe with
      | .bad => .next (s.takeTrap ⟨16, ea, 0⟩)
      | .blocked => .next (s.waitIn (.gate page))
      | .into sec =>
        let (s, l) := if fin then s.meetLine line s.cpu.core else (s, l)
        .next ((s.numberHome loc.key).setVerLine line (l.upd sec fun y => close (y.write loc.key g))).advance
      | .claim sec =>
        let (s, l) := s.meetLine line s.cpu.core
        .next ((s.numberHome loc.key).setVerLine line (l.upd sec fun _ => close ((l.newest.claimed ver).write loc.key g))).advance

def SlotSt.code : SlotSt → Nat
  | .free => 0 | .opened => 1 | .complete => 2

/-- What VERQ reads of a line and its page (R114). -/
def State.verWord (s : State) (line page : Nat) : Word :=
  let l := s.verLine line
  let g := s.verPage page
  BitVec.ofNat 64 (l.s0.ver.toNat + l.s0.st.code * 2 ^ 12 + l.s1.ver.toNat * 2 ^ 16 + l.s1.st.code * 2 ^ 28 + g.fr.toNat * 2 ^ 32 +
    g.fe.toNat * 2 ^ 44)

/-- VERQ (R114); an absent home, or a word that the mesh delivers poisoned, traps as a load does (R87, R341). -/
def execVerq (d a : Nat) (s : State) : Res :=
  match (s.verPlace a 8 .r).bind fun p => (s.verRead p.1.key).bind fun gone => .ok (p, gone) with
  | .trap t => s.verTrap a 8 .r t
  | .wait => .next s.stall
  | .ok ((loc, page, ea), gone) =>
    let t := s.noteAccess s.cpu.core s.cpu.launch loc ea
    if gone then .next (t.takeTrap ⟨7, ea, 0⟩)
    else if (s.core s.cpu.core).meshBad && s.overMesh loc.key then
      .next ((t.updCore s.cpu.core fun c => { c with meshBad := false }).takeTrap ⟨6, ea, 0⟩)
    else .next (t.put d (s.verWord (loc.key / 64 * 64) page)).advance

/-- RECLAIM (R115): Fr follows at once, Fe through the gate; at an absent page it is dropped and counted (R89, R314). -/
def execReclaim (a b : Nat) (s : State) : Res :=
  match (s.verPlace a 1 .w).bind fun p => (s.value b).bind fun x => (s.verWrite p.1.key 1).bind fun gone => .ok (p, x, gone) with
  | .trap t => s.verTrap a 1 .w t
  | .wait => .next s.stall
  | .ok (p, x, gone) =>
    let s := s.noteAccess s.cpu.core s.cpu.launch p.1 p.2.2
    let f : BitVec 12 := x.truncate 12
    let g := s.verPage p.2.1
    if gone then .next (s.count 2).advance
    else
    let s := s.numberHome p.1.key
    if newer f g.fr then
      let tiles := match s.curLaunch with
        | some l => l.tiles
        | none => []
      let g' : VerPage := { g with fr := f, gates := g.gates ++ [(f, s.clk, tiles.map fun t => 4 * t + 3)] }
      .next ({ s with verPages := ains s.verPages p.2.1 g' } : State).advance
    else .next s.advance

end Sys2Proof.Machine
end

