-- ==== Sys2Proof/Config.lean ====
section
/-! DEFINITION. The free values: what the spec leaves to the part, to the outside world or to a secret of the chip. Each
is a constant without a body, so nothing can be proved of its value (log entry 13). -/

namespace Sys2Proof.Config

/-- What the sensors deliver at a read, by the draw and the register: PWRTOT is register 64, PWRDIE of die d register d (R411). -/
opaque power : Nat → Nat → BitVec 64

/-- The signature of an attestation report: the draw and the signed bytes (R405, R414). -/
opaque attestSignature : Nat → List Byte → List Byte

/-- The digest of the identity key, which is generated at test and never leaves the fuses (R405, R414). -/
opaque identityDigest : BitVec 256

/-- Which free entry of the waiting-task table TRIG takes, by the draw: taken modulo the number of free entries (R119). -/
opaque trigEntry : Nat → Nat

/-- What RNGSNAP writes as key and counter of a core that holds no context of the launch, by the draw and the 8-byte field (R132). -/
opaque absentGenerator : Nat → Nat → BitVec 64

/-- Which of the victims that R216 ranks alike a die agent takes, by the draw: taken modulo their number. -/
opaque agentVictim : Nat → Nat

/-- Which of the lanes that R165 lets go next a VMEM instruction performs, by the draw: taken modulo their number. -/
opaque nextLane : Nat → Nat

/-- Which of several values that an engine may have read for one element, at different times, it uses, by the draw: taken modulo their
number (R323). -/
opaque readTime : Nat → Nat

/-- Which of the rows left of a write-back the ME performs next, by the draw: taken modulo their number (R185). -/
opaque nextRow : Nat → Nat

/-- Whether the grants of the configuration table, whose layout the spec does not give, let a firmware core reach the place with a memory
key (R406, R408). -/
opaque granted : List (BitVec 64) → Nat → Bool

/-- The firmware text capability, and FVEC of a firmware core by its role, that the firmware image of a digest sets at boot; its code is no
part of the spec (R139, R405, R408). -/
opaque firmwareText : BitVec 256 → BitVec 128
opaque firmwareEntry : BitVec 256 → Nat → BitVec 52

/-- Which core that has a role fails, and which of the firmware cores left takes its roles over, by the draw: taken modulo their number
(R408). -/
opaque failedRole : Nat → Nat
opaque heirRole : Nat → Nat

end Sys2Proof.Config
end

