-- ==== Sys2Proof/Machine/Tasks.lean ====
section
/-! DEFINITION. Tasks, the deque, stealing, range spreading and triggered tasks, major 0x19 and its events (R116 to R119,
R205, R210 to R219). -/

namespace Sys2Proof.Machine

/-! ## The deque (R211, R212) -/

/-- Entries in hardware and spill. -/
def TaskSt.count (t : TaskSt) : Nat := t.deque.length + t.spill.length

/-- FULL: 64 entries in hardware and 192 spilled (R212). -/
def TaskSt.full (t : TaskSt) : Bool := decide (t.count ≥ 256)

/-- Push at the bottom; a push that finds 64 hardware entries first spills the top one (R211). -/
def TaskSt.push (t : TaskSt) (x : Task) : TaskSt :=
  match t.deque with
  | y :: rest =>
    if t.deque.length ≥ 64 then { t with deque := rest ++ [x], spill := t.spill ++ [y] }
    else { t with deque := t.deque ++ [x] }
  | [] => { t with deque := [x] }

/-- Bring up to 16 of the youngest spilled entries back when fewer than 16 are left in hardware (R211). -/
def TaskSt.refill (t : TaskSt) : TaskSt :=
  if t.deque.length < 16 then
    let n := t.spill.length - 16
    { t with deque := t.spill.drop n ++ t.deque, spill := t.spill.take n }
  else t

/-- Pop the bottom entry (R212). -/
def TaskSt.pop (t : TaskSt) : Option (Task × TaskSt) :=
  match t.deque.getLast? with
  | some x => some (x, ({ t with deque := t.deque.dropLast } : TaskSt).refill)
  | none => none

/-- Change the deque unit's state of the acting context. -/
def State.modTask (s : State) (f : TaskSt → TaskSt) : State := s.modCpu fun c => { c with task := f c.task }

/-- The spill slot that a push would write, as a TCM address (R118, R211). -/
def State.spillSlot (s : State) : Nat :=
  let base := match s.curLaunch with
    | some l => l.spillBase
    | none => 0
  base + 32 * ((s.cpu.task.spillTop + s.cpu.task.spill.length) % 192)

/-- The two registers of a descriptor (R116, R118 TAKE). -/
def Task.regs (x : Task) : GReg × GReg :=
  let p0 : Payload := BitVec.ofNat 128 (x.entry + x.arg.toNat * 2 ^ 64)
  let p1 : Payload := match x.body with
    | .plain a b => BitVec.ofNat 128 (a.toNat + b.toNat * 2 ^ 64)
    | .range lo hi c => BitVec.ofNat 128 (lo + hi * 2 ^ 64 + c * 2 ^ 112)
  (⟨.data, p0⟩, ⟨.data, p1⟩)

/-- The 32 bytes of a descriptor (R116). -/
def Task.bytes (x : Task) : List Byte := leBytes 16 x.regs.1.val.toNat ++ leBytes 16 x.regs.2.val.toNat

/-- A spilled entry is written into slot i of the context's ring in the reserved TCM (R211). -/
def State.writeSlot (s : State) (c : Ctx) (i : Nat) (x : Task) : State :=
  match c.launch.bind s.launch? with
  | some l => s.writeMem (tcmKey c.core (l.spillBase + 32 * (i % 192))) x.bytes false false c.core
  | none => s

/-- What a push onto a context's deque spills: the top of 64 hardware entries goes to the next slot of the ring (R211). `c` is the
context before the push. -/
def State.spillFor (s : State) (c : Ctx) : State :=
  match c.task.deque with
  | y :: _ => if c.task.deque.length ≥ 64 then s.writeSlot c (c.task.spillTop + c.task.spill.length) y else s
  | [] => s

/-- Push by SPAWN and RANGE: FULL traps with cause 0x03 (R118, R212). -/
def State.pushTask (s : State) (x : Task) : Out State :=
  if s.cpu.task.full then .trap ⟨3, s.spillSlot, 0⟩ else .ok ((s.modTask fun t => t.push x).spillFor s.cpu)

/-- Every TASK instruction but DEQN traps in a gang (R219). -/
def State.noGang (s : State) (w : Nat) : Out Unit := if s.cpu.gang.isSome then .trap (illegal w) else .ok ()

/-- The word of an instruction, for TVAL. -/
def wordOfInstr (i : Instr) : Nat := (encode i).getD 0

/-! ## Ranges (R213) -/

/-- Chunks left in [lo, hi). -/
def chunksOf (lo hi chunk : Nat) : Nat := if chunk = 0 ∨ hi ≤ lo then 0 else (hi - lo + chunk - 1) / chunk

/-- Split a range task of at least two chunks at m: what the owner keeps, and the thief's part (R213). -/
def Task.split (t : Task) : Option (Task × Task) :=
  match t.body with
  | .range lo hi c =>
    let r := chunksOf lo hi c
    if r ≥ 2 then
      let m := lo + c * ((r + 1) / 2)
      some ({ t with body := .range lo m c }, { t with body := .range m hi c })
    else none
  | .plain _ _ => none

/-- Chunks that a split could divide; 0 for what is no range. -/
def Task.chunks (t : Task) : Nat :=
  match t.body with
  | .range lo hi c => chunksOf lo hi c
  | .plain _ _ => 0

/-- What a steal takes from a victim, and what it leaves: the top entry or its upper half, else the upper half of the
current range of a victim whose deque is EMPTY (R212, R213). -/
def TaskSt.steal (t : TaskSt) : Option (Task × TaskSt) :=
  match t.spill, t.deque with
  | x :: rest, _ =>
    match x.split with
    | some (keep, take) => some (take, { t with spill := keep :: rest })
    | none => some (x, { t with spill := rest, spillTop := (t.spillTop + 1) % 192 })
  | [], x :: rest =>
    match x.split with
    | some (keep, take) => some (take, { t with deque := keep :: rest })
    | none => some (x, { t with deque := rest })
  | [], [] =>
    match t.current.bind Task.split with
    | some (keep, take) => some (take, { t with current := some keep })
    | none => none

/-- Chunks of the range that a steal would split (R216). -/
def TaskSt.stealChunks (t : TaskSt) : Nat :=
  match t.spill, t.deque with
  | x :: _, _ => x.chunks
  | [], x :: _ => x.chunks
  | [], [] => match t.current with
    | some x => x.chunks
    | none => 0

/-! ## Starting and ending tasks -/

/-- Start a task (R117): PCC, the arguments in g1 to g3, g4 to g6 zero, and the current range. -/
def State.startTask (s : State) (x : Task) : State :=
  let (a2, a3) : Word × Word := match x.body with
    | .plain a b => (a, b)
    | .range _ _ _ => (0, 0)
  let word : Word → GReg := fun w => ⟨.data, w.zeroExtend 128⟩
  let s := s.modRegs fun r =>
    { r with g := vset (vset (vset (vset (vset (vset r.g 1 (word x.arg)) 2 (word a2)) 3 (word a3)) 4 GReg.zero) 5
        GReg.zero) 6 GReg.zero }
  let s := s.modTask fun t => { t with running := true, current := some x, idle := none }
  (s.modCpu fun c => { c with stalled := false, idleSince := false }).enter s.appText x.entry

/-- What DONE pushes of a range with range left (R214 step 1). -/
def TaskSt.remainder (t : TaskSt) : Option Task :=
  match t.current with
  | some x => match x.body with
    | .range lo hi _ => if lo < hi then some x else none
    | .plain _ _ => none
  | none => none

/-- The engine set has nothing queued, running or awaiting collection (R171, R210). -/
def EngQ.quiet (q : EngQ) : Bool := q.cmds.isEmpty && q.uncollected == 0

/-- No firing is pending (R210). -/
def TaskSt.noFiring (t : TaskSt) : Bool := t.trig.toList.all fun x => match x with
  | .firing _ => false
  | .free => true
  | .armed _ _ _ => true

/-- A context waits in DONE for its next task: it runs none, and stands where it executed DONE, or where it was created idle (R102,
R209, R214). After its handler has returned elsewhere it waits no longer. -/
def Ctx.waitsDone (c : Ctx) : Bool := !c.task.running && c.task.idle == some (capAddr c.pcc, c.handler, c.level)

/-- A context is idle as R210 says, wherever its tile stands; a member of a gang is busy (R219). -/
def State.quietCtx (s : State) (c : Ctx) : Bool :=
  c.waitsDone && c.task.count == 0 && c.task.noFiring && c.task.grant.isNone && c.inbox.isEmpty &&
    c.eng.me.quiet && c.eng.ce.quiet && c.eng.ca.quiet && !s.outstanding c && c.gang.isNone

/-- A context is idle (R210); one whose tile is in recovery is busy. -/
def State.atRest (s : State) (c : Ctx) : Bool := s.quietCtx c && (s.tile (c.core / 16)).st == .run && c.run != .pairSaved

/-- The acting context has no task left: it waits in DONE, searches for work, and parks there while it is idle (R214, R265). -/
def State.idleAtDone (s : State) : State :=
  let s := s.modTask fun t => { t with running := false, current := none, idle := some (s.pc, s.cpu.handler, s.cpu.level) }
  if s.quietCtx s.cpu then s.waitIn .done else s.stall

/-- DONE (R118, R214): the remainder is pushed, which traps on a FULL deque as every push does (R118), and popped again, else the bottom
entry is next, else the context idles and searches for work. -/
def State.done (s : State) : State :=
  match s.cpu.task.remainder with
  | some x =>
    if s.cpu.task.full then s.takeTrap ⟨3, s.spillSlot, 0⟩
    else
      match (s.cpu.task.push x).pop with
      | some (y, t) => ((s.modTask fun _ => t).spillFor s.cpu).startTask y
      | none => s.startTask x
  | none =>
    match s.cpu.task.pop with
    | some (y, t) => (s.modTask fun _ => t).startTask y
    | none => s.idleAtDone

/-- SPAWN: a release, then a push of a plain task (R118, R305). -/
def execSpawn (a : Nat) (s : State) : Res :=
  let w := wordOfInstr (.spawn a)
  s.finish ((s.noGang w).bind fun _ => (s.descriptor a w false).bind fun x =>
    if s.unacked then .wait else s.pushTask x.1)

/-! ## Range spreading (R217) -/

/-- Die shares of a partition: dies by their lowest tile, with their core counts (R217). -/
def State.diesOf (s : State) (l : Launch) : List (Nat × Nat) :=
  (sortBy id l.tiles).foldl (fun ds t =>
    let d := s.dieOf t
    if ds.any fun p => p.1 == d then ds.map fun p => if p.1 = d then (p.1, p.2 + 16) else p else ds ++ [(d, 16)]) []

/-- The shares of a range over the dies: die and part, empty parts left out (R217). -/
def sharesFrom (x : Task) (lo hi chunk total c : Nat) : List (Nat × Nat) → Nat → List (Nat × Task)
  | [], _ => []
  | (d, n) :: rest, before =>
    let first := total * before / c
    let last := total * (before + n) / c
    let part : Task := { x with body := .range (lo + chunk * first) (Nat.min hi (lo + chunk * last)) chunk }
    (if last > first then [(d, part)] else []) ++ sharesFrom x lo hi chunk total c rest (before + n)

/-- Every share of a range task over the launch's dies (R217). -/
def State.shares (s : State) (l : Launch) (x : Task) : List (Nat × Task) :=
  match x.body with
  | .range lo hi chunk =>
    let ds := s.diesOf l
    sharesFrom x lo hi chunk (chunksOf lo hi chunk) (ds.map (·.2)).sum ds 0
  | .plain _ _ => []

/-- RANGE: a push of a range task, divided over the dies with SPREAD (R118, R217). -/
def execRange (a : Nat) (s : State) : Res :=
  let w := wordOfInstr (.range a)
  s.finish ((s.noGang w).bind fun _ => (s.descriptor a w true).bind fun x =>
    if s.unacked then .wait
    else
      match x.2, s.curLaunch, s.cpu.launch with
      | true, some l, some n =>
        let me := s.dieOf (s.cpu.core / 16)
        let all := s.shares l x.1
        let own := all.filter fun p => p.1 == me
        let rest := all.filter fun p => p.1 != me
        -- the other dies' shares leave the tile (R391)
        if !rest.isEmpty && s.detsOpen (s.cpu.core / 16) then .wait else
        (match own with
          | p :: _ => s.pushTask p.2
          | [] => .ok s).bind fun s => .ok (s.updLaunch n fun l => { l with shares := l.shares ++ rest.map fun (p : Nat × Task) => Share.mk me p.1 p.2 })
      | _, _, _ => s.pushTask x.1)

/-- TAKE: pops the bottom entry into g[a] and g[a+1], 1 to gd; 0 when the deque is EMPTY (R118). DESIGN CHOICE (log entry 103): a share
that RANGE pushed with SPREAD comes back with bit 52 clear; the spec does not say. -/
def execTake (d a : Nat) (s : State) : Res :=
  s.finish ((s.noGang (wordOfInstr (.take d a))).bind fun _ =>
    match s.cpu.task.pop with
    | none => .ok (s.put d 0)
    | some (x, t) =>
      .ok ((((s.modTask fun _ => t).setG a x.regs.1).setG (a + 1) x.regs.2).put d 1))

/-- DONE (R118, R214). -/
def execDone (s : State) : Res :=
  match s.noGang (wordOfInstr .done) with
  | .trap t => .next (s.takeTrap t)
  | .wait => .next s.stall
  | .ok _ => .next s.done

/-- Another resident ready context whose deadline is no later than the running one's (R118 YIELD). -/
def State.yieldTo (s : State) : Option Ctx :=
  (s.pick s.cpu.core).filter fun c => decide (s.deadlineOf c ≤ s.deadlineOf s.cpu)

/-- The acting context gives its core to another of the core's ready contexts and stays ready itself. -/
def State.switchTo (s : State) (c : Ctx) : State :=
  let old : Ctx := { s.cpu.releaseSlots with run := .ready }
  let s := ((((s.dropOther c).loseLock s.cpu.core).saveLines s.cpu).updCore c.core fun x => { x with switched := true }).noteSwitch
    c.core 2 (c.launch.getD 0)
  { s with cpu := { c with run := .running }, others := s.others ++ [old] }

/-- The switch sequence of R271 at a boundary of the acting context: it stops and is ready, its gang dissolves (R128), its
lock is lost (R110), a GANG or PAIR that waits is abandoned (R102), the request is served, and dispatch chooses again (R266). A pair
stops on both of its cores (R369). -/
def State.preempt (s : State) : State :=
  let core := s.cpu.core
  let pair := s.cpu.paired
  let s := (((s.dissolveGang.abandon.loseLock core).updCore core fun x => { x with preReq := false }).noteSwitch core 6
    (s.cpu.launch.getD 0)).saveLines s.cpu
  let s := if pair && (s.core (core + 1)).preReq then s.updCore (core + 1) fun x => { x with preReq := false } else s
  let rest := if pair then s.others.filter fun c => !(c.core == core + 1 && c.csrs.pairctl.getLsbD 1 && c.launch.isNone) else s.others
  let old : Ctx := { s.cpu.releaseSlots with run := .ready }
  let s := ({ s with cpu := emptyCore core, others := rest ++ [old] }).dispatch core
  if pair then s.dispatch (core + 1) else s

/-- YIELD (R118). -/
def execYield (s : State) : Res :=
  match s.noGang (wordOfInstr .yield) with
  | .trap t => .next (s.takeTrap t)
  | .wait => .next s.stall
  | .ok _ =>
    match s.yieldTo with
    | some c => .next (s.advance.switchTo c)
    | none => .next s.advance

/-! ## Triggers (R119, R218) -/

/-- The free entries of the waiting-task table. -/
def TaskSt.freeTrigs (t : TaskSt) : List Nat := (List.range 32).filter fun i => vget .free t.trig i == .free

/-- The free entry that TRIG takes, and the state with its draw; the spec does not say which (free value, log entry 22). -/
def State.freeTrig (s : State) : Option (Nat × State) :=
  let fs := s.cpu.task.freeTrigs
  match fs with
  | [] => none
  | x :: _ =>
    let (n, s) := s.drawFree
    some (fs.getD (Config.trigEntry n % fs.length) x, s)

/-- TRIG (R119). -/
def execTrig (d a b : Nat) (s : State) : Res :=
  let w := wordOfInstr (.trig d a b)
  let ea := s.ea a 0
  s.finish ((s.noGang w).bind fun _ => (capCheck (s.getG a) ea 8 .r).bind fun _ =>
    if 0x20000 < ea + 8 then .trap ⟨4, ea, 0⟩
    else (s.value d).bind fun thr => (s.descriptor b w false).bind fun x =>
      let k := tcmKey s.cpu.core ea
      if s.ownInFlight k 8 then .wait
      else
        match s.freeTrig with
        | none => .ok (s.put d (BitVec.allOnes 64))
        | some (i, s) =>
          let e : TrigSt := if s.mem.nat k 8 = thr.toNat then .firing x.1 else .armed k thr x.1
          .ok ((s.modTask fun t => { t with trig := vset t.trig i e }).put d (BitVec.ofNat 64 i)))

/-- UNTRIG (R119, R218). -/
def execUntrig (d a : Nat) (s : State) : Res :=
  s.finish ((s.noGang (wordOfInstr (.untrig d a))).bind fun _ => (s.value a).bind fun x =>
    let i := x.toNat % 32
    match vget .free s.cpu.task.trig i with
    | .armed _ _ _ => .ok ((s.modTask fun t => { t with trig := vset t.trig i .free }).put d 1)
    | .free => .ok (s.put d 0)
    | .firing _ => .ok (s.put d 0))

/-- DEQN (R118). -/
def execDeqn (d : Nat) (s : State) : Res := s.finish (.ok (s.put d (BitVec.ofNat 64 s.cpu.task.count)))

/-- CHUNK (R118): the next chunk of the current range; 0 and 0 in a plain task. -/
def execChunk (d a : Nat) (s : State) : Res :=
  s.finish ((s.noGang (wordOfInstr (.chunk d a))).bind fun _ =>
    match s.cpu.task.current with
    | some x =>
      match x.body with
      | .range lo hi c =>
        let stop := Nat.min (lo + c) hi
        let x' : Task := { x with body := .range stop hi c }
        .ok (((s.modTask fun t => { t with current := some x' }).put d (BitVec.ofNat 64 lo)).put a (BitVec.ofNat 64 stop))
      | .plain _ _ => .ok ((s.put d 0).put a 0)
    | none => .ok ((s.put d 0).put a 0))

/-! ## Events -/

/-- Change the deque unit's state of a launch's context. -/
def State.updTask (s : State) (core launch : Nat) (f : TaskSt → TaskSt) : State :=
  s.updCtx core launch fun c => { c with task := f c.task }

/-- FIRING_PUSH: the task of a firing entry is pushed and the entry freed, unless the deque is FULL (R218). -/
def execFiringPush (core launch n : Nat) (s : State) : Res :=
  match s.ctxOf core launch with
  | some c =>
    match vget .free c.task.trig n with
    | .firing x =>
      if c.task.full || (s.tile (core / 16)).st.refuses then .next s
      else .next ((s.updTask core launch fun t => { (t.push x) with trig := vset t.trig n .free }).spillFor c)
    | .free => .next s
    | .armed _ _ _ => .next s
  | none => .next s

/-- The context searches for work: it waits in DONE, its deque is empty and no grant is on its way (R214). -/
def Ctx.thief (c : Ctx) : Bool := c.waitsDone && c.task.count == 0 && c.task.grant.isNone && c.gang.isNone

/-- A steal may take something from a core of a launch: its summary bit (R215); a tile between fence and resume refuses (R395). -/
def State.stealable (s : State) (launch core : Nat) : Bool :=
  !s.refusing (core / 16) && ((s.ctxOf core launch).map fun c => c.task.steal.isSome).getD false

/-- Some core of a tile has work of the launch that a steal may take: the tile's summary bit (R215). -/
def State.tileStealable (s : State) (launch tile : Nat) : Bool := (List.range 16).any fun k => s.stealable launch (tile * 16 + k)

/-- Numbers below n in the order of a round that starts after k (R215). -/
def roundAfter (k n : Nat) : List Nat := (List.range n).map fun i => (k + 1 + i) % n

/-- The cores of a tile in the round after a core, another core left out (R215). -/
def tileRound (tile after : Nat) : List Nat := (roundAfter (after % 16) 16).map fun k => tile * 16 + k

/-- The cores that a thief probes, in order: those of its own tile after the one last probed there; when its tile shows nothing,
the tiles of its die that it reaches (R340) and whose summary bit is set, in the round of their ids after the one last probed, and inside a tile the cores in
the round after that one's index (R215). DESIGN CHOICE (log entry 102): before its first probe a context counts core 0 as the last one
probed, and one such pointer serves the cores of all other tiles. -/
def State.probeOrder (s : State) (launch : Nat) (a : Ctx) : List Nat :=
  let own := a.core / 16
  let others := (s.ctxs.filter fun c => c.launch == some launch && c.core / 16 != own && s.dieOf (c.core / 16) == s.dieOf own).map
    fun c => c.core / 16
  let ts := ((sortBy id others).eraseDups).filter fun t => !s.cutTiles own t && !s.cutTiles t own
  let last := a.task.probedFar / 16
  let round := (ts.filter fun t => decide (last < t)) ++ ts.filter fun t => decide (t ≤ last)
  if s.tileStealable launch own then (tileRound own a.task.probed).filter fun k => k != a.core
  else (round.filter fun t => s.tileStealable launch t).flatMap fun t => tileRound t a.task.probedFar

/-- The victim is the next that the thief probes: no core before it in the round shows anything to steal. A probe may still find a
core whose summary bit is stale (R215). -/
def State.probeNext (s : State) (launch : Nat) (a : Ctx) (victim : Nat) : Bool :=
  let order := s.probeOrder launch a
  order.elem victim && (order.takeWhile fun k => k != victim).all fun k => !s.stealable launch k

/-- A steal leaves the victim with the deque given; the slot of a spilled entry that was split is written again (R211, R213). -/
def State.stealFrom (s : State) (launch : Nat) (v : Ctx) (q : TaskSt) : State :=
  let s := s.updTask v.core launch fun _ => q
  match q.spill with
  | keep :: _ => if q.spill.length = v.task.spill.length then s.writeSlot v q.spillTop keep else s
  | [] => s

/-- A steal between two tiles is numbered traffic that each records: the request on channel 1 at the victim's, the entry granted on
channel 2 at the thief's (R216, R385, R390, R392). -/
def State.noteSteal (s : State) (launch thief victim : Nat) (x : Task) : State :=
  if thief / 16 = victim / 16 then s
  else ((s.numbered (thief / 16) (victim / 16) 1 32 (.request launch thief)).numbered (victim / 16) (thief / 16) 2 48
    (.grant launch thief x)).noteDet (thief / 16) (.value (thief % 16) x.bytes)

/-- The request of a steal between two tiles and its grant each have a clear way, on channels 1 and 2 (R216, R339, R391); a tile
between fence and resume takes no part (R395). -/
def State.mayTrade (s : State) (a b : Nat) : Bool :=
  !s.refusing (a / 16) && !s.refusing (b / 16) && (s.wayClear (a / 16) (b / 16) 1 && s.wayClear (b / 16) (a / 16) 2)

/-- STEAL_PROBE: a thief's request reaches the victim that is next by R215, in its tile, or on its die when its own tile shows
nothing; the entry or the upper half of a range is granted, or the probe is refused (R212 to R215). -/
def execStealProbe (thief victim launch : Nat) (s : State) : Res :=
  match s.ctxOf thief launch, s.ctxOf victim launch with
  | some a, some b =>
    let taken := s.ctxs.any fun c => c.core == thief && c.launch != some launch && c.run.onCore
    if !a.thief || taken || !s.mayTrade thief victim || !s.probeNext launch a victim then .next s
    else
      let s := s.updTask thief launch fun t =>
        if victim / 16 = thief / 16 then { t with probed := victim } else { t with probedFar := victim }
      match b.task.steal with
      | none => .next s
      | some (x, t) =>
        .next (((s.stealFrom launch b t).updTask thief launch fun t => { t with grant := some x }).noteSteal launch thief victim x)
  | _, _ => .next s

/-- STEAL_GRANT: the granted entry arrives and is pushed at the bottom of the thief's deque (R214). DESIGN CHOICE (log entry 101): one
that finds the deque FULL waits until there is space; the rows of R212 name no grant. -/
def execStealGrant (core launch : Nat) (s : State) : Res :=
  match (s.ctxOf core launch).bind fun c => c.task.grant with
  | some x =>
    match s.ctxOf core launch with
    | some c => if c.task.full || (s.tile (core / 16)).st.refuses then .next s
      else .next ((s.updTask core launch fun t => { (t.push x) with grant := none }).spillFor c)
    | none => .next s
  | none => .next s

/-- Every context of a launch on a tile is there: the tile is in service and owes none (R210, R230). -/
def State.tileWhole (s : State) (launch t : Nat) : Bool := !(s.tile t).st.refuses && !(s.tile t).owed.elem launch

/-- The tiles of a launch on a die. -/
def State.dieTiles (s : State) (l : Launch) (die : Nat) : List Nat := l.tiles.filter fun t => s.dieOf t == die

/-- Contexts of a launch on a die, lowest name first. -/
def State.dieCtxs (s : State) (launch die : Nat) : List Ctx :=
  sortBy Ctx.core (s.ctxs.filter fun c => c.launch == some launch && s.dieOf (c.core / 16) == die)

/-- The rank of a victim for a die agent (R216), lower first: the largest splittable range, else an entry of the die with the
fewest seam crossings, then the lowest die. -/
def State.agentRank (s : State) (die : Nat) (c : Ctx) : Nat :=
  if c.task.stealChunks ≥ 2 then 2 ^ 60 - c.task.stealChunks
  else 2 ^ 61 + s.crossings die (s.dieOf (c.core / 16)) * 64 + s.dieOf (c.core / 16)

/-- The victims of a die agent that R216 ranks first, among those it reaches (R340). -/
def State.agentVictims (s : State) (launch die : Nat) : List Ctx :=
  let cut := fun c : Ctx => s.cut die (physDie (s.tile (c.core / 16)).phys) || s.cut (physDie (s.tile (c.core / 16)).phys) die
  let cs := s.ctxs.filter fun c => c.launch == some launch && s.dieOf (c.core / 16) != die && s.stealable launch c.core && !cut c
  cs.filter fun c => cs.all fun d => decide (s.agentRank die c ≤ s.agentRank die d)

/-- DIE_AGENT_STEAL: with every context of its die there, idle and registered and nothing stealable there, the agent takes an entry of
another die for the lowest-named context of its own (R210, R216); which of several victims of one rank is open (free value, log
entry 29). -/
def execDieAgentSteal (launch die : Nat) (s : State) : Res :=
  let mine := s.dieCtxs launch die
  let vs := s.agentVictims launch die
  match mine with
  | c :: _ =>
    let whole := ((s.launch? launch).map fun l => (s.dieTiles l die).all (s.tileWhole launch)).getD false
    if whole && mine.all fun x => x.thief && s.atRest x && x.task.steal.isNone then
      let (n, t) := s.drawFree
      match vs[Config.agentVictim n % vs.length]? with
      | some v =>
        match v.task.steal with
        | some (x, q) =>
          if s.mayTrade c.core v.core then
            .next (((t.stealFrom launch v q).updTask c.core launch fun y => y.push x).noteSteal launch c.core v.core x)
          else .next s
        | none => .next s
      | none => .next s
    else .next s
  | [] => .next s

/-- The lowest tile of the launch on a die has its contexts (R217, R395). -/
def State.lowestThere (s : State) (launch die : Nat) : Bool :=
  match ((s.launch? launch).map fun l => sortBy id (s.dieTiles l die)).getD [] with
  | t :: _ => s.tileWhole launch t
  | [] => false

/-- A share leaves its agent. -/
def State.dropShare (s : State) (launch n : Nat) : State := s.updLaunch launch fun l => { l with shares := l.shares.eraseIdx n }

/-- SHARE_PUSH: the n-th share that waits at a die agent is pushed into the lowest-named context of its die, unless that
deque is FULL (R217), a link between the agents is not UP (R339) or the context's tile is between fence and resume (R395). One for a die
that no UP link leads to is dropped and counted (R340). -/
def execSharePush (launch n : Nat) (s : State) : Res :=
  match (s.launch? launch).bind fun l => l.shares[n]? with
  | some x =>
    if s.cut x.src x.die then .next ((s.count 2).dropShare launch n)
    else
      match s.dieCtxs launch x.die with
      | c :: _ =>
        if c.task.full || !s.lowestThere launch x.die || s.linksBusy (s.agentLinks x.src x.die) 0 then .next s
        else .next ((((s.updTask c.core launch fun t => t.push x.task).spillFor c).noteDet (c.core / 16)
          (.value (c.core % 16) x.task.bytes)).dropShare launch n)
      | [] => .next s
  | none => .next s

end Sys2Proof.Machine
end

