-- ==== Sys2Proof/Machine/Messages.lean ====
section
/-! DEFINITION. Messages and the inbox, major 0x1A, user-level handler entry, and the arrivals of messages, responses and
acknowledgements (R103, R108, R120 to R125, R148, R386, R388). -/

namespace Sys2Proof.Machine

/-- The place of PUT, PUTI and GET: the TCM, scratchpad or remote-tile window only (R121). -/
def State.msgPlace (s : State) (a : Nat) (need : Perm) : Out (Loc × Nat) :=
  let ea := s.ea a 0
  (capCheck (s.getG a) ea 8 need).bind fun _ =>
    if ea < 0x20000 ∨ (0x10000000 ≤ ea ∧ ea < 0x10200000) ∨ (remoteBase ≤ ea ∧ ea < 0x090000000000) then
      (s.locate s.cpu.core s.cpu.launch (s.dataTlb s.cpu.core) ea).bind fun loc => .ok (loc, ea)
    else .trap ⟨4, ea, 0⟩

/-- PUT: stores gb as ST.b64 would, as a message (R120, R121). -/
def execPut (a b : Nat) (s : State) : Res :=
  s.finish ((s.msgPlace a .w).bind fun p =>
    let (bs, t, m) := storeData (s.getG b) 8
    s.writeAt p.1 p.2 bs t m true)

/-- PUTI: adds ival(b) to the word at its home (R121). -/
def execPuti (a b : Nat) (s : State) : Res :=
  s.finish ((s.msgPlace a .w).bind fun p => (s.value b).bind fun x =>
    .ok (s.post s.cpu.core s.cpu.launch (.add p.1.key x) true none))

/-- GET: the request leaves and gd is pending (R103, R121). -/
def execGet (d a : Nat) (s : State) : Res :=
  s.finish ((s.msgPlace a .r).bind fun p =>
    let t := s.noteAccess s.cpu.core s.cpu.launch p.1 p.2
    .ok ((t.awaitNext d false).post s.cpu.core s.cpu.launch (.get p.1.key) false none
      (if p.1.recorded p.2 then some (s.cpu.core % 16) else none)))

/-- SEND (R122), a release at dev scope: it waits until every earlier access is performed. -/
def execSend (a b : Nat) (s : State) : Res :=
  s.finish ((s.value a).bind fun x =>
    let name := x.toNat % 2 ^ 20
    let g := s.getG b
    if name / 16 = 0xFFFF ∨ s.enumerated (name / 16) = false then .trap ⟨7, name, 0⟩
    else
      let inside := match s.curLaunch with
        | some l => l.hasTile (name / 16)
        | none => false
      if !inside then .trap ⟨4, name, 0⟩
      else if g.tag = .cap ∧ capHas g.val .g = false then .trap ⟨4, name, 0⟩
      else if s.unacked then .wait
      else .ok (s.post s.cpu.core s.cpu.launch (.send name g) true none))

/-- Take the oldest inbox entry; a completion frees its engine's queue entry (R123, R171). -/
def Ctx.takeInbox (c : Ctx) (e : InEntry) : Ctx :=
  let less : EngQ → EngQ := fun q => { q with uncollected := q.uncollected - 1 }
  let eng := match e.done with
    | some .me => { c.eng with me := less c.eng.me }
    | some .ce => { c.eng with ce := less c.eng.ce }
    | some .ca => { c.eng with ca := less c.eng.ca }
    | none => c.eng
  { c with inbox := c.inbox.drop 1, eng := eng }

/-- RECV: the payload with its tag to gd, source and kind to ga (R123). It reads a near place, and waits behind an earlier near read
(R304). -/
def execRecv (d a : Nat) (s : State) : Res :=
  match s.cpu.inbox with
  | [] => .next (s.waitIn .recv)
  | e :: _ =>
    if s.nearReadInFlight then .next s.stall else
    let kind := if e.done.isSome then 1 else 0
    .next (((s.modCpu fun c => c.takeInbox e).setG d e.val).put a
      (BitVec.ofNat 64 (e.source % 2 ^ 20 + kind * 2 ^ 20))).advance

/-- SENDH: a record to the message area of the launch's queue, behind every earlier access; it never waits (R124). -/
def execSendh (a b : Nat) (s : State) : Res :=
  s.finish ((s.value a).bind fun x =>
    match s.curLaunch with
    | none => .ok s
    | some l =>
      let g := s.getG b
      let q := s.queue l.pkt.queue
      let body : List Byte := [1, x.truncate 8] ++ leBytes 2 l.pkt.pid ++ leBytes 4 s.cpu.core ++
        leBytes 8 g.ival.toNat ++ leBytes 8 s.dtime ++ [(if g.tag = .poison then 1 else 0)] ++ zeros 3
      .ok (s.post s.cpu.core s.cpu.launch (.record l.pkt.queue (qKey q.port q.msga) body) false none))

/-- INBOXN (R123). -/
def execInboxn (d : Nat) (s : State) : Res := s.finish (.ok (s.put d (BitVec.ofNat 64 s.cpu.inbox.length)))

/-- UIEN: the previous enable to gd, the new one from ival(a)[0] (R125). -/
def execUien (d a : Nat) (s : State) : Res :=
  s.finish ((s.value a).bind fun x =>
    .ok ((s.modCpu fun c => { c with uien := x.getLsbD 0 }).put d (flag s.cpu.uien)))

/-- IHRET: outside handler state illegal; else the checks of R94 on the handler's g55, and the transfer (R125). -/
def execIhret (s : State) : Res :=
  s.finishJump (if s.cpu.handler then
      (jumpCheck (vget GReg.zero s.cpu.regs.gh 7)).bind fun c =>
        .ok ((s.modCpu fun x => { x with handler := false }).setPcc c)
    else .trap (illegal (wordOfInstr .ihret)))

/-- User-level handler entry is due (R125). -/
def Ctx.uiDue (c : Ctx) : Bool := c.level == .app && c.uien && !c.inbox.isEmpty && !c.handler

/-- The context's lease is spent while its launch's pool is empty: cause 0x0E is due (R269). -/
def State.spent (s : State) (c : Ctx) : Bool :=
  c.lease == 0 && match c.launch.bind s.launch? with
    | some l => l.pool == 0 && !l.unlimited && l.live
    | none => false

/-- No event of R356 that comes before a pre-emption request is pending: halt, rollback, a passed deadline, a spent budget. -/
def State.firstInLine (s : State) (c : Ctx) : Bool :=
  !(s.core c.core).haltReq && !(c.csrs.pairctl.getLsbD 0 && (s.core (c.core + 1)).haltReq) && !(s.core c.core).rollReq && c.due.isEmpty &&
    !s.spent c

/-- A pre-emption request of the acting context's core, or of either core of its pair, can be served now: at application level by the
switch, at runtime level with IE = 1 as interrupt 1 (R271, R272, R369). -/
def State.preDue (s : State) : Bool :=
  s.asks CoreSt.preReq &&
    ((s.cpu.level == .app && s.cpu.launch.isSome) || (s.cpu.level == .runtime && tstatIE s.cpu.csrs.tstat))

/-- No event of R356 that comes before the timer is pending. -/
def State.beforeTimer (s : State) : Bool := s.firstInLine s.cpu && !s.preDue

/-- The timer interrupt may be taken now: DTIME has reached TCMP, and the level takes interrupts (R137, R140). -/
def State.timerDue (s : State) : Bool :=
  s.cpu.csrs.tcmp != BitVec.allOnes 64 && decide (s.cpu.csrs.tcmp.toNat ≤ s.dtime) &&
    (s.cpu.level == .app || (s.cpu.level == .runtime && tstatIE s.cpu.csrs.tstat))

/-- UI_ENTRY: at a boundary of application level the handler's g55 takes PCC at the stopped instruction, and the PC
becomes UIVEC (R125); the handler's REPPROG and VPROG are 0 (R72, R164), the region is sealed (R362), and a wait is abandoned
(R102). The entry is a determinant (R390). Every other event of R356 comes first. DESIGN CHOICE (log entry 110): in a gang it is a stop,
which dissolves the gang (R128). -/
def execUiEntry (s : State) : Res :=
  if s.live && s.cpu.uiDue && s.beforeTimer && !s.timerDue then
    let g : GReg := s.pccAt s.pc
    let s := (s.dissolveGang.seal.abandon.unqueueLock (s.cpu.core / 16) s.cpu.core).noteSwitch s.cpu.core 1 (s.cpu.launch.getD 0)
    let s := s.modRegs fun r => { r with gh := vset r.gh 7 g }
    let s := s.modCsr fun c => { c with repprogH := 0, vprogH := 0 }
    .next ((s.modCpu fun c => { c with handler := true, stalled := false, frame := none }).setPc (pcOf s.cpu.csrs.uivec.toNat))
  else .next s

/-- TIMER_INTERRUPT: interrupt 2 (R140, R141), once no event before it is pending (R356). -/
def execTimerInterrupt (s : State) : Res := .next (if s.live && s.timerDue && s.beforeTimer then s.takeInterrupt 2 else s)

/-- MESSAGE_ARRIVAL: a request on channel 0 or 1 reaches its home (R120, R386). Stream entries and chunks arrive by steps
of their own. -/
def execMessageArrival (n : Nat) (s : State) : Res :=
  match (s.msg? n).map Msg.kind with
  | some (.stream _ _ _ _ _ _) => .next s
  | some (.chunk _ _) => .next s
  | _ => .next (s.arrive n)

/-- STREAM_ENTRY_ARRIVAL: an entry reaches the arrival queue of its tag, waits for room, or is dropped (R148). -/
def execStreamEntryArrival (n : Nat) (s : State) : Res :=
  match (s.msg? n).map Msg.kind with
  | some (.stream _ _ _ _ _ _) => .next (s.arrive n)
  | _ => .next s

/-- RESPONSE_ARRIVAL: the response of an atomic or GET is written into its pending register (R103). -/
def execResponseArrival (n : Nat) (s : State) : Res := .next (s.respond n)

/-- WRITE_ACKNOWLEDGEMENT: the acknowledgement of a performed write reaches its issuer (R108, R210). -/
def execWriteAcknowledgement (n : Nat) (s : State) : Res := .next (s.acknowledge n)

/-- REFUSED_MESSAGE_RESEND: a message that was refused or turned away is sent again, in channel order (R388); its sender resends from the number after
the last that the receiver accepted (R386), so what was lost on the mesh before it is sent again with it. DEDUCED (log entry 41): what
was lost is also sent again when nothing follows it, since every write is performed within finite time (R309). -/
def execRefusedMessageResend (n : Nat) (s : State) : Res :=
  match s.msg? n with
  | none => .next s
  | some m =>
    if m.st ≠ .refused ∧ m.st ≠ .turned ∧ m.st ≠ .lost then .next s
    else .next { s with net := s.net.map fun x =>
      if x.id = n ∨ (x.st = .lost ∧ x.core / 16 = m.core / 16 ∧ x.chan = m.chan) then { x with st := .sent } else x }

end Sys2Proof.Machine
end

