-- ==== Sys2Proof/Machine/Barriers.lean ====
section
/-! DEFINITION. Barriers, domains, gangs, pairs and names, major 0x1B and the barrier sweep (R126 to R130, R219 to R222,
R289, R290). -/

namespace Sys2Proof.Machine

/-! ## Barriers -/

/-- Change the barrier state of the acting context. -/
def State.modBar (s : State) (f : BarSt → BarSt) : State := s.modCpu fun c => { c with bar := f c.bar }

/-- The contexts that take part in an instance: those of the launch inside the DOMAIN rectangle; the higher core of a pair
takes part through the lower (R126, R221, R220). -/
def State.participants (s : State) (launch : Option Nat) (d : Word) : List Ctx :=
  s.ctxs.filter fun c => c.launch == launch && inDomain d (c.core / 16) && c.run != .pairSaved

/-- An arrival whose members' DOMAIN values differ is counted (R127). -/
def State.countMismatch (s : State) : State :=
  let d := s.cpu.csrs.domain
  if (s.participants s.cpu.launch d).any fun c => c.csrs.domain != d then s.count 4 else s

/-- The barrier scope: tile for a one-tile domain, die for one within a die, dev otherwise (R126). -/
def State.barScope (s : State) : Scope :=
  let ts := domTiles s.cpu.csrs.domain
  if decide (ts.length ≤ 1) then .tile
  else if ts.all fun t => s.dieOf t == s.dieOf (s.cpu.core / 16) then .die else .dev

/-- Send the arrival of the present phase (R221), a release at the barrier scope. -/
def State.barArrive (s : State) (half : Bool) : State :=
  ((s.seenAt s.barScope).modBar fun b => { b with arr := .arrived, half := half }).countMismatch

/-- BARA (R126, R221): a release; with an arrival outstanding it waits for the release of that first. -/
def execBara (s : State) : Res :=
  if s.unackedAt s.barScope then .next s.stall
  else match s.cpu.bar.arr with
    | .arrived => .next s.stall
    | .none => .next (s.barArrive false).advance
    | .released => .next (s.barArrive false).advance

/-- BARW (R126, R221). -/
def execBarw (s : State) : Res :=
  match s.cpu.bar.arr with
  | .none => .next (s.modBar fun b => { b with half := false }).advance
  | .arrived => .next ((s.modBar fun b => { b with half := false }).waitIn .barrier)
  | .released => .next (s.modBar fun b => { b with arr := .none, half := false }).advance

/-- BAR: BARA then BARW; abandoned after its arrival was sent it resumes as BARW alone (R126, R221). -/
def execBar (s : State) : Res :=
  if s.cpu.bar.half then
    match s.cpu.bar.arr with
    | .none => .next (s.modBar fun b => { b with half := false }).advance
    | .arrived => .next (s.waitIn .barrier)
    | .released => .next (s.modBar fun b => { b with arr := .none, half := false }).advance
  else if s.unackedAt s.barScope then .next s.stall
  else match s.cpu.bar.arr with
    | .arrived => .next s.stall
    | .none => .next ((s.barArrive true).waitIn .barrier)
    | .released => .next ((s.barArrive true).waitIn .barrier)

/-- Instances with an arrival in a launch: DOMAIN value and phase. -/
def State.instances (s : State) (launch : Nat) : List (Nat × Nat) :=
  (s.ctxs.filterMap fun c =>
    if c.launch == some launch && c.bar.arr == .arrived then some (c.csrs.domain.toNat, c.bar.phase.toNat)
    else none).eraseDups

/-- A context has arrived in an instance. Its tile forwards before any release of the instance (R222). DESIGN CHOICE (log entry 108): R221
names an instance by launch and DOMAIN; the model tells instances of one DOMAIN apart by their phase as well, so that participants whose
phases differ never release one another. -/
def Ctx.arrivedIn (c : Ctx) (d phase : Nat) : Bool :=
  c.csrs.domain.toNat == d && c.bar.arr == .arrived && c.bar.phase.toNat == phase

/-- The tile before another on the way to an instance's corner: along the row to column 0, then up; the corner has none (R222). -/
def towardCorner (d : Word) (tile : Nat) : Option Nat :=
  let o := domOrigin d
  if tileCol tile ≠ tileCol o then some (tile - 1) else if tileRow tile ≠ tileRow o then some (tile - 32) else none

/-- The sweep of an instance has come so far at a tile. -/
def Launch.swept (l : Launch) (d phase tile : Nat) (k : SweepKind) : Bool := l.sweep.elem ⟨d, phase, tile, k⟩

/-- A step of an instance's sweep is noted. -/
def State.sweepTo (s : State) (launch d phase tile : Nat) (k : SweepKind) : State :=
  s.updLaunch launch fun l => { l with sweep := l.sweep ++ [⟨d, phase, tile, k⟩] }

/-- The node of a tile has what an instance needs before it forwards: its own participants have arrived, its east neighbour in the row
has forwarded, and in column 0 the tile below has (R222 steps 1 to 3). -/
def State.gathered (s : State) (launch : Nat) (l : Launch) (tile d phase : Nat) : Bool :=
  let w : Word := BitVec.ofNat 64 d
  let o := domOrigin w
  let r := tileRow tile - tileRow o
  let c := tileCol tile - tileCol o
  let fwd := fun (r c : Nat) => l.swept d phase (o + 32 * r + c) .forwarded
  inDomain w tile && !l.swept d phase tile .forwarded && !l.swept d phase tile .dropped && !s.refusing tile &&
    ((s.participants (some launch) w).filter fun x => x.core / 16 == tile).all (fun x => x.arrivedIn d phase) &&
    (decide (c + 1 ≥ domCols w) || fwd r (c + 1)) && (decide (c ≠ 0 ∨ r + 1 ≥ domRows w) || fwd (r + 1) 0)

/-- The node of a tile forwards an instance toward its corner, once the way is clear; at a seam without an UP link the message is
dropped and counted (R222, R340). -/
def State.forwardArrival (s : State) (launch tile d phase : Nat) : State :=
  match towardCorner (BitVec.ofNat 64 d) tile with
  | none => s.sweepTo launch d phase tile .forwarded
  | some u =>
    if s.cutTiles tile u then (s.count 2).sweepTo launch d phase tile .dropped
    else if s.wayClear tile u 0 then (s.numbered tile u 0 32 (.arrival launch d phase)).sweepTo launch d phase tile .forwarded
    else s

/-- BARRIER_ARRIVAL: a tile's node combines and forwards the arrivals of every instance it can (R222). -/
def execBarrierArrival (launch tile : Nat) (s : State) : Res :=
  match s.launch? launch with
  | none => .next s
  | some l =>
    .next (((s.instances launch).filter fun i => s.gathered launch l tile i.1 i.2).foldl
      (fun s i => s.forwardArrival launch tile i.1 i.2) s)

/-- The tiles that a release passes after the corner on its way to a tile: down column 0, then along the row (R222 step 4). -/
def releasePath (d : Word) (tile : Nat) : List Nat :=
  let o := domOrigin d
  let r := tileRow tile - tileRow o
  ((List.range r).map fun i => o + 32 * (i + 1)) ++ (List.range (tileCol tile - tileCol o)).map fun i => o + 32 * r + (i + 1)

/-- A release goes on from a tile that it has reached over the tiles that follow on its path, as far as the way is clear; at a seam
without an UP link it is dropped and counted (R222 step 4, R340). -/
def State.releaseAlong (s : State) (launch d phase : Nat) : Nat → List Nat → State
  | _, [] => s
  | u, t :: rest =>
    let is := fun k : SweepKind => ((s.launch? launch).map fun l => l.swept d phase t k).getD false
    if is .released then s.releaseAlong launch d phase t rest
    else if is .cut then s
    else if s.cutTiles u t then (s.count 2).sweepTo launch d phase t .cut
    else if s.wayClear u t 0 then
      ((s.numbered u t 0 32 (.release launch d phase)).sweepTo launch d phase t .released).releaseAlong launch d phase t rest
    else s

/-- The release of an instance on its way from the corner to a tile, and whether it has reached it. -/
def State.releaseTo (s : State) (launch d phase tile : Nat) : State × Bool :=
  let w : Word := BitVec.ofNat 64 d
  let s := s.releaseAlong launch d phase (domOrigin w) (releasePath w tile)
  (s, tile == domOrigin w || ((s.launch? launch).map fun l => l.swept d phase tile .released).getD false)

/-- BARRIER_RELEASE: the release of a phase, sent once the corner's node has everything, reaches a participant over every tile on the
reverse path: its phase rises by one (R221, R222 step 4); a tile between fence and resume takes it later (R395). -/
def execBarrierRelease (core launch : Nat) (s : State) : Res :=
  match s.ctxOf core launch, s.launch? launch with
  | some c, some l =>
    let d := c.csrs.domain
    let phase := c.bar.phase.toNat
    if c.bar.arr == .arrived && l.swept d.toNat phase (domOrigin d) .forwarded && !s.refusing (domOrigin d) then
      let (s, there) := s.releaseTo launch d.toNat phase (core / 16)
      if there && !s.refusing (core / 16) then
        let s := s.updCtx core launch fun c => { c with bar := { c.bar with phase := c.bar.phase + 1, arr := .released } }
        let left := s.ctxs.any fun x => x.launch == some launch && x.bar.arr == .arrived && x.csrs.domain == d &&
          x.bar.phase == c.bar.phase
        .next (if left then s else s.updLaunch launch fun l => { l with
          sweep := l.sweep.filter fun x => !(x.dom == d.toNat && x.phase == phase) })
      else .next s
    else .next s
  | _, _ => .next s

/-! ## Domains -/

/-- DOMSET (R127): runtime level; waits for an outstanding arrival; a bad value traps with cause 0x03. -/
def execDomset (a : Nat) (s : State) : Res :=
  s.finish (if s.below .runtime then .trap (illegal (wordOfInstr (.domset a)))
    else if s.cpu.bar.arr = .arrived then .wait
    else (s.value a).bind fun x =>
      let ok := bits x.toNat 63 29 == 0 && domValid x && inDomain x (s.cpu.core / 16) &&
        (match s.rectOf (domOrigin x) with
          | some r => domFits r x
          | none => false)
      if ok then .ok (s.modCsr fun c => { c with domain := x }) else .trap ⟨3, x.toNat, 0⟩)

/-! ## Gangs (R128, R219) -/

/-- First core of the group of n that a core belongs to. -/
def gangBase (core n : Nat) : Nat := core / n * n

/-- The members of the acting core's group of n: its launch's contexts on those cores. -/
def State.group (s : State) (n : Nat) : List Ctx :=
  let b := gangBase s.cpu.core n
  s.ctxs.filter fun c => decide (b ≤ c.core ∧ c.core < b + n) && c.launch == s.cpu.launch

/-- A context waits at GANG with another n in a group that meets the acting core's of n. -/
def State.clashes (s : State) (n : Nat) (c : Ctx) : Bool :=
  c.launch == s.cpu.launch && c.core != s.cpu.core &&
    match c.gang with
    | some g => !g.formed && g.size != n &&
        (gangBase c.core n == gangBase s.cpu.core n || gangBase c.core g.size == gangBase s.cpu.core g.size)
    | none => false

/-- Some context clashes. -/
def State.gangClash (s : State) (n : Nat) : Bool := s.ctxs.any (s.clashes n)

/-- The acting context waits in no gang any longer. -/
def State.leaveGang (s : State) : State := s.modCpu fun c => { c with gang := none }

/-- GANG (R128): waits until every member has executed a GANG; members whose n differ all trap. Within
a gang of n it has no effect, since every member executes it (log entry 23). -/
def execGang (a : Nat) (s : State) : Res :=
  let w := wordOfInstr (.gang a)
  match s.value a with
  | .trap t => .next (s.takeTrap t)
  | .wait => .next s.stall
  | .ok x =>
    let n := x.toNat
    let leave := s.modCpu fun c => { c with gang := none }
    if !(n == 2 || n == 4 || n == 8 || n == 16) then .next (leave.takeTrap (illegal w))
    else if (match s.cpu.gang with
      | some g => g.bad || (g.formed && g.size != n)
      | none => false) then .next (s.takeTrap (illegal w)).leaveGang
    else if (match s.cpu.gang with
      | some g => g.formed
      | none => false) then .next s.advance
    else if s.gangClash n then
      let mark : Ctx → Ctx := fun c => if s.clashes n c then { c with gang := c.gang.map fun g => { g with bad := true } } else c
      .next ((leave.mapCtx mark).takeTrap (illegal w))
    else
      let s := s.modCpu fun c => { c with gang := some ⟨n, false, false⟩ }
      let ready := (s.group n).filter fun c => c.gang == some ⟨n, false, false⟩ && c.run == .running
      if ready.length = n then
        let b := gangBase s.cpu.core n
        let me := s.cpu.launch
        .next (s.mapCtx fun c =>
          if decide (b ≤ c.core ∧ c.core < b + n) && c.launch == me then
            { c with gang := some ⟨n, true, false⟩, stalled := false
                     pcc := capSetAddr c.pcc ((capAddr c.pcc + 4) % 2 ^ 52) }
          else c)
      else .next s.stall

/-- SPLIT: the gang dissolves, each member continues at the SPLIT address + 4; no effect outside a gang (R128). -/
def execSplit (s : State) : Res := .next (s.dissolveGang).advance

/-! ## Pairs (R129, R220) -/

/-- The partner of a core. -/
def partner (core : Nat) : Nat := if core % 2 = 0 then core + 1 else core - 1

/-- PAIRCTL of the acting core of a pair, and of the checking core (R129). -/
def pairLow : Word := 1
def pairHigh : Word := 3

/-- Join a pair: `low` is the lower core's context, which goes on after its PAIR with gd 0; the checking core runs a copy
of it; the higher core's own context is saved, its PAIR completed with 1 in gd for the time it comes back. -/
def State.join (s : State) (low high : Ctx) (dlow dhigh : Nat) : State :=
  let word : Word → GReg := fun w => ⟨.data, w.zeroExtend 128⟩
  let past : Ctx → Ctx := fun c =>
    { c with pcc := capSetAddr c.pcc ((capAddr c.pcc + 4) % 2 ^ 52), stalled := false }
  let bank : Ctx → Nat → Bool := fun c d => c.level == .runtime && decide (56 ≤ d ∧ d ≤ 59)
  let set : Ctx → Nat → Word → Ctx := fun c d x =>
    if bank c d then c
    else { c with regs := c.regs.putCode (if c.handler && decide (48 ≤ d ∧ d ≤ 55) then d + 16 else d) (word x) }
  -- at runtime level g56 to g59 are the core's own (R139)
  let own : State → Ctx → Nat → Word → State := fun s c d x =>
    if bank c d then s.updCore c.core fun k => { k with rt := vset k.rt (d - 56) (word x) } else s
  let low' := set (past { low with csrs := { low.csrs with pairctl := pairLow }, pair := PairSt.reset }) dlow 0
  let high' := set (past { high.releaseSlots with run := .pairSaved, pair := PairSt.reset }) dhigh 1
  let chk : Ctx := { low' with core := high.core, launch := none, csrs := { low'.csrs with pairctl := pairHigh } }
  let others := (s.others.filter fun c => !(c.core == low.core && c.launch == low.launch) &&
    !(c.core == high.core && c.launch == high.launch))
  let s := own (own (((s.loseLock high.core).noteSwitch high.core 6 (high.launch.getD 0)).saveLines high) low dlow 0) high dhigh 1
  if s.cpu.core = low.core then { s with cpu := low', others := others ++ [high', chk] }
  else { s with cpu := chk, others := others ++ [low', high'] }

/-- PAIR (R129, R220): waits until both cores of the pair have executed PAIR and neither has an outstanding barrier
arrival. Within a pair both have, and it writes 0 (log entry 23). -/
def execPair (d : Nat) (s : State) : Res :=
  if s.cpu.paired then s.finish (.ok (s.put d 0))
  else
    let other := s.others.find? fun c => c.core == partner s.cpu.core && c.launch == s.cpu.launch &&
      c.run == .running && c.pair.waiting.isSome
    match other with
    | some p =>
      if p.bar.arr = .arrived ∨ s.cpu.bar.arr = .arrived then
        .next (s.modCpu fun c => { c with pair := { c.pair with waiting := some d } }).stall
      else
        let dp := p.pair.waiting.getD 0
        if s.cpu.core % 2 = 0 then .next (s.join s.cpu p d dp) else .next (s.join p s.cpu dp d)
    | none => .next (s.modCpu fun c => { c with pair := { c.pair with waiting := some d } }).stall

/-- UNPAIR (R129, R220): the lower core goes on; the higher core's saved context comes back with the pair's barrier
phase. Outside a pair it has no effect (log entry 23). DESIGN CHOICE (log entry 104): all of PAIRCTL becomes 0, MISMATCH too, of which
the spec says nothing after UNPAIR. -/
def execUnpair (s : State) : Res :=
  if s.cpu.paired then
    let hi := partner s.cpu.core
    let phase := s.cpu.bar.phase
    let me := s.cpu.launch
    let s := s.modCpu fun c => { c with csrs := { c.csrs with pairctl := 0 }, pair := PairSt.reset }
    let others := (s.others.filter fun c => !(c.core == hi && c.csrs.pairctl == pairHigh)).map fun c =>
      if c.core == hi && c.launch == me && c.run == .pairSaved then
        { c with run := .running, bar := { c.bar with phase := phase } }
      else c
    .next ({ s with others := others } : State).advance
  else .next s.advance

/-! ## Names (R130, R289, R290) -/

/-- TNAME (R130). -/
def execTname (d a : Nat) (s : State) : Res :=
  s.finish ((s.value a).bind fun x => .ok (s.put d (BitVec.ofNat 64 (s.cpu.core / 16 * 16 + x.toNat % 16))))

/-- The neighbour of a tile at an offset; 0xFFFF where there is none (R130). -/
def State.neighbour (s : State) (t : Nat) (dr dc : Int) : Nat :=
  match s.rectOf t with
  | none => 0xFFFF
  | some r =>
    let row : Int := tileRow t + dr
    let col : Int := tileCol t + dc
    if 0 ≤ row ∧ row < r.rows ∧ 0 ≤ col ∧ col < r.cols then tileRect t * 1024 + row.toNat * 32 + col.toNat else 0xFFFF

/-- TNBR (R130). -/
def execTnbr (d a b : Nat) (s : State) : Res :=
  s.finish ((s.value a).bind fun x => (s.value b).bind fun y =>
    .ok (s.put d (BitVec.ofNat 64 (s.neighbour (x.toNat % 2 ^ 16) (sext y.toNat 8) (sext (y.toNat / 256) 8)))))

/-- TDIST: the guarantee class, or all ones for an invalid tile id (R130). -/
def execTdist (d a : Nat) (s : State) : Res :=
  s.finish ((s.value a).bind fun x =>
    let t := x.toNat % 2 ^ 16
    .ok (s.put d (if s.enumerated t then BitVec.ofNat 64 (s.tile t).cls else BitVec.allOnes 64)))

end Sys2Proof.Machine
end

