-- ==== Sys2Proof/Machine/Digest.lean ====
section
/-! DEFINITION. SHAKE256, which the digests of R407 and R414 name, in the byte-stream form they use: a permutation of 25
words held in the order of the sponge's bytes. The permutation's constants are computed from their definitions. -/

namespace Sys2Proof.Machine

/-- The sponge's state: word i holds bytes 8i to 8i + 7. -/
abbrev Sponge := Vector Word 25

/-- Word in column x and row y, both modulo 5. -/
def Sponge.at (s : Sponge) (x y : Nat) : Word := vget 0 s (y % 5 * 5 + x % 5)

/-- The step of the 8-bit shift register that yields the round constants: x^8 + x^6 + x^5 + x^4 + 1. -/
def lfsrNext (r : Nat) : Nat := if r < 128 then 2 * r else Nat.xor (2 * r % 256) 0x71

/-- The register after n steps from 1. -/
def lfsrAt : Nat → Nat
  | 0 => 1
  | n + 1 => lfsrNext (lfsrAt n)

/-- What a round adds to word 0: bit 2^j − 1 is the register's low bit after j + 7r steps. -/
def roundWord (r : Nat) : Word :=
  (List.range 7).foldl (fun w j => if lfsrAt (j + 7 * r) % 2 = 1 then w ^^^ BitVec.ofNat 64 (2 ^ (2 ^ j - 1)) else w) 0

/-- The words the mixing walk visits from column 1, row 0: at visit t the word moves to (y, 2x + 3y) and turns left by
(t + 1)(t + 2) / 2. Each entry is the word's place before, its place after, and its turn. -/
def laneWalk : Nat → Nat → Nat → Nat → List (Nat × Nat × Nat)
  | 0, _, _, _ => []
  | n + 1, t, x, y =>
    let y' := (2 * x + 3 * y) % 5
    (5 * y + x, 5 * y' + y, (t + 1) * (t + 2) / 2 % 64) :: laneWalk n (t + 1) y y'

/-- Column parities folded into every word. -/
def Sponge.fold (s : Sponge) : Sponge :=
  let par : Nat → Word := fun x => (List.range 5).foldl (fun w y => w ^^^ s.at x y) 0
  let pars : Vector Word 5 := Vector.ofFn fun x => par x.val
  let mix : Vector Word 5 := Vector.ofFn fun x => vget 0 pars ((x.val + 4) % 5) ^^^ (vget 0 pars ((x.val + 1) % 5)).rotateLeft 1
  Vector.ofFn fun i => vget 0 s i.val ^^^ vget 0 mix (i.val % 5)

/-- Every word moved and turned along the walk; word 0 stays. -/
def Sponge.scatter (s : Sponge) : Sponge :=
  (laneWalk 24 0 1 0).foldl (fun r m => vset r m.2.1 ((vget 0 s m.1).rotateLeft m.2.2)) s

/-- Each row's words combined with the two that follow. -/
def Sponge.combine (s : Sponge) : Sponge :=
  Vector.ofFn fun i =>
    let x := i.val % 5
    let y := i.val / 5
    s.at x y ^^^ (s.at (x + 2) y &&& ~~~ s.at (x + 1) y)

/-- n rounds from round r on. -/
def Sponge.rounds : Nat → Nat → Sponge → Sponge
  | 0, _, s => s
  | n + 1, r, s =>
    let u := s.fold.scatter.combine
    Sponge.rounds n (r + 1) (vset u 0 (vget 0 u 0 ^^^ roundWord r))

/-- A block of 136 bytes mixed in, and the permutation of 24 rounds. -/
def Sponge.take (s : Sponge) (block : List Byte) : Sponge :=
  let mixed := (List.range 17).foldl (fun u i => vset u i (vget 0 u i ^^^ BitVec.ofNat 64 (leNat ((block.drop (8 * i)).take 8)))) s
  Sponge.rounds 24 0 mixed

/-- A message's last bytes filled to a whole block: 0x1F after the message, the top bit of the block's last byte set. -/
def lastBlock (tail : List Byte) : List Byte :=
  let k := 135 - tail.length
  if k = 0 then tail ++ [0x9F] else tail ++ [0x1F] ++ zeros (k - 1) ++ [0x80]

/-- Whole blocks first, then the filled one; the fuel is the number of whole blocks. -/
def Sponge.takeAll : Nat → Sponge → List Byte → Sponge
  | 0, s, bs => s.take (lastBlock bs)
  | n + 1, s, bs => Sponge.takeAll n (s.take (bs.take 136)) (bs.drop 136)

/-- The first 32 bytes of SHAKE256. -/
def shake256 (bs : List Byte) : List Byte :=
  let s := Sponge.takeAll (bs.length / 136) (Vector.replicate 25 0) bs
  (List.range 4).flatMap fun i => leBytes 8 (vget 0 s i).toNat

end Sys2Proof.Machine
end

