-- ==== Sys2Proof/Machine/EngineCtl.lean ====
section
/-! DEFINITION. Engine control, major 0x1E: the command envelope, queues, progress, cancelling and speculation (R58 to R60,
R134, R135, R171 to R176, R188, R324, R327). -/

namespace Sys2Proof.Machine

/-! ## Fields of a command (R59) -/

def Cmd.opc (c : Cmd) : Nat := bits c.hdr.toNat 7 0
def Cmd.spec (c : Cmd) : Bool := bit c.hdr.toNat 8
def Cmd.rmCode (c : Cmd) : Nat := bits c.hdr.toNat 11 9
def Cmd.sat (c : Cmd) : Bool := bit c.hdr.toNat 12
def Cmd.shape (c : Cmd) : Nat := bits c.hdr.toNat 63 16
def Cmd.acca (c : Cmd) : Nat := bits c.hdr.toNat 66 64
def Cmd.accb (c : Cmd) : Nat := bits c.hdr.toNat 69 67
def Cmd.key (c : Cmd) : BitVec 16 := BitVec.ofNat 16 (bits c.hdr.toNat 95 80)
def Cmd.ctag (c : Cmd) : Nat := bits c.hdr.toNat 127 96

/-! ## Queues -/

def Engines.get (e : Engines) : Eng → EngQ
  | .me => e.me | .ce => e.ce | .ca => e.ca

def Engines.set (e : Engines) (x : Eng) (q : EngQ) : Engines :=
  match x with
  | .me => { e with me := q } | .ce => { e with ce := q } | .ca => { e with ca := q }

/-- Both queue entries are held by commands queued, running or awaiting collection (R171). -/
def EngQ.full (q : EngQ) : Bool := decide (q.cmds.length + q.uncollected ≥ 2)

def Engines.anyCmd (e : Engines) (p : Cmd → Bool) : Bool := e.me.cmds.any p || e.ce.cmds.any p || e.ca.cmds.any p

/-- Change the engines of the acting context. -/
def State.modEng (s : State) (f : Engines → Engines) : State := s.modCpu fun c => { c with eng := f c.eng }

/-- The first element that is not performed: writes of a beat that have been accepted complete (R176). -/
def Cmd.unperformed (c : Cmd) : Nat := c.elem + (if c.sent then 1 else 0)

/-- A command is over but for its message: it ended early, or performed its last element. -/
def Cmd.over (c : Cmd) : Bool := c.ended.isSome || (c.started && decide (c.elem ≥ c.total))

/-- Cancel a command at its next element boundary (R134, R174): status 0x01 with FIRST the first element not performed. A
command that has performed its last element is not cancelled. -/
def Cmd.cancel (info : Nat) (c : Cmd) : Cmd := if c.over || (c.started && decide (c.unperformed ≥ c.total)) then c else { c with ended := some ⟨1, c.unperformed, info, 0⟩ }

/-! ## PUSH (R60, R134, R324) -/

/-- The highest engine opcode; opcodes from 1 up to it are assigned (R179, R189, R197). -/
def lastOpc : Eng → Nat
  | .me => 5 | .ce => 4 | .ca => 4

/-- Must-be-zero header bits (R59). -/
def headerZero : Nat := (2 ^ 3 - 1) * 2 ^ 13 + (2 ^ 10 - 1) * 2 ^ 70

/-- The envelope checks of R60, second step: the byte offset of the first failing one. -/
def envelope (g0 g3 : GReg) (e : Eng) : Option Nat :=
  let h := g0.val.toNat
  let bad := Nat.land h headerZero
  if g0.tag ≠ .data then some 0
  else if g3.tag ≠ .data then some 48
  else if h % 256 = 0 ∨ h % 256 > lastOpc e then some 0
  else if bad ≠ 0 then some ((findBelow (bit bad) 128).getD 0 / 8)
  else if bits h 11 9 ≥ 6 then some 1
  else if bit h 8 = false ∧ bits h 95 80 ≠ 0 then some 10
  else none

/-- Draws that a PUSH reserves (R324). -/
def reserved (e : Eng) (h : Nat) (ring : Word) : Nat :=
  if bits h 11 9 ≠ 5 then 0
  else
    match e, h % 256 with
    | .me, 5 => 8 * (bits h 18 16 + 1) * 32
    | .me, 2 => 8 * (bits ring.toNat 47 40 + 1) * 32
    | .ca, 3 => (bits h 43 16 + 1 + 3) / 4
    | _, _ => 0

/-- The checks of a PUSH (R60): a POISON register first, then the envelope. DESIGN CHOICE (log entry 112): with several POISON registers
TELEM is the lowest of their positions. -/
def State.pushCheck (s : State) (a w : Nat) (e : Eng) : Out Unit :=
  match (List.range 4).find? fun i => (s.getG (a + i)).tag == .poison with
  | some i => .trap ⟨6, w, i⟩
  | none =>
    match envelope (s.getG a) (s.getG (a + 3)) e with
    | some off => .trap ⟨13, w, off⟩
    | none => .ok ()

/-- Queue the command in g[a] to g[a+3] and reserve its draws. -/
def State.enqueue (s : State) (a : Nat) (e : Eng) : State :=
  let h := (s.getG a).val
  let sel := s.sel
  let n := reserved e h.toNat s.cpu.csrs.ringcfg
  let cmd : Cmd :=
    { hdr := h, slot1 := s.getG (a + 1), slot2 := s.getG (a + 2), par := (s.getG (a + 3)).val
      num := s.cpu.eng.nextNum, k0 := vget 0 s.cpu.gens.key sel, c0 := vget 0 s.cpu.gens.ctr sel
      ring := 0, started := false, elem := 0, total := 0, flags := 0, recs := [], absentAt := none
      poisonAt := none, unboundAt := none, gone := 0, slot := false, sent := false, ended := none, wb := [], after := s.nextId
      buffer := [], ahead := [], taken := none, out := [], flush := false, held := [] }
  let s := s.modCpu fun c => { c with gens := c.gens.skip sel n }
  s.modEng fun x =>
    let q := x.get e
    { (x.set e { q with cmds := q.cmds ++ [cmd] }) with nextNum := x.nextNum + 1 }

/-- PUSH (R134): it waits while the engine's queue is full; the command starts behind the core's earlier accesses (R177). -/
def execPush (a : Nat) (e : Eng) (s : State) : Res :=
  s.finish ((s.pushCheck a (wordOfInstr (.push a e)) e).bind fun _ =>
    if (s.cpu.eng.get e).full then .wait else .ok (s.enqueue a e))

/-- PUSH with .try: 1 to gd when the queue is full, 0 once queued (R134). -/
def execPushTry (d a : Nat) (e : Eng) (s : State) : Res :=
  s.finish ((s.pushCheck a (wordOfInstr (.pushTry d a e)) e).bind fun _ =>
    if (s.cpu.eng.get e).full then .ok (s.put d 1)
    else .ok ((s.enqueue a e).put d 0))

/-! ## Progress, cancelling, speculation -/

/-- The progress register of an engine (R134). -/
def EngQ.progress (q : EngQ) : Word :=
  match q.cmds with
  | [] => 0
  | c :: rest => BitVec.ofNat 64 (c.ctag * 2 ^ 32 + (if rest.isEmpty then 0 else 2 ^ 29) + 2 ^ 28 + c.elem % 2 ^ 28)

/-- EPROGS (R150). -/
def Ctx.streamProgress (c : Ctx) : Word :=
  let v := c.csrs.vqmap
  let queued := (List.range 4).any fun k => v.getLsbD (4 + k) && !(vget [] c.streams k).isEmpty
  let bound := bits v.toNat 7 4 != 0
  BitVec.ofNat 64 (bits v.toNat 39 8 * 2 ^ 32 + (if queued then 2 ^ 29 else 0) + (if bound then 2 ^ 28 else 0) + c.popped)

/-- What EPROG and the CSRs 0x010 to 0x013 read. -/
def Ctx.progress (c : Ctx) : EProgSel → Word
  | .me => c.eng.me.progress | .ce => c.eng.ce.progress | .ca => c.eng.ca.progress | .sr => c.streamProgress

/-- EPROG (R134, R150). -/
def execEprog (d : Nat) (e : EProgSel) (s : State) : Res := s.finish (.ok (s.put d (s.cpu.progress e)))

/-- ECANCEL (R134). -/
def execEcancel (e : Eng) (s : State) : Res :=
  s.finish (.ok (s.modEng fun x =>
    let q := x.get e
    x.set e { q with cmds := q.cmds.map (Cmd.cancel 0) }))

/-- Row key of an accumulator: bank 0 the current one, 1 the alternate (R180, R188). -/
def accKey (bank x row : Nat) : Nat := (8 * bank + x) * 32 + row

/-- A row of an accumulator; an unlisted row is zero. -/
def Engines.accRow (e : Engines) (bank x row : Nat) : BitVec 1024 := aget 0 e.acc (accKey bank x row)

/-- Replace a row. -/
def Engines.setRow (e : Engines) (bank x row : Nat) (v : BitVec 1024) : Engines :=
  { e with acc := aput 0 e.acc (accKey bank x row) v }

/-- Copy every row of an accumulator from one bank to another. -/
def Engines.copyBank (e : Engines) (src dst x : Nat) : Engines :=
  let e := (List.range 32).foldl (fun e r => e.setRow dst x r (e.accRow src x r)) e
  { e with wide := if nmem e.wide (8 * src + x) then nadd e.wide (8 * dst + x) else ndel e.wide (8 * dst + x) }

/-- Every alternate bank that a key holds becomes current, and the hold is released (R188). -/
def Engines.commit (e : Engines) (k : BitVec 16) : Engines :=
  (List.range 8).foldl (fun e x =>
    if vget none e.hold x = some k then { (e.copyBank 1 0 x) with hold := vset e.hold x none } else e) e

/-- The alternate banks of a key are discarded and released (R188). -/
def Engines.discard (e : Engines) (k : BitVec 16) : Engines :=
  { e with hold := e.hold.map fun h => if h = some k then none else h }

/-- SPECOMMIT: waits until every command with the key has completed (R135). -/
def execSpecommit (a : Nat) (s : State) : Res :=
  s.finish ((s.value a).bind fun x =>
    let k : BitVec 16 := x.truncate 16
    if k = 0 then .ok s
    else if s.cpu.eng.anyCmd fun c => c.key == k then .wait
    else .ok (s.modEng fun e => e.commit k))

/-- SPECDROP: cancels every command with the key and discards its alternate banks (R135). -/
def execSpecdrop (a : Nat) (s : State) : Res :=
  s.finish ((s.value a).bind fun x =>
    let k : BitVec 16 := x.truncate 16
    if k = 0 then .ok s
    else .ok (s.modEng fun e => (e.each fun c => if c.key = k then c.cancel 2 else c).discard k))

end Sys2Proof.Machine
end

