-- ==== Sys2Proof/Machine/System.lean ====
section
/-! DEFINITION. Regions, generators and launch links (R131 to R133, R359, R360), the SYS major and the CSRs (R13, R14, R38,
R136 to R140). -/

namespace Sys2Proof.Machine

/-! ## Regions and generators -/

/-- REGION (R131, R360): REGPC, the mask and the recorded generators; commands pushed from now on belong to it. -/
def execRegion (s : State) : Res :=
  let pc := s.pc
  s.finish (.ok (s.modCpu fun c =>
    { c with
      csrs := { c.csrs with regpc := BitVec.ofNat 64 (2 ^ 63 + pc) }
      region := { mask := 0, written := 0, start := c.eng.nextNum }
      gens := { c.gens with savedKey := c.gens.key, savedCtr := c.gens.ctr } }))

/-- CHKP: POISON traps, else no effect (R131). -/
def execChkp (a : Nat) (s : State) : Res :=
  s.finish (if (s.getG a).tag = .poison then .trap ⟨6, (s.getG a).reason, 0⟩ else .ok s)

/-- CKPT: the tile's checkpoint interval is to end (R131, R381). -/
def execCkpt (s : State) : Res :=
  s.finish (.ok (s.updTile (s.cpu.core / 16) fun t => { t with endDue := true }))

/-- The 2 KiB area of RNGSNAP and RNGREST (R132): alignment is cause 0x05, another window cause 0x04. -/
def State.genArea (s : State) (a : Nat) (need : Perm) : Out (Loc × Nat) :=
  let ea := s.ea a 0
  (capCheck (s.getG a) ea 2048 need).bind fun _ =>
    if ea < 0x20000 ∨ (0x10000000 ≤ ea ∧ ea < 0x10200000) then
      (s.locate s.cpu.core s.cpu.launch [] ea).bind fun loc => .ok (loc, ea)
    else .trap ⟨4, ea, 0⟩

/-- One 32-byte entry: generator k of core c of the tile; a core without a context of the launch has VALID 0 and a key and a counter
that the spec does not state (R132; free values, log entry 24). -/
def State.genEntry (s : State) (n c k : Nat) : List Byte :=
  let name := s.cpu.core / 16 * 16 + c
  let (key, ctr, valid) : Word × Word × Nat :=
    match s.ctxs.find? fun x => x.core == name && x.launch == s.cpu.launch && x.run != .pairSaved with
    | some x => (vget 0 x.gens.key k, vget 0 x.gens.ctr k, 1)
    | none => (Config.absentGenerator n (8 * c + 2 * k), Config.absentGenerator n (8 * c + 2 * k + 1), 0)
  leBytes 8 key.toNat ++ leBytes 8 ctr.toNat ++ leBytes 4 name ++ leBytes 1 k ++ leBytes 1 valid ++ zeros 10

/-- RNGSNAP (R132). -/
def execRngsnap (a : Nat) (s : State) : Res :=
  s.finish ((s.genArea a .w).bind fun p =>
    if s.writeHeld p.1.key 2048 then .wait
    else
      let (n, s) := s.drawFree
      let bs := (List.range 64).flatMap fun i => s.genEntry n (i / 4) (i % 4)
      .ok (s.writeMem p.1.key bs false false s.cpu.core))

/-- An entry of RNGREST that is checked and does not match its position (R132). DESIGN CHOICE (log entry 82): the rule checks VALID = 1
and skips VALID = 0; an entry with another VALID byte is skipped like the latter. -/
def State.genBad (s : State) (m : Mem) (k i : Nat) : Bool :=
  let e := k + 32 * i
  m.nat (e + 21) 1 == 1 &&
    (m.nat (e + 16) 4 != s.cpu.core / 16 * 16 + i / 4 || m.nat (e + 20) 1 != i % 4 || m.nat (e + 22) 10 != 0)

/-- RNGREST (R132): nothing is restored unless every entry with VALID = 1 matches; a poisoned word traps as a load's. -/
def execRngrest (a : Nat) (s : State) : Res :=
  let w := wordOfInstr (.rngrest a)
  match s.genArea a .r with
  | .trap t => .next (s.takeTrap t)
  | .wait => .next s.stall
  | .ok (loc, ea) =>
    if s.readHeld loc.key 2048 then .next s.stall
    else
      let s := s.meetRead loc.key 2048 s.cpu.core
      let m := s.view
      if m.marked loc.key 2048 then .next (s.takeTrap ⟨6, ea, 0⟩)
      else
        match findBelow (s.genBad m loc.key) 64 with
        | some i => .next (s.takeTrap ⟨13, w, i⟩)
        | none =>
          let tile := s.cpu.core / 16
          let me := s.cpu.launch
          let new : Ctx → Gens := fun c => (List.range 4).foldl (fun g k =>
            let e := loc.key + 32 * (4 * (c.core % 16) + k)
            if m.nat (e + 21) 1 == 1 then
              { g with key := vset g.key k (BitVec.ofNat 64 (m.nat e 8)), ctr := vset g.ctr k (BitVec.ofNat 64 (m.nat (e + 8) 8)) }
            else g) c.gens
          .next (s.mapCtx fun c => if c.core / 16 == tile && c.launch == me then { c with gens := new c } else c).advance

/-- RNG (R131): op 0 draws, 1 and 2 read, 3 and 4 exchange the key or the counter of generator k. -/
def execRng (d a b : Nat) (s : State) : Res :=
  s.finish ((s.value b).bind fun y =>
    let k := y.toNat % 4
    let g := s.cpu.gens
    match bits y.toNat 4 2 with
    | 0 => .ok ((s.modCpu fun c => { c with gens := c.gens.skip k 1 }).put d (g.out k 0))
    | 1 => .ok (s.put d (vget 0 g.key k))
    | 2 => .ok (s.put d (vget 0 g.ctr k))
    | 3 => (s.value a).bind fun x =>
      .ok ((s.modCpu fun c => { c with gens := { c.gens with key := vset c.gens.key k x } }).put d (vget 0 g.key k))
    | 4 => (s.value a).bind fun x =>
      .ok ((s.modCpu fun c => { c with gens := { c.gens with ctr := vset c.gens.ctr k x } }).put d (vget 0 g.ctr k))
    | _ => .trap (illegal (wordOfInstr (.rng d a b))))

/-! ## Launch links (R133, R229, R230) -/

/-- SUCCHINT: the first one of a launch with HINT starts the held successors. -/
def execSucchint (s : State) : Res :=
  match s.cpu.launch, s.curLaunch with
  | some n, some l =>
    if l.pkt.hint && !l.hinted then
      if s.detsOpen (s.cpu.core / 16) then .next s.stall else .next ((s.advance.updLaunch n fun l => { l with hinted := true }).startSuccessors n)
    else .next s.advance
  | _, _ => .next s.advance

/-- WAITPRED: 1 completed, 2 aborted or faulted, 0 published, as the predecessor stands (R133, R270). -/
def execWaitpred (d : Nat) (s : State) : Res :=
  match (s.curLaunch.bind fun l => l.pkt.pred).bind s.launch? with
  | none => s.finish (.ok (s.put d 1))
  | some p =>
    match p.st with
    | .ended 0 => s.finish (.ok (s.put d 1))
    | .ended _ => s.finish (.ok (s.put d 2))
    | .held => .next (s.waitIn .pred)
    | .running => if p.published then s.finish (.ok (s.put d 0)) else .next (s.waitIn .pred)

/-- PUBLISH: a release at dev scope (R133). -/
def execPublish (s : State) : Res :=
  if s.unacked || s.detsOpen (s.cpu.core / 16) then .next s.stall
  else
    match s.cpu.launch with
    | some n => .next (s.updLaunch n fun l => { l with published := true }).advance
    | none => .next s.advance

/-! ## CSRs (R140) -/

/-- Writable bits and reserved bits of a CSR; none for a number that is not implemented. -/
def csrMap (n : Nat) : Option (Nat × Nat) :=
  let low := fun k : Nat => 2 ^ k - 1
  let above := fun k : Nat => 2 ^ 64 - 2 ^ k
  match n with
  | 0x000 | 0x001 | 0x003 | 0x004 => some (0, 0)
  | 0x002 => some (0, above 29)
  | 0x005 => some (7, above 3)
  | 0x006 => some (31, above 5)
  | 0x007 => some (15, above 40)
  | 0x008 => some (0xFFF1, above 16 + 0xE)
  | 0x009 => some (low 32, above 32)
  | 0x00A => some (low 52, low 63 - low 52)
  | 0x00B => some (3, above 2)
  | 0x00C => some (low 52, above 52)
  | 0x010 | 0x011 | 0x012 | 0x013 => some (0, 0xC0000000)
  | 0x100 | 0x101 => some (low 64, 0)
  | 0x102 => some (low 52, above 52)
  | 0x103 => some (low 28, above 28)
  | 0x104 => some (31, above 5)
  | 0x105 => some (low 32, above 33)
  | 0x106 => some (0, above 16 + 0xFC)
  | 0x107 => some (0, above 41)
  | 0x108 => some (low 64 - 0x7F * 2 ^ 56, 0x7F * 2 ^ 56)
  | 0x109 => some (low 52, above 52)
  | 0x10A => some (low 64, 0)
  | 0x200 => some (low 52, above 52)
  | _ => none

/-- The level a CSR number needs (R140). -/
def csrLevel (n : Nat) : Nat := if n < 0x100 then 0 else if n < 0x200 then 1 else 2

/-- BUDGET (R268). -/
def State.budgetOf (s : State) (c : Ctx) : Word :=
  match c.launch.bind s.launch? with
  | some l => if l.demoted then BitVec.allOnes 64 else BitVec.ofNat 64 (c.poolSeen + c.lease)
  | none => 0

/-- A pre-emption request to the core, or to either core of its pair, waits for IE (R272, R369). -/
def State.pend (s : State) : Bool :=
  s.asks CoreSt.preReq && s.cpu.level == .runtime && !tstatIE s.cpu.csrs.tstat

/-- The value of a CSR (R140); 0 for what is not implemented, which no instruction reads. -/
def State.csrRead (s : State) (n : Nat) : Word :=
  let c := s.cpu.csrs
  match n with
  | 0x000 => BitVec.ofNat 64 s.dtime
  | 0x001 => BitVec.ofNat 64 s.cpu.core
  | 0x002 => c.domain
  | 0x003 => s.budgetOf s.cpu
  | 0x004 => match s.curLaunch with
    | some l => BitVec.ofNat 64 l.deadline
    | none => 0
  | 0x005 => c.frm
  | 0x006 => c.fflags
  | 0x007 => c.vqmap
  | 0x008 => s.repprog
  | 0x009 => s.vprog
  | 0x00A => c.regpc
  | 0x00B => c.gensel
  | 0x00C => c.uivec
  | 0x010 => s.cpu.progress .me
  | 0x011 => s.cpu.progress .ce
  | 0x012 => s.cpu.progress .ca
  | 0x013 => s.cpu.progress .sr
  | 0x100 => c.tcause
  | 0x101 => c.tval
  | 0x102 => c.tpc
  | 0x103 => c.telem
  | 0x104 => c.tstat
  | 0x105 => c.preempt ||| (if s.pend then 0x100000000 else 0)
  | 0x106 => c.pairctl
  | 0x107 => c.fprint
  | 0x108 => c.ringcfg
  | 0x109 => c.tvec
  | 0x10A => c.tcmp
  | 0x200 => (s.core s.cpu.core).fvec
  | _ => 0

/-- Store a value in a CSR that has writable bits, the register's other bits kept (R13). -/
def State.csrStore (s : State) (n : Nat) (x : Word) : State :=
  match n with
  | 0x005 => s.modCsr fun c => { c with frm := x }
  | 0x006 => s.modCsr fun c => { c with fflags := x }
  | 0x007 => s.modCsr fun c => { c with vqmap := x }
  | 0x008 => s.setRepprog x
  | 0x009 => s.setVprog x
  | 0x00A => s.modCsr fun c => { c with regpc := x }
  | 0x00B => s.modCsr fun c => { c with gensel := x }
  | 0x00C => s.modCsr fun c => { c with uivec := x }
  | 0x100 => s.modCsr fun c => { c with tcause := x }
  | 0x101 => s.modCsr fun c => { c with tval := x }
  | 0x102 => s.modCsr fun c => { c with tpc := x }
  | 0x103 => s.modCsr fun c => { c with telem := x }
  | 0x104 => s.modCsr fun c => { c with tstat := x }
  | 0x105 => s.modCsr fun c => { c with preempt := x }
  | 0x108 => s.modCsr fun c => { c with ringcfg := x }
  | 0x109 => s.modCsr fun c => { c with tvec := x }
  | 0x10A => s.modCsr fun c => { c with tcmp := x }
  | 0x200 => s.updCore s.cpu.core fun c => { c with fvec := x }
  | _ => s

/-- The CSR may be named at the present level (R48, R140). -/
def State.csrOk (s : State) (n : Nat) : Bool := (csrMap n).isSome && decide (csrLevel n ≤ s.cpu.level.code)

/-- The bits of a CSR that a write keeps (R13): PREEMPT.PEND is derived and never stored. -/
def State.csrWritten (s : State) (n : Nat) (rw : Nat) (x : Word) : Word :=
  under (BitVec.ofNat 64 rw) (if n = 0x105 then s.cpu.csrs.preempt else s.csrRead n) x

/-- DTIME, BUDGET and DEADLINE read values whose time the program does not control: each is a determinant (R392). -/
def State.noteCsr (s : State) (n : Nat) : State :=
  if n = 0 ∨ n = 3 ∨ n = 4 then s.noteDet (s.cpu.core / 16) (.value (s.cpu.core % 16) (leBytes 8 (s.csrRead n).toNat)) else s

/-- CSRR: ga := the CSR's value (R136); a read of DTIME is a near read (R302). -/
def execCsrr (n a : Nat) (s : State) : Res :=
  s.finish (if !s.csrOk n then .trap (illegal (wordOfInstr (.csrr n a)))
    else if n = 0 ∧ s.nearReadInFlight = true then .wait
    else .ok ((s.noteCsr n).put a (s.csrRead n)))

/-- A write by CSRW or CSRS (R13, R14, R38): a value that sets a reserved bit, or leaves FRM.RM at 6 or 7, traps. -/
def State.csrSet (s : State) (n w : Nat) (x : Word) : Out State :=
  match csrMap n with
  | none => .trap (illegal w)
  | some (rw, rsv) =>
    if x &&& BitVec.ofNat 64 rsv ≠ 0 ∨ (n = 0x005 ∧ bits x.toNat 2 0 ≥ 6) then .trap (illegal w)
    else if rw = 0 then .ok s
    else .ok (s.csrStore n (s.csrWritten n rw x))

/-- CSRW: CSR := ival(a). -/
def execCsrw (n a : Nat) (s : State) : Res :=
  let w := wordOfInstr (.csrw n a)
  s.finish (if !s.csrOk n then .trap (illegal w) else (s.value a).bind fun x => s.csrSet n w x)

/-- CSRS: CSR := CSR OR ival(a). -/
def execCsrs (n a : Nat) (s : State) : Res :=
  let w := wordOfInstr (.csrs n a)
  s.finish (if !s.csrOk n then .trap (illegal w) else (s.value a).bind fun x => s.csrSet n w (s.csrRead n ||| x))

/-- CSRC: CSR := CSR AND NOT ival(a); reserved bits and an FRM.RM of 6 or 7 change nothing (R14, R38). -/
def execCsrc (n a : Nat) (s : State) : Res :=
  let w := wordOfInstr (.csrc n a)
  s.finish (if !s.csrOk n then .trap (illegal w)
    else (s.value a).bind fun x =>
      match csrMap n with
      | none => .trap (illegal w)
      | some (rw, _) =>
        let y := s.csrRead n &&& ~~~x
        if rw = 0 ∨ (n = 0x005 ∧ bits y.toNat 2 0 ≥ 6) then .ok s
        else .ok (s.csrStore n (s.csrWritten n rw y)))

/-! ## Calls, returns and stops (R136 to R138) -/

/-- ECALL: cause 0x09, TVAL = code (R136). -/
def execEcall (c : Nat) (s : State) : Res := .next (s.takeTrap ⟨9, c, 0⟩)

/-- EBREAK: cause 0x0A; with a debugger attached, interrupt 4 instead, taken at the next boundary (R136, R375). A member of a gang or
pair halts every member, so one attached member is enough (R416; log entry 106). -/
def execEbreak (c : Nat) (s : State) : Res :=
  let all := s.together s.cpu.core
  if all.any s.attachedAt then
    .next (all.foldl (fun s k => s.updCore k fun x => { x with haltReq := true }) s).advance
  else .next (s.takeTrap ⟨10, c, 0⟩)

/-- TRAP: cause 0x0B, TVAL = code (R136). -/
def execTrap (c : Nat) (s : State) : Res := .next (s.takeTrap ⟨11, c, 0⟩)

/-- The cause that interrupt 1 leaves in TCAUSE (R137, R272). -/
def preemptCause : Word := 0x8000000000000001

/-- The return from the handler entered last: from interrupt 1 it performs the switch in place of the first instruction at the level
returned to (R272); from a walk failure it does not return, and the launch ends (R295). -/
def State.returnFrom (s : State) : State :=
  if s.cpu.entered.head? = some preemptCause ∧ s.cpu.launch.isSome = true then s.eretTo.preempt
  else if s.cpu.entered.head? = some 8 then s.escalate 8
  else s.eretTo

/-- ERET (R138): illegal below runtime level, with PREV = 3 and with PREV above the present level. -/
def execEret (s : State) : Res :=
  let prev := bits s.cpu.csrs.tstat.toNat 3 2
  if s.below .runtime ∨ prev = 3 ∨ prev > s.cpu.level.code then .next (s.takeTrap (illegal (wordOfInstr .eret)))
  else .next s.returnFrom

/-- An interrupt of R141 is pending for the acting context. -/
def State.interruptPending (s : State) : Bool :=
  (s.cpu.csrs.tcmp != BitVec.allOnes 64 && decide (s.cpu.csrs.tcmp.toNat ≤ s.dtime)) ||
    s.asks CoreSt.preReq || s.asks CoreSt.haltReq

/-- WFI (R136): each condition is tested as a level. -/
def execWfi (s : State) : Res :=
  if !s.cpu.inbox.isEmpty || decide (0 < s.cpu.task.count) || s.interruptPending then .next s.advance
  else .next (s.waitIn .wfi)

/-- The acting context halts on its core; its commands' slots are released (R287, R375). The stop is a determinant (R390). -/
def State.haltHere (s : State) : State :=
  (s.modCpu fun c => { c.releaseSlots with run := .halted, stalled := false }).noteSwitch s.cpu.core 6 (s.cpu.launch.getD 0)

/-- HALT: firmware level; the core stops until a debug resume or reset (R136, R375). -/
def execHalt (s : State) : Res :=
  if s.below .firmware then .next (s.takeTrap (illegal (wordOfInstr .halt)))
  else .next s.advance.haltHere

/-- TLBINV (R136): the launch's entries for ival(a)'s page, at every page size; g0 removes them all. -/
def execTlbinv (a : Nat) (s : State) : Res :=
  s.finish (if s.below .runtime then .trap (illegal (wordOfInstr (.tlbinv a)))
    else (s.value a).bind fun x =>
      let va := x.toNat % 2 ^ 52
      let keep : TlbEntry → Bool := fun e =>
        !(some e.launch == s.cpu.launch && (a == 0 || e.page == va / 2 ^ e.bits))
      let s := s.updCore s.cpu.core fun c => { c with itlb := c.itlb.filter keep, dtlb := c.dtlb.filter keep }
      .ok (s.updTile (s.cpu.core / 16) fun t => { t with tlb := t.tlb.filter keep }))

end Sys2Proof.Machine
end

