-- ==== Sys2Proof/Machine/Vector.lean ====
section
/-! DEFINITION. Vector arithmetic, special functions, comparisons, conversions, permutations, reductions and predicate
operations, majors 0x20 to 0x26 and 0x29 (R142 to R161, R170). For each one `eff` is the effect, which a repeat frame
runs too (R145), and `exec` the whole instruction. -/

namespace Sys2Proof

/-- The float format of a type, for the float types. -/
def VType.ff : VType → Machine.FF
  | .f16 => .fp16 | .bf16 => .bf16 | .f64 => .fp64
  | .f32 | .i32 | .i16 | .i8 | .n32 | .n16 | .n8 => .fp32

/-- Outputs a vector instruction of a type consumes (R33). -/
def VType.draws (t : VType) : Nat := if t = .f64 then 4 else 8

/-- Levels of the tree of a type. -/
def VType.levels (t : VType) : Nat := if t = .f64 then 4 else 5

end Sys2Proof

namespace Sys2Proof.Machine

/-! ## Lanes -/

/-- The active lanes of `old` replaced by f, the others unchanged (R143). -/
def writeLanes (t : VType) (m : BitVec 32) (old : BitVec 1024) (f : Nat → Nat) : BitVec 1024 :=
  (List.range t.lanes).foldl (fun v i => if active m i then laneSet t v i (f i) else v) old

/-- The flags the active lanes raise (R37, R143). -/
def laneFlags (t : VType) (m : BitVec 32) (f : Nat → FR) : Flags :=
  (List.range t.lanes).foldl (fun fl i => if active m i then fl ||| (f i).fl else fl) 0

/-- Write f to the active lanes of vd and raise their flags. -/
def State.vput (s : State) (d p : Nat) (t : VType) (f : Nat → FR) : State :=
  (s.setV d (writeLanes t (s.getP p) (s.getV d) fun i => (f i).code)).raiseFlags (laneFlags t (s.getP p) f)

/-- A stream register that a source names but that is not bound is illegal, whatever the other source does (R149). -/
def State.boundSources (s : State) (fs : List Nat) (w : Nat) : Out Unit :=
  if fs.any fun f => match s.streamOf f with
    | some k => !s.cpu.csrs.vqmap.getLsbD (4 + k)
    | none => false
  then .trap (illegal w) else .ok ()

/-- One vector source. -/
def State.src1 (s : State) (a w : Nat) : Out (BitVec 1024) := (s.boundSources [a] w).bind fun _ => s.srcV a w

/-- Two vector sources, in order a, b. DESIGN CHOICE (log entry 119): with one stream queue empty and a poisoned entry at the head of the
other, the field that comes first decides whether the instruction waits or traps (R149). -/
def State.src2 (s : State) (a b w : Nat) : Out (BitVec 1024 × BitVec 1024) :=
  (s.boundSources [a, b] w).bind fun _ => (s.srcV a w).bind fun x => (s.srcV b w).bind fun y => .ok (x, y)

/-- An integer element as its type reads it. -/
def laneInt (t : VType) (x : Nat) : Int := if t.signed then sext x t.width else (x : Int)

/-- Saturate to an integer type's range (R18). -/
def laneSat (t : VType) (x : Int) : Nat :=
  let w := t.width
  let lo : Int := if t.signed then -(2 : Int) ^ (w - 1) else 0
  let hi : Int := if t.signed then (2 : Int) ^ (w - 1) - 1 else (2 : Int) ^ w - 1
  codeOf w (if x < lo then lo else if x > hi then hi else x)

/-- A lane-by-lane operation of two sources: `ff` on floats, `fi` on integers; a float result of an op that rounds draws
under SR (R33, R152). -/
def State.varith2 (s : State) (d a b p : Nat) (t : VType) (w : Nat) (rounds : Bool) (ff : Nat → Nat → Nat → FR)
    (fi : Nat → Nat → Nat) : Out State :=
  (s.src2 a b w).bind fun v =>
    let f : Nat → FR := fun i =>
      let x := laneGet t v.1 i
      let y := laneGet t v.2 i
      if t.isFloat then ff (s.laneDraw s.rm i) x y else ⟨fi x y, 0⟩
    let r := (s.vput d p t f).popStreams [a, b]
    .ok (if rounds && t.isFloat then r.consume s.rm t.draws else r)

/-- A lane-by-lane operation of one source. -/
def State.varith1 (s : State) (d a p : Nat) (t : VType) (w : Nat) (f : Nat → FR) : Out State :=
  (s.src1 a w).bind fun v => .ok ((s.vput d p t fun i => f (laneGet t v i)).popStreams [a])

/-! ## VARITH (R152) -/

/-- VADD: x + y (R152). -/
def effVadd (d : Nat) (a : Nat) (b : Nat) (p : Nat) (t : VType) (s : State) : Out State :=
  s.varith2 d a b p t (wordOfInstr (.vadd d a b p t)) true
    (fun r x y => fadd t.ff s.rm r (t.ff.val x) (t.ff.val y))
    (fun x y => (x + y) % 2 ^ t.width)
def execVadd (d : Nat) (a : Nat) (b : Nat) (p : Nat) (t : VType) (s : State) : Res := s.finish (effVadd d a b p t s)

/-- VSUB: x − y (R152). -/
def effVsub (d : Nat) (a : Nat) (b : Nat) (p : Nat) (t : VType) (s : State) : Out State :=
  s.varith2 d a b p t (wordOfInstr (.vsub d a b p t)) true
    (fun r x y => fsub t.ff s.rm r (t.ff.val x) (t.ff.val y))
    (fun x y => (x + (2 ^ t.width - y)) % 2 ^ t.width)
def execVsub (d : Nat) (a : Nat) (b : Nat) (p : Nat) (t : VType) (s : State) : Res := s.finish (effVsub d a b p t s)

/-- VMUL: x × y (R152). -/
def effVmul (d : Nat) (a : Nat) (b : Nat) (p : Nat) (t : VType) (s : State) : Out State :=
  s.varith2 d a b p t (wordOfInstr (.vmul d a b p t)) true
    (fun r x y => fmul t.ff s.rm r (t.ff.val x) (t.ff.val y))
    (fun x y => x * y % 2 ^ t.width)
def execVmul (d : Nat) (a : Nat) (b : Nat) (p : Nat) (t : VType) (s : State) : Res := s.finish (effVmul d a b p t s)

/-- VMIN: minimumNumber, or the lesser integer (R152). -/
def effVmin (d : Nat) (a : Nat) (b : Nat) (p : Nat) (t : VType) (s : State) : Out State :=
  s.varith2 d a b p t (wordOfInstr (.vmin d a b p t)) false
    (fun _ x y => fminmax t.ff false x y)
    (fun x y => if laneInt t x ≤ laneInt t y then x else y)
def execVmin (d : Nat) (a : Nat) (b : Nat) (p : Nat) (t : VType) (s : State) : Res := s.finish (effVmin d a b p t s)

/-- VMAX: maximumNumber, or the greater integer (R152). -/
def effVmax (d : Nat) (a : Nat) (b : Nat) (p : Nat) (t : VType) (s : State) : Out State :=
  s.varith2 d a b p t (wordOfInstr (.vmax d a b p t)) false
    (fun _ x y => fminmax t.ff true x y)
    (fun x y => if laneInt t x ≥ laneInt t y then x else y)
def execVmax (d : Nat) (a : Nat) (b : Nat) (p : Nat) (t : VType) (s : State) : Res := s.finish (effVmax d a b p t s)

/-- VABS: sign bit cleared, or |x| mod 2^w (R152). -/
def effVabs (d : Nat) (a : Nat) (p : Nat) (t : VType) (s : State) : Out State :=
  s.varith1 d a p t (wordOfInstr (.vabs d a p t)) fun x =>
    if t.isFloat then ⟨x % 2 ^ (t.width - 1), 0⟩ else ⟨codeOf t.width (laneInt t x).natAbs, 0⟩
def execVabs (d : Nat) (a : Nat) (p : Nat) (t : VType) (s : State) : Res := s.finish (effVabs d a p t s)

/-- VNEG: sign bit inverted, or −x mod 2^w (R152). -/
def effVneg (d : Nat) (a : Nat) (p : Nat) (t : VType) (s : State) : Out State :=
  s.varith1 d a p t (wordOfInstr (.vneg d a p t)) fun x =>
    if t.isFloat then ⟨Nat.xor x (2 ^ (t.width - 1)), 0⟩ else ⟨codeOf t.width (-(laneInt t x)), 0⟩
def execVneg (d : Nat) (a : Nat) (p : Nat) (t : VType) (s : State) : Res := s.finish (effVneg d a p t s)

/-- VAND: bitwise on w bits, integer types (R152). -/
def effVand (d : Nat) (a : Nat) (b : Nat) (p : Nat) (t : VType) (s : State) : Out State :=
  s.varith2 d a b p t (wordOfInstr (.vand d a b p t)) false
    (fun _ _ _ => ⟨0, 0⟩)
    (fun x y => Nat.land x y)
def execVand (d : Nat) (a : Nat) (b : Nat) (p : Nat) (t : VType) (s : State) : Res := s.finish (effVand d a b p t s)

/-- VOR: bitwise on w bits, integer types (R152). -/
def effVor (d : Nat) (a : Nat) (b : Nat) (p : Nat) (t : VType) (s : State) : Out State :=
  s.varith2 d a b p t (wordOfInstr (.vor d a b p t)) false
    (fun _ _ _ => ⟨0, 0⟩)
    (fun x y => Nat.lor x y)
def execVor (d : Nat) (a : Nat) (b : Nat) (p : Nat) (t : VType) (s : State) : Res := s.finish (effVor d a b p t s)

/-- VXOR: bitwise on w bits, integer types (R152). -/
def effVxor (d : Nat) (a : Nat) (b : Nat) (p : Nat) (t : VType) (s : State) : Out State :=
  s.varith2 d a b p t (wordOfInstr (.vxor d a b p t)) false
    (fun _ _ _ => ⟨0, 0⟩)
    (fun x y => Nat.xor x y)
def execVxor (d : Nat) (a : Nat) (b : Nat) (p : Nat) (t : VType) (s : State) : Res := s.finish (effVxor d a b p t s)

/-- VSHL: left by y read natural, 0 from w on (R152). -/
def effVshl (d : Nat) (a : Nat) (b : Nat) (p : Nat) (t : VType) (s : State) : Out State :=
  s.varith2 d a b p t (wordOfInstr (.vshl d a b p t)) false
    (fun _ _ _ => ⟨0, 0⟩)
    (fun x n => if n ≥ t.width then 0 else x * 2 ^ n % 2 ^ t.width)
def execVshl (d : Nat) (a : Nat) (b : Nat) (p : Nat) (t : VType) (s : State) : Res := s.finish (effVshl d a b p t s)

/-- VSHR: logical right by y read natural, 0 from w on (R152). -/
def effVshr (d : Nat) (a : Nat) (b : Nat) (p : Nat) (t : VType) (s : State) : Out State :=
  s.varith2 d a b p t (wordOfInstr (.vshr d a b p t)) false
    (fun _ _ _ => ⟨0, 0⟩)
    (fun x n => if n ≥ t.width then 0 else x / 2 ^ n)
def execVshr (d : Nat) (a : Nat) (b : Nat) (p : Nat) (t : VType) (s : State) : Res := s.finish (effVshr d a b p t s)

/-- VSAR: arithmetic right by y read natural, all sign bits from w on (R152). -/
def effVsar (d : Nat) (a : Nat) (b : Nat) (p : Nat) (t : VType) (s : State) : Out State :=
  s.varith2 d a b p t (wordOfInstr (.vsar d a b p t)) false
    (fun _ _ _ => ⟨0, 0⟩)
    (fun x n => codeOf t.width (sext x t.width / 2 ^ (Nat.min n t.width)))
def execVsar (d : Nat) (a : Nat) (b : Nat) (p : Nat) (t : VType) (s : State) : Res := s.finish (effVsar d a b p t s)

/-- VMULH: (x × y) div 2^w (R152). -/
def effVmulh (d : Nat) (a : Nat) (b : Nat) (p : Nat) (t : VType) (s : State) : Out State :=
  s.varith2 d a b p t (wordOfInstr (.vmulh d a b p t)) false
    (fun _ _ _ => ⟨0, 0⟩)
    (fun x y => codeOf t.width (laneInt t x * laneInt t y / 2 ^ t.width))
def execVmulh (d : Nat) (a : Nat) (b : Nat) (p : Nat) (t : VType) (s : State) : Res := s.finish (effVmulh d a b p t s)

/-- VADDS: x + y saturated to the type's range, integer types (R18, R152). -/
def effVadds (d : Nat) (a : Nat) (b : Nat) (p : Nat) (t : VType) (s : State) : Out State :=
  s.varith2 d a b p t (wordOfInstr (.vadds d a b p t)) false
    (fun _ _ _ => ⟨0, 0⟩)
    (fun x y => laneSat t (laneInt t x + laneInt t y))
def execVadds (d : Nat) (a : Nat) (b : Nat) (p : Nat) (t : VType) (s : State) : Res := s.finish (effVadds d a b p t s)

/-- VSUBS: x − y saturated to the type's range, integer types (R18, R152). -/
def effVsubs (d : Nat) (a : Nat) (b : Nat) (p : Nat) (t : VType) (s : State) : Out State :=
  s.varith2 d a b p t (wordOfInstr (.vsubs d a b p t)) false
    (fun _ _ _ => ⟨0, 0⟩)
    (fun x y => laneSat t (laneInt t x - laneInt t y))
def execVsubs (d : Nat) (a : Nat) (b : Nat) (p : Nat) (t : VType) (s : State) : Res := s.finish (effVsubs d a b p t s)

/-! ## VFMA (R153) -/

/-- x, y and z = vd, read before the write (R153). -/
def State.vfused (s : State) (d a b p : Nat) (t : VType) (w : Nat) (f : Nat → FVal → FVal → FVal → FR) : Out State :=
  (s.src2 a b w).bind fun v =>
    let z := s.getV d
    let g : Nat → FR := fun i =>
      f (s.laneDraw s.rm i) (t.ff.val (laneGet t v.1 i)) (t.ff.val (laneGet t v.2 i)) (t.ff.val (laneGet t z i))
    .ok (((s.vput d p t g).popStreams [a, b]).consume s.rm t.draws)

/-- VFMA: x × y + z (R153). -/
def effVfma (d : Nat) (a : Nat) (b : Nat) (p : Nat) (t : VType) (s : State) : Out State :=
  s.vfused d a b p t (wordOfInstr (.vfma d a b p t)) fun r x y z => ffma t.ff s.rm r false x y z
def execVfma (d : Nat) (a : Nat) (b : Nat) (p : Nat) (t : VType) (s : State) : Res := s.finish (effVfma d a b p t s)

/-- VFMS: x × y − z (R153). -/
def effVfms (d : Nat) (a : Nat) (b : Nat) (p : Nat) (t : VType) (s : State) : Out State :=
  s.vfused d a b p t (wordOfInstr (.vfms d a b p t)) fun r x y z => ffma t.ff s.rm r false x y z.negate
def execVfms (d : Nat) (a : Nat) (b : Nat) (p : Nat) (t : VType) (s : State) : Res := s.finish (effVfms d a b p t s)

/-- VFNMA: −(x × y) − z (R153). -/
def effVfnma (d : Nat) (a : Nat) (b : Nat) (p : Nat) (t : VType) (s : State) : Out State :=
  s.vfused d a b p t (wordOfInstr (.vfnma d a b p t)) fun r x y z => ffma t.ff s.rm r true x y z.negate
def execVfnma (d : Nat) (a : Nat) (b : Nat) (p : Nat) (t : VType) (s : State) : Res := s.finish (effVfnma d a b p t s)

/-- VFNMS: −(x × y) + z (R153). -/
def effVfnms (d : Nat) (a : Nat) (b : Nat) (p : Nat) (t : VType) (s : State) : Out State :=
  s.vfused d a b p t (wordOfInstr (.vfnms d a b p t)) fun r x y z => ffma t.ff s.rm r true x y z
def execVfnms (d : Nat) (a : Nat) (b : Nat) (p : Nat) (t : VType) (s : State) : Res := s.finish (effVfnms d a b p t s)

/-- VDIV: x / y (R153). -/
def effVdiv (d : Nat) (a : Nat) (b : Nat) (p : Nat) (t : VType) (s : State) : Out State :=
  s.vfused d a b p t (wordOfInstr (.vdiv d a b p t)) fun r x y _ => fdiv t.ff s.rm r x y
def execVdiv (d : Nat) (a : Nat) (b : Nat) (p : Nat) (t : VType) (s : State) : Res := s.finish (effVdiv d a b p t s)

/-- VSQRT: √x (R153). -/
def effVsqrt (d : Nat) (a : Nat) (p : Nat) (t : VType) (s : State) : Out State :=
  (s.src1 a (wordOfInstr (.vsqrt d a p t))).bind fun v =>
    let f : Nat → FR := fun i => fsqrt t.ff s.rm (s.laneDraw s.rm i) (t.ff.val (laneGet t v i))
    .ok (((s.vput d p t f).popStreams [a]).consume s.rm t.draws)
def execVsqrt (d : Nat) (a : Nat) (p : Nat) (t : VType) (s : State) : Res := s.finish (effVsqrt d a p t s)

/-! ## VSF (R154): f32 only, no draw -/

/-- VEXP2: 2^x (R154). -/
def effVexp2 (d : Nat) (a : Nat) (p : Nat) (s : State) : Out State :=
  s.varith1 d a p .f32 (wordOfInstr (.vexp2 d a p)) vexp2
def execVexp2 (d : Nat) (a : Nat) (p : Nat) (s : State) : Res := s.finish (effVexp2 d a p s)

/-- VLOG2: log2(x) (R154). -/
def effVlog2 (d : Nat) (a : Nat) (p : Nat) (s : State) : Out State :=
  s.varith1 d a p .f32 (wordOfInstr (.vlog2 d a p)) vlog2
def execVlog2 (d : Nat) (a : Nat) (p : Nat) (s : State) : Res := s.finish (effVlog2 d a p s)

/-- VRCP: 1/x (R154). -/
def effVrcp (d : Nat) (a : Nat) (p : Nat) (s : State) : Out State :=
  s.varith1 d a p .f32 (wordOfInstr (.vrcp d a p)) vrcp
def execVrcp (d : Nat) (a : Nat) (p : Nat) (s : State) : Res := s.finish (effVrcp d a p s)

/-- VRSQ: 1/√x (R154). -/
def effVrsq (d : Nat) (a : Nat) (p : Nat) (s : State) : Out State :=
  s.varith1 d a p .f32 (wordOfInstr (.vrsq d a p)) vrsq
def execVrsq (d : Nat) (a : Nat) (p : Nat) (s : State) : Res := s.finish (effVrsq d a p s)

/-! ## VCMP (R155) -/

/-- The four relation bits of two elements, as FCMP gives them, and NV. -/
def laneCompare (t : VType) (x y : Nat) : Nat × Flags :=
  if t.isFloat then fcompare (t.ff.val x) (t.ff.val y)
  else
    let u := laneInt t x
    let v := laneInt t y
    (if u < v then 1 else if u = v then 2 else 4, 0)

/-- Bits of a predicate from the active lanes of a type (R143). -/
def maskOf (t : VType) (m : BitVec 32) (f : Nat → Bool) : BitVec 32 :=
  (List.range t.lanes).foldl (fun q i => if active m i && f i then q ||| BitVec.ofNat 32 (2 ^ i) else q) 0

/-- A comparison: `want` masks the relation bits that hold. -/
def State.vcompare (s : State) (d a b p : Nat) (t : VType) (w want : Nat) : Out State :=
  (s.src2 a b w).bind fun v =>
    let r : Nat → Nat × Flags := fun i => laneCompare t (laneGet t v.1 i) (laneGet t v.2 i)
    let m := s.getP p
    let s := (s.setP d (maskOf t m fun i => Nat.land (r i).1 want != 0)).popStreams [a, b]
    .ok (s.raiseFlags (laneFlags t m fun i => ⟨0, (r i).2⟩))

/-- VCEQ: x = y (R155). -/
def effVceq (d : Nat) (a : Nat) (b : Nat) (p : Nat) (t : VType) (s : State) : Out State :=
  s.vcompare d a b p t (wordOfInstr (.vceq d a b p t)) 2
def execVceq (d : Nat) (a : Nat) (b : Nat) (p : Nat) (t : VType) (s : State) : Res := s.finish (effVceq d a b p t s)

/-- VCNE: not (x = y), true when unordered (R155). -/
def effVcne (d : Nat) (a : Nat) (b : Nat) (p : Nat) (t : VType) (s : State) : Out State :=
  s.vcompare d a b p t (wordOfInstr (.vcne d a b p t)) 13
def execVcne (d : Nat) (a : Nat) (b : Nat) (p : Nat) (t : VType) (s : State) : Res := s.finish (effVcne d a b p t s)

/-- VCLT: x < y (R155). -/
def effVclt (d : Nat) (a : Nat) (b : Nat) (p : Nat) (t : VType) (s : State) : Out State :=
  s.vcompare d a b p t (wordOfInstr (.vclt d a b p t)) 1
def execVclt (d : Nat) (a : Nat) (b : Nat) (p : Nat) (t : VType) (s : State) : Res := s.finish (effVclt d a b p t s)

/-- VCLE: x ≤ y (R155). -/
def effVcle (d : Nat) (a : Nat) (b : Nat) (p : Nat) (t : VType) (s : State) : Out State :=
  s.vcompare d a b p t (wordOfInstr (.vcle d a b p t)) 3
def execVcle (d : Nat) (a : Nat) (b : Nat) (p : Nat) (t : VType) (s : State) : Res := s.finish (effVcle d a b p t s)

/-- VCGT: x > y (R155). -/
def effVcgt (d : Nat) (a : Nat) (b : Nat) (p : Nat) (t : VType) (s : State) : Out State :=
  s.vcompare d a b p t (wordOfInstr (.vcgt d a b p t)) 4
def execVcgt (d : Nat) (a : Nat) (b : Nat) (p : Nat) (t : VType) (s : State) : Res := s.finish (effVcgt d a b p t s)

/-- VCGE: x ≥ y (R155). -/
def effVcge (d : Nat) (a : Nat) (b : Nat) (p : Nat) (t : VType) (s : State) : Out State :=
  s.vcompare d a b p t (wordOfInstr (.vcge d a b p t)) 6
def execVcge (d : Nat) (a : Nat) (b : Nat) (p : Nat) (t : VType) (s : State) : Res := s.finish (effVcge d a b p t s)

/-- VCUN: x or y is a NaN (R155). -/
def effVcun (d : Nat) (a : Nat) (b : Nat) (p : Nat) (t : VType) (s : State) : Out State :=
  s.vcompare d a b p t (wordOfInstr (.vcun d a b p t)) 8
def execVcun (d : Nat) (a : Nat) (b : Nat) (p : Nat) (t : VType) (s : State) : Res := s.finish (effVcun d a b p t s)

/-! ## VCVT (R156, R157) -/

/-- Lanes that take part: those of the side with fewer (R157). -/
def cvtLanes (u t : VType) : Nat := Nat.min u.lanes t.lanes

/-- A lane of VCVT: by R35 and R36, but a float into its own type is the source, a signaling NaN made quiet apart (R156). -/
def vconvert (u t : VType) (m : RMode) (x : Bool) (draw c : Nat) : FR :=
  match numTy u with
  | .flt f => if u = t ∧ (f.val c).isNan = false then ⟨c, 0⟩ else convert (numTy u) (numTy t) m x draw c
  | .int _ _ => convert (numTy u) (numTy t) m x draw c

/-- VCVT: each active lane from the source type to the destination type (R156, R157). -/
def effVcvt (d : Nat) (a : Nat) (u : VType) (x : Bool) (p : Nat) (t : VType) (m : RMode) (s : State) : Out State :=
  (s.src1 a (wordOfInstr (.vcvt d a u x p t m))).bind fun v =>
    let n := cvtLanes u t
    let mask := s.getP p &&& BitVec.ofNat 32 (2 ^ n - 1)
    let f : Nat → FR := fun i => vconvert u t m x (s.laneDraw m i) (laneGet u v i)
    let vd := (List.range n).foldl (fun r i => if active mask i then laneSet t r i (f i).code else r) (s.getV d)
    let fl := (List.range n).foldl (fun g i => if active mask i then g ||| (f i).fl else g) 0
    .ok ((((s.setV d vd).raiseFlags fl).popStreams [a]).consume m (if u = .f64 ∨ t = .f64 then 4 else 8))
def execVcvt (d : Nat) (a : Nat) (u : VType) (x : Bool) (p : Nat) (t : VType) (m : RMode) (s : State) : Res := s.finish (effVcvt d a u x p t m s)

/-! ## VPERM (R158, R159) -/

/-- An index read from a vb lane (R158). -/
def laneIndex (t : VType) (v : BitVec 1024) (i : Nat) : Nat := laneRaw t v i % t.lanes

/-- The active lanes of `old` replaced bit for bit. -/
def moveLanes (t : VType) (m : BitVec 32) (old : BitVec 1024) (f : Nat → Nat) : BitVec 1024 :=
  (List.range t.lanes).foldl (fun v i => if active m i then laneSetRaw (laneBits t) v i (f i) else v) old

/-- VSHUF: va[k], k from vb[i] (R158). -/
def effVshuf (d : Nat) (a : Nat) (b : Nat) (p : Nat) (t : VType) (s : State) : Out State :=
  (s.src2 a b (wordOfInstr (.vshuf d a b p t))).bind fun v =>
    .ok ((s.setV d (moveLanes t (s.getP p) (s.getV d) fun i => laneRaw t v.1 (laneIndex t v.2 i))).popStreams [a, b])
def execVshuf (d : Nat) (a : Nat) (b : Nat) (p : Nat) (t : VType) (s : State) : Res := s.finish (effVshuf d a b p t s)

/-- VROT: va[(i + n) mod L] (R158). -/
def effVrot (d : Nat) (a : Nat) (n : Nat) (p : Nat) (t : VType) (s : State) : Out State :=
  (s.src1 a (wordOfInstr (.vrot d a n p t))).bind fun v =>
    .ok ((s.setV d (moveLanes t (s.getP p) (s.getV d) fun i => laneRaw t v ((i + n) % t.lanes))).popStreams [a])
def execVrot (d : Nat) (a : Nat) (n : Nat) (p : Nat) (t : VType) (s : State) : Res := s.finish (effVrot d a n p t s)

/-- VBCAST: va[n] (R158). -/
def effVbcast (d : Nat) (a : Nat) (n : Nat) (p : Nat) (t : VType) (s : State) : Out State :=
  (s.src1 a (wordOfInstr (.vbcast d a n p t))).bind fun v =>
    .ok ((s.setV d (moveLanes t (s.getP p) (s.getV d) fun _ => laneRaw t v n)).popStreams [a])
def execVbcast (d : Nat) (a : Nat) (n : Nat) (p : Nat) (t : VType) (s : State) : Res := s.finish (effVbcast d a n p t s)

/-- VXLANE: reads through the predicate, and writes it (R159). -/
def effVxlane (d : Nat) (a : Nat) (b : Nat) (p : Nat) (t : VType) (s : State) : Out State :=
  (s.src2 a b (wordOfInstr (.vxlane d a b p t))).bind fun v =>
    let q := s.getP p
    let k : Nat → Nat := fun i => laneIndex t v.2 i
    let vd := moveLanes t q (s.getV d) fun i => laneRaw t v.1 (if active q (k i) then k i else i)
    let lost := maskOf t q fun i => !active q (k i)
    .ok (((s.setV d vd).setP p (q &&& ~~~lost)).popStreams [a, b])
def execVxlane (d : Nat) (a : Nat) (b : Nat) (p : Nat) (t : VType) (s : State) : Res := s.finish (effVxlane d a b p t s)

/-- The active lanes of a predicate, ascending. -/
def activeLanes (t : VType) (m : BitVec 32) : List Nat := (List.range t.lanes).filter (active m)

/-- VCOMPRESS: lanes 0 to c − 1 receive the c active lanes in order (R158). -/
def effVcompress (d : Nat) (a : Nat) (p : Nat) (t : VType) (s : State) : Out State :=
  (s.src1 a (wordOfInstr (.vcompress d a p t))).bind fun v =>
    let ls := activeLanes t (s.getP p)
    let vd := (List.range ls.length).foldl (fun r j => laneSetRaw (laneBits t) r j (laneRaw t v (ls.getD j 0))) (s.getV d)
    .ok ((s.setV d vd).popStreams [a])
def execVcompress (d : Nat) (a : Nat) (p : Nat) (t : VType) (s : State) : Res := s.finish (effVcompress d a p t s)

/-- VEXPAND: the j-th active lane receives va[j] (R158). -/
def effVexpand (d : Nat) (a : Nat) (p : Nat) (t : VType) (s : State) : Out State :=
  (s.src1 a (wordOfInstr (.vexpand d a p t))).bind fun v =>
    let ls := activeLanes t (s.getP p)
    let vd := (List.range ls.length).foldl (fun r j => laneSetRaw (laneBits t) r (ls.getD j 0) (laneRaw t v j)) (s.getV d)
    .ok ((s.setV d vd).popStreams [a])
def execVexpand (d : Nat) (a : Nat) (p : Nat) (t : VType) (s : State) : Res := s.finish (effVexpand d a p t s)

/-! ## VRED (R160, R161) -/

/-- One level of the tree: neighbours combined, a skipped one passing the other on; `n` numbers the additions. -/
def redLevel (op : Nat → Nat → Nat → FR) : Nat → List (Option Nat) → List (Option Nat) × Flags
  | n, x :: y :: rest =>
    let (zs, fl) := redLevel op (n + 1) rest
    match x, y with
    | none, y => (y :: zs, fl)
    | x, none => (x :: zs, fl)
    | some u, some v => (some (op n u v).code :: zs, fl ||| (op n u v).fl)
  | _, xs => (xs, 0)

/-- The tree of R160 over 2^k lanes; k levels. -/
def redTree (op : Nat → Nat → Nat → FR) : Nat → Nat → List (Option Nat) → Option Nat × Flags
  | 0, _, xs => ((xs.head?).join, 0)
  | k + 1, n, xs =>
    let (ys, fl) := redLevel op n xs
    let (r, fl2) := redTree op k (n + xs.length / 2) ys
    (r, fl ||| fl2)

/-- The sequential order of R160; `n` is the lane in hand, whose addition has number n − 1. -/
def redSeq (op : Nat → Nat → Nat → FR) : Nat → Option Nat → List (Option Nat) → Option Nat × Flags
  | _, acc, [] => (acc, 0)
  | n, acc, none :: xs => redSeq op (n + 1) acc xs
  | n, none, some x :: xs => redSeq op (n + 1) (some x) xs
  | n, some a, some x :: xs =>
    let r := op (n - 1) a x
    let (y, fl) := redSeq op (n + 1) (some r.code) xs
    (y, r.fl ||| fl)

/-- The sum of a type: float additions round with FRM.RM and the draw of their number, integers wrap (R160, R161). -/
def State.redSum (s : State) (t : VType) (n x y : Nat) : FR :=
  if t.isFloat then fadd t.ff s.rm (s.laneDraw s.rm n) (t.ff.val x) (t.ff.val y) else ⟨(x + y) % 2 ^ t.width, 0⟩

/-- The minimum or maximum of a type (R160). -/
def redPick (t : VType) (isMax : Bool) (_n x y : Nat) : FR :=
  if t.isFloat then fminmax t.ff isMax x y
  else if isMax then ⟨if laneInt t x ≥ laneInt t y then x else y, 0⟩
  else ⟨if laneInt t x ≤ laneInt t y then x else y, 0⟩

/-- The lanes of a reduction: an inactive one is skipped, but 0 in an integer sum (R160). -/
def redLanes (t : VType) (m : BitVec 32) (v : BitVec 1024) (sum : Bool) : List (Option Nat) :=
  (List.range t.lanes).map fun i =>
    if active m i then some (laneGet t v i) else if sum && !t.isFloat then some 0 else none

/-- The value with no active lane (R160). -/
def redEmpty (t : VType) (isMax : Bool) : Nat :=
  if t.isFloat then t.ff.qnan
  else if t.signed then (if isMax then 2 ^ (t.width - 1) else 2 ^ (t.width - 1) - 1)
  else if isMax then 0 else 2 ^ t.width - 1

/-- The end of a reduction: lane 0 of vd whatever the predicate (R160). -/
def State.redPut (s : State) (d a : Nat) (t : VType) (r : Option Nat × Flags) (empty : Nat) : State :=
  ((s.setV d (laneSet t (s.getV d) 0 (r.1.getD empty))).raiseFlags r.2).popStreams [a]

/-- VRSUM: tree sum (R160, R161). -/
def effVrsum (d : Nat) (a : Nat) (p : Nat) (t : VType) (s : State) : Out State :=
  (s.src1 a (wordOfInstr (.vrsum d a p t))).bind fun v =>
    let r := redTree (s.redSum t) t.levels 0 (redLanes t (s.getP p) v true)
    let s' := s.redPut d a t r 0
    .ok (if t.isFloat then s'.consume s.rm t.draws else s')
def execVrsum (d : Nat) (a : Nat) (p : Nat) (t : VType) (s : State) : Res := s.finish (effVrsum d a p t s)

/-- VRMAX: tree maximum (R160). -/
def effVrmax (d : Nat) (a : Nat) (p : Nat) (t : VType) (s : State) : Out State :=
  (s.src1 a (wordOfInstr (.vrmax d a p t))).bind fun v =>
    .ok (s.redPut d a t (redTree (redPick t true) t.levels 0 (redLanes t (s.getP p) v false)) (redEmpty t true))
def execVrmax (d : Nat) (a : Nat) (p : Nat) (t : VType) (s : State) : Res := s.finish (effVrmax d a p t s)

/-- VRMIN: tree minimum (R160). -/
def effVrmin (d : Nat) (a : Nat) (p : Nat) (t : VType) (s : State) : Out State :=
  (s.src1 a (wordOfInstr (.vrmin d a p t))).bind fun v =>
    .ok (s.redPut d a t (redTree (redPick t false) t.levels 0 (redLanes t (s.getP p) v false)) (redEmpty t false))
def execVrmin (d : Nat) (a : Nat) (p : Nat) (t : VType) (s : State) : Res := s.finish (effVrmin d a p t s)

/-- VRSUMO: sequential sum (R160, R161). -/
def effVrsumo (d : Nat) (a : Nat) (p : Nat) (t : VType) (s : State) : Out State :=
  (s.src1 a (wordOfInstr (.vrsumo d a p t))).bind fun v =>
    let r := redSeq (s.redSum t) 0 none (redLanes t (s.getP p) v true)
    let s' := s.redPut d a t r 0
    .ok (if t.isFloat then s'.consume s.rm t.draws else s')
def execVrsumo (d : Nat) (a : Nat) (p : Nat) (t : VType) (s : State) : Res := s.finish (effVrsumo d a p t s)

/-! ## VPRED (R170): all 32 bits, masked by the governing predicate -/

/-- VPAND: (pa AND pb) AND p (R170). -/
def effVpand (d : Nat) (a : Nat) (b : Nat) (p : Nat) (s : State) : Out State :=
  .ok (s.setP d ((s.getP a &&& s.getP b) &&& s.getP p))
def execVpand (d : Nat) (a : Nat) (b : Nat) (p : Nat) (s : State) : Res := s.finish (effVpand d a b p s)

/-- VPOR: (pa OR pb) AND p (R170). -/
def effVpor (d : Nat) (a : Nat) (b : Nat) (p : Nat) (s : State) : Out State :=
  .ok (s.setP d ((s.getP a ||| s.getP b) &&& s.getP p))
def execVpor (d : Nat) (a : Nat) (b : Nat) (p : Nat) (s : State) : Res := s.finish (effVpor d a b p s)

/-- VPXOR: (pa XOR pb) AND p (R170). -/
def effVpxor (d : Nat) (a : Nat) (b : Nat) (p : Nat) (s : State) : Out State :=
  .ok (s.setP d ((s.getP a ^^^ s.getP b) &&& s.getP p))
def execVpxor (d : Nat) (a : Nat) (b : Nat) (p : Nat) (s : State) : Res := s.finish (effVpxor d a b p s)

/-- VPNOT: (NOT pa) AND p (R170). -/
def effVpnot (d : Nat) (a : Nat) (p : Nat) (s : State) : Out State :=
  .ok (s.setP d (~~~(s.getP a) &&& s.getP p))
def execVpnot (d : Nat) (a : Nat) (p : Nat) (s : State) : Res := s.finish (effVpnot d a p s)

/-- VPCNT: the number of one bits in pa AND p, to gd (R170). -/
def effVpcnt (d : Nat) (a : Nat) (p : Nat) (s : State) : Out State :=
  .ok (s.put d (BitVec.ofNat 64 (popcount (s.getP a &&& s.getP p).toNat 32)))
def execVpcnt (d : Nat) (a : Nat) (p : Nat) (s : State) : Res := s.finish (effVpcnt d a p s)

/-- VPSET: ival(a)[31:0] AND p; a POISON source traps (R144, R170). -/
def effVpset (d : Nat) (a : Nat) (p : Nat) (s : State) : Out State :=
  (s.value a).bind fun x => .ok (s.setP d (x.truncate 32 &&& s.getP p))
def execVpset (d : Nat) (a : Nat) (p : Nat) (s : State) : Res := s.finish (effVpset d a p s)

/-- VPFIRST: only the lowest one bit of pa AND p (R170). -/
def effVpfirst (d : Nat) (a : Nat) (p : Nat) (s : State) : Out State :=
  let x := s.getP a &&& s.getP p
  .ok (s.setP d (match findBelow (bit x.toNat) 32 with
    | some i => BitVec.ofNat 32 (2 ^ i)
    | none => 0))
def execVpfirst (d : Nat) (a : Nat) (p : Nat) (s : State) : Res := s.finish (effVpfirst d a p s)

end Sys2Proof.Machine
end

