-- ==== Sys2Proof/Machine/VectorMem.lean ====
section
/-! DEFINITION. Vector memory accesses and moves, majors 0x27 and 0x28 (R144, R151, R162 to R169). -/

namespace Sys2Proof.Machine

/-! ## VMEM (R162 to R168) -/

/-- Element width in bytes. -/
def laneBytes (t : VType) : Nat := t.width / 8

/-- The effective address of a lane (R162). -/
def State.laneEa (s : State) (a : Nat) (off : Int) : Nat := mod52 ((s.getG a).addr + off)

/-- Every trap of a lane has the lane's address and number (R163); the trap of a POISON base has its reason (R77, R357; DEDUCED, log entry
53). -/
def laneTrap (ea i : Nat) (t : Trap) : Trap := ⟨t.cause, if t.cause = 6 then t.tval else ea, i⟩

/-- A load lane (R163): the state it leaves, which keeps what the read met, and how it ended. -/
def State.loadLane (s : State) (d a : Nat) (t : VType) (ea i : Nat) : State × Out Unit :=
  match s.loadRead a ea (laneBytes t) with
  | .trap x => (s, .trap (laneTrap ea i x))
  | .wait => (s, .wait)
  | .ok (_, u, .absent) => (u, .trap ⟨7, ea, i⟩)
  | .ok (_, u, .poisoned) => (u, .trap ⟨6, ea, i⟩)
  | .ok (k, u, .value x _) =>
    if (s.core s.cpu.core).meshBad && s.overMesh k then
      (u.meshPoison.2, if s.cpu.csrs.regpc.getLsbD 63 then .wait else .trap ⟨6, ea, i⟩)
    else (u.setV d (laneSet t (u.getV d) i x), .ok ())

/-- A store lane (R163): the low w bytes of vd lane i as a DATA value. -/
def State.storeLane (s : State) (d a : Nat) (t : VType) (ea i : Nat) : State × Out Unit :=
  let r := (s.check a ea (laneBytes t) .w).bind fun loc => (classStore loc ea).bind fun _ =>
    s.writeAt loc ea (leBytes (laneBytes t) (laneGet t (s.getV d) i)) false false
  match r with
  | .ok u => (u, .ok ())
  | .trap x => (s.metWalk a ea (laneBytes t) x, .trap (laneTrap ea i x))
  | .wait => (s, .wait)

/-- The bytes of a lane: the memory key of its first one; an address that leads nowhere meets no other. -/
def State.laneKey (s : State) (ea : Nat) : Nat :=
  match s.locate s.cpu.core s.cpu.launch (s.dataTlb s.cpu.core) ea with
  | .ok loc => loc.key
  | .trap _ | .wait => 2 ^ 63 + ea * 16

/-- The active lanes that are not done (R164). -/
def State.lanesLeft (s : State) (p : Nat) (t : VType) : List Nat :=
  (List.range t.lanes).filter fun i => active (s.getP p) i && !s.vprog.getLsbD i

/-- Those that may be performed next: no lower one that is left overlaps (R165). -/
def State.lanesReady (s : State) (p : Nat) (t : VType) (ea : Nat → Nat) : List Nat :=
  (s.lanesLeft p t).filter fun i => (s.lanesLeft p t).all fun j =>
    decide (i ≤ j) || !overlap (s.laneKey (ea j)) (laneBytes t) (s.laneKey (ea i)) (laneBytes t)

/-- A lane's outcome is no wait. -/
def Out.decided {α : Type} : Out α → Bool
  | .ok _ | .trap _ => true
  | .wait => false

/-- A lane's outcome is a trap. -/
def Out.traps {α : Type} : Out α → Bool
  | .trap _ => true
  | .ok _ | .wait => false

/-- The acting core asks for a rollback, or its tile has left service: a lane that was read again at its home (R358, R371). -/
def State.turnsBack (s : State) : Bool := (s.core s.cpu.core).rollReq || (s.tile (s.cpu.core / 16)).st != .run

/-- A VMEM instruction with its lane addresses, one lane a step with a boundary after it (R164): a lane that may go next is
performed and marked in VPROG, the free value choosing among those that do not wait (R165; log entry 7); a lane that fails gives way
to the lowest failing one, whose trap is taken at once, while a lower lane may still wait (DESIGN CHOICE, log entry 120); one that asks for a rollback
keeps what it met and waits (R358). With no lane left it retires: stream entries go and VPROG is 0. -/
def State.vmem (s : State) (p : Nat) (t : VType) (fs : List Nat) (ea : Nat → Nat) (lane : Nat → State → State × Out Unit) : Res :=
  if (s.lanesLeft p t).isEmpty then .next ((s.popStreams fs).setVprog 0).advance
  else
    let ready := s.lanesReady p t ea
    let (n, x) := s.drawFree
    let k := Config.nextLane n % ready.length
    match (ready.drop k ++ ready.take k).find? fun i => (lane i x).2.decided || (lane i x).1.turnsBack with
    | none => .next s.stall
    | some i =>
      match lane i x with
      | (u, .ok ()) => .next ((u.setVprog (u.vprog ||| BitVec.ofNat 64 (2 ^ i))).modCpu fun c => { c with stalled := false })
      | (u, .wait) => .next u.stall
      | (u, .trap y) =>
        match (s.lanesLeft p t).find? fun j => (lane j s).2.traps with
        | some j => (match lane j s with
          | (v, .trap z) => .next (v.takeTrap z)
          | (_, .ok _) | (_, .wait) => .next (u.takeTrap y))
        | none => .next (u.takeTrap y)

/-- A VMEM instruction whose operands are checked first. -/
def State.vmemWith {α : Type} (s : State) (o : Out α) (f : α → Res) : Res :=
  match o with
  | .ok x => f x
  | .trap t => .next (s.takeTrap t)
  | .wait => .next s.stall

/-- VLD (R162). -/
def execVld (d a p : Nat) (t : VType) (s : State) : Res :=
  let ea := fun i : Nat => s.laneEa a (i * (laneBytes t))
  s.vmem p t [] ea fun i u => u.loadLane d a t (ea i) i

/-- VLDS: the stride is ival(b) bytes (R162). -/
def execVlds (d a b p : Nat) (t : VType) (s : State) : Res :=
  s.vmemWith (s.value b) fun x =>
    let ea := fun i : Nat => s.laneEa a (i * x.toInt)
    s.vmem p t [] ea fun i u => u.loadLane d a t (ea i) i

/-- The index of a gather or scatter lane: 32 bits, signed (R162). -/
def indexOf (v : BitVec 1024) (i : Nat) : Int := sext (laneRaw .i32 v i) 32

/-- VGATHER (R162): a destination that also holds the indices is illegal. -/
def execVgather (d a b p : Nat) (t : VType) (s : State) : Res :=
  let w := wordOfInstr (.vgather d a b p t)
  s.vmemWith (if d = b ∧ (s.streamOf b).isNone = true then .trap (illegal w) else s.src1 b w) fun v =>
    let ea := fun i : Nat => s.laneEa a (indexOf v i * (laneBytes t))
    s.vmem p t [b] ea fun i u => u.loadLane d a t (ea i) i

/-- VST (R162). -/
def execVst (d a p : Nat) (t : VType) (s : State) : Res :=
  let ea := fun i : Nat => s.laneEa a (i * (laneBytes t))
  s.vmem p t [] ea fun i u => u.storeLane d a t (ea i) i

/-- VSTS: the stride is ival(b) bytes (R162). -/
def execVsts (d a b p : Nat) (t : VType) (s : State) : Res :=
  s.vmemWith (s.value b) fun x =>
    let ea := fun i : Nat => s.laneEa a (i * x.toInt)
    s.vmem p t [] ea fun i u => u.storeLane d a t (ea i) i

/-- VSCATTER (R162). -/
def execVscatter (d a b p : Nat) (t : VType) (s : State) : Res :=
  s.vmemWith (s.src1 b (wordOfInstr (.vscatter d a b p t))) fun v =>
    let ea := fun i : Nat => s.laneEa a (indexOf v i * (laneBytes t))
    s.vmem p t [b] ea fun i u => u.storeLane d a t (ea i) i

/-! ## VMOV (R169) -/

/-- VMOVGV: lane n of vd from a general register, when it is active. -/
def execVmovgv (d a n p : Nat) (t : VType) (s : State) : Res :=
  s.finish ((s.value a).bind fun x =>
    .ok (if active (s.getP p) n then s.setV d (laneSet t (s.getV d) n (x.toNat % 2 ^ t.width)) else s))

/-- VMOVVG: gd from lane n of va; sign-extended for i types. -/
def execVmovvg (d a n : Nat) (t : VType) (s : State) : Res :=
  s.finish ((s.src1 a (wordOfInstr (.vmovvg d a n t))).bind fun v =>
    let x := laneGet t v n
    .ok ((s.put d (if t.signed then wordOf (sext x t.width) else BitVec.ofNat 64 x)).popStreams [a]))

/-- VSPLAT: every active lane from a general register. -/
def execVsplat (d a p : Nat) (t : VType) (s : State) : Res :=
  s.finish ((s.value a).bind fun x =>
    .ok (s.setV d (writeLanes t (s.getP p) (s.getV d) fun _ => x.toNat % 2 ^ t.width)))

/-! ## Stream bindings (R151) -/

/-- Clear bit k of EN and BOUND and TAGk, drop the queue and count what it held (R151 VQDROP). DESIGN CHOICE (log entry 83): what is
dropped so does not count as removed in EPROGS.ELEM. -/
def State.unbind (s : State) (k : Nat) : State :=
  let n := (vget [] s.cpu.streams k).length
  let s := s.modCpu fun c => { c with streams := vset c.streams k [] }
  (s.modCsr fun c => { c with vqmap := c.vqmap &&& ~~~BitVec.ofNat 64 (2 ^ k + 2 ^ (4 + k) + 255 * 2 ^ (8 + 8 * k)) }).count 3 n

/-- Bit k of BOUND. -/
def State.bound (s : State) (k : Nat) : Bool := s.cpu.csrs.vqmap.getLsbD (4 + k)

/-- VQBIND (R151): the tag must fit eight bits and be bound to no other register; a bound vqk is dropped first, and EN is
unchanged by the binding itself. -/
def execVqbind (k a : Nat) (s : State) : Res :=
  let w := wordOfInstr (.vqbind k a)
  s.finish ((s.value a).bind fun x =>
    if bits x.toNat 63 8 ≠ 0 then .trap (illegal w)
    else
      match boundTo s.cpu.csrs.vqmap (x.truncate 8) with
      | some j =>
        if j ≠ k then .trap (illegal w)
        else .ok ((s.unbind k).modCsr fun c => { c with
          vqmap := c.vqmap ||| BitVec.ofNat 64 (2 ^ (4 + k) + x.toNat * 2 ^ (8 + 8 * k)) })
      | none =>
        let s := if s.bound k then s.unbind k else s
        .ok (s.modCsr fun c => { c with
          vqmap := c.vqmap ||| BitVec.ofNat 64 (2 ^ (4 + k) + x.toNat * 2 ^ (8 + 8 * k)) }))

/-- VQDROP (R151): no effect on an unbound register. -/
def execVqdrop (k : Nat) (s : State) : Res := s.finish (.ok (if s.bound k then s.unbind k else s))

end Sys2Proof.Machine
end

