-- ==== Sys2Proof/Machine/Repeat.lean ====
section
/-! DEFINITION. Instruction fetch (R95, R294, R298, R341) and repeat frames (R53 to R57, R99). -/

namespace Sys2Proof.Machine

/-! ## Fetch -/

/-- The fetch of the word at an address through PCC (R95): bounds, X, then the place, absence and poison. Every trap
has TVAL = the address. -/
def State.fetchAt (s : State) (a : Nat) : State × Out Nat :=
  let c := s.cpu.pcc
  if a < capBase c ∨ capBase c + capLen c < a + 4 then (s, .trap ⟨3, a, 0⟩)
  else if capHas c .x = false then (s, .trap ⟨4, a, 0⟩)
  else
    match s.locate s.cpu.core s.cpu.launch ((s.core s.cpu.core).itlb ++ (s.tile (s.cpu.core / 16)).tlb) a with
    | .trap t => (s, .trap ⟨t.cause, a, 0⟩)
    | .wait => (s, .wait)
    | .ok loc =>
      let h := homeOf loc.key
      if s.absentRead s.cpu.core s.cpu.launch h then (s, .trap ⟨7, a, 0⟩)
      else if s.homeBusy s.cpu.core s.cpu.launch h || s.shaded s.cpu.core loc.key 4 then (s, .wait)
      else
        let s := s.meetRead loc.key 4 s.cpu.core
        let s := match loc.tlb with
          | some e =>
            let s := if ((s.core s.cpu.core).itlb ++ (s.tile (s.cpu.core / 16)).tlb).elem e then s
              else s.meetWalk s.cpu.launch a s.cpu.core
            (s.updCore s.cpu.core fun x => { x with itlb := tlbFill 16 x.itlb e }).updTile (s.cpu.core / 16) fun t =>
              { t with tlb := tlbFill 1024 t.tlb e }
          | none => s
        -- a word that the mesh delivers bad carries the mark (R341)
        if (s.core s.cpu.core).meshBad && s.overMesh loc.key then
          (s.updCore s.cpu.core fun c => { c with meshBad := false }, .trap ⟨6, a, 0⟩)
        else if s.mem.marked loc.key 4 then (s, .trap ⟨6, a, 0⟩) else (s, .ok (s.mem.nat loc.key 4))

/-! ## Stepping (R55) -/

/-- A general register field in iteration k: g0 is never reached. -/
def stepG (f k st : Nat) : Nat := if f = 0 then 0 else (f - 1 + k * st) % 63 + 1
/-- A vector register field. -/
def stepV (f k st : Nat) : Nat := (f + k * st) % 32
/-- A predicate field. -/
def stepP (f k st : Nat) : Nat := (f + k * st) % 8

/-- The captured instruction of iteration k with strides sd, sa and sb; none for an instruction that a frame
does not capture (R54, R55, R145). -/
def stepInstr (k sd sa sb : Nat) : Instr → Option Instr
  | .add d a b => some (.add (stepG d k sd) (stepG a k sa) (stepG b k sb))
  | .sub d a b => some (.sub (stepG d k sd) (stepG a k sa) (stepG b k sb))
  | .and d a b => some (.and (stepG d k sd) (stepG a k sa) (stepG b k sb))
  | .or d a b => some (.or (stepG d k sd) (stepG a k sa) (stepG b k sb))
  | .xor d a b => some (.xor (stepG d k sd) (stepG a k sa) (stepG b k sb))
  | .andn d a b => some (.andn (stepG d k sd) (stepG a k sa) (stepG b k sb))
  | .shl d a b => some (.shl (stepG d k sd) (stepG a k sa) (stepG b k sb))
  | .shr d a b => some (.shr (stepG d k sd) (stepG a k sa) (stepG b k sb))
  | .sar d a b => some (.sar (stepG d k sd) (stepG a k sa) (stepG b k sb))
  | .rol d a b => some (.rol (stepG d k sd) (stepG a k sa) (stepG b k sb))
  | .slt d a b => some (.slt (stepG d k sd) (stepG a k sa) (stepG b k sb))
  | .sltn d a b => some (.sltn (stepG d k sd) (stepG a k sa) (stepG b k sb))
  | .min d a b => some (.min (stepG d k sd) (stepG a k sa) (stepG b k sb))
  | .max d a b => some (.max (stepG d k sd) (stepG a k sa) (stepG b k sb))
  | .minn d a b => some (.minn (stepG d k sd) (stepG a k sa) (stepG b k sb))
  | .maxn d a b => some (.maxn (stepG d k sd) (stepG a k sa) (stepG b k sb))
  | .mul d a b => some (.mul (stepG d k sd) (stepG a k sa) (stepG b k sb))
  | .mulh d a b => some (.mulh (stepG d k sd) (stepG a k sa) (stepG b k sb))
  | .mulhn d a b => some (.mulhn (stepG d k sd) (stepG a k sa) (stepG b k sb))
  | .div d a b => some (.div (stepG d k sd) (stepG a k sa) (stepG b k sb))
  | .divn d a b => some (.divn (stepG d k sd) (stepG a k sa) (stepG b k sb))
  | .rem d a b => some (.rem (stepG d k sd) (stepG a k sa) (stepG b k sb))
  | .remn d a b => some (.remn (stepG d k sd) (stepG a k sa) (stepG b k sb))
  | .clz d a => some (.clz (stepG d k sd) (stepG a k sa))
  | .ctz d a => some (.ctz (stepG d k sd) (stepG a k sa))
  | .popc d a => some (.popc (stepG d k sd) (stepG a k sa))
  | .bswap d a => some (.bswap (stepG d k sd) (stepG a k sa))
  | .addw d a b => some (.addw (stepG d k sd) (stepG a k sa) (stepG b k sb))
  | .subw d a b => some (.subw (stepG d k sd) (stepG a k sa) (stepG b k sb))
  | .mulw d a b => some (.mulw (stepG d k sd) (stepG a k sa) (stepG b k sb))
  | .seq d a b => some (.seq (stepG d k sd) (stepG a k sa) (stepG b k sb))
  | .sne d a b => some (.sne (stepG d k sd) (stepG a k sa) (stepG b k sb))
  | .addi d a i => some (.addi (stepG d k sd) (stepG a k sa) i)
  | .andi d a i => some (.andi (stepG d k sd) (stepG a k sa) i)
  | .ori d a i => some (.ori (stepG d k sd) (stepG a k sa) i)
  | .xori d a i => some (.xori (stepG d k sd) (stepG a k sa) i)
  | .shli d a n => some (.shli (stepG d k sd) (stepG a k sa) n)
  | .shri d a n => some (.shri (stepG d k sd) (stepG a k sa) n)
  | .sari d a n => some (.sari (stepG d k sd) (stepG a k sa) n)
  | .roli d a n => some (.roli (stepG d k sd) (stepG a k sa) n)
  | .slti d a i => some (.slti (stepG d k sd) (stepG a k sa) i)
  | .sltni d a i => some (.sltni (stepG d k sd) (stepG a k sa) i)
  | .fadd d a b p => some (.fadd (stepG d k sd) (stepG a k sa) (stepG b k sb) p)
  | .fsub d a b p => some (.fsub (stepG d k sd) (stepG a k sa) (stepG b k sb) p)
  | .fmul d a b p => some (.fmul (stepG d k sd) (stepG a k sa) (stepG b k sb) p)
  | .fdiv d a b p => some (.fdiv (stepG d k sd) (stepG a k sa) (stepG b k sb) p)
  | .fma d a b p => some (.fma (stepG d k sd) (stepG a k sa) (stepG b k sb) p)
  | .fsqrt d a p => some (.fsqrt (stepG d k sd) (stepG a k sa) p)
  | .fmin d a b p => some (.fmin (stepG d k sd) (stepG a k sa) (stepG b k sb) p)
  | .fmax d a b p => some (.fmax (stepG d k sd) (stepG a k sa) (stepG b k sb) p)
  | .fcmp d a b p => some (.fcmp (stepG d k sd) (stepG a k sa) (stepG b k sb) p)
  | .fcvt d a t r p => some (.fcvt (stepG d k sd) (stepG a k sa) t r p)
  | .fclass d a p => some (.fclass (stepG d k sd) (stepG a k sa) p)
  | .vadd d a b p t => some (.vadd (stepV d k sd) (stepV a k sa) (stepV b k sb) p t)
  | .vsub d a b p t => some (.vsub (stepV d k sd) (stepV a k sa) (stepV b k sb) p t)
  | .vmul d a b p t => some (.vmul (stepV d k sd) (stepV a k sa) (stepV b k sb) p t)
  | .vmin d a b p t => some (.vmin (stepV d k sd) (stepV a k sa) (stepV b k sb) p t)
  | .vmax d a b p t => some (.vmax (stepV d k sd) (stepV a k sa) (stepV b k sb) p t)
  | .vabs d a p t => some (.vabs (stepV d k sd) (stepV a k sa) p t)
  | .vneg d a p t => some (.vneg (stepV d k sd) (stepV a k sa) p t)
  | .vand d a b p t => some (.vand (stepV d k sd) (stepV a k sa) (stepV b k sb) p t)
  | .vor d a b p t => some (.vor (stepV d k sd) (stepV a k sa) (stepV b k sb) p t)
  | .vxor d a b p t => some (.vxor (stepV d k sd) (stepV a k sa) (stepV b k sb) p t)
  | .vshl d a b p t => some (.vshl (stepV d k sd) (stepV a k sa) (stepV b k sb) p t)
  | .vshr d a b p t => some (.vshr (stepV d k sd) (stepV a k sa) (stepV b k sb) p t)
  | .vsar d a b p t => some (.vsar (stepV d k sd) (stepV a k sa) (stepV b k sb) p t)
  | .vmulh d a b p t => some (.vmulh (stepV d k sd) (stepV a k sa) (stepV b k sb) p t)
  | .vadds d a b p t => some (.vadds (stepV d k sd) (stepV a k sa) (stepV b k sb) p t)
  | .vsubs d a b p t => some (.vsubs (stepV d k sd) (stepV a k sa) (stepV b k sb) p t)
  | .vfma d a b p t => some (.vfma (stepV d k sd) (stepV a k sa) (stepV b k sb) p t)
  | .vfms d a b p t => some (.vfms (stepV d k sd) (stepV a k sa) (stepV b k sb) p t)
  | .vfnma d a b p t => some (.vfnma (stepV d k sd) (stepV a k sa) (stepV b k sb) p t)
  | .vfnms d a b p t => some (.vfnms (stepV d k sd) (stepV a k sa) (stepV b k sb) p t)
  | .vdiv d a b p t => some (.vdiv (stepV d k sd) (stepV a k sa) (stepV b k sb) p t)
  | .vsqrt d a p t => some (.vsqrt (stepV d k sd) (stepV a k sa) p t)
  | .vexp2 d a p => some (.vexp2 (stepV d k sd) (stepV a k sa) p)
  | .vlog2 d a p => some (.vlog2 (stepV d k sd) (stepV a k sa) p)
  | .vrcp d a p => some (.vrcp (stepV d k sd) (stepV a k sa) p)
  | .vrsq d a p => some (.vrsq (stepV d k sd) (stepV a k sa) p)
  | .vceq d a b p t => some (.vceq (stepP d k sd) (stepV a k sa) (stepV b k sb) p t)
  | .vcne d a b p t => some (.vcne (stepP d k sd) (stepV a k sa) (stepV b k sb) p t)
  | .vclt d a b p t => some (.vclt (stepP d k sd) (stepV a k sa) (stepV b k sb) p t)
  | .vcle d a b p t => some (.vcle (stepP d k sd) (stepV a k sa) (stepV b k sb) p t)
  | .vcgt d a b p t => some (.vcgt (stepP d k sd) (stepV a k sa) (stepV b k sb) p t)
  | .vcge d a b p t => some (.vcge (stepP d k sd) (stepV a k sa) (stepV b k sb) p t)
  | .vcun d a b p t => some (.vcun (stepP d k sd) (stepV a k sa) (stepV b k sb) p t)
  | .vcvt d a s x p t m => some (.vcvt (stepV d k sd) (stepV a k sa) s x p t m)
  | .vshuf d a b p t => some (.vshuf (stepV d k sd) (stepV a k sa) (stepV b k sb) p t)
  | .vrot d a n p t => some (.vrot (stepV d k sd) (stepV a k sa) n p t)
  | .vbcast d a n p t => some (.vbcast (stepV d k sd) (stepV a k sa) n p t)
  | .vxlane d a b p t => some (.vxlane (stepV d k sd) (stepV a k sa) (stepV b k sb) p t)
  | .vcompress d a p t => some (.vcompress (stepV d k sd) (stepV a k sa) p t)
  | .vexpand d a p t => some (.vexpand (stepV d k sd) (stepV a k sa) p t)
  | .vrsum d a p t => some (.vrsum (stepV d k sd) (stepV a k sa) p t)
  | .vrmax d a p t => some (.vrmax (stepV d k sd) (stepV a k sa) p t)
  | .vrmin d a p t => some (.vrmin (stepV d k sd) (stepV a k sa) p t)
  | .vrsumo d a p t => some (.vrsumo (stepV d k sd) (stepV a k sa) p t)
  | .vpand d a b p => some (.vpand (stepP d k sd) (stepP a k sa) (stepP b k sb) p)
  | .vpor d a b p => some (.vpor (stepP d k sd) (stepP a k sa) (stepP b k sb) p)
  | .vpxor d a b p => some (.vpxor (stepP d k sd) (stepP a k sa) (stepP b k sb) p)
  | .vpnot d a p => some (.vpnot (stepP d k sd) (stepP a k sa) p)
  | .vpcnt d a p => some (.vpcnt d (stepP a k sa) p)
  | .vpset d a p => some (.vpset (stepP d k sd) a p)
  | .vpfirst d a p => some (.vpfirst (stepP d k sd) (stepP a k sa) p)
  | _ => none

/-- The effect of a captured instruction (R99). -/
def effOf : Instr → Option (State → Out State)
  | .add d a b => some (effAdd d a b)
  | .sub d a b => some (effSub d a b)
  | .and d a b => some (effAnd d a b)
  | .or d a b => some (effOr d a b)
  | .xor d a b => some (effXor d a b)
  | .andn d a b => some (effAndn d a b)
  | .shl d a b => some (effShl d a b)
  | .shr d a b => some (effShr d a b)
  | .sar d a b => some (effSar d a b)
  | .rol d a b => some (effRol d a b)
  | .slt d a b => some (effSlt d a b)
  | .sltn d a b => some (effSltn d a b)
  | .min d a b => some (effMin d a b)
  | .max d a b => some (effMax d a b)
  | .minn d a b => some (effMinn d a b)
  | .maxn d a b => some (effMaxn d a b)
  | .mul d a b => some (effMul d a b)
  | .mulh d a b => some (effMulh d a b)
  | .mulhn d a b => some (effMulhn d a b)
  | .div d a b => some (effDiv d a b)
  | .divn d a b => some (effDivn d a b)
  | .rem d a b => some (effRem d a b)
  | .remn d a b => some (effRemn d a b)
  | .clz d a => some (effClz d a)
  | .ctz d a => some (effCtz d a)
  | .popc d a => some (effPopc d a)
  | .bswap d a => some (effBswap d a)
  | .addw d a b => some (effAddw d a b)
  | .subw d a b => some (effSubw d a b)
  | .mulw d a b => some (effMulw d a b)
  | .seq d a b => some (effSeq d a b)
  | .sne d a b => some (effSne d a b)
  | .addi d a i => some (effAddi d a i)
  | .andi d a i => some (effAndi d a i)
  | .ori d a i => some (effOri d a i)
  | .xori d a i => some (effXori d a i)
  | .shli d a n => some (effShli d a n)
  | .shri d a n => some (effShri d a n)
  | .sari d a n => some (effSari d a n)
  | .roli d a n => some (effRoli d a n)
  | .slti d a i => some (effSlti d a i)
  | .sltni d a i => some (effSltni d a i)
  | .fadd d a b p => some (effFadd d a b p)
  | .fsub d a b p => some (effFsub d a b p)
  | .fmul d a b p => some (effFmul d a b p)
  | .fdiv d a b p => some (effFdiv d a b p)
  | .fma d a b p => some (effFma d a b p)
  | .fsqrt d a p => some (effFsqrt d a p)
  | .fmin d a b p => some (effFmin d a b p)
  | .fmax d a b p => some (effFmax d a b p)
  | .fcmp d a b p => some (effFcmp d a b p)
  | .fcvt d a t r p => some (effFcvt d a t r p)
  | .fclass d a p => some (effFclass d a p)
  | .vadd d a b p t => some (effVadd d a b p t)
  | .vsub d a b p t => some (effVsub d a b p t)
  | .vmul d a b p t => some (effVmul d a b p t)
  | .vmin d a b p t => some (effVmin d a b p t)
  | .vmax d a b p t => some (effVmax d a b p t)
  | .vabs d a p t => some (effVabs d a p t)
  | .vneg d a p t => some (effVneg d a p t)
  | .vand d a b p t => some (effVand d a b p t)
  | .vor d a b p t => some (effVor d a b p t)
  | .vxor d a b p t => some (effVxor d a b p t)
  | .vshl d a b p t => some (effVshl d a b p t)
  | .vshr d a b p t => some (effVshr d a b p t)
  | .vsar d a b p t => some (effVsar d a b p t)
  | .vmulh d a b p t => some (effVmulh d a b p t)
  | .vadds d a b p t => some (effVadds d a b p t)
  | .vsubs d a b p t => some (effVsubs d a b p t)
  | .vfma d a b p t => some (effVfma d a b p t)
  | .vfms d a b p t => some (effVfms d a b p t)
  | .vfnma d a b p t => some (effVfnma d a b p t)
  | .vfnms d a b p t => some (effVfnms d a b p t)
  | .vdiv d a b p t => some (effVdiv d a b p t)
  | .vsqrt d a p t => some (effVsqrt d a p t)
  | .vexp2 d a p => some (effVexp2 d a p)
  | .vlog2 d a p => some (effVlog2 d a p)
  | .vrcp d a p => some (effVrcp d a p)
  | .vrsq d a p => some (effVrsq d a p)
  | .vceq d a b p t => some (effVceq d a b p t)
  | .vcne d a b p t => some (effVcne d a b p t)
  | .vclt d a b p t => some (effVclt d a b p t)
  | .vcle d a b p t => some (effVcle d a b p t)
  | .vcgt d a b p t => some (effVcgt d a b p t)
  | .vcge d a b p t => some (effVcge d a b p t)
  | .vcun d a b p t => some (effVcun d a b p t)
  | .vcvt d a s x p t m => some (effVcvt d a s x p t m)
  | .vshuf d a b p t => some (effVshuf d a b p t)
  | .vrot d a n p t => some (effVrot d a n p t)
  | .vbcast d a n p t => some (effVbcast d a n p t)
  | .vxlane d a b p t => some (effVxlane d a b p t)
  | .vcompress d a p t => some (effVcompress d a p t)
  | .vexpand d a p t => some (effVexpand d a p t)
  | .vrsum d a p t => some (effVrsum d a p t)
  | .vrmax d a p t => some (effVrmax d a p t)
  | .vrmin d a p t => some (effVrmin d a p t)
  | .vrsumo d a p t => some (effVrsumo d a p t)
  | .vpand d a b p => some (effVpand d a b p)
  | .vpor d a b p => some (effVpor d a b p)
  | .vpxor d a b p => some (effVpxor d a b p)
  | .vpnot d a p => some (effVpnot d a p)
  | .vpcnt d a p => some (effVpcnt d a p)
  | .vpset d a p => some (effVpset d a p)
  | .vpfirst d a p => some (effVpfirst d a p)
  | _ => none

/-- The majors a frame captures (R54). -/
def capturedMajor (w : Nat) : Bool :=
  let m := w / 2 ^ 26
  decide ((1 ≤ m ∧ m ≤ 7) ∨ m = 0x18 ∨ (0x20 ≤ m ∧ m ≤ 0x26) ∨ m = 0x29)

/-- The words of a frame, fetched and decoded in order (R54, R99): the address of captured word j is PC + 4 × (j + 1). -/
def State.capture (s : State) (pc : Nat) : Nat → Nat → State × Out (List Nat)
  | 0, _ => (s, .ok [])
  | n + 1, j =>
    match s.fetchAt ((pc + 4 * (j + 1)) % 2 ^ 52) with
    | (s, .trap t) => (s, .trap ⟨t.cause, t.tval, j⟩)
    | (s, .wait) => (s, .wait)
    | (s, .ok w) =>
      if !capturedMajor w then (s, .trap ⟨12, w, j⟩)
      else
        match decodeWord w with
        | none => (s, .trap ⟨1, w, j⟩)
        | some _ =>
          match s.capture pc n (j + 1) with
          | (s, .ok rest) => (s, .ok (w :: rest))
          | (s, o) => (s, o)

/-- The frame's words: as captured at its start or resumption, else captured now (R54). -/
def State.frameWords (s : State) (c : Nat) : State × Out (List Nat) :=
  match s.cpu.frame with
  | some ws => (s, .ok ws)
  | none => s.capture s.pc c 0

/-- REPPROG for an element (R56). -/
def repAt (k j : Nat) : Word := BitVec.ofNat 64 (k * 256 + j * 16 + 1)

/-- Where the frame stands (R56): iteration and index of the next element. -/
def State.repPos (s : State) : Nat × Nat :=
  let r := s.repprog.toNat
  if bit r 0 then (bits r 15 8, bits r 7 4) else (0, 0)

/-- A captured word in iteration k, as an instruction (R55). -/
def stepWord (k x y z w : Nat) : Option Instr := (decodeWord w).bind (stepInstr k x y z)

/-- The element of a frame that is due, as an instruction, when its words can be fetched and its position lies in it. -/
def State.repElement (s : State) (c n x y z : Nat) : Option Instr :=
  if n ≤ s.repPos.1 ∨ c ≤ s.repPos.2 then none
  else
    match s.frameWords c with
    | (_, .ok ws) => (ws[s.repPos.2]?).bind (stepWord s.repPos.1 x y z)
    | _ => none

/-- REP (R53 to R56): one element a step, with an element boundary after it (log entry 8). The frame's words are fetched and decoded
at its start and at each resumption; REPPROG holds the next element until the last retires. DESIGN CHOICE (log entry 84): where an
element itself raises cause 0x01, TVAL is the captured word, unstepped. DESIGN CHOICE (log entry 115): a REPPROG outside the frame
traps before the captured words are decoded (R54, R56). -/
def execRep (c n x y z : Nat) (s : State) : Res :=
  let pc := s.pc
  let (k, j) := s.repPos
  if n ≤ k ∨ c ≤ j then .next (s.takeTrap ⟨12, wordOfInstr (.rep c n x y z), 0⟩)
  else
    match s.frameWords c with
    | (s, .trap t) => .next (s.takeTrap t)
    | (s, .wait) => .next s.stall
    | (s, .ok ws) =>
      let s := (s.setRepprog (repAt k j)).modCpu fun u => { u with frame := some ws }
      match ws[j]?, (ws[j]?).bind fun w => (stepWord k x y z w).bind effOf with
      | some w, some f =>
        match f s with
        | .trap t => .next (s.takeTrap ⟨t.cause, if t.cause = 1 then w else t.tval, c * k + j⟩)
        | .wait => .next s.stall
        | .ok t =>
          let go := t.modCpu fun u => { u with stalled := false }
          if j + 1 < c then .next (go.setRepprog (repAt k (j + 1)))
          else if k + 1 < n then .next (go.setRepprog (repAt (k + 1) 0))
          else .next (((go.modCpu fun u => { u with frame := none }).setRepprog 0).setPc ((pc + 4 * (c + 1)) % 2 ^ 52))
      | _, _ => .next (s.takeTrap ⟨12, wordOfInstr (.rep c n x y z), 0⟩)

end Sys2Proof.Machine
end

