-- ==== Sys2Proof/Machine/Engine.lean ====
section
/-! DEFINITION. What the commands of the three engines share: their accesses, the records they read, their start, one
element, and the completion message (R171 to R178, R258, R259, R374). -/

namespace Sys2Proof.Machine

/-- How a check or an element of a command ended: done, the command ended early with a status, INFO and the address of
an access fault, or a wait of the engine. `off` counts elements from ELEM to the failing one. -/
inductive EOut (α : Type)
  | ok (a : α)
  | stop (status info addr off : Nat)
  | wait

/-- Go on from a state and a value. -/
def ebind {α β : Type} (r : State × EOut α) (f : State → α → State × EOut β) : State × EOut β :=
  match r with
  | (s, .ok a) => f s a
  | (s, .stop x y z o) => (s, .stop x y z o)
  | (s, .wait) => (s, .wait)

/-- Malformed: status 0x02 with the offset of the failing field (R174). -/
def malformed {α : Type} (off : Nat) : EOut α := .stop 2 off 0 0

/-- Access fault: status 0x03 with the cause and the slot code (R174). -/
def accessFault {α : Type} (cause slot addr : Nat) : EOut α := .stop 3 (cause + 256 * slot) addr 0

/-- The first check of a list that fails. -/
def firstBad (xs : List (Bool × Nat)) : Option Nat := (xs.find? fun x => x.1).map (·.2)

/-- Go on when no check of a list fails. -/
def needs {α : Type} (s : State) (xs : List (Bool × Nat)) (k : State × EOut α) : State × EOut α :=
  match firstBad xs with
  | some off => (s, malformed off)
  | none => k

/-! ## Whose engine -/

/-- The context whose engines work on a core: the one that runs there (R176), on a tile in service (R394, R403); in a pair the lower
core's (R129). Engines stand still while a rollback is due, as the one does that has failed (R370). -/
def State.engCtx (s : State) (core : Nat) : Option Ctx :=
  if (s.tile (core / 16)).st != .run || (s.core core).rollReq then none
  else s.ctxs.find? fun c => c.core == core && c.run == .running && c.csrs.pairctl != pairHigh

/-- Change a context found by `engCtx`. -/
def State.updRun (s : State) (c : Ctx) (f : Ctx → Ctx) : State :=
  s.mapCtx fun x => if x.core == c.core && x.launch == c.launch && x.run == c.run then f x else x

/-- Change the active command of an engine. -/
def State.updHead (s : State) (c : Ctx) (e : Eng) (f : Cmd → Cmd) : State :=
  s.updRun c fun x =>
    let q := x.eng.get e
    match q.cmds with
    | h :: rest => { x with eng := x.eng.set e { q with cmds := f h :: rest } }
    | [] => x

/-- Change the engines of a context. -/
def State.updEngines (s : State) (c : Ctx) (f : Engines → Engines) : State := s.updRun c fun x => { x with eng := f x.eng }

/-! ## Accesses (R174, R177) -/

/-- Where an engine access leads, checked as a scalar access of the same capability would be (R174), through the tile's shared TLB
(R294). -/
def State.engPlace (s : State) (c : Ctx) (g : GReg) (ea n : Nat) (need : Perm) (slot : Nat) : EOut Loc :=
  match (capCheck g ea n need).bind fun _ => s.locate c.core c.launch (s.tile (c.core / 16)).tlb ea with
  | .trap t => accessFault t.cause slot ea
  | .wait => .wait
  | .ok l => if need = .w ∧ (l.cls = 0 ∨ l.cls = 1) then accessFault 4 slot ea else .ok l

/-- An engine write of the context to bytes of a range is still on its way. -/
def State.engInFlight (s : State) (c : Ctx) (k n : Nat) : Bool :=
  s.net.any fun m => m.core == c.core && m.launch == c.launch && m.engine.isSome && m.waiting &&
    overlap k n m.kind.span.1 m.kind.span.2

/-- What a read found: nothing at an absent target, else the value, the tag of its granule and the poison mark. -/
abbrev Got := Option (Nat × Bool × Bool)

/-- An engine's code as an agent of its tile (R389). -/
def engAgent (core : Nat) : Eng → Nat
  | .me => 16 + core % 16 | .ce => 32 + core % 16 | .ca => 48 + core % 16

/-- A core's own TCM, or its tile's scratchpad. -/
def ownKey (core k : Nat) : Bool :=
  decide (k < 2 ^ 37 ∧ k / 0x20000 = core) || decide (2 ^ 37 ≤ k ∧ k < 2 ^ 38 ∧ (k - 2 ^ 37) / 2 ^ 21 = core / 16)

/-- An access to a peer that is there, but not to a tile of the paired partition, is refused there and counted (R343). -/
def State.countRefused (s : State) (h : Home) : State :=
  match h with
  | .peer w _ => if s.peerPresent w then s.count 5 else s
  | .tile _ | .die _ | .hbm _ | .host _ => s

/-- A read by an engine at a place: it waits for its own write to the bytes, for what counts as performed at its scope, and for a
home that cannot answer; a word that the mesh delivers bad is marked (R341). -/
def State.engFetch (s : State) (c : Ctx) (e : Eng) (loc : Loc) (ea n : Nat) : State × EOut Got :=
  let h := homeOf loc.key
  let agent := engAgent c.core e
  if s.engInFlight c loc.key n || s.shaded c.core loc.key n true then (s, .wait)
  else if s.absentRead c.core c.launch h then
    (((s.countRefused h).noteAccess c.core c.launch loc ea true).noteValue c.core agent loc ea (List.replicate n 0xFF), .ok none)
  else if s.homeBusy c.core c.launch h then (s, .wait)
  else
    let s := ((s.meetRead loc.key n c.core).noteAccess c.core c.launch loc ea true).noteValue c.core agent loc ea (s.mem.read loc.key n)
    let bad := (s.core c.core).meshBad && !ownKey c.core loc.key
    let s := if bad then s.updCore c.core fun k => { k with meshBad := false } else s
    (s, .ok (some (s.mem.nat loc.key n, s.mem.tagged loc.key, s.mem.marked loc.key n || bad)))

/-- An earlier write of the engine to the same destination is on its way (R310). -/
def State.engBehind (s : State) (c : Ctx) (e : Eng) (k : Nat) : Bool :=
  s.net.any fun m => m.core == c.core && m.launch == c.launch && m.engine == some e && m.waiting && m.chan == (homeOf k).code * 3

/-- A write by an engine at a checked place: own memory at once, else a message, as when an earlier write to the same destination is
still on its way (R310). `origin` names the collective command that makes it. -/
def State.engWrite (s : State) (c : Ctx) (e : Eng) (loc : Loc) (ea : Nat) (bs : List Byte) (setTag mark : Bool)
    (check : Option Nat := none) (origin : Option (Nat × Nat × Nat) := none) : State :=
  let s := s.noteAccess c.core c.launch loc ea true
  if ownKey c.core loc.key && !s.engBehind c e loc.key && !s.shaded c.core loc.key bs.length true then
    (s.writeMem loc.key bs setTag mark c.core).carryCheck loc.key check
  else s.post c.core c.launch (.store loc.key bs setTag mark check) false (some e) none origin

/-! ## Records (R172 step 4, R181) -/

/-- Granules of a record, each read by a q128 load through a slot. DESIGN CHOICE (log entry 87): a poisoned word is reported before
an untagged capability granule elsewhere in the record. -/
def State.readRecords (s : State) (c : Ctx) (e : Eng) (g : GReg) (slot : Nat) : Nat → Nat → State × EOut (List GReg)
  | _, 0 => (s, .ok [])
  | ea, n + 1 =>
    match s.engPlace c g ea 16 .r slot with
    | .stop x y z o => (s, .stop x y z o)
    | .wait => (s, .wait)
    | .ok loc =>
      ebind (s.engFetch c e loc ea 16) fun s r =>
        match r with
        | none => (s, accessFault 7 slot ea)
        | some (x, tag, mark) =>
          if mark then (s, accessFault 6 slot ea)
          else
            ebind (s.readRecords c e g slot ((ea + 16) % 2 ^ 52) n) fun s rest =>
              (s, .ok (⟨if tag then .cap else .data, BitVec.ofNat 128 x⟩ :: rest))

/-- One of the values that a read may have found, at one time or another: the free value decides when they differ (R323; log entry
90). -/
def State.oneOf {α : Type} [DecidableEq α] (s : State) (now : α) (before : List α) : State × α :=
  let vs := before.filter fun v => v ≠ now
  match vs with
  | [] => (s, now)
  | _ :: _ =>
    let (n, s) := s.drawFree
    (s, ((now :: vs)[Config.readTime n % (vs.length + 1)]?).getD now)

/-- A command's record through a slot, read at its start or while the command ahead of it ran (R172, R323). -/
def State.engRecords (s : State) (c : Ctx) (e : Eng) (cmd : Cmd) (slot n : Nat) : State × EOut (List GReg) :=
  let g := if slot = 1 then cmd.slot1 else cmd.slot2
  ebind (s.readRecords c e g slot (capAddr g.val) n) fun s rs =>
    let (s, rs) := s.oneOf rs ((cmd.ahead.filter fun p => p.1 == slot).map (·.2))
    (s, .ok rs)

/-- The records that a command names: slot and granules (R181, R187, R195, R198). -/
def recordsOf (e : Eng) (c : Cmd) : List (Nat × Nat) :=
  match e, c.opc with
  | .me, 1 => [(1, 8)] | .me, 2 => [(1, 8), (2, 2)] | .me, 4 => [(1, 2)] | .me, 5 => [(2, 2)]
  | .ce, 4 => [(1, 8)] | .ca, 1 => [(1, bits c.shape 5 0 + 1)]
  | _, _ => []

/-- Bytes lo to lo + n − 1 of copied granules, as a number. -/
def recNat (rs : List GReg) (lo n : Nat) : Nat :=
  (rs.foldr (fun g acc => g.val.toNat + 2 ^ 128 * acc) 0) / 2 ^ (8 * lo) % 2 ^ (8 * n)

/-- A granule of a record. -/
def recCap (rs : List GReg) (i : Nat) : GReg := (rs[i]?).getD GReg.zero

/-! ## Slots (R172 step 2) -/

/-- A slot the command does not use is DATA zero. -/
def slotUnused (g : GReg) (n : Nat) : Bool × Nat := (decide (g ≠ GReg.zero), 16 * n)

/-- A slot the command uses is CAP with the permissions named; the outcome of a failure. -/
def slotCap (g : GReg) (perms : List Perm) (n : Nat) : Option (EOut Cmd) :=
  if g.tag ≠ .cap then some (accessFault 2 n (capAddr g.val))
  else if perms.all fun p => capHas g.val p then none else some (accessFault 4 n (capAddr g.val))

/-- Go on when a slot passes. -/
def withSlot (s : State) (o : Option (EOut Cmd)) (k : State × EOut Cmd) : State × EOut Cmd :=
  match o with
  | some x => (s, x)
  | none => k

/-- SHAPE bits [hi:lo], and the byte of the command in which that field begins (R174). -/
def Cmd.shapeBits (c : Cmd) (hi lo : Nat) : Nat := bits c.shape hi lo
def shapeByte (lo : Nat) : Nat := (16 + lo) / 8

/-- A SHAPE field that must be zero. -/
def Cmd.shapeZero (c : Cmd) (hi lo : Nat) : Bool × Nat := (c.shapeBits hi lo != 0, shapeByte lo)

/-- Parameter bits [hi:lo], and the byte in which that field begins. -/
def Cmd.parBits (c : Cmd) (hi lo : Nat) : Nat := bits c.par.toNat hi lo
def parByte (lo : Nat) : Nat := 48 + lo / 8

/-- A parameter field that must be zero. -/
def Cmd.parZero (c : Cmd) (hi lo : Nat) : Bool × Nat := (c.parBits hi lo != 0, parByte lo)

/-- RM, SAT, ACCA, ACCB and SPEC zero, as the commands of CE and CA need (R189, R197). -/
def Cmd.plain (c : Cmd) (conv : Bool) : List (Bool × Nat) :=
  [(!conv && (c.rmCode != 0 || c.sat), 1), (c.acca != 0 || c.accb != 0, 8), (c.spec, 1)]

/-- The header's RM as a rounding mode (R27). -/
def Cmd.rm (c : Cmd) : RMode :=
  match c.rmCode with
  | 1 => .rtz | 2 => .rdn | 3 => .rup | 4 => .rna | 5 => .sr | _ => .rne

/-- draw(C0 + n), bits of value j of four (R324). -/
def Cmd.draw (c : Cmd) (n j : Nat) : Nat :=
  if c.rm = .sr then (genOut c.k0 (c.c0 + BitVec.ofNat 64 n)).toNat / 2 ^ (16 * (j % 4)) % 2 ^ 16 else 0

/-- Record the first element of a condition (R174). -/
def firstAt (old : Option Nat) (now : Bool) (e : Nat) : Option Nat :=
  match old with
  | some x => some x
  | none => if now then some e else none

/-! ## Leaving the device (R374) -/

/-- The exit a home lies behind: its code and the Gale port, which the launch's pairing names (R344). -/
def State.exitOf (s : State) (launch : Option Nat) (h : Home) : Option (Nat × Nat) :=
  match h with
  | .host p => some (p, 0)
  | .peer w t =>
    match (launch.bind s.launch?).bind fun l => l.pairing w with
    | some p => some (2, ((s.galeLink p t).map fun i => linkBase i - 504).getD 0)
    | none => some (2, 0)
  | .tile _ | .die _ | .hbm _ => none

/-- A line leaves the device: a check that does not match marks its eight words where it is held and is recorded; a line
that already carries a mark leaves marked, without comparison. -/
def State.leave (s : State) (exit : Nat × Nat) (k : Nat) : State × Bool :=
  let line := k / 64 * 64
  if s.mem.marked line 64 then (s, false)
  else
    match s.mem.badCheck.find? fun c => c.1 == line with
    | none => (s, false)
    | some (_, carried) =>
      let ms := (wordsIn line 64).foldl nadd s.mem.marks
      let addr := s.recAddr line
      let r : List Byte := [0x11, BitVec.ofNat 8 exit.1, BitVec.ofNat 8 exit.2, BitVec.ofNat 8 (s.memCode line)] ++ zeros 4 ++
        leBytes 8 addr ++ leBytes 8 s.dtime ++ leBytes 4 carried ++ leBytes 4 (crc32c (s.mem.read line 64)).toNat
      let m : Mem := { s.mem with marks := ms }
      (({ s with
          mem := m
          dev := { s.dev with log := (s.dieOfKey line, BitVec.ofNat 256 (leNat r)) :: s.dev.log } } : State).count 10, true)

/-! ## Start, element, completion -/

/-- An access of the core that precedes the command's PUSH has not been performed (R177). -/
def State.beforePush (s : State) (c : Ctx) (cmd : Cmd) : Bool :=
  s.net.any fun m => m.core == c.core && m.launch == c.launch && m.engine.isNone && m.waiting && decide (m.id < cmd.after)

/-- Start the head command of an engine when it has the given opcode and has not started (R171, R172), behind the accesses that
precede its PUSH (R177): the checks in order; the first failure ends it with no element performed. -/
def State.startCmd (s : State) (core : Nat) (e : Eng) (opc : Nat) (chk : State → Ctx → Cmd → State × EOut Cmd) : Res :=
  match s.engCtx core with
  | none => .next s
  | some c =>
    match (c.eng.get e).cmds with
    | [] => .next s
    | cmd :: _ =>
      if cmd.opc ≠ opc ∨ cmd.started = true ∨ cmd.ended.isSome = true ∨ s.beforePush c cmd = true then .next s
      else
        match chk s c cmd with
        | (s, .ok x) => .next (s.updHead c e fun _ => { x with started := true, elem := 0, ahead := [] })
        | (s, .stop st info addr _) => .next (s.updHead c e fun x => { x with ended := some ⟨st, 0, info, addr⟩ })
        | (s, .wait) => .next s

/-- The element count, checked (R172 step 5). -/
def withTotal (s : State) (c : Cmd) (n off : Nat) : State × EOut Cmd :=
  if n > 2 ^ 28 - 1 then (s, malformed off) else (s, .ok { c with total := n })

/-- The records of a queued command may be read while the command ahead of it runs (R323): what they hold after each of its elements
is kept beside it. Only records that could be read now, by a command behind no access of the core, are. -/
def State.readAhead (s : State) (c : Ctx) (e : Eng) : State :=
  s.updRun c fun x =>
    let q := x.eng.get e
    match q.cmds with
    | h :: n :: rest =>
      if n.started || s.beforePush c n then x
      else
        let rs := (recordsOf e n).filterMap fun r =>
          let g := if r.1 = 1 then n.slot1 else n.slot2
          match s.readRecords c e g r.1 (capAddr g.val) r.2 with
          | (_, .ok gs) => some (r.1, gs)
          | (_, _) => none
        { x with eng := x.eng.set e { q with cmds := h :: { n with ahead := rs } :: rest } }
    | [] | [_] => x

/-- What the walk of an engine's write met, where the write is then a fault for the class of its page (R174, R298). -/
def State.engWalked (s : State) (c : Ctx) (status info ea : Nat) : State :=
  let tlb := (s.tile (c.core / 16)).tlb
  match s.locate c.core c.launch tlb ea with
  | .ok loc => match loc.tlb with
    | some e => if status = 3 ∧ info % 256 = 4 ∧ (loc.cls = 0 ∨ loc.cls = 1) ∧ tlb.elem e = false then s.meetWalk c.launch ea c.core else s
    | none => s
  | .trap _ | .wait => s

/-- One element, or the elements that a stream entry takes, of the active command (R176): the state it leaves and the
command as it stands after, ELEM included. -/
def State.runElement (s : State) (core : Nat) (e : Eng) (f : State → Ctx → Cmd → State × EOut Cmd) : Res :=
  match s.engCtx core with
  | none => .next s
  | some c =>
    match (c.eng.get e).cmds with
    | [] => .next s
    | cmd :: _ =>
      if cmd.started = false ∨ cmd.over = true then .next s
      else
        match f s c cmd with
        | (s, .ok x) => .next ((s.updHead c e fun _ => x).readAhead c e)
        | (s, .stop st info addr off) =>
          .next ((s.engWalked c st info addr).updHead c e fun x => { x with ended := some ⟨st, x.elem + off, info, addr⟩ })
        | (s, .wait) => .next s

/-- Status, FIRST and INFO of a command that is over (R174). -/
def Cmd.outcome (c : Cmd) : Nat × Nat × Nat :=
  match c.ended with
  | some x => (x.status, x.first, x.info)
  | none =>
    match c.absentAt, c.poisonAt, c.unboundAt with
    | some f, _, _ => (5, f, popcount c.gone.toNat 64)
    | none, some f, _ => (4, f, 0)
    | none, none, some f => (7, f, c.parBits 59 52)
    | none, none, none => (0, c.total, 0)

def engCode : Eng → Nat
  | .me => 0 | .ce => 1 | .ca => 2

/-- The completion message (R173). -/
def Cmd.message (c : Cmd) (e : Eng) : GReg :=
  let (st, first, info) := c.outcome
  let peer := if e = .ca then (findBelow (fun i => c.gone.getLsbD i) 64).getD 0 else 0
  ⟨.data, BitVec.ofNat 128 (info % 2 ^ 32 * 2 ^ 96 + first % 2 ^ 28 * 2 ^ 64 + peer * 2 ^ 56 + c.opc * 2 ^ 48 +
    c.flags.toNat * 2 ^ 43 + (if c.spec then 2 ^ 42 else 0) + engCode e * 2 ^ 40 + st * 2 ^ 32 + c.ctag)⟩

/-- COMPLETION_MESSAGE (R171, R173, R175): once the active command is over, its write-backs done and its writes
performed, the message enters the inbox; an access fault with cause 0x08 also traps between instructions (R174). The chunks that an MMR
which ended early has sent go on their way, and one that it has taken for an element it never performed is back in its latch (R186). -/
def execCompletionMessage (core : Nat) (e : Eng) (s : State) : Res :=
  match s.engCtx core with
  | none => .next s
  | some c =>
    match (c.eng.get e).cmds with
    | [] => .next s
    | cmd :: rest =>
      let busy := s.net.any fun m => m.core == c.core && m.launch == c.launch && m.engine == some e && m.waiting && !m.isChunk
      if !cmd.over || !cmd.wb.isEmpty || busy || (!cmd.out.isEmpty && cmd.ended.isNone) then .next s
      else
        let entry : InEntry := { val := cmd.message e, source := core, done := some e, cmd := cmd.num }
        let s := cmd.out.foldl (fun s ch => s.post c.core c.launch (.chunk (bits cmd.ring.toNat 19 0) ch) false (some .me)) s
        .next (s.updRun c fun x =>
          let q := x.eng.get e
          let trap := match cmd.ended with
            | some z => if z.status = 3 ∧ z.info % 256 = 8 then [(8, z.addr, z.first)] else []
            | none => []
          let eng := { x.eng with latch := cmd.taken.toList ++ x.eng.latch }
          { x with
            eng := eng.set e { q with cmds := rest, uncollected := q.uncollected + 1 }
            inbox := x.inbox ++ [entry]
            due := x.due ++ trap })

end Sys2Proof.Machine
end

