-- ==== Sys2Proof/Machine/EngineMatrix.lean ====
section
/-! DEFINITION. The matrix engine: formats, tile records, chunk_step, and the commands MMA, MMR, ACCZ, ACCLD and ACCST
(R179 to R188, R259, R320 to R324, R417). -/

namespace Sys2Proof.Machine

/-! ## Formats (R180) -/

/-- The float format of a code; FP32 stands for the integer codes, which are read apart. -/
def fmtFF : Nat → FF
  | 0 => .fp64 | 1 => .fp32 | 2 => .fp16 | 3 => .bf16 | 4 => .e5m2 | 5 => .e4m3 | 6 => .e3m2 | 7 => .e2m3 | 8 => .e2m1
  | _ => .fp32

/-- Width of an element in memory, in bits (R22). -/
def fmtBits : Nat → Nat
  | 0 => 64 | 1 => 32 | 2 => 16 | 3 => 16 | 8 => 4 | 10 => 32 | _ => 8

/-- Kc. -/
def fmtKc : Nat → Nat
  | 0 => 2 | 1 => 4 | 2 => 16 | 3 => 16 | 8 => 64 | _ => 32

/-- Class: 0 F64, 1 F32, 2 F16, 3 F8, 4 F4, 5 I8. -/
def fmtClass : Nat → Nat
  | 0 => 0 | 1 => 1 | 2 => 2 | 3 => 2 | 8 => 4 | 9 => 5 | _ => 3

/-- Tile rows h. -/
def fmtRows (f : Nat) : Nat := if f = 0 then 16 else 32

/-- The formats that may be SCALED. -/
def fmtScaled (f : Nat) : Bool := decide (4 ≤ f ∧ f ≤ 9)

/-- byteoff of R182. -/
def byteoff (f x : Nat) : Nat := x * fmtBits f / 8

/-! ## Records (R181, R182) -/

/-- A tile record. -/
structure TileRec where
  cap : GReg
  fmt : Nat
  flags : Nat
  stride : Nat
  deriving DecidableEq, Repr

/-- A tile record at a byte offset of copied granules. -/
def tileRec (rs : List GReg) (off : Nat) : TileRec :=
  { cap := recCap rs (off / 16), fmt := recNat rs (off + 16) 1, flags := recNat rs (off + 17) 1, stride := recNat rs (off + 20) 4 }

def TileRec.scaled (r : TileRec) : Bool := bit r.flags 0
def TileRec.cdim (r : TileRec) : Bool := bit r.flags 1

/-- The checks of a tile record with the formats and flags it may hold; `base` is the offset of the record in INFO. -/
def recChecks (rs : List GReg) (off base : Nat) (fmts : Nat → Bool) (flagMask : Nat) : List (Bool × Nat) :=
  let r := tileRec rs off
  [(capAddr r.cap.val % 64 != 0, base), (!fmts r.fmt, base + 16), (Nat.land r.flags (255 - flagMask) != 0, base + 17),
    (recNat rs (off + 18) 2 != 0, base + 18), (r.stride % 64 != 0, base + 20), (recNat rs (off + 24) 8 != 0, base + 24)]

/-- Go on when the capability granules of records are tagged (R172 step 4). -/
def needTags {α : Type} (s : State) (rs : List GReg) (is : List Nat) (k : State × EOut α) : State × EOut α :=
  if is.all fun i => (recCap rs i).tag == .cap then k else (s, accessFault 2 3 0)

/-- The checks of an operand descriptor at a byte offset of the operand block (R180, R181); the
check that no scale record stands beside a record without SCALED reads its FLAGS (R174). -/
def descChecks (rs : List GReg) (off : Nat) : List (Bool × Nat) :=
  let r := tileRec rs off
  recChecks rs off (0x100 + off) (fun f => decide (f ≤ 9)) 3 ++
    (if r.scaled then
      (!fmtScaled r.fmt, 0x110 + off) :: recChecks rs (off + 32) (0x120 + off) (fun f => f == 11) 0
    else [(recNat rs (off + 32) 32 != 0, 0x111 + off)])

/-- The capability granules of an operand descriptor. -/
def descCaps (rs : List GReg) (off : Nat) : List Nat :=
  if (tileRec rs off).scaled then [off / 16, off / 16 + 2] else [off / 16]

/-! ## Operand data (R182, R417) -/

/-- The place of own memory for a record's data: the TCM window, and with `spad` the own scratchpad window. -/
def recPlace (core : Nat) (cap : GReg) (ea n : Nat) (need : Perm) (spad : Bool) : EOut Nat :=
  if !capHas cap.val need then accessFault 4 3 ea
  else if ea < capBase cap.val ∨ capBase cap.val + capLen cap.val < ea + n then accessFault 3 3 ea
  else if ea + n ≤ 0x20000 then .ok (tcmKey core ea)
  else if spad = true ∧ 0x10000000 ≤ ea ∧ ea + n ≤ 0x10200000 then .ok (spadKey (core / 16) (ea - 0x10000000))
  else accessFault 4 3 ea

/-- Stored lines of a K-chunk: line, first contiguous index, count (R182). Rows (or columns) `b` to `b + h − 1`. -/
def chunkLines (r : TileRec) (b h k kc : Nat) : List (Nat × Nat × Nat) :=
  if r.cdim then (List.range kc).map fun i => (k * kc + i, b, h) else (List.range h).map fun i => (b + i, k * kc, kc)

/-- Address of an element, and of the scale word of its block. -/
def TileRec.at (r : TileRec) (line x : Nat) : Nat := (capAddr r.cap.val + line * r.stride + byteoff r.fmt x) % 2 ^ 52
def TileRec.scaleAt (r : TileRec) (line x : Nat) : Nat := (capAddr r.cap.val + line * r.stride + 2 * (x / 32)) % 2 ^ 52

/-- Every access of a chunk: address and length of each line's elements, then of each scale word. -/
def chunkSpans (r : TileRec) (sc : Option TileRec) (b h k kc : Nat) : List (TileRec × Nat × Nat × Bool) :=
  (chunkLines r b h k kc).flatMap fun l =>
    (r, r.at l.1 l.2.1, l.2.2 * fmtBits r.fmt / 8, false) ::
      match sc with
      | some q => (List.range ((l.2.1 + l.2.2 - 1) / 32 + 1 - l.2.1 / 32)).map fun j =>
          (q, q.scaleAt l.1 (l.2.1 + 32 * j), 2, true)
      | none => []

/-- Check and meet every access of a chunk: the state the reads leave, whether a word is marked, or the first fault; what counts as
performed at a scope that holds the engine is waited for (R300, R308). DESIGN CHOICE (log entry 113): a chunk with a poisoned word and
another access that faults reports the fault, wherever the word stands (R417). -/
def State.meetSpans (s : State) (core : Nat) : List (TileRec × Nat × Nat × Bool) → State × EOut Bool
  | [] => (s, .ok false)
  | (r, ea, n, sp) :: rest =>
    match recPlace core r.cap ea n .r sp with
    | .stop x y z o => (s, .stop x y z o)
    | .wait => (s, .wait)
    | .ok k =>
      if s.shaded core k n true then (s, .wait)
      else
      let s := s.meetRead k n core
      ebind (s.meetSpans core rest) fun s m => (s, .ok (m || s.mem.marked k n))

/-- A byte address of own memory as a key; what `recPlace` answers for a checked address. -/
def ownAddr (core ea : Nat) : Nat := if ea < 0x20000 then tcmKey core ea else spadKey (core / 16) (ea - 0x10000000)

/-- The code of an element and the scale word of its block. -/
def elemCode (m : Mem) (core : Nat) (r : TileRec) (sc : Option TileRec) (line x : Nat) : Nat × Option Nat :=
  let k := ownAddr core (r.at line x)
  let code := if r.fmt = 8 then (m.byte k).toNat / 16 ^ (x % 2) % 16 else m.nat k (fmtBits r.fmt / 8)
  (code, sc.map fun q => m.nat (ownAddr core (q.scaleAt line x)) 2)

/-- The codes of a chunk, row by row (or column by column): h × Kc. -/
def chunkCodes (m : Mem) (core : Nat) (r : TileRec) (sc : Option TileRec) (b h k kc : Nat) : List (List (Nat × Option Nat)) :=
  (List.range h).map fun i => (List.range kc).map fun j =>
    if r.cdim then elemCode m core r sc (k * kc + j) (b + i) else elemCode m core r sc (b + i) (k * kc + j)

/-- sval of R320: an element times its own scale, exact (R24). A NaN that raises NV is held as a signaling one; a scale
word with bits [15:12] set is such a NaN (R182). -/
def sval (f : Nat) (x : Nat × Option Nat) : FVal :=
  let v : FVal :=
    if f = 9 then let i := sext x.1 8; .fin (decide (i < 0)) i.natAbs 0
    else (fmtFF f).val (x.1 % 2 ^ (fmtFF f).width)
  match x.2 with
  | none => v
  | some w =>
    if w / 2 ^ 12 ≠ 0 then .nan false false 0
    else
      match v, s12 w with
      | .nan n q p, _ => .nan n q p
      | _, none => .nan false true 0
      | .inf n, some (a, _) => if a = 0 then .nan false false 0 else .inf n
      | .fin n a e, some (b, t) => if b = 0 then .fin n 0 0 else .fin n (a * b) (e + t)

/-! ## chunk_step (R320, R321) -/

/-- The product of two svals: NV for 0 × ∞, and for a NaN that signals. -/
def prodV (x y : FVal) : FVal × Flags :=
  if x.isNan || y.isNan then (.nan false true 0, nvOf [x, y])
  else
    let n := x.isNeg != y.isNeg
    match x, y with
    | .fin _ a e, .fin _ b t => (.fin n (a * b) (e + t), 0)
    | .fin _ a _, _ => if a = 0 then (.nan false true 0, flNV) else (.inf n, 0)
    | _, .fin _ b _ => if b = 0 then (.nan false true 0, flNV) else (.inf n, 0)
    | _, _ => (.inf n, 0)

/-- The exact sum of products: infinities of both signs are invalid, whatever else it holds, then a NaN wins; an exact zero has its
sign by R29 (R321). -/
def sumV (ps : List (FVal × Flags)) : FVal × Flags :=
  let fl := ps.foldl (fun f p => f ||| p.2) 0
  let vs := ps.map (·.1)
  let isInf : Bool → FVal → Bool := fun n v => match v with
    | .inf m => n == m
    | _ => false
  let clash := vs.any (isInf true) && vs.any (isInf false)
  if clash then (.nan false true 0, fl ||| flNV)
  else if vs.any FVal.isNan then (.nan false true 0, fl)
  else
    match vs.find? fun v => isInf true v || isInf false v with
    | some v => (v, fl)
    | none =>
      let e := vs.foldl (fun m v => match v with
        | .fin _ _ t => if t < m then t else m
        | _ => m) (0 : Int)
      let t := vs.foldl (fun a v => match v with
        | .fin n x u => a + atExp n x u e
        | _ => a) (0 : Int)
      if t = 0 then (.fin (vs.all FVal.isNeg) 0 0, fl) else (.fin (decide (t < 0)) t.natAbs e, fl)

/-- round of a value into FP32 with RNE. -/
def roundV (f : FF) (v : FVal) : FR :=
  match v with
  | .nan _ _ _ => ⟨f.qnan, 0⟩
  | .inf n => ⟨f.infCode n, 0⟩
  | .fin n a e => roundF f .rne false 0 n a 1 e

/-- An addition or FMA result under the engines' NaN rule: a NaN accumulator or operand gives the canonical NaN without a
flag of its own (R321). -/
def addV (f : FF) (acc x : Nat) : FR :=
  if (f.val acc).isNan || (f.val x).isNan then ⟨f.qnan, 0⟩ else fadd f .rne 0 (f.val acc) (f.val x)

/-- One FMA of class F64 (R320, R321). -/
def fmaV (c : Nat) (a b : FVal) : FR :=
  let p := prodV a b
  if p.1.isNan then ⟨FF.fp64.qnan, p.2⟩
  else if (FF.fp64.val c).isNan then ⟨FF.fp64.qnan, 0⟩
  else ffma .fp64 .rne 0 false a b (FF.fp64.val c)

/-- One entry of chunk_step: class, accumulator entry, row of A, column of B. -/
def chunkEntry (cls acc : Nat) (xs ys : List FVal) : FR :=
  if cls = 0 then
    (xs.zip ys).foldl (fun r p => let q := fmaV r.code p.1 p.2; ⟨q.code, r.fl ||| q.fl⟩) ⟨acc, 0⟩
  else
    let (v, fl) := sumV ((xs.zip ys).map fun p => prodV p.1 p.2)
    if cls = 5 then
      let r : FR := match v with
        | .nan _ _ _ => ⟨0, flNV⟩
        | .inf n => intRange true 32 n (2 ^ 33) 0
        | .fin n a e => roundI true 32 .rne 0 n a 1 e
      ⟨(acc + r.code) % 2 ^ 32, fl ||| r.fl⟩
    else
      let r := roundV .fp32 v
      let q := addV .fp32 acc r.code
      ⟨q.code, fl ||| r.fl ||| q.fl⟩

/-- chunk_step (R320): a tile as rows of codes, the rows of A and the columns of B. -/
def chunkStep (cls : Nat) (acc : List (List Nat)) (a b : List (List FVal)) : List (List Nat) × Flags :=
  let out := (acc.zip a).map fun r => (r.1.zip b).map fun e => chunkEntry cls e.1 r.2 e.2
  (out.map fun r => r.map FR.code, out.foldl (fun f r => r.foldl (fun g e => g ||| e.fl) f) 0)

/-! ## Accumulators (R180, R188, R259) -/

/-- An accumulator as a tile: 16 × 32 FP64 values, each row in two rows of storage, or 32 × 32 of 32 bits. -/
def Engines.tile (e : Engines) (bank x : Nat) (wide : Bool) : List (List Nat) :=
  if wide then
    (List.range 16).map fun m => (List.range 32).map fun n =>
      bits (e.accRow bank x (2 * m + n / 16)).toNat (64 * (n % 16) + 63) (64 * (n % 16))
  else
    (List.range 32).map fun m => (List.range 32).map fun n =>
      bits (e.accRow bank x m).toNat (32 * n + 31) (32 * n)

/-- Codes packed upward from bit 0. -/
def pack (w : Nat) (xs : List Nat) : Nat := xs.foldr (fun c acc => c % 2 ^ w + 2 ^ w * acc) 0

/-- Replace row r of a tile. -/
def Engines.putRow (e : Engines) (bank x : Nat) (wide : Bool) (r : Nat) (codes : List Nat) : Engines :=
  let e : Engines := { e with wide := if wide then nadd e.wide (8 * bank + x) else ndel e.wide (8 * bank + x) }
  if wide then
    (e.setRow bank x (2 * r) (BitVec.ofNat 1024 (pack 64 (codes.take 16)))).setRow bank x (2 * r + 1)
      (BitVec.ofNat 1024 (pack 64 (codes.drop 16)))
  else e.setRow bank x r (BitVec.ofNat 1024 (pack 32 codes))

/-- Replace a tile, row by row from row r. -/
def Engines.putTile (bank x : Nat) (wide : Bool) : Nat → List (List Nat) → Engines → Engines
  | _, [], e => e
  | r, row :: rest, e => Engines.putTile bank x wide (r + 1) rest (e.putRow bank x wide r row)

/-- A tile of zeros. -/
def zeroTile (h : Nat) : List (List Nat) := List.replicate h (List.replicate 32 0)

/-- The bank a command uses. -/
def Cmd.bank (c : Cmd) : Nat := if c.spec then 1 else 0

/-- ACCN and SPECOK of a context's launch; none without a launch. -/
def State.accn (s : State) (c : Ctx) : Nat × Bool :=
  match c.launch.bind s.launch? with
  | some l => (l.pkt.accn, l.pkt.specok)
  | none => (8, true)

/-- RM, SAT, ACCB, the accumulators named and SPEC (R172 step 1, R179, R259): `top` is the highest accumulator named. -/
def State.meHeader (s : State) (x : Ctx) (c : Cmd) (conv specOk ring : Bool) (top : Nat) : List (Bool × Nat) :=
  let (n, ok) := s.accn x
  [(!conv && (c.rmCode != 0 || c.sat), 1), (if ring then c.accb == c.acca else c.accb != 0, 8),
    (decide (n ≤ top) || (c.spec && !ok), 8), (c.spec && (!specOk || c.key == 0), 1)]

/-- Take the alternate banks a speculative command writes (R188): a bank held by another key ends it with status 0x08; one
held by none becomes held and receives a copy of the current bank. -/
def State.takeHolds (s : State) (x : Ctx) (c : Cmd) (accs : List Nat) (k : State × EOut Cmd) : State × EOut Cmd :=
  if !c.spec then k
  else
    match accs.find? fun a => match vget none x.eng.hold a with
      | some h => h != c.key
      | none => false with
    | some a => (s, .stop 8 ((vget none x.eng.hold a).getD 0).toNat 0 0)
    | none =>
      let take : Engines → Nat → Engines := fun e a =>
        if vget none e.hold a = none then
          { (e.copyBank 0 1 a) with hold := vset e.hold a (some c.key), holdBy := vset e.holdBy a c.num }
        else e
      (k.1.updEngines x fun e => accs.foldl take e, k.2)

/-- Put a command's element done: ELEM, flags. -/
def Cmd.step (c : Cmd) (n : Nat) (fl : Flags) : Cmd := { c with elem := c.elem + n, flags := c.flags ||| fl }

/-! ## MMA (R183) -/

/-- The scale record of a descriptor. -/
def scaleRec (rs : List GReg) (off : Nat) : Option TileRec :=
  if (tileRec rs off).scaled then some (tileRec rs (off + 32)) else none

/-- The checks of an operand block, read through slot 1 (R180, R181). -/
def blockChecks (rs : List GReg) : List (Bool × Nat) :=
  descChecks rs 0 ++ descChecks rs 64 ++ [(fmtClass (tileRec rs 0).fmt != fmtClass (tileRec rs 64).fmt, 0x110)]

def Cmd.kc (c : Cmd) : Nat := c.shapeBits 15 0 + 1
def Cmd.mt (c : Cmd) : Nat := c.shapeBits 18 16 + 1
def Cmd.nt (c : Cmd) : Nat := c.shapeBits 21 19 + 1

/-- The start of MMA. -/
def startMma (s : State) (x : Ctx) (c : Cmd) : State × EOut Cmd :=
  let top := c.acca + c.mt * c.nt - 1
  needs s (s.meHeader x c false true false (Nat.min top 7) ++ [(decide (top > 7), shapeByte 16), c.shapeZero 47 22]) <|
  withSlot s (slotCap c.slot1 [.r, .lc] 1) <|
  needs s [(capAddr c.slot1.val % 64 != 0, 16), slotUnused c.slot2 2, c.parZero 127 0] <|
  ebind (s.engRecords x .me c 1 8) fun s rs =>
    needTags s rs (descCaps rs 0 ++ descCaps rs 64) <|
    needs s (blockChecks rs) <|
    ebind (withTotal s { c with recs := rs } (c.mt * c.nt * c.kc) 2) fun s c =>
      s.takeHolds x c ((List.range (c.mt * c.nt)).map (c.acca + ·)) (s, .ok c)

/-- The chunk of an operand as svals, with what its reads met; a marked word ends the command (R417). -/
def State.readChunk (s : State) (core : Nat) (rs : List GReg) (off b h k : Nat) : State × EOut (List (List (Nat × Option Nat))) :=
  let r := tileRec rs off
  let sc := scaleRec rs off
  let kc := fmtKc r.fmt
  ebind (s.meetSpans core (chunkSpans r sc b h k kc)) fun s bad =>
    if bad then (s, accessFault 6 3 0) else (s, .ok (chunkCodes s.mem core r sc b h k kc))

/-- The operands of element n as the memory stands: A, and B where it is read from memory. `row` and `col` say which chunk. -/
def State.readOperands (s : State) (core : Nat) (c : Cmd) (row : Nat) (col : Option Nat) (k : Nat) :
    State × EOut (List (List (Nat × Option Nat)) × List (List (Nat × Option Nat))) :=
  ebind (s.readChunk core c.recs 0 row (fmtRows (tileRec c.recs 0).fmt) k) fun s a =>
    match col with
    | none => (s, .ok (a, []))
    | some j => ebind (s.readChunk core c.recs 64 j 32 k) fun s b => (s, .ok (a, b))

/-- Which chunks an element of MMA or MMR reads from memory: first row of A, first column of B, K-chunk (R183, R185). -/
def Cmd.spot (c : Cmd) (n : Nat) : Nat × Option Nat × Nat :=
  let k := n % c.kc
  if c.opc = 1 then
    (fmtRows (tileRec c.recs 0).fmt * (n / c.kc / c.nt), some (32 * (n / c.kc % c.nt)), k)
  else (0, if n / c.kc = 0 then some 0 else none, k)

/-- The operands of the present element: read now, or into the operand buffer while an earlier element computed (R323). -/
def State.operands (s : State) (core : Nat) (c : Cmd) :
    State × EOut (List (List (Nat × Option Nat)) × List (List (Nat × Option Nat))) :=
  let (row, col, k) := c.spot c.elem
  let before := (c.buffer.filter fun o => o.elem == c.elem && o.recs == c.recs)
  let pick := fun (s : State) (now : Operands) =>
    let (s, o) := s.oneOf now before
    match o.val with
    | some v => (s, EOut.ok v)
    | none => (s, accessFault 6 3 0)
  match s.readOperands core c row col k with
  | (s, .ok now) => pick s ⟨c.elem, c.recs, some now⟩
  | (s, .stop 3 774 _ _) => pick s ⟨c.elem, c.recs, none⟩
  | (s, .stop st info addr off) => (s, .stop st info addr off)
  | (s, .wait) => (s, .wait)

/-- What the operand buffer reads now for element n of a command; nothing where the reads fault or wait (R323). -/
def State.bufferRead (s : State) (core : Nat) (c : Cmd) (n : Nat) : Option Operands :=
  let (row, col, k) := c.spot n
  match s.readOperands core c row col k with
  | (_, .ok v) => some ⟨n, c.recs, some v⟩
  | (_, .stop 3 774 _ _) => some ⟨n, c.recs, none⟩
  | (_, _) => none

/-- The operand buffer after an element: the next two elements' operands as they stand (R323). -/
def State.fillBuffer (s : State) (core : Nat) (c : Cmd) : Cmd :=
  { c with buffer := (c.buffer.filter fun o => decide (c.elem ≤ o.elem)) ++
      ([c.elem, c.elem + 1].filter fun n => decide (n < c.total)).filterMap (s.bufferRead core c) }

/-- While the last element of an MMA computes, the operands of the next command's first element may be read, when its
records have been (R323); behind an MMR they may not, whose write-backs come first (R171). -/
def State.bufferNext (s : State) (core : Nat) : State :=
  match s.engCtx core with
  | none => s
  | some x =>
    match x.eng.me.cmds with
    | h :: n :: rest =>
      if h.opc = 1 ∧ (n.opc = 1 ∨ n.opc = 2) ∧ h.total ≤ h.elem + 1 ∧ n.started = false ∧
          n.ahead.length = (recordsOf .me n).length then
        match s.bufferRead core { n with recs := n.ahead.flatMap (·.2) } 0 with
        | some o => s.updEngines x fun e => { e with me := { e.me with cmds := h :: { n with buffer := n.buffer ++ [o] } :: rest } }
        | none => s
      else s
    | [] | [_] => s

/-- One element of MMA. -/
def elemMma (s : State) (x : Ctx) (c : Cmd) : State × EOut Cmd :=
  let n := c.elem / c.kc
  let fa := (tileRec c.recs 0).fmt
  let fb := (tileRec c.recs 64).fmt
  ebind (s.operands x.core c) fun s ab =>
    let acc := x.eng.tile c.bank (c.acca + n) (fa == 0)
    let (t, fl) := chunkStep (fmtClass fa) acc (ab.1.map fun r => r.map (sval fa)) (ab.2.map fun r => r.map (sval fb))
    (s.updEngines x (Engines.putTile c.bank (c.acca + n) (fa == 0) 0 t), .ok (s.fillBuffer x.core (c.step 1 fl)))

/-! ## ACCZ, ACCLD, ACCST (R187) -/

def Cmd.accs (c : Cmd) : Nat := c.shapeBits 2 0 + 1

/-- Header checks of the three, with the accumulators they name. -/
def State.accHeader (s : State) (x : Ctx) (c : Cmd) (conv specOk : Bool) : List (Bool × Nat) :=
  let top := c.acca + c.accs - 1
  s.meHeader x c conv specOk false (Nat.min top 7) ++ [(decide (top > 7), shapeByte 0), c.shapeZero 47 3]

/-- The accumulators the three act on. -/
def Cmd.accList (c : Cmd) : List Nat := (List.range c.accs).map (c.acca + ·)

/-- The start of ACCZ. -/
def startAccz (s : State) (x : Ctx) (c : Cmd) : State × EOut Cmd :=
  needs s (s.accHeader x c false true ++ [slotUnused c.slot1 1, slotUnused c.slot2 2, c.parZero 127 0]) <|
  ebind (withTotal s c c.accs 2) fun s c => s.takeHolds x c c.accList (s, .ok c)

/-- TSTEP (R187). -/
def Cmd.tstep (c : Cmd) : Nat := c.parBits 31 0

/-- The parameter checks of ACCLD and ACCST. -/
def Cmd.accPar (c : Cmd) : List (Bool × Nat) := [(c.tstep % 64 != 0, 48), c.parZero 127 32]

/-- The start of ACCLD. -/
def startAccld (s : State) (x : Ctx) (c : Cmd) : State × EOut Cmd :=
  needs s (s.accHeader x c false true) <|
  withSlot s (slotCap c.slot1 [.r, .lc] 1) <|
  needs s (slotUnused c.slot2 2 :: c.accPar) <|
  ebind (s.engRecords x .me c 1 2) fun s rs =>
    needTags s rs [0] <|
    needs s (recChecks rs 0 0x100 (fun f => decide (f ≤ 3) || f == 10) 0) <|
    ebind (withTotal s { c with recs := rs } (c.accs * fmtRows (tileRec rs 0).fmt) 2) fun s c =>
      s.takeHolds x c c.accList (s, .ok c)

/-- The start of ACCST. -/
def startAccst (s : State) (x : Ctx) (c : Cmd) : State × EOut Cmd :=
  needs s (s.accHeader x c true false ++ [slotUnused c.slot1 1]) <|
  withSlot s (slotCap c.slot2 [.r, .lc] 2) <|
  needs s c.accPar <|
  ebind (s.engRecords x .me c 2 2) fun s rs =>
    needTags s rs [0] <|
    needs s (recChecks rs 0 0x200 (fun f => decide (f ≤ 8) || f == 10) 0) <|
    withTotal s { c with recs := rs } (c.accs * fmtRows (tileRec rs 0).fmt) 2

/-- One element of ACCZ: all-zero bits. -/
def elemAccz (s : State) (x : Ctx) (c : Cmd) : State × EOut Cmd :=
  (s.updEngines x (Engines.putTile c.bank (c.acca + c.elem) false 0 (zeroTile 32)), .ok (c.step 1 0))

/-- Address of row r of tile q of an ACCLD or ACCST. -/
def Cmd.rowAt (c : Cmd) (r : TileRec) (q row : Nat) : Nat := (capAddr r.cap.val + q * c.tstep + row * r.stride) % 2 ^ 52

/-- Widen a stored code into the accumulator (R187). -/
def widen (f code : Nat) : FR :=
  match f with
  | 2 => convert (.flt .fp16) (.flt .fp32) .rne false 0 code
  | 3 => convert (.flt .bf16) (.flt .fp32) .rne false 0 code
  | _ => ⟨code, 0⟩

/-- One element of ACCLD. -/
def elemAccld (s : State) (x : Ctx) (c : Cmd) : State × EOut Cmd :=
  let r := tileRec c.recs 0
  let h := fmtRows r.fmt
  let q := c.elem / h
  let row := c.elem % h
  let ea := c.rowAt r q row
  let n := 32 * fmtBits r.fmt / 8
  ebind (s.meetSpans x.core [(r, ea, n, true)]) fun s bad =>
    if bad then (s, accessFault 6 3 0)
    else
      let k := ownAddr x.core ea
      let vs := (List.range 32).map fun j => widen r.fmt (s.mem.nat (k + j * (fmtBits r.fmt / 8)) (fmtBits r.fmt / 8))
      (s.updEngines x fun e => e.putRow c.bank (c.acca + q) (r.fmt == 0) row (vs.map FR.code),
        .ok (c.step 1 (vs.foldl (fun f v => f ||| v.fl) 0)))

/-- Convert an accumulator entry to the output format (R187): FP64 and i32 accumulators go out as they are. -/
def outCode (f : Nat) (c : Cmd) (draw v : Nat) : FR :=
  match f with
  | 10 => ⟨v, 0⟩
  | 0 => convert (.flt .fp64) (.flt .fp64) c.rm c.sat draw v
  | _ => convert (.flt .fp32) (.flt (fmtFF f)) c.rm c.sat draw v

/-- Write one output row: 32 entries converted, the draws of output row `n` of the command (R324). -/
def State.outRow (s : State) (core : Nat) (c : Cmd) (r : TileRec) (ea n : Nat) (vals : List Nat) : State × EOut Flags :=
  let nb := 32 * fmtBits r.fmt / 8
  match recPlace core r.cap ea nb .w true with
  | .stop x y z o => (s, .stop x y z o)
  | .wait => (s, .wait)
  | .ok k =>
    if s.shaded core k nb true then (s, .wait)
    else
    let out := (List.range 32).map fun j => outCode r.fmt c (c.draw (8 * n + j / 4) j) (vals.getD j 0)
    (s.writeMem k (leBytes nb (pack (fmtBits r.fmt) (out.map FR.code))) false false core,
      .ok (out.foldl (fun f v => f ||| v.fl) 0))

/-- One element of ACCST. -/
def elemAccst (s : State) (x : Ctx) (c : Cmd) : State × EOut Cmd :=
  let r := tileRec c.recs 0
  let h := fmtRows r.fmt
  let q := c.elem / h
  let row := c.elem % h
  let vals := ((x.eng.tile 0 (c.acca + q) (r.fmt == 0))[row]?).getD []
  ebind (s.outRow x.core c r (c.rowAt r q row) c.elem vals) fun s fl => (s, .ok (c.step 1 fl))

/-! ## MMR (R184 to R186, R351) -/

/-- Fields of the copied RINGCFG (R184). -/
def Cmd.ringLast (c : Cmd) : Nat := bits c.ring.toNat 47 40
def Cmd.ringPos (c : Cmd) : Nat := bits c.ring.toNat 55 48
def Cmd.ringNext (c : Cmd) : Nat := bits c.ring.toNat 19 0
def Cmd.ringLen (c : Cmd) : Nat := c.ringLast + 1

/-- Output formats that suit a class (R185). -/
def outFits (cls f : Nat) : Bool :=
  if cls = 0 then f == 0 else if cls = 5 then f == 10 else decide (1 ≤ f ∧ f ≤ 8)

/-- The start of MMR: RINGCFG is copied with the records (R172). DESIGN CHOICE (log entry 87): its checks stand with the
parameters. -/
def startMmr (s : State) (x : Ctx) (c : Cmd) : State × EOut Cmd :=
  let c := { c with ring := x.csrs.ringcfg }
  let inside := match x.launch.bind s.launch? with
    | some l => l.hasTile (c.ringNext / 16)
    | none => false
  needs s (s.meHeader x c true false true (Nat.max c.acca c.accb) ++
    [(c.shapeBits 21 16 != 0, shapeByte 16), c.shapeZero 47 22]) <|
  withSlot s (slotCap c.slot1 [.r, .lc] 1) <|
  needs s [(capAddr c.slot1.val % 64 != 0, 16)] <|
  withSlot s (slotCap c.slot2 [.r, .lc] 2) <|
  needs s [c.parZero 127 0, (!c.ring.getLsbD 63, 0x307), (decide (c.ringPos > c.ringLast), 0x305), (!inside, 0x300)] <|
  ebind (s.engRecords x .me c 1 8) fun s rs =>
    needTags s rs (descCaps rs 0 ++ descCaps rs 64) <|
    needs s (blockChecks rs) <|
    ebind (s.engRecords x .me c 2 2) fun s qs =>
      needTags s qs [0] <|
      needs s (recChecks qs 0 0x200 (fun f => decide (f ≤ 8) || f == 10) 0 ++
        [(!outFits (fmtClass (tileRec rs 0).fmt) (tileRec qs 0).fmt, 0x110)]) <|
      withTotal s { c with recs := rs ++ qs } (c.ringLen * c.kc) 2

/-- Chunks on their way to a core's latch. -/
def State.chunksTo (s : State) (core : Nat) : Nat :=
  (s.net.filter fun m => m.waiting && match m.kind with
    | .chunk c _ => c == core
    | _ => false).length

/-- NEXT takes a chunk: a free slot is left for it and it runs a context of the launch, or it is absent and the chunk is
dropped there (R186). -/
def State.latchFree (s : State) (x : Ctx) (core : Nat) : Bool :=
  s.absent x.core x.launch (.tile (core / 16)) ||
    match s.engCtx core with
    | some d => d.launch == x.launch && decide (d.eng.latch.length + s.chunksTo core < 2)
    | none => false

/-- A chunk's codes as columns. -/
def Chunk.columns (ch : Chunk) : List (List (Nat × Option Nat)) :=
  let kc := fmtKc ch.fmt
  (List.range 32).map fun n => (List.range kc).map fun k =>
    (ch.elems.getD (n * kc + k) 0, if ch.scales.isEmpty then none else some (ch.scales.getD (n * kc + k) 0))

/-- A B chunk to send on; its scales take 64 bytes (R323). -/
def mkChunk (launch step idx kc fmt : Nat) (cols : List (List (Nat × Option Nat))) : Chunk :=
  let xs := cols.flatten
  let scales := xs.filterMap (·.2)
  { launch := launch, step := step, idx := idx, kc := kc, cls := fmtClass fmt, fmt := fmt, elems := xs.map (·.1)
    scales := scales, size := xs.length * fmtBits fmt / 8 + (if scales.isEmpty then 0 else 64), poisoned := false }

/-- The chunks that wait to be sent leave while NEXT's latch has room, oldest first (R185, R186). -/
def State.sendChunks (s : State) (x : Ctx) (next : Nat) : List Chunk → State × List Chunk
  | [] => (s, [])
  | ch :: rest =>
    if s.latchFree x next then (s.post x.core x.launch (.chunk next ch) false (some .me)).sendChunks x next rest
    else (s, ch :: rest)

/-- One element of MMR, with its operands in hand and its B chunk's send let go: the chunk leaves for NEXT, the element is performed, and
at a step's last one the write-back starts (R185). -/
def elemMmrWith (s : State) (x : Ctx) (c : Cmd) (fb : Nat) (a b : List (List (Nat × Option Nat))) : State × EOut Cmd :=
  let t := c.elem / c.kc
  let k := c.elem % c.kc
  let fa := (tileRec c.recs 0).fmt
  let h := fmtRows fa
  let acc := if t % 2 = 0 then c.acca else c.accb
  let old := if k = 0 then zeroTile h else x.eng.tile 0 acc (fa == 0)
  let (out, fl) := chunkStep (fmtClass fa) old (a.map fun r => r.map (sval fa)) (b.map fun r => r.map (sval fb))
  let new := if t + 1 < c.ringLen then [mkChunk (x.launch.getD 0) (t + 1) k c.kc fb b] else []
  let (s, left) := s.sendChunks x c.ringNext (c.out ++ new)
  let s := s.updEngines x fun e => Engines.putTile 0 acc (fa == 0) 0 out e
  let c := s.fillBuffer x.core { c.step 1 fl with taken := none, out := left, flush := false }
  (s, .ok (if k + 1 = c.kc then { c with wb := c.wb ++ [(t, [])] } else c))

/-- The send of an element's chunk need not wait: the last step sends none, NEXT's latch has a slot, or fewer than KC − 2 chunks wait for
one. DEDUCED (log entry 86): with KC above 2 the two slots of a latch cannot hold a step's chunks, of which R185's ring has KC under way. -/
def State.maySend (s : State) (x : Ctx) (c : Cmd) : Bool :=
  decide (c.ringLen ≤ c.elem / c.kc + 1) || decide (c.out.length < c.kc - 2) || (c.out.isEmpty && s.latchFree x c.ringNext)

/-- The chunk that an element of MMR works on is taken from the latch, whose slot is free again (R185, R186). -/
def State.takeChunk (s : State) (x : Ctx) (ch : Chunk) : State :=
  (s.updEngines x fun e => { e with latch := e.latch.drop 1 }).updHead x .me fun y => { y with taken := some ch }

/-- One element of MMR (R185, R186): in step 0 its own B block, later the latch's oldest chunk, which must be the one
expected; the write-back of step t − 2 comes first, and after a stop every one that is pending; the chunk is taken, and its send waits for a
slot of NEXT's latch before the element is performed. DESIGN CHOICE (log entry 89): a chunk
that does not match stays in the latch. A chunk with a bad word ends the command as a poisoned operand does (log entry 26). -/
def elemMmr (s : State) (x : Ctx) (c : Cmd) : State × EOut Cmd :=
  let (s, left) := s.sendChunks x c.ringNext c.out
  let s := s.updHead x .me fun y => { y with out := left }
  let c := { c with out := left }
  let t := c.elem / c.kc
  let k := c.elem % c.kc
  let fa := (tileRec c.recs 0).fmt
  let onward := fun (s : State) (c : Cmd) (ch : Chunk) =>
    if !s.maySend x c then (s, .wait)
    else ebind (s.operands x.core c) fun s ab => elemMmrWith s x c ch.fmt ab.1 ch.columns
  if (c.flush && !c.wb.isEmpty) || c.wb.any (fun u => decide (u.1 + 2 ≤ t)) then (s, .wait)
  else if t = 0 then
    if !s.maySend x c then (s, .wait)
    else ebind (s.operands x.core c) fun s ab => elemMmrWith s x c (tileRec c.recs 64).fmt ab.1 ab.2
  else
    match c.taken, x.eng.latch with
    | some ch, _ => onward s c ch
    | none, [] => (s, .wait)
    | none, ch :: _ =>
      if ch.step = t ∧ ch.idx = k ∧ ch.kc = c.kc ∧ ch.cls = fmtClass fa then
        if ch.poisoned then (s, accessFault 6 3 0) else onward (s.takeChunk x ch) { c with taken := some ch } ch
      else (s, .stop 6 ch.step 0 0)

/-- The chunks of an MMR that is past its last element leave as slots become free. -/
def State.flushChunks (s : State) (core : Nat) : State :=
  match s.engCtx core with
  | none => s
  | some x =>
    match x.eng.me.cmds with
    | [] => s
    | c :: _ =>
      if c.out.isEmpty then s
      else
        let (s, left) := s.sendChunks x c.ringNext c.out
        s.updHead x .me fun y => { y with out := left }

/-- One row of the write-back of step t: column block c of C (R185). -/
def State.writeBackRow (s : State) (core : Nat) (x : Ctx) (c : Cmd) (t r : Nat) : State × EOut Flags :=
  let fa := (tileRec c.recs 0).fmt
  let o := tileRec c.recs 128
  let col := (c.ringPos + c.ringLen - t) % c.ringLen
  let acc := if t % 2 = 0 then c.acca else c.accb
  s.outRow core c o ((capAddr o.cap.val + r * o.stride + byteoff o.fmt (32 * col)) % 2 ^ 52) (t * fmtRows fa + r)
    (((x.eng.tile 0 acc (fa == 0))[r]?).getD [])

/-- The rows of a write-back that are left. -/
def Cmd.rowsLeft (c : Cmd) (w : Nat × List Nat) : List Nat :=
  (List.range (fmtRows (tileRec c.recs 0).fmt)).filter fun r => !w.2.elem r

/-- MMR_WRITE_BACK (R185): a row of the oldest pending write-back of the core's active MMR; which of those left, a free value says. -/
def execMmrWriteBack (core : Nat) (s : State) : Res :=
  match s.engCtx core with
  | none => .next s
  | some x =>
    match x.eng.me.cmds with
    | [] => .next s
    | c :: _ =>
      match c.wb with
      | [] => .next s
      | w :: rest =>
        let rows := c.rowsLeft w
        let (n, s) := s.drawFree
        let r := (rows[Config.nextRow n % rows.length]?).getD 0
        match s.writeBackRow core x c w.1 r with
        | (s, .ok fl) => .next (s.updHead x .me fun y => { y with
            flags := y.flags ||| fl, wb := if rows.length ≤ 1 then rest else (w.1, r :: w.2) :: rest })
        | (s, .stop st info addr _) =>
          .next (s.updHead x .me fun y => { y with
            wb := []
            ended := match y.ended with
              | some z => some z
              | none => some ⟨st, w.1 * y.kc + y.kc - 1, info, addr⟩ })
        | (s, .wait) => .next s

/-- LATCH_CHUNK_ARRIVAL (R186): the oldest chunk on its way to a core reaches its latch. -/
def execLatchChunkArrival (core : Nat) (s : State) : Res :=
  match s.net.find? fun m => m.waiting && match m.kind with
    | .chunk c _ => c == core
    | _ => false with
  | some m => .next (s.arrive m.id)
  | none => .next s

/-! ## Starts -/

/-- MMA starts (R172, R183). -/
def execMma (core : Nat) (s : State) : Res := s.startCmd core .me 1 startMma
/-- MMR starts (R172, R185). -/
def execMmr (core : Nat) (s : State) : Res := s.startCmd core .me 2 startMmr
/-- ACCZ starts (R172, R187). -/
def execAccz (core : Nat) (s : State) : Res := s.startCmd core .me 3 startAccz
/-- ACCLD starts (R172, R187). -/
def execAccld (core : Nat) (s : State) : Res := s.startCmd core .me 4 startAccld
/-- ACCST starts (R172, R187). -/
def execAccst (core : Nat) (s : State) : Res := s.startCmd core .me 5 startAccst

end Sys2Proof.Machine
end

