-- ==== Sys2Proof/Machine/EngineCopy.lean ====
section
/-! DEFINITION. The copy engine: CPY, CPY2, DEAL and XPOSE (R178, R189 to R196, R287, R374). -/

namespace Sys2Proof.Machine

/-! ## Moving words (R192) -/

/-- A word, or a granule, on its way: its value, its capability tag, and the poison marks of its two words (the second is
false for a single word). -/
structure Unit8 where
  val : Nat
  tag : Bool
  mark : Bool
  mark2 : Bool
  key : Nat
  deriving DecidableEq, Repr

/-- Read n bytes (up to 16) at an address; an absent source is an access fault with cause 0x07. A line that leaves the
device is compared at its exit first (R374). -/
def State.pull (s : State) (c : Ctx) (g : GReg) (slot n : Nat) (exit : Option (Nat × Nat)) (ea : Nat) : State × EOut Unit8 :=
  match s.engPlace c g ea n .r slot with
  | .stop x y z o => (s, .stop x y z o)
  | .wait => (s, .wait)
  | .ok loc =>
    let s := match exit with
      | some x => (s.leave x loc.key).1
      | none => s
    ebind (s.engFetch c .ce loc ea n) fun s r =>
      match r with
      | none => (s, accessFault 7 slot ea)
      | some (v, t, m) =>
        -- the first word takes the mark of a word that the mesh delivered bad (R341)
        (s, .ok { val := v, tag := t, mark := s.mem.marked loc.key (Nat.min n 8) || (m && !s.mem.marked loc.key n),
                  mark2 := decide (n > 8) && s.mem.marked (loc.key + 8) 8, key := loc.key })

/-- Read a list of places. -/
def State.pullAll (s : State) (c : Ctx) (g : GReg) (slot n : Nat) (exit : Option (Nat × Nat)) : List Nat → State × EOut (List Unit8)
  | [] => (s, .ok [])
  | ea :: rest =>
    ebind (s.pull c g slot n exit ea) fun s u =>
      ebind (s.pullAll c g slot n exit rest) fun s us => (s, .ok (u :: us))

/-- Check a list of places for writing. -/
def State.placeAll (s : State) (c : Ctx) (g : GReg) (slot n : Nat) : List Nat → EOut (List (Loc × Nat))
  | [] => .ok []
  | ea :: rest =>
    match s.engPlace c g ea n .w slot with
    | .stop x y z o => .stop x y z o
    | .wait => .wait
    | .ok l =>
      match s.placeAll c g slot n rest with
      | .ok ls => .ok ((l, ea) :: ls)
      | o => o

/-- Check the places of a beat unit by unit, the source before the destination. DESIGN CHOICE (log entry 50): which fault a beat
reports where both sides fail. -/
def State.checkPairs (s : State) (x : Ctx) (c : Cmd) (n : Nat) : List (Nat × Nat) → EOut Unit
  | [] => .ok ()
  | (a, b) :: rest =>
    match s.engPlace x c.slot1 a n .r 1 with
    | .stop st info ea off => .stop st info ea off
    | .wait => .wait
    | .ok _ =>
      match s.engPlace x c.slot2 b n .w 2 with
      | .stop st info ea off => .stop st info ea off
      | .wait => .wait
      | .ok _ => s.checkPairs x c n rest

/-- Places that follow one another. -/
def contiguous (n : Nat) : List (Loc × Nat) → Bool
  | a :: b :: rest => a.1.key + n == b.1.key && contiguous n (b :: rest)
  | _ => true

/-- The word of a granule that travels marked while the other does not. -/
def Unit8.oddWord (u : Unit8) : Nat := if u.mark then 0 else 1

/-- Write one unit. A granule of which one word is marked goes whole, with its capability tag, and that word reaches its
place marked; without a tag it goes word by word (R192). -/
def State.putUnit (s : State) (c : Ctx) (e : Eng) (n : Nat) (p : Loc × Nat) (u : Unit8) (check : Option Nat := none) : State :=
  if n ≤ 8 ∨ u.mark = u.mark2 then s.engWrite c e p.1 p.2 (leBytes n u.val) u.tag u.mark check
  else if u.tag then
    let t := s.engWrite c e p.1 p.2 (leBytes n u.val) true false check
    if ownKey c.core p.1.key then { t with mem := { t.mem with marks := nadd t.mem.marks (p.1.key + 8 * u.oddWord) } }
    else { t with fabric := { t.fabric with badWords := t.fabric.badWords ++ [(s.nextId, u.oddWord)] } }
  else
    let s := s.engWrite c e p.1 p.2 (leBytes 8 u.val) false u.mark
    s.engWrite c e { p.1 with key := p.1.key + 8 } (p.2 + 8) (leBytes 8 (u.val / 2 ^ 64)) false u.mark2 check

/-- The check that a whole line copied from `k` carries to `d`, when it does not match (R178). -/
def State.lineCheck (s : State) (k d len : Nat) : Option Nat :=
  if k % 64 = 0 ∧ d % 64 = 0 ∧ len = 64 then (s.mem.badCheck.find? fun x => x.1 == k).map (·.2) else none

/-- Write units of n bytes to their places: at once where they follow one another without tag or mark. `src` is the
source line of a beat that copies whole words in order. -/
def State.putAll (s : State) (c : Ctx) (e : Eng) (n : Nat) (ps : List (Loc × Nat)) (us : List Unit8) (src : Option Nat) : State :=
  match ps with
  | [] => s
  | p :: _ =>
    if contiguous n ps && us.all fun u => !u.tag && !u.mark && !u.mark2 then
      let len := n * us.length
      s.engWrite c e p.1 p.2 (us.flatMap fun u => leBytes n u.val) false false (src.bind fun k => s.lineCheck k p.1.key len)
    else
      let check := if contiguous n ps then src.bind fun k => s.lineCheck k p.1.key (n * us.length) else none
      let last := us.length - 1
      ((ps.zip us).foldl (fun r x => (r.1.putUnit c e n x.1 x.2 (if r.2 = last then check else none), r.2 + 1)) (s, 0)).1

/-- The exit a list of places leads out by. -/
def State.exitOfAll (s : State) (launch : Option Nat) (ps : List (Loc × Nat)) : Option (Nat × Nat) :=
  match ps with
  | p :: _ => s.exitOf launch (homeOf p.1.key)
  | [] => none

/-- Units that carry a mark. -/
def anyMark (us : List Unit8) : Bool := us.any fun u => u.mark || u.mark2

/-- Writes of the copy engine are on their way. -/
def State.beatOut (s : State) (x : Ctx) : Bool :=
  s.net.any fun m => m.core == x.core && m.launch == x.launch && m.engine == some .ce && m.waiting

/-- A beat whose writes have left is performed once they have arrived: only then does ELEM pass it (R192, R287). -/
def State.afterBeat (s : State) (x : Ctx) (c : Cmd) : Cmd :=
  if s.beatOut x then { c with sent := true } else { c.step 1 0 with sent := false }

/-- Go on with a beat, unless its writes have left. -/
def withBeat (s : State) (x : Ctx) (c : Cmd) (k : State × EOut Cmd) : State × EOut Cmd :=
  if !c.sent then k
  else if s.beatOut x then (s, .wait)
  else (s, .ok (s.afterBeat x c))

/-- A capability that a beat may not write: the destination lacks SC, or it lacks G and leaves the TCM window (R192). -/
def beatBars (dst : Payload) (u : Unit8) (ea : Nat) : Bool :=
  u.tag && (!capHas dst .sc || (!capHas (BitVec.ofNat 128 u.val) .g && decide (0x20000 ≤ ea)))

/-- One beat of CPY or CPY2: pairs of source and destination addresses, units of n bytes, capability tags kept or cleared
(R192). DEDUCED (log entry 50): a granule read through a source without LC loses its tag, as R87 has it. -/
def State.moveBeat (s : State) (x : Ctx) (c : Cmd) (tags : Bool) (n : Nat) (pairs : List (Nat × Nat)) : State × EOut Cmd :=
  withBeat s x c <|
  ebind (s, s.checkPairs x c n pairs) fun s _ =>
  match s.placeAll x c.slot2 2 n (pairs.map (·.2)) with
  | .stop a b d o => (s, .stop a b d o)
  | .wait => (s, .wait)
  | .ok ps =>
    ebind (s.pullAll x c.slot1 1 n (s.exitOfAll x.launch ps) (pairs.map (·.1))) fun s us =>
      let us := us.map fun u => { u with tag := tags && u.tag && capHas c.slot1.val .lc }
      match (us.zip pairs).find? fun p => beatBars c.slot2.val p.1 p.2.2 with
      | some p => (s, accessFault 4 2 p.2.2)
      | none =>
        let s := s.putAll x .ce n ps us (us.head?.map (·.key))
        (s, .ok (s.afterBeat x { c with poisonAt := firstAt c.poisonAt (anyMark us) c.elem }))

/-! ## CPY (R190, R193) -/

def Cmd.len (c : Cmd) : Nat := c.parBits 31 0
def Cmd.dcore (c : Cmd) : Nat := c.parBits 51 32
def Cmd.dtag (c : Cmd) : Nat := c.parBits 59 52

/-- The checks of DCORE and DTAG: zero without STREAM, a check that reads STREAM, which stands in the byte `at_` (R174); else a core
of the partition, or an access fault (R193). DESIGN CHOICE (log entry 88): INFO names no slot then, and MLDRED without STREAM needs
DCORE and DTAG zero as CPY does. -/
def streamParams (s : State) (x : Ctx) (c : Cmd) (stream : Bool) (at_ : Nat) (k : State × EOut Cmd) : State × EOut Cmd :=
  needs s [(!stream && (c.dcore != 0 || c.dtag != 0), at_), c.parZero 127 60] <|
  if !stream then k
  else if c.dcore / 16 = 0xFFFF ∨ s.enumerated (c.dcore / 16) = false then (s, accessFault 7 0 c.dcore)
  else
    match x.launch.bind s.launch? with
    | some l => if l.hasTile (c.dcore / 16) then k else (s, accessFault 4 0 c.dcore)
    | none => (s, accessFault 4 0 c.dcore)

/-- A field of CPY or CPY2 that must be a multiple of 8, named by its own offset, and with TAGS of 16, a check that reads TAGS, which
stands lower (R174, R190 to R192). -/
def granular (tags : Bool) (v off : Nat) : List (Bool × Nat) := [(v % 8 != 0, off), (tags && v % 16 != 0, shapeByte 0)]

/-- The start of CPY. DESIGN CHOICE (log entry 87): the alignment of a slot's ADDR is checked with that slot. -/
def startCpy (s : State) (x : Ctx) (c : Cmd) : State × EOut Cmd :=
  let tags := bit c.shape 0
  let stream := bit c.shape 1
  needs s (c.plain false ++ [(tags && stream, shapeByte 0), c.shapeZero 47 2]) <|
  withSlot s (slotCap c.slot1 [.r] 1) <|
  needs s (granular tags (capAddr c.slot1.val) 16) <|
  withSlot s (if stream then none else slotCap c.slot2 [.w] 2) <|
  needs s ((if stream then [slotUnused c.slot2 2] else granular tags (capAddr c.slot2.val) 32) ++
    (c.len == 0, 48) :: granular tags c.len 48 ++ [(stream && c.len % 128 != 0, shapeByte 1)]) <|
  streamParams s x c stream (shapeByte 1) <| withTotal s c ((c.len + 63) / 64) 48

/-- Addresses of a transfer of n bytes from byte `off`, in units of u. -/
def unitPairs (src dst off n u : Nat) : List (Nat × Nat) :=
  (List.range ((n + u - 1) / u)).map fun i => ((src + off + i * u) % 2 ^ 52, (dst + off + i * u) % 2 ^ 52)

/-- Room for one more entry under a tag: credit is for entries queued and on their way; an unbound tag takes none (R148). -/
def State.streamRoom (s : State) (x : Ctx) (core : Nat) (tag : BitVec 8) : Bool :=
  match x.launch.bind fun l => s.ctxOf core l with
  | none => true
  | some d =>
    match boundTo d.csrs.vqmap tag with
    | none => true
    | some k =>
      let out := (s.net.filter fun m => m.waiting && m.launch == x.launch && match m.kind with
        | .stream c t _ _ _ _ => c == core && t == tag
        | _ => false).length
      decide ((vget [] d.streams k).length + out < 15)

/-- Send one stream entry (R148, R193). -/
def State.sendEntry (s : State) (x : Ctx) (c : Cmd) (e : Eng) (entry : StreamEntry) : State :=
  s.post x.core x.launch (.stream c.dcore (BitVec.ofNat 8 c.dtag) entry e c.num c.elem) false (some e)

/-- A failure is that of an element further on. -/
def laterBy {α : Type} (n : Nat) (r : State × EOut α) : State × EOut α :=
  match r with
  | (s, .stop a b d o) => (s, .stop a b d (o + n))
  | (s, .ok a) => (s, .ok a)
  | (s, .wait) => (s, .wait)

/-- One element of CPY, or two beats that make one stream entry (R193). -/
def elemCpy (s : State) (x : Ctx) (c : Cmd) : State × EOut Cmd :=
  let src := capAddr c.slot1.val
  let off := 64 * c.elem
  if bit c.shape 1 then
    if !s.streamRoom x c.dcore (BitVec.ofNat 8 c.dtag) then (s, .wait)
    else
      let beat : Nat → List Nat := fun o => (unitPairs src 0 o 64 8).map (·.1)
      ebind (s.pullAll x c.slot1 1 8 none (beat off)) fun s us =>
      -- a failure in the entry's second beat is that element's (R174)
      ebind (laterBy 1 (s.pullAll x c.slot1 1 8 none (beat (off + 64)))) fun s vs =>
        let us := us ++ vs
        let marks := BitVec.ofNat 16 (pack 1 (us.map fun u => if u.mark then 1 else 0))
        let entry : StreamEntry := { data := BitVec.ofNat 1024 (pack 64 (us.map (·.val))), marks := marks }
        let first := if anyMark (us.take 8) then c.elem else c.elem + 1
        (s.sendEntry x c .ce entry, .ok { c.step 2 0 with poisonAt := firstAt c.poisonAt (anyMark us) first })
  else
    let tags := bit c.shape 0
    let n := Nat.min 64 (c.len - off)
    s.moveBeat x c tags (if tags then 16 else 8) (unitPairs src (capAddr c.slot2.val) off n (if tags then 16 else 8))

/-! ## CPY2 (R191) -/

def Cmd.rowb (c : Cmd) : Nat := c.parBits 31 0
def Cmd.nrows (c : Cmd) : Nat := c.parBits 63 32
def Cmd.beats (c : Cmd) : Nat := (c.rowb + 63) / 64

/-- The start of CPY2. -/
def startCpy2 (s : State) (_x : Ctx) (c : Cmd) : State × EOut Cmd :=
  let tags := bit c.shape 0
  needs s (c.plain false ++ [c.shapeZero 47 1]) <|
  withSlot s (slotCap c.slot1 [.r] 1) <|
  needs s (granular tags (capAddr c.slot1.val) 16) <|
  withSlot s (slotCap c.slot2 [.w] 2) <|
  needs s (granular tags (capAddr c.slot2.val) 32 ++ (decide (c.rowb < 8), 48) :: granular tags c.rowb 48 ++
    (c.nrows == 0, 52) :: granular tags (c.parBits 95 64) 56 ++ granular tags (c.parBits 127 96) 60) <|
  withTotal s c (c.nrows * c.beats) 48

/-- One element of CPY2. -/
def elemCpy2 (s : State) (x : Ctx) (c : Cmd) : State × EOut Cmd :=
  let r := c.elem / c.beats
  let b := c.elem % c.beats
  let tags := bit c.shape 0
  let n := Nat.min 64 (c.rowb - 64 * b)
  s.moveBeat x c tags (if tags then 16 else 8)
    (unitPairs (capAddr c.slot1.val + r * c.parBits 95 64) (capAddr c.slot2.val + r * c.parBits 127 96) (64 * b) n
      (if tags then 16 else 8))

/-! ## Slots of the distributor and the reduction switch (R287, R346) -/

/-- Contexts whose active command holds a slot of a kind on a die, until its completion; `die` tells the die of a command. -/
def State.slotsHeld (s : State) (e : Eng) (opc d : Nat) (die : Ctx → Cmd → Nat) : Nat :=
  (s.ctxs.filter fun c => c.run == .running && match (c.eng.get e).cmds with
    | h :: _ => h.slot && h.opc == opc && die c h == d
    | [] => false).length

/-- Take a slot if the command holds none, and hold it through the waits of its elements; wait while all 16 are held. -/
def withSwitch (s : State) (x : Ctx) (c : Cmd) (e : Eng) (die : Ctx → Cmd → Nat) (k : State → Cmd → State × EOut Cmd) : State × EOut Cmd :=
  if c.slot then k s c
  else if s.slotsHeld e c.opc (die x c) die < 16 then k (s.updHead x e fun y => { y with slot := true }) { c with slot := true }
  else (s, .wait)

/-! ## DEAL (R194) -/

/-- The destination tile of a DEAL. -/
def Cmd.dealTile (c : Cmd) : Nat := (capAddr c.slot2.val - remoteBase) / 2 ^ 24 % 2 ^ 16
def Cmd.cyc (c : Cmd) : Nat := c.parBits 67 64 + 1
def Cmd.blk (c : Cmd) : Nat := c.parBits 77 68 + 1
def Cmd.doff (c : Cmd) : Nat := c.parBits 106 96
/-- The core that block j goes to, and the byte offset of beat e within its TCM (R194). -/
def Cmd.dealCore (c : Cmd) (e : Nat) : Nat :=
  let j := e / c.blk
  c.parBits (4 * (j % c.cyc) + 3) (4 * (j % c.cyc))
def Cmd.dealOff (c : Cmd) (e : Nat) : Nat := 64 * (c.doff + c.blk * (e / c.blk / c.cyc) + e % c.blk)

/-- The start of DEAL. -/
def startDeal (s : State) (_x : Ctx) (c : Cmd) : State × EOut Cmd :=
  let dst := capAddr c.slot2.val
  needs s (c.plain false ++ [c.shapeZero 47 28]) <|
  withSlot s (slotCap c.slot1 [.r] 1) <|
  needs s [(capAddr c.slot1.val % 64 != 0, 16)] <|
  withSlot s (slotCap c.slot2 [.w] 2) <|
  needs s [(decide (dst < remoteBase) || decide (remoteBase + 2 ^ 40 ≤ dst) || (dst - remoteBase) % 2 ^ 24 != 0, 32),
    c.parZero 95 78, c.parZero 127 107] <|
  withTotal s c (c.shapeBits 27 0 + 1) 2

/-- One element of DEAL, once its pattern slot is held (R287). DESIGN CHOICE (log entry 88): a beat whose source lies outside the
translated window is an access fault of slot 1 with cause 0x04. -/
def elemDeal (s : State) (x : Ctx) (c : Cmd) : State × EOut Cmd :=
  withSwitch s x c .ce (fun _ d => physDie (s.tile d.dealTile).phys) fun s c =>
    let e := c.elem
    let src := (capAddr c.slot1.val + 64 * e) % 2 ^ 52
    let off := c.dealOff e
    if !inTranslated src then (s, accessFault 4 1 src)
    else if off ≥ 0x20000 then (s, accessFault 3 2 (capAddr c.slot2.val + 0x800000 + c.dealCore e * 0x20000 + off))
    else s.moveBeat x c false 8 (unitPairs src (capAddr c.slot2.val + 0x800000 + c.dealCore e * 0x20000 + off) 0 64 8)

/-! ## XPOSE (R195, R196) -/

/-- The layout record's fields, at byte 32 of the transfer block. -/
def xw (c : Cmd) : Nat := recNat c.recs 32 1
def xscaled (c : Cmd) : Bool := bit (recNat c.recs 33 1) 0
def xnr (c : Cmd) : Nat := recNat c.recs 36 4
def xnc (c : Cmd) : Nat := recNat c.recs 40 4
def xsstr (c : Cmd) : Nat := recNat c.recs 48 4
def xdstr (c : Cmd) : Nat := recNat c.recs 52 4
def xxsstr (c : Cmd) : Nat := recNat c.recs 56 4
def xxdstr (c : Cmd) : Nat := recNat c.recs 60 4
/-- The granule edge G, and the width of an element in bits. -/
def xg (c : Cmd) : Nat := 8 * 2 ^ xw c
def xbits (c : Cmd) : Nat := 64 / 2 ^ xw c
/-- Element beats, and all elements. -/
def xel (c : Cmd) : Nat := xnr c * xnc c / xg c
def xtotal (c : Cmd) : Nat := xel c + (if xscaled c then xnc c / 32 * (xnr c / 32) else 0)

/-- The checks of the transfer block; those of NR and NC against G read WIDTH too, and those of what must be zero without SCALED read
FLAGS, whose offset is the lower (R174). -/
def xposeChecks (c : Cmd) : List (Bool × Nat) :=
  let rs := c.recs
  let g := xg c
  [(capAddr (recCap rs 0).val % 64 != 0, 0x100), (capAddr (recCap rs 1).val % 64 != 0, 0x110), (decide (xw c > 4), 0x120),
    (recNat rs 33 1 / 2 != 0, 0x121), (xscaled c && decide (xw c < 3), 0x120), (recNat rs 34 2 != 0, 0x122),
    (xnr c == 0, 0x124), (xnc c == 0, 0x128), (xnr c % g != 0 || xnc c % g != 0, 0x120), (recNat rs 44 4 != 0, 0x12C),
    (xsstr c % 64 != 0, 0x130), (xdstr c % 64 != 0, 0x134),
    (!xscaled c && (xxsstr c != 0 || xxdstr c != 0 || recCap rs 4 != GReg.zero || recCap rs 5 != GReg.zero), 0x121),
    (xxsstr c % 64 != 0, 0x138), (xxdstr c % 64 != 0, 0x13C), (capAddr (recCap rs 4).val % 64 != 0, 0x140),
    (capAddr (recCap rs 5).val % 64 != 0, 0x150), (recNat rs 96 32 != 0, 0x160)]

/-- The start of XPOSE. -/
def startXpose (s : State) (x : Ctx) (c : Cmd) : State × EOut Cmd :=
  needs s (c.plain false ++ [c.shapeZero 47 0]) <|
  withSlot s (slotCap c.slot1 [.r, .lc] 1) <|
  needs s [(capAddr c.slot1.val % 64 != 0, 16), slotUnused c.slot2 2, c.parZero 127 0] <|
  ebind (s.engRecords x .ce c 1 8) fun s rs =>
    let c := { c with recs := rs }
    needTags s rs (if xscaled c then [0, 1, 4, 5] else [0, 1]) <| needs s (xposeChecks c) <| withTotal s c (xtotal c) 0x120

/-- The 8-byte words of 64 bytes gathered element by element: w bits each; a word takes the mark of any of its elements
(R196). -/
def gatherWords (w : Nat) (us : List (Nat × Bool)) : List Unit8 :=
  let per := 64 / w
  (List.range 8).map fun i =>
    let part := (us.drop (i * per)).take per
    { val := pack w (part.map (·.1)), tag := false, mark := part.any (·.2), mark2 := false, key := 0 }

/-- Gather elements and write the 64 bytes at a destination. DESIGN CHOICE (log entry 50): the destination is checked first. -/
def State.scatterBeat (s : State) (x : Ctx) (c : Cmd) (src dst : GReg) (w : Nat) (from_ : List (Nat × Nat)) (dea : Nat) : State × EOut Cmd :=
  withBeat s x c <|
  match s.placeAll x dst 3 8 ((unitPairs 0 dea 0 64 8).map (·.2)) with
  | .stop a b d o => (s, .stop a b d o)
  | .wait => (s, .wait)
  | .ok ps =>
    ebind (s.pullAll x src 3 (if w < 8 then 1 else w / 8) (s.exitOfAll x.launch ps) (from_.map (·.1))) fun s us =>
      let vals := (us.zip from_).map fun p => (if w < 8 then p.1.val / 2 ^ (4 * p.2.2) % 16 else p.1.val, p.1.mark)
      let ws := gatherWords w vals
      let s := s.putAll x .ce 8 ps ws none
      (s, .ok (s.afterBeat x { c with poisonAt := firstAt c.poisonAt (anyMark ws) c.elem }))

/-- One element of XPOSE (R196): an element beat, then the scale entries. -/
def elemXpose (s : State) (x : Ctx) (c : Cmd) : State × EOut Cmd :=
  let g := xg c
  let w := xbits c
  if c.elem < xel c then
    let k := c.elem / g
    let y := c.elem % g
    let gc := xnc c / g
    let i := k / gc
    let j := k % gc
    let at_ : Nat → Nat × Nat := fun r =>
      ((capAddr (recCap c.recs 0).val + (i * g + r) * xsstr c + (j * g + y) * w / 8) % 2 ^ 52, (j * g + y) % 2)
    let dea := (capAddr (recCap c.recs 1).val + (j * g + y) * xdstr c + i * g * w / 8) % 2 ^ 52
    s.scatterBeat x c (recCap c.recs 0) (recCap c.recs 1) w ((List.range g).map at_) dea
  else
    let n := c.elem - xel c
    let per := xnr c / 32
    let q := n / per
    let b := n % per
    let at_ : Nat → Nat × Nat := fun r =>
      ((capAddr (recCap c.recs 4).val + (32 * b + r) * xxsstr c + 2 * q) % 2 ^ 52, 0)
    let dea := (capAddr (recCap c.recs 5).val + q * xxdstr c + 64 * b) % 2 ^ 52
    s.scatterBeat x c (recCap c.recs 4) (recCap c.recs 5) 16 ((List.range 32).map at_) dea

/-! ## Starts -/

/-- CPY starts (R172, R190). -/
def execCpy (core : Nat) (s : State) : Res := s.startCmd core .ce 1 startCpy
/-- CPY2 starts (R172, R191). -/
def execCpy2 (core : Nat) (s : State) : Res := s.startCmd core .ce 2 startCpy2
/-- DEAL starts (R172, R194). -/
def execDeal (core : Nat) (s : State) : Res := s.startCmd core .ce 3 startDeal
/-- XPOSE starts (R172, R196). -/
def execXpose (core : Nat) (s : State) : Res := s.startCmd core .ce 4 startXpose

end Sys2Proof.Machine
end

