-- ==== Sys2Proof/Machine/EngineGroup.lean ====
section
/-! DEFINITION. The collective agent: address groups, AGSET, MLDRED, MSTORE and AGSTAT (R197 to R202, R328, R329, R343,
R346), and ENGINE_ELEMENT for the three engines (R176). -/

namespace Sys2Proof.Machine

/-! ## Groups (R197) -/

/-- Key of the group area of a context in its TCM; a context without a launch has it below the runtime's part. -/
def State.groupKey (s : State) (x : Ctx) : Nat :=
  tcmKey x.core (match x.launch.bind s.launch? with
    | some l => l.groupBase
    | none => 0x1E000 - 5120)

/-- A group's status: absent mask, N and VALID. -/
def State.groupMask (s : State) (x : Ctx) (g : Nat) : Nat := s.mem.nat (s.groupKey x + 4096 + 64 * g) 8
def State.groupSize (s : State) (x : Ctx) (g : Nat) : Nat := s.mem.nat (s.groupKey x + 4104 + 64 * g) 1
def State.groupValid (s : State) (x : Ctx) (g : Nat) : Bool := s.mem.nat (s.groupKey x + 4105 + 64 * g) 1 == 1

/-- Write bytes of the group area. -/
def State.groupPut (s : State) (x : Ctx) (off n v : Nat) : State :=
  s.writeMem (s.groupKey x + off) (leBytes n v) false false x.core

/-- A group entry. -/
structure Peer where
  tile : Nat
  wafer : Nat
  off : Nat
  len : Nat
  deriving DecidableEq, Repr

/-- Entry p of group g. -/
def State.peer (s : State) (x : Ctx) (g p : Nat) : Peer :=
  let v := s.mem.nat (s.groupKey x + 1024 * g + 16 * p) 16
  { tile := bits v 15 0, wafer := bits v 23 16, off := bits v 63 32, len := bits v 95 64 }

/-- Every entry of a group with its index. -/
def State.peersOf (s : State) (x : Ctx) (g : Nat) : List (Nat × Peer) :=
  (List.range (s.groupSize x g)).map fun p => (p, s.peer x g p)

/-- The remote-window address of a byte of a peer's range. -/
def Peer.ea (p : Peer) (o : Nat) : Nat := remoteBase + p.tile * 2 ^ 24 + p.off + o

/-- Where a byte of a peer's range lies (R281, R343). -/
def State.peerPlace (s : State) (x : Ctx) (p : Peer) (o : Nat) : EOut Loc :=
  if p.wafer ≠ 0 then .ok ⟨peerKey p.wafer p.tile (p.off + o), 4, none⟩
  else
    match s.remote x.launch (p.ea o) with
    | .ok l => .ok l
    | .trap t => accessFault t.cause 0 (p.ea o)
    | .wait => .wait

/-- A peer's bit in the absent mask is set, and the running command knows (R199, R329). -/
def State.noteGone (s : State) (x : Ctx) (g p : Nat) : State :=
  let m := Nat.lor (s.groupMask x g) (2 ^ p)
  (s.groupPut x (4096 + 64 * g) 8 m).updHead x .ca fun c => { c with gone := BitVec.ofNat 64 m }

/-! ## AGSET (R198) -/

/-- The start of AGSET: the table's entries are copied. -/
def startAgset (s : State) (x : Ctx) (c : Cmd) : State × EOut Cmd :=
  let n := c.shapeBits 5 0 + 1
  needs s (c.plain false ++ [c.shapeZero 47 8]) <|
  withSlot s (slotCap c.slot1 [.r, .lc] 1) <|
  needs s [(capAddr c.slot1.val % 64 != 0, 16)] <|
  withSlot s (slotCap c.slot2 [.r, .w] 2) <|
  needs s [c.parZero 127 0] <|
  ebind (s.engRecords x .ca c 1 n) fun s rs => withTotal s { c with recs := rs } n 2

/-- The checks of an entry, in the order of R198, with the offsets of R174. -/
def State.entryChecks (s : State) (x : Ctx) (c : Cmd) (v base : Nat) : List (Bool × Nat) :=
  let tile := bits v 15 0
  let w := bits v 23 16
  let off := bits v 63 32
  let len := bits v 95 64
  let lo := remoteBase + tile * 2 ^ 24 + off
  let known := match x.launch.bind s.launch? with
    | some l => if w = 0 then s.enumerated tile && l.hasTile tile else (l.pairedTiles w).elem tile
    | none => false
  let cap := c.slot2.val
  [(bits v 31 24 != 0, base + 3), (bits v 127 96 != 0, base + 12), (!known, base),
    (w != 0 && (s.bundle w).isEmpty, base + 2), (off % 64 != 0, base + 4), (decide (off + len > 2 ^ 24), base + 4),
    (decide (lo < capBase cap) || decide (capBase cap + capLen cap < lo + len), base)]

/-- One element of AGSET: the group is invalid first, each entry is checked and copied, and the last makes it VALID. -/
def elemAgset (s : State) (x : Ctx) (c : Cmd) : State × EOut Cmd :=
  let g := c.shapeBits 7 6
  let s := if c.elem = 0 then s.groupPut x (4105 + 64 * g) 1 0 else s
  let v := (recCap c.recs c.elem).val.toNat
  needs s (s.entryChecks x c v (0x100 + 16 * c.elem)) <|
    let s := s.groupPut x (1024 * g + 16 * c.elem) 16 v
    let s := if c.elem + 1 = c.total then
        s.groupPut x (4096 + 64 * g) 64 (c.total * 2 ^ 64 + 2 ^ 72)
      else s
    (s, .ok (c.step 1 0))

/-! ## MLDRED (R199) -/

def Cmd.gid (c : Cmd) : Nat := c.shapeBits 29 28
def Cmd.poff (c : Cmd) : Nat := c.parBits 31 0

/-- The format of ITYPE or OTYPE, and its width in bytes (R199, R200). -/
def caFormat (t : Nat) : FF := if t = 0 then .fp32 else if t = 1 then .bf16 else .fp16
def caBytes (t : Nat) : Nat := if t = 0 then 4 else 2

/-- The start of MLDRED. DESIGN CHOICE (log entry 87): the group's VALID is checked after the parameters, those of DCORE among them. -/
def startMldred (s : State) (x : Ctx) (c : Cmd) : State × EOut Cmd :=
  let stream := bit c.shape 34
  let ne := c.shapeBits 27 0 + 1
  needs s (c.plain false ++ [(c.shapeBits 31 30 == 3, shapeByte 30), (c.shapeBits 33 32 == 3, shapeByte 32),
    (stream && ne % 32 != 0, shapeByte 0), c.shapeZero 47 35]) <|
  withSlot s (if stream then none else slotCap c.slot1 [.w] 1) <|
  needs s [if stream then slotUnused c.slot1 1 else (false, 0), slotUnused c.slot2 2,
    (c.poff % caBytes (c.shapeBits 31 30) != 0, shapeByte 30)] <|
  streamParams s x c stream (shapeByte 34) <|
  needs s [(!s.groupValid x c.gid, shapeByte 28)] <| withTotal s c ne 2

/-- What one element of MLDRED has gathered. -/
structure Gather where
  acc : Option Nat
  gone : Bool
  marked : Bool
  fl : Flags
  deriving DecidableEq, Repr

/-- Combine a value into the reduction: SUM rounds with RNE, MAX and MIN are exact (R199). -/
def combine (op : Nat) (g : Gather) (v : FR) : Gather :=
  match g.acc with
  | none => { g with acc := some v.code, fl := g.fl ||| v.fl }
  | some a =>
    let r := if op = 0 then fadd .fp32 .rne 0 (FF.fp32.val a) (FF.fp32.val v.code) else fminmax .fp32 (op == 1) a v.code
    { g with acc := some r.code, fl := g.fl ||| v.fl ||| r.fl }

/-- The reduction switch holds what a peer answered for an element, until every peer has (R346). -/
def State.holdPeer (s : State) (x : Ctx) (e p : Nat) (v : Got) : State :=
  s.updHead x .ca fun c => { c with held := c.held ++ [(e, p, v.map fun u => (u.1, u.2.2))] }

/-- The peers of one element in ascending index. -/
def State.gather (s : State) (x : Ctx) (c : Cmd) (e : Nat) : List (Nat × Peer) → Gather → State × EOut Gather
  | [], g => (s, .ok g)
  | (p, q) :: rest, g =>
    let t := c.shapeBits 31 30
    let w := caBytes t
    let o := c.poff + e * w
    if o + w > q.len then (s, accessFault 3 0 (q.ea o))
    else
      let take : Got → Gather := fun v =>
        match v with
        | none => { g with gone := true }
        | some (v, _, mark) =>
          if mark then { g with marked := true }
          else combine (c.shapeBits 33 32) g (convert (.flt (caFormat t)) (.flt .fp32) .rne false 0 v)
      match c.held.find? fun h => h.1 == e && h.2.1 == p with
      | some h => s.gather x c e rest (take (h.2.2.map fun v => (v.1, false, v.2)))
      | none =>
        if bit (s.groupMask x c.gid) p then s.gather x c e rest { g with gone := true }
        else
          match s.peerPlace x q o with
          | .stop a b d z => (s, .stop a b d z)
          | .wait => (s, .wait)
          | .ok loc =>
            match s.engFetch x .ca loc (q.ea o) w with
            | (s, .stop a b d z) => (s, .stop a b d z)
            -- the values of the peers that have answered are held (R346)
            | (s, .wait) => (s, .wait)
            | (s, .ok v) =>
              let s := if v.isNone then s.noteGone x c.gid p else s
              (s.holdPeer x e p v).gather x c e rest (take v)

/-- The value written for an element (R199). -/
def Gather.result (g : Gather) : Nat := if g.gone then 0x7FC00A5E else g.acc.getD 0x7FC00A5E

/-- The command after an element: conditions noted (R174, R202). -/
def State.afterGather (s : State) (x : Ctx) (c : Cmd) (e : Nat) (g : Gather) : Cmd :=
  { c with
    flags := c.flags ||| g.fl
    gone := BitVec.ofNat 64 (s.groupMask x c.gid)
    absentAt := firstAt c.absentAt g.gone e
    poisonAt := firstAt c.poisonAt g.marked e
    held := c.held.filter fun h => h.1 != e }

/-- The 32 elements of a stream entry, one after another. DESIGN CHOICE (log entry 114): where one of them faults, FLAGS leave out
those of the elements gathered before it, which the entry that was not sent holds (R173). -/
def State.gatherMany (s : State) (x : Ctx) (c : Cmd) : List Nat → State × EOut (Cmd × List Gather)
  | [] => (s, .ok (c, []))
  | e :: rest =>
    match s.gather x c e (s.peersOf x c.gid) ⟨none, false, false, 0⟩ with
    | (s, .stop a b d _) => (s, .stop a b d (e - c.elem))
    | (s, .wait) => (s, .wait)
    | (s, .ok g) => ebind (s.gatherMany x (s.afterGather x c e g) rest) fun s r => (s, .ok (r.1, g :: r.2))

/-- One element of MLDRED, or the 32 of a stream entry. -/
def elemMldred (s : State) (x : Ctx) (c : Cmd) : State × EOut Cmd :=
  withSwitch s x c .ca (fun y _ => physDie (s.tile (y.core / 16)).phys) fun s c =>
    if bit c.shape 34 then
      if !s.streamRoom x c.dcore (BitVec.ofNat 8 c.dtag) then (s, .wait)
      else
        ebind (s.gatherMany x c ((List.range 32).map (c.elem + ·))) fun s r =>
          let marks := (List.range 16).map fun i => if (r.2.drop (2 * i)).take 2 |>.any (·.marked) then 1 else 0
          let entry : StreamEntry :=
            { data := BitVec.ofNat 1024 (pack 32 (r.2.map Gather.result)), marks := BitVec.ofNat 16 (pack 1 marks) }
          (s.sendEntry x c .ca entry, .ok (r.1.step 32 0))
    else
      ebind (s.gatherMany x c [c.elem]) fun s r =>
        let g := (r.2[0]?).getD ⟨none, false, false, 0⟩
        let ea := (capAddr c.slot1.val + 4 * c.elem) % 2 ^ 52
        match s.engPlace x c.slot1 ea 4 .w 1 with
        | .stop a b d z => (s, .stop a b d z)
        | .wait => (s, .wait)
        | .ok loc => (s.engWrite x .ca loc ea (leBytes 4 g.result) false g.marked, .ok (r.1.step 1 0))

/-! ## MSTORE (R200, R328) -/

/-- The start of MSTORE. DESIGN CHOICE (log entry 99): POFF need not be a multiple of the output width. -/
def startMstore (s : State) (x : Ctx) (c : Cmd) : State × EOut Cmd :=
  needs s (c.plain true ++ [(c.shapeBits 31 30 == 3, shapeByte 30), c.shapeZero 47 32]) <|
  withSlot s (slotCap c.slot1 [.r] 1) <|
  needs s [slotUnused c.slot2 2, c.parZero 127 32, (!s.groupValid x c.gid, shapeByte 28)] <|
  withTotal s c (c.shapeBits 27 0 + 1) 2

/-- The places of the peers that an element reaches; those in the absent mask are left out. -/
def State.storePlaces (s : State) (x : Ctx) (c : Cmd) (o : Nat) : List (Nat × Peer) → EOut (List (Nat × Peer × Loc))
  | [] => .ok []
  | (p, q) :: rest =>
    if bit (s.groupMask x c.gid) p then s.storePlaces x c o rest
    else
      match s.peerPlace x q o with
      | .stop a b d z => .stop a b d z
      | .wait => .wait
      | .ok l =>
        match s.storePlaces x c o rest with
        | .ok ls => .ok ((p, q, l) :: ls)
        | r => r

/-- One element of MSTORE: every peer's range is checked before any is written; one conversion serves all (R200, R328). -/
def elemMstore (s : State) (x : Ctx) (c : Cmd) : State × EOut Cmd :=
  let t := c.shapeBits 31 30
  let w := caBytes t
  let o := c.poff + c.elem * w
  let peers := s.peersOf x c.gid
  match peers.find? fun p => decide (o + w > p.2.len) with
  | some p => (s, accessFault 3 0 (p.2.ea o))
  | none =>
    let ea := (capAddr c.slot1.val + 4 * c.elem) % 2 ^ 52
    match s.engPlace x c.slot1 ea 4 .r 1, s.storePlaces x c o peers with
    | .stop a b d z, _ => (s, .stop a b d z)
    | .wait, _ => (s, .wait)
    | .ok _, .stop a b d z => (s, .stop a b d z)
    | .ok _, .wait => (s, .wait)
    | .ok loc, .ok ls =>
      -- a line that goes to a peer wafer is compared at its exit (R374)
      let s := ls.foldl (fun s l => match s.exitOf x.launch (homeOf l.2.2.key) with
        | some ex => (s.leave ex loc.key).1
        | none => s) s
      ebind (s.engFetch x .ca loc ea 4) fun s r =>
        match r with
        | none => (s, accessFault 7 1 ea)
        | some (v, _, mark) =>
          let out := convert (.flt .fp32) (.flt (caFormat t)) c.rm c.sat (c.draw (c.elem / 4) c.elem) v
          let s := s.count 2 (popcount (s.groupMask x c.gid) 64)
          let s := ls.foldl (fun s l =>
            if s.absent x.core x.launch (homeOf l.2.2.key) then ((s.noteGone x c.gid l.1).countRefused (homeOf l.2.2.key)).count 2
            else s.engWrite x .ca l.2.2 (l.2.1.ea o) (leBytes w out.code) false mark none (some (c.num, c.elem, 64 * c.gid + l.1))) s
          let m := s.groupMask x c.gid
          (s, .ok { c.step 1 out.fl with
            gone := BitVec.ofNat 64 m
            absentAt := firstAt c.absentAt (m != 0) c.elem
            poisonAt := firstAt c.poisonAt mark c.elem })

/-! ## AGSTAT (R201) -/

/-- The start of AGSTAT. -/
def startAgstat (s : State) (_x : Ctx) (c : Cmd) : State × EOut Cmd :=
  needs s (c.plain false ++ [c.shapeZero 47 2]) <|
  withSlot s (slotCap c.slot1 [.w] 1) <|
  needs s [(capAddr c.slot1.val % 16 != 0, 16), slotUnused c.slot2 2, c.parZero 127 0] <| withTotal s c 1 2

/-- The element of AGSTAT. -/
def elemAgstat (s : State) (x : Ctx) (c : Cmd) : State × EOut Cmd :=
  let g := c.shapeBits 1 0
  let valid := s.groupValid x g
  let v := s.groupMask x g + (if valid then s.groupSize x g * 2 ^ 64 + 2 ^ 72 else 0)
  let ea := capAddr c.slot1.val
  match s.engPlace x c.slot1 ea 16 .w 1 with
  | .stop a b d z => (s, .stop a b d z)
  | .wait => (s, .wait)
  | .ok loc => (s.engWrite x .ca loc ea (leBytes 16 v) false false, .ok (c.step 1 0))

/-! ## Starts, and elements of every engine -/

/-- AGSET starts (R172, R198). -/
def execAgset (core : Nat) (s : State) : Res := s.startCmd core .ca 1 startAgset
/-- MLDRED starts (R172, R199). -/
def execMldred (core : Nat) (s : State) : Res := s.startCmd core .ca 2 startMldred
/-- MSTORE starts (R172, R200). -/
def execMstore (core : Nat) (s : State) : Res := s.startCmd core .ca 3 startMstore
/-- AGSTAT starts (R172, R201). -/
def execAgstat (core : Nat) (s : State) : Res := s.startCmd core .ca 4 startAgstat

/-- The element of a command, by engine and opcode. -/
def elementOf (e : Eng) (opc : Nat) : State → Ctx → Cmd → State × EOut Cmd :=
  match e, opc with
  | .me, 1 => elemMma | .me, 2 => elemMmr | .me, 3 => elemAccz | .me, 4 => elemAccld | .me, _ => elemAccst
  | .ce, 1 => elemCpy | .ce, 2 => elemCpy2 | .ce, 3 => elemDeal | .ce, _ => elemXpose
  | .ca, 1 => elemAgset | .ca, 2 => elemMldred | .ca, 3 => elemMstore | .ca, _ => elemAgstat

/-- ENGINE_ELEMENT (R176): the engine performs one element of its active command, once its operands are there. -/
def execEngineElement (core : Nat) (e : Eng) (s : State) : Res :=
  match (if e = .me then s.flushChunks core else s).runElement core e fun s x c => elementOf e c.opc s x c with
  | .next t => .next (if e = .me then t.bufferNext core else t)
  | .fault r => .fault r
  | .refused r => .refused r

end Sys2Proof.Machine
end

