-- ==== Sys2Proof/Machine/Sched.lean ====
section
/-! DEFINITION. Admission and capacity (R262, R264), waking, switching and pre-emption (R265, R266, R271, R272), budgets
and deadlines (R267 to R269), and the lull tree (R224, R225). -/

namespace Sys2Proof.Machine

/-! ## Capacity and the admission test (R262, R264) -/

/-- A tile hosts a guest (R264, R397): another tile shares its physical tile. -/
def State.hostsGuest (s : State) (t : Nat) : Bool :=
  s.tiles.any fun p => p.1 != t && p.2.shared && p.2.st != .lost && p.2.phys == (s.tile t).phys

/-- Twice the capacity of one tile's sixteen cores (R264). -/
def State.tileCap2 (s : State) (t : Nat) : Nat :=
  let x := s.tile t
  if x.st = .lost then 0 else if x.cls = 3 ∨ x.shared = true ∨ s.hostsGuest t = true then 16 else 32

/-- Twice C of R264, over a partition's tiles. -/
def State.cap2 (s : State) (tiles : List Nat) : Nat := (tiles.map s.tileCap2).sum

/-- rem of R262: below 0 once more was charged than the packet's budget (R269 OVR 2). -/
def Launch.rem (l : Launch) : Int := (l.pkt.budget * 1024 : Nat) - (l.charged : Int)

/-- The inequality of R262 at a deadline d, exactly: sum ≤ 3.3 × C × (d − now) × FRAC / 65,536. -/
def admits (sum : Int) (d now c2 frac : Nat) : Bool :=
  decide (sum * 10 * 2 * 65536 ≤ 33 * (c2 : Int) * ((d : Int) - (now : Int)) * (frac : Int))

/-- The first deadline, in ascending order, at which the test of R262 fails over entries of deadline and rem. -/
def failsAt (es : List (Nat × Int)) (now c2 frac : Nat) : Option Nat :=
  (sortBy id (es.map (·.1))).find? fun d =>
    !admits ((es.filter fun e => decide (e.1 ≤ d)).map (·.2)).sum d now c2 frac

/-- The admitted set of a partition: launches of its handle that have not ended and are not demoted (R262). -/
def State.admittedSet (s : State) (handle : Nat) : List (Nat × Launch) :=
  s.launches.filter fun p => p.2.pkt.handle == handle && p.2.live && !p.2.demoted

/-- A launch's deadline becomes 2^64 − 1 (R264, R269); where it runs and another is earlier, a pre-emption request goes to
the core (R266). -/
def State.demote (s : State) (n : Nat) : State :=
  let s := s.updLaunch n fun l => { l with demoted := true, deadline := 2 ^ 64 - 1 }
  (s.ctxs.filter fun c => c.launch == some n && c.run == .running).foldl (fun s c =>
    (if c.csrs.pairctl.getLsbD 0 then [c.core, c.core + 1] else [c.core]).foldl (fun s core =>
      match s.pick core with
      | some x => if s.before x c then s.updCore core fun k => { k with preReq := true } else s
      | none => s) s) s

/-- One pass of R264: the earliest failing deadline d*, and the entry to demote. -/
def State.refitOne (s : State) (handle c2 : Nat) : Option Nat :=
  let es := s.admittedSet handle
  match failsAt (es.map fun p => (p.2.deadline, p.2.rem)) s.dtime c2 s.front.admfrac.toNat with
  | none => none
  | some d =>
    ((es.filter fun p => decide (p.2.deadline ≤ d)).foldl (fun best p => match best with
      | none => some p
      | some b => if b.2.deadline ≤ p.2.deadline then some p else some b) none).map (·.1)

/-- The passes of R264 after a lasting change of C; each demotes one entry of at most 256. -/
def State.refit (s : State) (handle c2 : Nat) : Nat → State
  | 0 => s
  | fuel + 1 =>
    match s.refitOne handle c2 with
    | none => s
    | some n =>
      let s := match s.launch? n with
        | some l => s.frontRecord l.pkt.queue 4 1 l.pkt.pid 0 0 0
        | none => s
      (s.demote n).refit handle c2 fuel

/-- A logical tile and those that share its physical tile: a host and its guest change capacity together (R264, R397). -/
def State.cohosted (s : State) (t : Nat) : List Nat :=
  t :: (s.launches.flatMap fun l => l.2.tiles.filter fun u => u != t && (s.tile u).phys == (s.tile t).phys).eraseDups

/-- A lasting change of the capacity of tiles repeats the test of every partition that holds one of them (R264). -/
def State.capacityChanged (s : State) (tiles : List Nat) : State :=
  let hs := ((s.launches.filter fun p => p.2.live && tiles.any p.2.hasTile).map fun p => p.2.pkt.handle).eraseDups
  hs.foldl (fun s h =>
    match s.launches.find? fun p => p.2.live && p.2.pkt.handle == h with
    | some p => s.refit h (s.cap2 p.2.tiles) 256
    | none => s) s

/-! ## Waking (R265) -/

/-- A steal may take something of the launch somewhere in its partition (R210, R215). -/
def State.workLeft (s : State) (launch : Option Nat) : Bool :=
  s.ctxs.any fun c => c.launch == launch && !(s.tile (c.core / 16)).st.refuses && c.task.steal.isSome

/-- The predecessor of the acting context's launch has published or ended (R133). -/
def State.predDone (s : State) : Bool :=
  match (s.curLaunch.bind fun l => l.pkt.pred).bind s.launch? with
  | none => true
  | some p => p.published || !p.live

/-- The LDV or STV that the acting context waits in would go on now (R112, R113). -/
def State.versionReady (s : State) : Bool :=
  match s.fetchAt s.pc with
  | (t, .ok w) =>
    let r : Res := match decodeWord w with
      | some (.ldv d a b) => execLdv d a b t
      | some (.stv v a b) => execStv v a b t
      | _ => .next t
    match r with
    | .next u => u.cpu.core == s.cpu.core && u.cpu.launch == s.cpu.launch && u.cpu.run.onCore && !u.cpu.stalled
    | .fault _ => false
    | .refused _ => false
  | (_, .trap _) => true
  | (_, .wait) => false

/-- The event of the wait in which the acting context is parked has come (R265, R210). -/
def State.wakeDue (s : State) : WaitIn → Bool
  | .pred => s.predDone
  | .done => !s.quietCtx s.cpu || s.workLeft s.cpu.launch
  | .barrier => s.cpu.bar.arr != .arrived
  | .wfi => !s.cpu.inbox.isEmpty || decide (0 < s.cpu.task.count) || s.interruptPending
  | .recv => !s.cpu.inbox.isEmpty
  | .version => s.versionReady
  | .gate _ => s.versionReady

/-- The acting context as it would stand if it ran again. -/
def State.awake (s : State) : State := s.modCpu fun c => { c with run := .running, stalled := false }

/-- CONTEXT_WAKE: a parked context becomes ready at its wait's event, and executes the abandoned instruction again when
it is dispatched (R102, R265). -/
def execContextWake (core launch : Nat) (s : State) : Res :=
  match s.ctxOf core launch with
  | some c =>
    match c.run with
    | .parked w =>
      if (s.focus c).awake.wakeDue w then .next (s.makeReady core launch) else .next s
    | .running => .next s
    | .ready => .next s
    | .halted => .next s
    | .pairSaved => .next s
    | .ended => .next s
  | none => .next s

/-! ## Switching (R271 to R273) -/

/-- A pair's stop needs its final exchange first (R366, R369). -/
def Ctx.exchanged (c : Ctx) : Bool := c.pair.held.isEmpty && c.pair.count == 0

/-- CONTEXT_SWITCH: at a boundary of application level, handler state included, a request is served at once, unless an event that
comes first is pending (R271, R356). -/
def execContextSwitch (core : Nat) (s : State) : Res :=
  match s.ctxs.find? fun c => c.core == core && c.run == .running && c.launch.isSome with
  | some c =>
    if (s.core core).preReq && c.level == .app && c.exchanged && s.firstInLine c && !(s.tile (core / 16)).st.refuses then
      .next (s.asCtx c State.preempt)
    else .next s
  | none => .next s

/-- The request that the acting context serves is no longer pending, on either core of its pair (R271, R369). -/
def State.requestTaken (s : State) : State :=
  let core := s.cpu.core
  let pair := s.cpu.csrs.pairctl.getLsbD 0 && (s.core (core + 1)).preReq
  let s := s.updCore core fun x => { x with preReq := false }
  if pair then s.updCore (core + 1) fun x => { x with preReq := false } else s

/-- PREEMPT_INTERRUPT: at runtime level with IE = 1 a request is taken as interrupt 1; the switch happens at the
runtime's ERET (R272). -/
def execPreemptInterrupt (s : State) : Res :=
  if s.live && s.asks CoreSt.preReq && s.cpu.level == .runtime && tstatIE s.cpu.csrs.tstat && s.firstInLine s.cpu then
    .next (s.requestTaken.takeInterrupt 1)
  else .next s

/-! ## Budgets and deadlines (R268, R269) -/

/-- A trap that strikes every context of a launch at its next boundary or dispatch. -/
def State.trapLaunch (s : State) (n cause : Nat) : State :=
  s.mapCtx fun c => if c.launch == some n then { c with due := c.due ++ [(cause, 0, 0)] } else c

/-- DTIME has passed the launch's deadline and the miss is not taken yet; while a tile that holds a context of the launch is
between detection and resume it stays pending (R401; log entry 91). -/
def State.missDue (s : State) (l : Launch) : Bool :=
  l.live && !l.missed && !l.demoted && decide (l.deadline < s.dtime) &&
    !(l.st == .running && l.tiles.any fun t => (s.tile t).st.refuses)

/-- DEADLINE_MISS: DTIME has passed the launch's deadline (R269, R231). -/
def execDeadlineMiss (launch : Nat) (s : State) : Res :=
  match s.launch? launch with
  | none => .next s
  | some l =>
    if s.missDue l then
      let s := (s.updLaunch launch fun l => { l with missed := true }).frontRecord l.pkt.queue 4 4 l.pkt.pid 0 0
        (if l.recovered then 1 else 0)
      if l.pkt.dlab then .next (s.endLaunch launch 2 0 0)
      else .next ((s.demote launch).trapLaunch launch 15)
    else .next s

/-- What is left of a partition's reserve. -/
def State.reserveLeft (s : State) (handle : Nat) : Nat := (aget Part.reset s.front.parts handle).left

/-- OVR 1: demoted, with no budget limit; EVENT code 0x02 (R269). -/
def State.overDemote (s : State) (n : Nat) (l : Launch) : State :=
  ((s.demote n).updLaunch n fun l => { l with unlimited := true }).frontRecord l.pkt.queue 4 2 l.pkt.pid 0 0 0

/-- A context whose waiting is charged though it is off its core: it is parked in an STV behind a gate (R115). -/
def Ctx.atGate (c : Ctx) : Bool :=
  match c.run with
  | .parked (.gate _) => c.launch.isSome
  | .parked _ | .running | .ready | .halted | .pairSaved | .ended => false

/-- BUDGET_EXHAUSTED: the context on a core has spent its lease while the pool is empty: it traps with cause 0x0E, and the
OVR outcome is applied (R269). In a recovery it is deferred until RESUME (R392). -/
def execBudgetExhausted (core : Nat) (s : State) : Res :=
  if (s.tile (core / 16)).st.refuses then .next s else
  match (s.ctxs.find? fun c => c.core == core && c.launch.isSome && c.lease == 0 && (c.run.onCore || c.atGate)) with
  | none => .next s
  | some c =>
    match c.launch.bind fun n => (s.launch? n).map fun l => (n, l) with
    | none => .next s
    | some (n, l) =>
      if l.pool ≠ 0 ∨ l.unlimited = true ∨ l.live = false ∨ c.due.any (fun d => d.1 == 14) then .next s
      else
        let s := s.updCtx core n fun c => { c with due := c.due ++ [(14, 0, 0)] }
        match l.pkt.ovr with
        | 0 => .next (s.endLaunch n 1 0 0)
        | 2 =>
          let d := Nat.min (l.pkt.budget * 1024) (s.reserveLeft l.pkt.handle)
          if d = 0 then .next (s.overDemote n l)
          else
            let p := aget Part.reset s.front.parts l.pkt.handle
            let parts := aput Part.reset s.front.parts l.pkt.handle { p with left := p.left - d }
            let s : State := { s with front := { s.front with parts := parts } }
            .next ((s.updLaunch n fun l => { l with pool := l.pool + d }).frontRecord l.pkt.queue 4 3 l.pkt.pid 0 d 0)
        | _ => .next (s.overDemote n l)

/-- Every partition's reserve is whole again. -/
def State.refillReserves (s : State) : State :=
  { s with front := { s.front with parts := s.front.parts.map fun p => (p.1, { p.2 with left := p.2.reserve.toNat * 1024 }) } }

/-- RESERVE_REFILL: at every DTIME that is a multiple of 2^20 the reserves refill (R269). -/
def execReserveRefill (s : State) : Res := if s.dtime % 2 ^ 20 = 0 then .next s.refillReserves else .next s

/-- A context draws a lease of min(4,096, pool) when its own is spent (R268). -/
def State.drawLease (s : State) (core n : Nat) : State :=
  match s.launch? n, s.ctxOf core n with
  | some l, some c =>
    if c.lease = 0 ∧ l.unlimited = false ∧ l.pool ≠ 0 then
      let d := Nat.min 4096 l.pool
      (s.updLaunch n fun l => { l with pool := l.pool - d }).updCtx core n fun c =>
        { c with lease := d, poolSeen := l.pool - d }
    else s
  | _, _ => s

/-- The throttling of a tile's clock, at its physical tile: 0 full, 1 a cycle in 4 skipped, 2 a cycle in 2 (R410). -/
def State.throttled (s : State) (t : Nat) : Nat := aget 0 s.fabric.throttle (s.tile t).phys

/-- The present cycle is one that a tile skips (R410). -/
def State.skips (s : State) (t : Nat) : Bool :=
  match s.throttled t with
  | 0 => false
  | 1 => s.cycle % 4 == 3
  | _ => s.cycle % 2 == 1

/-- One cycle charged to a launch's context. -/
def State.chargeTo (s : State) (core n : Nat) : State :=
  let s := s.drawLease core n
  (s.updLaunch n fun l => { l with charged := l.charged + 1 }).updCtx core n fun c => { c with lease := c.lease - 1 }

/-- The context that pays for the cycles of a core on which one runs: that context, or the acting one for a pair's checking core,
which runs a copy of it (R129, R267). -/
def State.payer (s : State) (c : Ctx) : Option (Nat × Nat) :=
  match c.launch with
  | some n => some (c.core, n)
  | none => if c.csrs.pairctl.getLsbD 1 then (s.actingFor c.core).bind fun a => a.launch.map fun n => (a.core, n) else none

/-- A gate has stood for longer than 3 × 2^21 cycles: only a recovery still holds it (R115). -/
def State.lateGate (s : State) (g : BitVec 12 × Nat × List Nat) : Bool := decide (g.2.1 + 3 * 2 ^ 21 * 10 < s.clk)

/-- The page and the version whose slot the STV at the PC of the acting context waits for (R113). -/
def State.stvAwaits (s : State) : Option (Nat × BitVec 12) :=
  match s.fetchAt s.pc with
  | (t, .ok w) =>
    match decodeWord w with
    | some (.stv _ a b) =>
      match t.verPlace a 8 .w, t.value b with
      | .ok (loc, page, _), .ok x =>
        let l := t.verLine (loc.key / 64 * 64)
        if l.stv (x.truncate 12) (t.verPage page).fe = .blocked then
          some (page, if newer l.s0.ver l.s1.ver then l.s1.ver else l.s0.ver)
        else none
      | _, _ => none
    | _ => none
  | (_, _) => none

/-- A context waits in an STV, and the first gate that would let it go on has stood beyond the bound (R115). -/
def State.pastBound (s : State) (c : Ctx) : Bool :=
  (s.verPages.any fun p => p.2.gates.any s.lateGate) &&
    match (s.focus c).awake.stvAwaits with
    | some (page, old) => (((s.verPage page).gates.find? fun g => newer g.1 old).map s.lateGate).getD false
    | none => false

/-- A cycle that a recovery costs a launch by a wait beyond the bound: its recovery account takes it, and a later miss has the recovery
as its cause (R115). -/
def State.chargeHeld (s : State) (n : Nat) : State := s.updLaunch n fun l => { l with recovery := l.recovery + 1, recovered := true }

/-- A context whose wait behind a gate no other one on its core comes before: of several that are parked there, the one that R266 orders
first is charged, since a cycle of a core is charged to one launch at most (R267; DESIGN CHOICE, log entry 111: the rule does not say to
which). -/
def State.firstAtGate (s : State) (c : Ctx) : Bool :=
  !(s.ctxs.any fun x => x.atGate && s.sameCore x.core c.core && !(x.core == c.core && x.launch == c.launch) && s.before x c)

/-- A cycle that a context parked behind a gate waits: beyond the bound to the recovery account; else to its budget, where no other
context has the core or is charged for it (R115, R267). -/
def State.chargeGate (s : State) (c : Ctx) : State :=
  match c.run, c.launch with
  | .parked (.gate _), some n =>
    if (s.tile (c.core / 16)).st != .run || s.skips (c.core / 16) then s
    else if s.pastBound c then s.chargeHeld n
    else if s.busyCore c.core || !s.firstAtGate c then s
    else s.chargeTo c.core n
  | _, _ => s

/-- One cycle of a core charged to the launch whose context is on it (R267); a skipped cycle charges nothing (R410), and an STV that
waits beyond its bound charges the recovery account (R115). -/
def State.chargeCore (s : State) (c : Ctx) : State :=
  match s.payer c with
  | none => s
  | some (core, n) =>
    if (s.tile (c.core / 16)).st ≠ .run ∨ s.skips (c.core / 16) = true then s
    else if c.stalled && s.pastBound c then s.chargeHeld n else s.chargeTo core n

/-- The contexts that a tile in recovery had when it was fenced; before the fence, those it has (R401). -/
def State.fencedCtxs (s : State) (t : Nat) : List Ctx :=
  match (s.tile t).fenced with
  | some g => g.ctxs
  | none => s.ctxs.filter fun c => c.core / 16 == t && !c.isEmpty

/-- One cycle of a tile between its detection and its resume, charged for each core to the recovery account of the launch that ran
on it, or of every launch with a context on the tile; a pair runs on both of its cores (R267, R401). A skipped cycle is none (R410). -/
def State.chargeRecovery (s : State) (t : Nat) : State :=
  if s.skips t then s else
  let cs := s.fencedCtxs t
  let here := (cs.filterMap Ctx.launch).eraseDups
  (List.range 16).foldl (fun s i =>
    let ran := (cs.filter fun c => c.run.onCore &&
      (c.core == t * 16 + i || (c.core + 1 == t * 16 + i && c.csrs.pairctl.getLsbD 0 && !c.csrs.pairctl.getLsbD 1))).filterMap Ctx.launch
    (if ran.isEmpty then here else ran).foldl (fun s n => s.updLaunch n fun l =>
      if l.live || l.endRec.isSome then { l with recovery := l.recovery + 1 } else l) s) s

/-- One cycle charged everywhere (R115, R267, R401). -/
def State.chargeCycle (s : State) : State :=
  let s := (s.ctxs.filter fun c => c.run.onCore).foldl State.chargeCore s
  let s := (s.ctxs.filter Ctx.atGate).foldl State.chargeGate s
  ((s.tiles.filter fun p => p.2.st != .run && p.2.st != .lost).map (·.1)).foldl State.chargeRecovery s

/-! ## The lull tree (R210, R224, R225) -/

/-- No entry of the waiting-task table is armed or firing. -/
def TaskSt.quiet (t : TaskSt) : Bool := t.trig.toList.all fun x => x == .free

/-- A context reports idle to the lull tree: R210, with what R225 adds. -/
def State.idle (s : State) (c : Ctx) : Bool := s.atRest c && c.task.quiet

/-- After a step: a context that is busy is no longer idle without a break. -/
def State.noteIdle (s : State) : State := s.mapCtx fun c => { c with idleSince := c.idleSince && s.idle c }

/-- LULL_WAVE (R225): the reports of one wave; the launch completes when all were idle without a break, SENT and RCVD
agree, and both sums are those of the wave before. -/
def execLullWave (launch : Nat) (s : State) : Res :=
  match s.launch? launch with
  | none => .next s
  | some l =>
    if l.st ≠ .running then .next s
    else
      let cs := s.ctxs.filter fun c => c.launch == some launch
      let here := l.tiles.all (s.tileWhole launch)
      let all := here && cs.all (fun c => c.idleSince && s.idle c) && l.shares.isEmpty
      let sum := ((cs.map Ctx.sent).sum, (cs.map Ctx.rcvd).sum)
      if all && sum.1 == sum.2 && l.wave == some sum then .next (s.endLaunch launch 0 0 0)
      else
        let s := s.updLaunch launch fun l => { l with wave := some sum }
        .next (s.mapCtx fun c => if c.launch == some launch then { c with idleSince := s.idle c } else c)

end Sys2Proof.Machine
end

