-- ==== Sys2Proof/Machine/Recovery.lean ====
section
/-! DEFINITION. Checkpoints, the watchdog, and the Lehr sequence (R363, R371, R372, R376 to R403, R418). A replay re-instates what
the tile held at its fence, which is what R392 and R399 have it rebuild (log entry 10). -/

namespace Sys2Proof.Machine

/-! ## Places: positions, spares, stores (R288, R378, R396, R408) -/

/-- The four spares of a die (R396). -/
def spareTiles (die : Nat) : List Nat := (List.range 4).map fun r => die / 8 * 512 + die % 8 * 64 + r * 16 + 4

/-- A tile of the firmware column (R408). -/
def State.firmwareTile (s : State) (p : Nat) : Bool := p % 16 == 4 && p / 64 % 8 == s.dev.cfg.fcol

/-- A physical tile recorded as lost, or out of service until the next boot (R372, R410). -/
def State.physLost (s : State) (p : Nat) : Bool :=
  s.fabric.lost.elem p || s.fabric.retired.elem p || s.dev.cfg.lostTiles.elem p

/-- A physical tile is reserved for a recovery or a migration under way, as its own (R394). -/
def State.reserved (s : State) (p : Nat) : Bool :=
  s.tiles.any fun t => match t.2.chosen with
    | some c => c.1 == p && !c.2.2
    | none => false

/-- A spare may be chosen (R396). -/
def State.spareFree (s : State) (p : Nat) : Bool := (s.boundAt p).isNone && !s.physLost p && !s.firmwareTile p && !s.reserved p

/-- Seam crossings between two physical tiles, on the boot route (R335). -/
def State.crossed (s : State) (p q : Nat) : Nat := s.crossings (physDie p) (physDie q)

/-- Distance of two numbers. -/
def absDiff (a b : Nat) : Nat := (a - b) + (b - a)

/-- The endpoints of a seam link, west or north first (R332). -/
def seamEnds (id : Nat) : Nat × Nat :=
  if id < 224 then
    let d := id / 4
    let w := d / 7 * 512 + d % 7 * 64 + id % 4 * 16 + 4
    (w, w + 60)
  else
    let d := (id - 224) / 5
    let n := d / 8 * 512 + d % 8 * 64 + 48 + (id - 224) % 5
    (n, n + 464)

/-- Mesh links of the straight route from one tile of a die to another, columns first (R335): north or west endpoint first. -/
def meshPath (a b : Nat) : List (Nat × Nat) :=
  let die := a / 64 * 64
  let at_ := fun r c : Nat => die + r * 16 + c
  let r1 := a / 16 % 4; let c1 := a % 16; let r2 := b / 16 % 4; let c2 := b % 16
  ((List.range 4).filter fun c => decide ((c1 ≤ c ∧ c < c2) ∨ (c2 ≤ c ∧ c < c1))).map (fun c => (at_ r1 c, at_ r1 (c + 1))) ++
    ((List.range 3).filter fun r => decide ((r1 ≤ r ∧ r < r2) ∨ (r2 ≤ r ∧ r < r1))).map fun r => (at_ r c2, at_ (r + 1) c2)

/-- None of them is missing. -/
def State.meshOpen (s : State) (a b : Nat) : Bool := (meshPath a b).all fun l => !s.meshMissing l.1 l.2

/-- Tiles of a die next to a tile over links that are not missing. -/
def State.meshBeside (s : State) (p : Nat) : List Nat :=
  (if p / 16 % 4 = 0 ∨ s.meshMissing (p - 16) p = true then [] else [p - 16]) ++
    (if p % 16 = 0 ∨ s.meshMissing (p - 1) p = true then [] else [p - 1]) ++
    (if 4 ≤ p % 16 ∨ s.meshMissing p (p + 1) = true then [] else [p + 1]) ++
    (if p / 16 % 4 = 3 ∨ s.meshMissing p (p + 16) = true then [] else [p + 16])

/-- Hops of the shortest detour inside a die (R335); more than any has where there is none. -/
def State.meshDetour (s : State) (target : Nat) : Nat → List Nat → List Nat → Nat → Nat
  | 0, _, _, _ => 64
  | fuel + 1, here, seen, n =>
    if here.elem target then n
    else
      let next := (here.flatMap s.meshBeside).eraseDups.filter fun p => !seen.elem p
      s.meshDetour target fuel next (seen ++ next) (n + 1)

/-- Hops of the route between two tiles of one die (R335). -/
def State.dieHops (s : State) (a b : Nat) : Nat := if s.meshOpen a b then (meshPath a b).length else s.meshDetour b 20 [a] [a] 0

/-- Hops inside a die between a tile and an end of a seam link: a hop into or out of column 4 that only enters or leaves a horizontal
seam belongs to the crossing (R335). -/
def State.seamHops (s : State) (p x : Nat) (horizontal : Bool) : Nat :=
  s.dieHops p x - (if horizontal && x % 16 == 4 && p % 16 != 4 then 1 else 0)

/-- Mesh hops of the route between two physical tiles, whose seam crossings are counted apart (R335, R336). -/
def State.hops (s : State) (p q : Nat) : Nat :=
  let ds := (s.dieRoute (physDie p) (physDie q)).getD []
  let far := ((physDie p :: ds).zip ds).foldl (fun (acc : Nat × Nat × Bool) d =>
    match s.seamLink p q (seamOfDies d.1 d.2) with
    | none => acc
    | some id =>
      let (x, y) := if d.1 < d.2 then seamEnds id else (seamEnds id).swap
      -- what lies between two crossings of one die is counted at its way out
      (acc.1 + (if acc.2.2 && acc.2.1 % 16 == 4 then s.seamHops x acc.2.1 true else s.seamHops acc.2.1 x (decide (id < 224))),
        y, decide (id < 224))) (0, p, false)
  far.1 + (if far.2.2 then s.seamHops q far.2.1 true else s.dieHops far.2.1 q)

/-- Dies adjacent to a die. -/
def adjacentDies (d : Nat) : List Nat := (List.range 64).filter fun e => absDiff (d / 8) (e / 8) + absDiff (d % 8) (e % 8) == 1

/-- Smallest of a list by a key, ties to the earlier. -/
def leastBy (key : Nat → Nat) : List Nat → Option Nat
  | [] => none
  | x :: xs => some (xs.foldl (fun b y => if key y < key b then y else b) x)

/-- Every logical neighbour of a tile lies within 13 hops and 2 seam crossings of a spare (R291, R396). -/
def State.reaches (s : State) (t p : Nat) : Bool :=
  [((-1 : Int), (0 : Int)), (1, 0), (0, -1), (0, 1)].all fun d =>
    let n := s.neighbour t d.1 d.2
    n == 0xFFFF || decide (s.hops p (s.tile n).phys ≤ 13 ∧ s.crossed p (s.tile n).phys ≤ 2)

/-- The spare that R396 chooses for a tile: PHYS and class. -/
def State.spareFor (s : State) (t : Nat) : Option (Nat × Nat × Bool) :=
  let p := (s.tile t).phys
  match leastBy (fun q => s.hops p q * 4096 + q) ((spareTiles (physDie p)).filter s.spareFree) with
  | some q => some (q, 1, false)
  | none =>
    let far := ((adjacentDies (physDie p)).flatMap spareTiles).filter fun q => s.spareFree q && s.reaches t q
    (leastBy (fun q => (s.crossed p q * 64 + s.hops p q) * 4096 + q) far).map fun q => (q, 2, false)

/-- A die hosts a guest, or has a guest area set up for one that is being recovered (R394, R397). -/
def State.dieHasGuest (s : State) (d : Nat) : Bool :=
  s.tiles.any fun p => (p.2.shared && p.2.st != .lost && physDie p.2.phys == d) ||
    (match p.2.chosen with
      | some c => c.2.2 && physDie c.1 == d
      | none => false)

/-- Service tiles of a die that could host a guest: in service, not fenced, and no guest on the die (R397). -/
def State.hosts (s : State) (t d : Nat) : List Nat :=
  if s.dieHasGuest d then []
  else ((List.range 20).map fun i => d / 8 * 512 + d % 8 * 64 + i / 5 * 16 + i % 5).filter fun p =>
    match s.boundAt p with
    | some u => u != t && (s.tile u).st == .run
    | none => false

/-- The host that R397 chooses. -/
def State.hostFor (s : State) (t : Nat) : Option (Nat × Nat × Bool) :=
  let d := physDie (s.tile t).phys
  match leastBy id (s.hosts t d) with
  | some q => some (q, 3, true)
  | none => (leastBy id ((adjacentDies d).flatMap (s.hosts t))).map fun q => (q, 3, true)

/-- Some tile keeps its checkpoint in a physical tile's store (R378). -/
def State.storeUsed (s : State) (q : Nat) : Bool :=
  s.tiles.any (fun t => ((t.2.buddy == q && !t.2.seeks) || t.2.oldStore == some q) && t.2.st != .lost) ||
    (match s.ownId (buddyPhys q) with
      | some i => (afind s.tiles i).isNone
      | none => false)

/-- The physical tile is fenced. -/
def State.physFenced (s : State) (q : Nat) : Bool := s.tiles.any fun t => t.2.phys == q && t.2.st.refuses && t.2.st != .migrate

/-- The free store that firmware chooses for a tile at p (R379). -/
def State.buddyFor (s : State) (p : Nat) : Option Nat :=
  let all := (List.range 64).flatMap fun d => (List.range 20).map fun i => d / 8 * 512 + d % 8 * 64 + i / 5 * 16 + i % 5
  leastBy (fun q => s.crossed p q * 4096 + q)
    (all.filter fun q => physDie q != physDie p && !s.storeUsed q && !s.physLost q && !s.physFenced q)

/-- The store that keeps the tile's restore point: the previous one until the full checkpoint into a new one commits (R384). -/
def TileSt.store (x : TileSt) : Nat := x.oldStore.getD x.buddy

/-- A tile whose buddy's store is gone takes a new buddy: it is unprotected until its full checkpoint commits (R379). Where the store
that is gone was itself to take a first full checkpoint, the restore point lies in the previous one (R384). DESIGN CHOICE (log entry 109):
where no store is free, of which the rule says nothing, the tile has none: it looks again at each end of its interval. -/
def State.newBuddy (s : State) (t : Nat) : State :=
  let keeps := (s.tile t).oldStore.isSome
  let q := s.buddyFor (s.tile t).phys
  s.updTile t fun x => { x with
    buddy := q.getD x.buddy, full := true, endDue := x.endDue || q.isSome, committing := none, seeks := q.isNone
    safe := x.safe && keeps, committed := if keeps then x.committed else none }

/-- A tile without a buddy looks for a free store (log entry 109). -/
def State.seekBuddy (s : State) (t : Nat) : State :=
  match s.buddyFor (s.tile t).phys with
  | some q => s.updTile t fun x => { x with buddy := q, full := true, seeks := false }
  | none => s

/-- The previous store, which was still the restore point, is gone: the tile is unprotected until its full checkpoint commits. -/
def State.dropOld (s : State) (t : Nat) : State :=
  s.updTile t fun x => { x with oldStore := none, safe := false, committed := none, committing := none, endDue := true }

/-- Tiles out of recovery whose checkpoint goes to the store of a physical tile. -/
def State.keptAt (s : State) (q : Nat) : List Nat :=
  (s.tiles.filter fun t => t.2.buddy == q && (t.2.st == .run || t.2.st == .resume)).map (·.1) ++
    (match s.ownId (buddyPhys q) with
      | some i => if (afind s.tiles i).isNone then [i] else []
      | none => [])

/-! ## A tile's state as a generation holds it (R382) -/

/-- A key of the tile's TCMs or scratchpad. -/
def inTile (t k : Nat) : Bool :=
  decide ((t * 2 ^ 21 ≤ k ∧ k < (t + 1) * 2 ^ 21) ∨ (2 ^ 37 + t * 2 ^ 21 ≤ k ∧ k < 2 ^ 37 + (t + 1) * 2 ^ 21))

/-- A channel that the tile sends on or receives on. -/
def Channel.touches (c : Channel) (t : Nat) : Bool := c.src == t || c.chan / 3 == t

/-- The snapshot of a tile (R382); what the stop released is not in it (R287, R346). -/
def State.snapTile (s : State) (t : Nat) : Snap :=
  { ctxs := (s.ctxs.filter fun c => c.core / 16 == t && !c.isEmpty).map Ctx.releaseSlots
    bytes := s.mem.bytes.filter fun c => inTile t c.1
    tags := s.mem.tags.filter (inTile t)
    marks := s.mem.marks.filter (inTile t)
    checks := s.mem.badCheck.filter fun c => inTile t c.1
    channels := s.fabric.channels.filter fun c => c.touches t
    watchdog := (s.tile t).watchdog
    dets := (s.tile t).dets
    cores := s.cores.filter fun k => k.1 / 16 == t }

/-- Memory with a tile's part replaced by a generation's; tags, marks and check values return unchanged (R380). -/
def Mem.restoreTile (m : Mem) (t : Nat) (g : Snap) : Mem :=
  { bytes := g.bytes.foldl (fun l c => aput 0 l c.1 c.2) (m.bytes.filter fun c => !inTile t c.1)
    tags := g.tags.foldl nadd (m.tags.filter fun k => !inTile t k)
    marks := g.marks.foldl nadd (m.marks.filter fun k => !inTile t k)
    bad := m.bad.filter fun k => !inTile t k
    soft := m.soft.filter fun k => !inTile t k
    badCheck := g.checks.foldl (fun l c => ains l c.1 c.2) (m.badCheck.filter fun c => !inTile t c.1) }

/-- A context of a generation belongs to a launch that has not ended since. -/
def State.stillLive (s : State) (c : Ctx) : Bool :=
  match c.launch with
  | some n => match s.launch? n with
    | some l => l.live
    | none => false
  | none => true

/-- A channel of a generation. -/
def Snap.channel (g : Snap) (src chan : Nat) : Channel :=
  (g.channels.find? fun c => c.src == src && c.chan == chan).getD { src := src, chan := chan, next := 0, accepted := 0, results := [] }

/-- A channel when a generation of a tile is put in force: the tile's own side of it goes back, what the other side counts stays
(R385, R386, R399). -/
def Channel.back (t : Nat) (g : Snap) (c : Channel) : Channel :=
  let o := g.channel c.src c.chan
  { c with
    next := if c.src = t then o.next else c.next
    accepted := if c.chan / 3 = t then o.accepted else c.accepted
    results := if c.chan / 3 = t then o.results else c.results }

/-- The registers of a core that are no context's return with a generation; its lock is lost (R110, R382). -/
def State.restoreCore (s : State) (g : Snap) (name : Nat) : State :=
  let o := aget CoreSt.reset g.cores name
  if (s.core name).rt = o.rt ∧ (s.core name).fvec = o.fvec then s
  else s.updCore name fun k => { k with rt := o.rt, fvec := o.fvec }

/-- Put a generation in force: contexts, cores, memory, channel counters and the watchdog count (R382, R394). -/
def State.putTile (s : State) (t : Nat) (g : Snap) : State :=
  let me := s.cpu.core
  let here : Ctx → Bool := fun c => c.core / 16 == t
  let others := (s.others.filter fun c => !here c) ++ g.ctxs.filter s.stillLive
  let cpu := if here s.cpu then emptyCore me else s.cpu
  let s : State := { s with
    cpu := cpu
    others := others
    mem := s.mem.restoreTile t g
    fabric := { s.fabric with channels := s.fabric.channels.map (Channel.back t g) } }
  let s := ((List.range 16).map fun i => t * 16 + i).foldl (fun s name => s.restoreCore g name) s
  (s.updTile t fun x => { x with watchdog := g.watchdog }).turnTo me

/-- The generation of a tile that has never committed: as boot left it. -/
def Snap.boot : Snap := { ctxs := [], bytes := [], tags := [], marks := [], checks := [], channels := [], watchdog := 0, dets := [], cores := [] }

/-! ## Gates of RECLAIM (R115) -/

/-- Change what every gate awaits of a tile; a gate that awaits nothing opens, and Fe follows. -/
def State.mapGates (s : State) (f : List Nat → List Nat) : State :=
  { s with verPages := s.verPages.map fun p =>
      let gates := p.2.gates.map fun g => (g.1, g.2.1, f g.2.2)
      let fe := gates.foldl (fun fe g => if g.2.2.isEmpty && newer g.1 fe then g.1 else fe) p.2.fe
      (p.1, { p.2 with fe := fe, gates := gates.filter fun g => !g.2.2.isEmpty }) }

/-- The tile's interval ended: what awaited an end awaits the next, or its commit. -/
def gateEnd (t : Nat) (ws : List Nat) : List Nat :=
  ws.map fun w => if w = 4 * t + 3 then 4 * t + 2 else if w = 4 * t + 2 then 4 * t + 1 else w

/-- The tile's interval committed. -/
def gateCommit (t : Nat) (ws : List Nat) : List Nat := ws.filter fun w => w != 4 * t + 1

/-- A recovery in the partition holds a gate until the recovered tile's fresh checkpoint commits (R115, R401). -/
def State.gateHold (s : State) (t : Nat) (ws : List Nat) : List Nat :=
  let related := ws.any fun w => s.launches.any fun l => l.2.live && l.2.hasTile (w / 4) && l.2.hasTile t
  if related then (ws.filter fun w => w / 4 != t) ++ [4 * t + 1] else ws

/-! ## Intervals (R381 to R384) -/

/-- Lines that the running contexts' accumulators need (R381). -/
def State.accReserve (s : State) (t : Nat) : Nat :=
  ((s.ctxs.filter fun c => c.core / 16 == t && c.run == .running).map fun c =>
    match c.launch.bind s.launch? with
    | some l => 64 * l.pkt.accn * (1 + (c.eng.hold.toList.filter Option.isSome).length)
    | none => 0).sum

/-- Bytes of a determinant area, and lines of staging (R380). -/
def detArea : Nat := 112 * 1024
def stagingLines : Nat := 24576

/-- The interval's end is due (R381). A full checkpoint goes to the image without staging (R384). -/
def State.intervalDue (s : State) (t : Nat) : Bool :=
  let x := s.tile t
  x.endDue || decide (x.since + 2 ^ 21 * 10 ≤ s.clk) || (!x.full && decide (stagingLines ≤ x.dirty.length + s.accReserve t)) ||
    decide (detArea ≤ x.detBytes)

/-- A RAW mark of the interval now belongs to the generation being committed: tile id plus 2^16 (R393). -/
def shiftRaw (t : Nat) (rs : List (Nat × Nat)) : List (Nat × Nat) := rs.map fun r => if r.1 = t then (t + 2 ^ 16, r.2) else r

/-- A response that is pending over the snapshot of its tile is a determinant when it arrives (R103, R392). -/
def State.notePending (s : State) (t : Nat) : State :=
  let ids := (s.ctxs.filter fun c => c.core / 16 == t).flatMap fun c => c.regs.pend.map (·.2)
  if ids.isEmpty then s
  else { s with net := s.net.map fun m => if ids.elem m.id && m.noted.isNone then { m with noted := some (m.core % 16) } else m }

/-- The words of a tile with an error that no access has met, in lines written in the interval, or anywhere for a full checkpoint. -/
def State.unmet (s : State) (t : Nat) : List Nat :=
  let x := s.tile t
  (s.mem.bad ++ s.mem.soft).filter fun w => inTile t w && (x.full || x.dirty.elem (w / 64 * 64))

/-- A line that is streamed to the buddy is read: its errors are met (R298, R383). -/
def State.meetStream (s : State) (t : Nat) : State := (s.unmet t).foldl (fun s w => s.meetRead w 8 noName) s

/-- The snapshot at an interval's end; a stop releases the slots its commands hold and ends the open episode (R287, R346, R382,
R389). -/
def State.endInterval (s : State) (t : Nat) : State :=
  let s := ((s.meetStream t).closeEpisode t).notePending t
  let s := if (s.tile t).seeks then s.seekBuddy t else s
  let g := s.snapTile t
  let s := s.updTile t fun x =>
    { x with committing := if x.seeks then none else some g, dirty := [], dets := [], since := s.clk, endDue := false, dueSince := none }
  let s : State := { s with launches := s.launches.map fun l => (l.1, { l.2 with raw := shiftRaw t l.2.raw }) }
  (s.mapCtx fun c => if c.core / 16 == t then c.releaseSlots else c).mapGates (gateEnd t)

/-- L of a channel in a generation's tile record (R385, R387). -/
def Snap.last (g : Snap) (src t vc : Nat) : BitVec 32 :=
  match g.channels.find? fun c => c.src == src && c.chan == t * 3 + vc with
  | some c => c.accepted
  | none => 0

/-- A drift-log copy is covered by a commit of its receiver: L ≥ s in serial order (R387). -/
def DriftEntry.covered (e : DriftEntry) (t : Nat) (g : Snap) : Bool :=
  e.dst == t && decide ((g.last e.src t e.vc - e.seq).toNat < 2 ^ 31)

/-- The commit at the buddy: the generation becomes the restore point, senders free drift-log entries, gates follow. -/
def State.commitTile (s : State) (t : Nat) (g : Snap) : State :=
  let s := s.updTile t fun x => { x with committed := some g, committing := none, safe := true, full := false, oldStore := none }
  let s : State := { s with
    fabric := { s.fabric with drift := s.fabric.drift.filter fun e => !e.covered t g }
    launches := s.launches.map fun l => (l.1, { l.2 with raw := l.2.raw.filter fun r => r.1 != t + 2 ^ 16 }) }
  s.mapGates (gateCommit t)

/-- A tile's flip waits for its turn (R398). -/
def State.queueFlip (s : State) (t : Nat) : State := { s with fabric := { s.fabric with flips := s.fabric.flips ++ [t] } }

/-- CHECKPOINT_COMMIT (R383, R384): every item has arrived at the buddy; a merge that is in progress at a detection is completed
before the fence discards what is not committed (R394, R402, R418); in a planned migration the spare is then restored and the flip
follows (R403). -/
def execCheckpointCommit (tile : Nat) (s : State) : Res :=
  match (s.tile tile).committing with
  | some g =>
    if (s.tile tile).st = .migrate then .next ((s.commitTile tile g).queueFlip tile)
    else if (s.tile tile).st = .run ∨ ((s.tile tile).st = .fence ∧ (s.tile tile).fenced.isNone = true) then .next (s.commitTile tile g)
    else .next s
  | none => .next s

/-! ## Detection (R371, R372, R377, R394) -/

/-- The physical tile is recorded as lost for the next boot (R372). -/
def State.markLost (s : State) (p : Nat) : State := { s with fabric := { s.fabric with lost := nadd s.fabric.lost p } }

/-- An event of a unit that sends the tile into recovery in any case; a lasting unit also loses the physical tile. -/
def State.unitDetect (s : State) (t u : Nat) : State :=
  let (lasting, s) := s.unitEvent u
  (if lasting then s.markLost (s.tile t).phys else s).detect t

/-- A rollback is requested of the acting context; the unit's event, or a region that is not open, makes it a recovery
(R363, R372). -/
def State.requestRollback (s : State) (core u : Nat) (isOpen : Bool) : State :=
  let t := core / 16
  let (lasting, s) := s.unitEvent u
  if lasting then (s.markLost (s.tile t).phys).detect t
  else if isOpen then s.updCore core fun c => { c with rollReq := true }
  else s.detect t

/-- SNAPSHOT_TIMEOUT: an interval's end has been due for 1,024 cycles, not deferred by a commit, and the agents of the tile have not
reached step boundaries: no snapshot has been taken (R418). -/
def execSnapshotTimeout (tile : Nat) (s : State) : Res :=
  let late := match (s.tile tile).dueSince with
    | some c => decide (c + 1024 * 10 ≤ s.clk)
    | none => false
  if s.intervalDue tile && (s.tile tile).committing.isNone && late then .next (s.detect tile) else .next s

/-- WATCHDOG_FIRE (R377). -/
def execWatchdogFire (tile : Nat) (s : State) : Res :=
  let x := s.tile tile
  if x.watchdog < 2 ^ 24 ∨ x.st ≠ .run then .next s
  else
    let again := match x.lastWatch with
      | some d => decide (s.dtime < d + 1000000000)
      | none => false
    if again then
      let ns := ((s.ctxs.filter fun c => (s.tile (c.core / 16)).phys == x.phys && (c.run == .running || c.run == .ready)).filterMap
        Ctx.launch).eraseDups
      .next ((ns.foldl (fun s n => s.endLaunch n 3 (tile * 16) 0xFFFFFFFF) s).updTile tile fun x => { x with watchdog := 0 })
    else .next ((s.updTile tile fun x => { x with lastWatch := some s.dtime, byWatch := true, watchdog := 0 }).detect tile)

/-! ## The Lehr sequence (R394 to R401) -/

/-- The launches with a context on the tile, those whose contexts there are still owed among them. -/
def State.launchesOn (s : State) (t : Nat) : List Nat :=
  ((s.ctxs.filter fun c => c.core / 16 == t).filterMap Ctx.launch ++
    (match (s.tile t).fenced with
      | some g => g.ctxs.filterMap Ctx.launch
      | none => []) ++ (s.tile t).owed).eraseDups

/-- A tile is beyond recovery: its launches end by fault and it is absent (R379, R394, R264). -/
def State.loseOne (s : State) (t : Nat) : State :=
  if (s.tile t).st = .lost then s
  else
    let ns := s.launchesOn t
    let with_ := s.cohosted t
    let s := s.updTile t fun x =>
      { x with st := .lost, chosen := none, committed := none, committing := none, fenced := none, owed := [] }
    let s := s.dropFlip t
    let s : State := { s with fabric := { s.fabric with lost := nadd s.fabric.lost (s.tile t).phys } }
    (ns.foldl (fun s n => s.endLaunch n 3 (t * 16) 0xFFFFFFFF) s).capacityChanged with_

/-- A migration that cannot go on before its flip: the tile runs where it is. -/
def State.staysPut (s : State) (t : Nat) : State :=
  if (s.tile t).st = .migrate then ((s.dropFlip t).updTile t fun x => { x with st := .run, chosen := none }).createOwed t else s

/-- Tiles in recovery whose restore point lies in one of these stores; they are lost with it (R4, R394). -/
def State.lostWith (s : State) (qs : List Nat) : List (Nat × TileSt) :=
  s.tiles.filter fun x => qs.elem x.2.store && x.2.st.refuses && x.2.st != .resume && x.2.st != .migrate

/-- The stores that are gone with some: those of tiles that are lost with them, too. -/
def State.storesGone (s : State) : Nat → List Nat → List Nat
  | 0, qs => qs
  | n + 1, qs =>
    let more := ((s.lostWith qs).filter fun x => !x.2.shared && !qs.elem x.2.phys).map fun x => x.2.phys
    if more.isEmpty then qs else s.storesGone n (qs ++ more.eraseDups)

/-- A physical tile's store is gone: tiles out of recovery that keep their checkpoints there take new buddies (R379, R396), or lose the
previous store of a new one; tiles that are being recovered from it are lost (R4, R394). -/
def State.storeEnds (s : State) (q : Nat) : State :=
  let moving := (s.tiles.filter fun x => (x.2.buddy == q || x.2.oldStore == some q) && x.2.st == .migrate).map (·.1)
  let s := moving.foldl State.staysPut s
  let old := (s.tiles.filter fun x => x.2.oldStore == some q && (x.2.st == .run || x.2.st == .resume)).map (·.1)
  let s := old.foldl State.dropOld s
  (s.keptAt q).foldl State.newBuddy s

/-- A tile in recovery that was to take its first full checkpoint into a store that is gone takes another one; its restore point lies
elsewhere (R384). -/
def State.turnsFrom (s : State) (q : Nat) : State :=
  ((s.tiles.filter fun x => x.2.buddy == q && x.2.oldStore.isSome && x.2.store != q && x.2.st.refuses).map (·.1)).foldl State.newBuddy s

/-- A physical tile's store is lost, with those of the tiles that are lost with it, and every tile in recovery whose restore point lay in
one of them. -/
def State.storeGone (s : State) (q : Nat) : State :=
  let qs := s.storesGone s.tiles.length [q]
  let lost := (s.lostWith qs).map (·.1)
  let s := qs.foldl (fun s q => (s.storeEnds q).turnsFrom q) s
  lost.foldl State.loseOne s

/-- A fenced physical tile's store is lost; a guest's is its host's. -/
def State.losesStore (s : State) (t : Nat) : State := if (s.tile t).shared then s else s.storeGone (s.tile t).phys

/-- A tile fenced beyond recovery, with its store (R379, R394). -/
def State.loseTile (s : State) (t : Nat) : State := if (s.tile t).st = .lost then s else (s.losesStore t).loseOne t

/-- Launches that touched RAW memory on the tile after its restore point, with the page recorded (R393). -/
def State.rawLosses (s : State) (t : Nat) : List (Nat × Nat) :=
  s.launches.filterMap fun l =>
    if l.2.live then
      match l.2.raw.find? (fun r => r.1 == t + 2 ^ 16), l.2.raw.find? (fun r => r.1 == t) with
      | some r, _ => some (l.1, r.2)
      | none, some r => some (l.1, r.2)
      | none, none => none
    else none

/-- LEHR_FENCE (R394): refusal is in force, uncommitted staging is discarded, held locks are lost (R110), attachments end
(R416), gangs dissolve (R128), gates are held (R115), checkpoints kept in its store are lost (R379), and launches whose RAW interval
is lost end (R393). A tile that is unprotected when it fails is beyond recovery, and its launches end (R379). -/
def execLehrFence (tile : Nat) (s : State) : Res :=
  if (s.tile tile).st ≠ .fence then .next s
  else
    let first := (s.tile tile).fenced.isNone
    let s := if first then (s.count 14).losesStore tile else s
    if (s.tile tile).st ≠ .fence then .next s
    else if first && !(s.tile tile).safe then .next (s.loseTile tile)
    else
      let s := (List.range 16).foldl (fun s i => (s.loseLock (tile * 16 + i)).updCore (tile * 16 + i) fun c =>
        { c with attached := false, haltReq := false }) s
      let s := s.closeEpisode tile
      let s := s.mapCtx fun c => if c.core / 16 == tile then
        { c.releaseSlots with gang := none, run := if c.run == .halted then .running else c.run } else c
      let g := s.snapTile tile
      let ns := s.launchesOn tile
      let s := ns.foldl (fun s n => s.updLaunch n fun l => { l with recovered := true }) s
      let s := s.updTile tile fun x =>
        { x with st := .choose, committing := none, fenced := if first then some g else x.fenced }
      let s := (s.rawLosses tile).foldl (fun s r => s.endLaunch r.1 4 0 0 (some r.2)) s
      .next (s.mapGates (s.gateHold tile))

/-- LEHR_CHOOSE (R396, R397): a spare, else a host, else the tile is lost. -/
def execLehrChoose (tile : Nat) (s : State) : Res :=
  if (s.tile tile).st ≠ .choose then .next s
  else
    match s.spareFor tile with
    | some c => .next (s.updTile tile fun x => { x with chosen := some c, st := .restore })
    | none =>
      match s.hostFor tile with
      | some c => .next (s.updTile tile fun x => { x with chosen := some c, st := .restore })
      | none => .next (s.loseTile tile)

/-- LEHR_RESTORE (R394): image, tile record and fixed parts come from the buddy's store. -/
def execLehrRestore (tile : Nat) (s : State) : Res :=
  let x := s.tile tile
  if x.st ≠ .restore then .next s
  else
    let s := s.putTile tile (x.committed.getD Snap.boot)
    let s := s.updTile tile fun x => { x with st := .flip }
    .next (s.queueFlip tile)

/-- The new entry of the rebinding table is in force (R290, R398). -/
def State.rebind (s : State) (t : Nat) (c : Nat × Nat × Bool) : State :=
  s.updTile t fun x => { x with phys := c.1, cls := c.2.1, shared := c.2.2, chosen := none }

/-- After a rebinding: the tile itself, when it now shares a die with its buddy, takes a new one, and is unprotected until its full
checkpoint commits (R4, R379; log entry 107); where no store is free it keeps the one it has (log entry 109). Tiles whose checkpoints lay in
the old tile's store have taken new buddies at its fence (R396); after a planned migration they do so only when that tile is recorded as
lost (R403). -/
def State.rebuddy (s : State) (t old : Nat) : State :=
  let s := if (s.tile t).st = .run && s.physLost old && !(s.tile t).shared then s.storeEnds old else s
  if physDie (s.tile t).phys == physDie (s.tile t).buddy then
    match s.buddyFor (s.tile t).phys with
    | some q => s.updTile t fun x => { x with buddy := q, full := true, safe := false, oldStore := some x.store }
    | none => s
  else s

/-- REBINDING_FLIP (R398): flips are serialised; the tile's turn has come and every router has acknowledged. A move to class 3 or
away from it changes C, of the tile and of its host (R264). A tile that migrates as planned resumes at once: nothing ran since its
snapshot, from which its memory is restored on the spare (R403). -/
def execRebindingFlip (tile : Nat) (s : State) : Res :=
  let x := s.tile tile
  if (x.st ≠ .flip ∧ x.st ≠ .migrate) ∨ s.fabric.flips.head? ≠ some tile then .next s
  else if x.st = .migrate then
    let s := s.dropFlip tile
    match x.chosen with
    | some c =>
      let was := s.cohosted tile
      let s : State := match x.committed with
        | some g => { s with mem := s.mem.restoreTile tile g }
        | none => s
      let t := (((s.rebind tile c).updTile tile fun x => { x with st := .run }).rebuddy tile x.phys).createOwed tile
      .next (if x.cls = 3 then t.capacityChanged (was ++ t.cohosted tile) else t)
    | none => .next (s.staysPut tile)
  else
    let s : State := { s with fabric := { s.fabric with flips := s.fabric.flips.drop 1 } }
    match x.chosen with
    | some c =>
      let was := s.cohosted tile
      let t := ((s.rebind tile c).updTile tile fun x => { x with st := .replay }).rebuddy tile x.phys
      .next (if x.cls = 3 ∨ c.2.1 = 3 then t.capacityChanged (was ++ t.cohosted tile) else t)
    | none => .next (s.updTile tile fun x => { x with st := .replay })

/-- The pair's other core of a context, in a generation (R129, R369). -/
def Snap.partner? (g : Snap) (c : Ctx) : Option Ctx :=
  g.ctxs.find? fun p => p.csrs.pairctl.getLsbD 0 && p.csrs.pairctl.getLsbD 1 != c.csrs.pairctl.getLsbD 1 && p.run.onCore &&
    p.core == (if c.csrs.pairctl.getLsbD 1 then c.core - 1 else c.core + 1)

/-- A register that an upset changed comes back by the replay with the value that the pair's other core holds (R368, R399). -/
def Snap.healed (g : Snap) : Snap :=
  { g with ctxs := g.ctxs.map fun c =>
      if c.pair.upset then
        match g.partner? c with
        | some p => if p.pair.upset then c else { c with regs := p.regs, pair := { c.pair with upset := false } }
        | none => c
      else c }

/-- LEHR_REPLAY (R399): every determinant is consumed, and the tile is as it stood at its fence (log entry 10), but for registers that an
upset changed. -/
def execLehrReplay (tile : Nat) (s : State) : Res :=
  let x := s.tile tile
  if x.st ≠ .replay then .next s
  else
    let s := match x.fenced with
      | some g => s.putTile tile g.healed
      | none => s
    .next (s.updTile tile fun x => { x with st := .resume, watchdog := 0 })

/-- What a dropped mesh flit lost is sent again by the replay of its sender, or from the drift log of its sender when its
receiver has been recovered (R387, R395, R399). -/
def State.resendLost (s : State) (t : Nat) : State :=
  { s with net := s.net.map fun m =>
      if m.st = .lost ∧ (m.core / 16 = t ∨ m.kind.home = some (.tile t)) then { m with st := .sent } else m }

/-! ## Planned migration (R403) -/

/-- A unit of the physical tile recorded its second counted event within 10^9 ticks (R403). -/
def State.twoEvents (s : State) (p : Nat) : Bool :=
  s.fabric.units.any fun u => u.1 / 1024 == p &&
    match u.2 with
    | a :: b :: _ => decide (a < b + 1000000000)
    | _ => false

/-- The tile has read above 105 °C for 100 ms, 10^8 ticks (R9, R403, R410). -/
def State.longWarm (s : State) (p : Nat) : Bool :=
  match afind s.fabric.warm p with
  | some d => decide (d + 100000000 ≤ s.dtime)
  | none => false

/-- A response of the tile is pending (R403, step 1). -/
def State.responsesPending (s : State) (t : Nat) : Bool :=
  s.ctxs.any fun c => c.core / 16 == t && !c.regs.pend.isEmpty

end Sys2Proof.Machine
end

