-- ==== Sys2Proof/Machine/Regions.lean ====
section
/-! DEFINITION. What each instruction reads and writes among the registers, the input mask and sealing of a region (R361,
R362), rollback (R363), pairs in checking mode (R365 to R369), and the hardware faults that ask for a rollback or a recovery
(R370, R371). -/

namespace Sys2Proof.Machine

/-! ## Registers an instruction names -/

/-- Registers that a general form reads and writes, by the codes of R361: g 0 to 63, v 64 to 95, p 96 + n. A word not listed
names none; RNG and REP are told apart in `State.regUse`. -/
def regsOf : Instr → List Nat × List Nat
  | .add d a b => ([a, b], [d])
  | .sub d a b => ([a, b], [d])
  | .and d a b => ([a, b], [d])
  | .or d a b => ([a, b], [d])
  | .xor d a b => ([a, b], [d])
  | .andn d a b => ([a, b], [d])
  | .shl d a b => ([a, b], [d])
  | .shr d a b => ([a, b], [d])
  | .sar d a b => ([a, b], [d])
  | .rol d a b => ([a, b], [d])
  | .slt d a b => ([a, b], [d])
  | .sltn d a b => ([a, b], [d])
  | .min d a b => ([a, b], [d])
  | .max d a b => ([a, b], [d])
  | .minn d a b => ([a, b], [d])
  | .maxn d a b => ([a, b], [d])
  | .mul d a b => ([a, b], [d])
  | .mulh d a b => ([a, b], [d])
  | .mulhn d a b => ([a, b], [d])
  | .div d a b => ([a, b], [d])
  | .divn d a b => ([a, b], [d])
  | .rem d a b => ([a, b], [d])
  | .remn d a b => ([a, b], [d])
  | .clz d a => ([a], [d])
  | .ctz d a => ([a], [d])
  | .popc d a => ([a], [d])
  | .bswap d a => ([a], [d])
  | .addw d a b => ([a, b], [d])
  | .subw d a b => ([a, b], [d])
  | .mulw d a b => ([a, b], [d])
  | .seq d a b => ([a, b], [d])
  | .sne d a b => ([a, b], [d])
  | .addi d a _ => ([a], [d])
  | .andi d a _ => ([a], [d])
  | .ori d a _ => ([a], [d])
  | .xori d a _ => ([a], [d])
  | .shli d a _ => ([a], [d])
  | .shri d a _ => ([a], [d])
  | .sari d a _ => ([a], [d])
  | .roli d a _ => ([a], [d])
  | .slti d a _ => ([a], [d])
  | .sltni d a _ => ([a], [d])
  | .lui d _ => ([], [d])
  | .cpc d _ => ([], [d])
  | .cinc d a b => ([a, b], [d])
  | .cbnd d a b => ([a, b], [d])
  | .cbndx d a b => ([a, b], [d])
  | .cperm d a b => ([a, b], [d])
  | .cgeta d a => ([a], [d])
  | .cgetb d a => ([a], [d])
  | .cgetl d a => ([a], [d])
  | .cgetp d a => ([a], [d])
  | .cseta d a b => ([a, b], [d])
  | .ctag d a => ([a], [d])
  | .csub d a b => ([a, b], [d])
  | .ctest d a b => ([a, b], [d])
  | .cclr d a => ([a], [d])
  | .cinci d a _ => ([a], [d])
  | .ld d a _ _ => ([a], [d])
  | .lds d a _ _ => ([a], [d])
  | .st s a _ _ => ([s, a], [])
  | .aadd d a b _ _ _ => ([a, b], [d])
  | .aand d a b _ _ _ => ([a, b], [d])
  | .aor d a b _ _ _ => ([a, b], [d])
  | .axor d a b _ _ _ => ([a, b], [d])
  | .amin d a b _ _ _ => ([a, b], [d])
  | .amax d a b _ _ _ => ([a, b], [d])
  | .aminn d a b _ _ _ => ([a, b], [d])
  | .amaxn d a b _ _ _ => ([a, b], [d])
  | .aswap d a b _ _ _ => ([a, b], [d])
  | .acas d a b _ _ _ => ([d, a, b], [d])
  | .afadd d a b _ _ _ => ([a, b], [d])
  | .fence _ => ([], [])
  | .fencea _ => ([], [])
  | .fencel _ => ([], [])
  | .lda d a _ => ([a], [d])
  | .stl d a _ => ([d, a], [])
  | .ldlk d a => ([a], [d])
  | .stul d a => ([d, a], [d])
  | .ldv d a b => ([a, b], [d])
  | .stv d a b => ([d, a, b], [])
  | .verq d a => ([a], [d])
  | .reclaim a b => ([a, b], [])
  | .beq a b _ => ([a, b], [])
  | .bne a b _ => ([a, b], [])
  | .blt a b _ => ([a, b], [])
  | .bge a b _ => ([a, b], [])
  | .bltn a b _ => ([a, b], [])
  | .bgen a b _ => ([a, b], [])
  | .beqz a _ => ([a], [])
  | .bnez a _ => ([a], [])
  | .bltz a _ => ([a], [])
  | .bgez a _ => ([a], [])
  | .bgtz a _ => ([a], [])
  | .blez a _ => ([a], [])
  | .j _ => ([], [])
  | .jal _ => ([], [63])
  | .jr a => ([a], [])
  | .jalr d a => ([a], [d])
  | .rep _ _ _ _ _ => ([], [])
  | .fadd d a b _ => ([a, b], [d])
  | .fsub d a b _ => ([a, b], [d])
  | .fmul d a b _ => ([a, b], [d])
  | .fdiv d a b _ => ([a, b], [d])
  | .fma d a b _ => ([d, a, b], [d])
  | .fsqrt d a _ => ([a], [d])
  | .fmin d a b _ => ([a, b], [d])
  | .fmax d a b _ => ([a, b], [d])
  | .fcmp d a b _ => ([a, b], [d])
  | .fcvt d a _ _ _ => ([a], [d])
  | .fclass d a _ => ([a], [d])
  | .spawn a => ([a, a + 1], [])
  | .range a => ([a, a + 1], [])
  | .take d a => ([], [d, a, a + 1])
  | .done => ([], [1, 2, 3, 4, 5, 6])
  | .yield => ([], [])
  | .trig d a b => ([d, a, b, b + 1], [d])
  | .untrig d a => ([a], [d])
  | .deqn d => ([], [d])
  | .chunk d a => ([], [d, a])
  | .put a b => ([a, b], [])
  | .puti a b => ([a, b], [])
  | .get d a => ([a], [d])
  | .send a b => ([a, b], [])
  | .recv d a => ([], [d, a])
  | .sendh a b => ([a, b], [])
  | .inboxn d => ([], [d])
  | .uien d a => ([a], [d])
  | .ihret => ([55], [])
  | .bar => ([], [])
  | .bara => ([], [])
  | .barw => ([], [])
  | .domset a => ([a], [])
  | .gang a => ([a], [])
  | .split => ([], [])
  | .pair d => ([], [d])
  | .unpair => ([], [])
  | .tname d a => ([a], [d])
  | .tnbr d a b => ([a, b], [d])
  | .tdist d a => ([a], [d])
  | .region => ([], [])
  | .chkp a => ([a], [])
  | .ckpt => ([], [])
  | .rngsnap a => ([a], [])
  | .rngrest a => ([a], [])
  | .succhint => ([], [])
  | .waitpred d => ([], [d])
  | .publish => ([], [])
  | .push a _ => ([a, a + 1, a + 2, a + 3], [])
  | .pushTry d a _ => ([a, a + 1, a + 2, a + 3], [d])
  | .eprog d _ => ([], [d])
  | .ecancel _ => ([], [])
  | .specommit a => ([a], [])
  | .specdrop a => ([a], [])
  | .ecall _ => ([], [])
  | .ebreak _ => ([], [])
  | .eret => ([], [])
  | .wfi => ([], [])
  | .halt => ([], [])
  | .trap _ => ([], [])
  | .csrr _ a => ([], [a])
  | .csrw _ a => ([a], [])
  | .csrs _ a => ([a], [])
  | .csrc _ a => ([a], [])
  | .tlbinv a => ([a], [])
  | .vadd d a b p _ => ([64 + a, 64 + b, 96 + p], [64 + d])
  | .vsub d a b p _ => ([64 + a, 64 + b, 96 + p], [64 + d])
  | .vmul d a b p _ => ([64 + a, 64 + b, 96 + p], [64 + d])
  | .vmin d a b p _ => ([64 + a, 64 + b, 96 + p], [64 + d])
  | .vmax d a b p _ => ([64 + a, 64 + b, 96 + p], [64 + d])
  | .vabs d a p _ => ([64 + a, 96 + p], [64 + d])
  | .vneg d a p _ => ([64 + a, 96 + p], [64 + d])
  | .vand d a b p _ => ([64 + a, 64 + b, 96 + p], [64 + d])
  | .vor d a b p _ => ([64 + a, 64 + b, 96 + p], [64 + d])
  | .vxor d a b p _ => ([64 + a, 64 + b, 96 + p], [64 + d])
  | .vshl d a b p _ => ([64 + a, 64 + b, 96 + p], [64 + d])
  | .vshr d a b p _ => ([64 + a, 64 + b, 96 + p], [64 + d])
  | .vsar d a b p _ => ([64 + a, 64 + b, 96 + p], [64 + d])
  | .vmulh d a b p _ => ([64 + a, 64 + b, 96 + p], [64 + d])
  | .vadds d a b p _ => ([64 + a, 64 + b, 96 + p], [64 + d])
  | .vsubs d a b p _ => ([64 + a, 64 + b, 96 + p], [64 + d])
  | .vfma d a b p _ => ([64 + d, 64 + a, 64 + b, 96 + p], [64 + d])
  | .vfms d a b p _ => ([64 + d, 64 + a, 64 + b, 96 + p], [64 + d])
  | .vfnma d a b p _ => ([64 + d, 64 + a, 64 + b, 96 + p], [64 + d])
  | .vfnms d a b p _ => ([64 + d, 64 + a, 64 + b, 96 + p], [64 + d])
  | .vdiv d a b p _ => ([64 + a, 64 + b, 96 + p], [64 + d])
  | .vsqrt d a p _ => ([64 + a, 96 + p], [64 + d])
  | .vexp2 d a p => ([64 + a, 96 + p], [64 + d])
  | .vlog2 d a p => ([64 + a, 96 + p], [64 + d])
  | .vrcp d a p => ([64 + a, 96 + p], [64 + d])
  | .vrsq d a p => ([64 + a, 96 + p], [64 + d])
  | .vceq d a b p _ => ([64 + a, 64 + b, 96 + p], [96 + d])
  | .vcne d a b p _ => ([64 + a, 64 + b, 96 + p], [96 + d])
  | .vclt d a b p _ => ([64 + a, 64 + b, 96 + p], [96 + d])
  | .vcle d a b p _ => ([64 + a, 64 + b, 96 + p], [96 + d])
  | .vcgt d a b p _ => ([64 + a, 64 + b, 96 + p], [96 + d])
  | .vcge d a b p _ => ([64 + a, 64 + b, 96 + p], [96 + d])
  | .vcun d a b p _ => ([64 + a, 64 + b, 96 + p], [96 + d])
  | .vcvt d a _ _ p _ _ => ([64 + a, 96 + p], [64 + d])
  | .vshuf d a b p _ => ([64 + a, 64 + b, 96 + p], [64 + d])
  | .vrot d a _ p _ => ([64 + a, 96 + p], [64 + d])
  | .vbcast d a _ p _ => ([64 + a, 96 + p], [64 + d])
  | .vxlane d a b p _ => ([64 + a, 64 + b, 96 + p], [64 + d, 96 + p])
  | .vcompress d a p _ => ([64 + a, 96 + p], [64 + d])
  | .vexpand d a p _ => ([64 + a, 96 + p], [64 + d])
  | .vrsum d a p _ => ([64 + a, 96 + p], [64 + d])
  | .vrmax d a p _ => ([64 + a, 96 + p], [64 + d])
  | .vrmin d a p _ => ([64 + a, 96 + p], [64 + d])
  | .vrsumo d a p _ => ([64 + a, 96 + p], [64 + d])
  | .vld d a p _ => ([a, 96 + p], [64 + d])
  | .vlds d a b p _ => ([a, b, 96 + p], [64 + d])
  | .vgather d a b p _ => ([a, 64 + b, 96 + p], [64 + d])
  | .vst d a p _ => ([64 + d, a, 96 + p], [])
  | .vsts d a b p _ => ([64 + d, a, b, 96 + p], [])
  | .vscatter d a b p _ => ([64 + d, a, 64 + b, 96 + p], [])
  | .vmovgv d a _ p _ => ([a, 96 + p], [64 + d])
  | .vmovvg d a _ _ => ([64 + a], [d])
  | .vsplat d a p _ => ([a, 96 + p], [64 + d])
  | .vqbind _ a => ([a], [])
  | .vqdrop _ => ([], [])
  | .vpand d a b p => ([96 + a, 96 + b, 96 + p], [96 + d])
  | .vpor d a b p => ([96 + a, 96 + b, 96 + p], [96 + d])
  | .vpxor d a b p => ([96 + a, 96 + b, 96 + p], [96 + d])
  | .vpnot d a p => ([96 + a, 96 + p], [96 + d])
  | .vpcnt d a p => ([96 + a, 96 + p], [d])
  | .vpset d a p => ([a, 96 + p], [96 + d])
  | .vpfirst d a p => ([96 + a, 96 + p], [96 + d])
  | _ => ([], [])

/-- Vector source fields, which VQMAP may turn into stream registers (R50, R149). -/
def vectorSources : Instr → List Nat
  | .vadd _ a b _ _ => [a, b]
  | .vsub _ a b _ _ => [a, b]
  | .vmul _ a b _ _ => [a, b]
  | .vmin _ a b _ _ => [a, b]
  | .vmax _ a b _ _ => [a, b]
  | .vabs _ a _ _ => [a]
  | .vneg _ a _ _ => [a]
  | .vand _ a b _ _ => [a, b]
  | .vor _ a b _ _ => [a, b]
  | .vxor _ a b _ _ => [a, b]
  | .vshl _ a b _ _ => [a, b]
  | .vshr _ a b _ _ => [a, b]
  | .vsar _ a b _ _ => [a, b]
  | .vmulh _ a b _ _ => [a, b]
  | .vadds _ a b _ _ => [a, b]
  | .vsubs _ a b _ _ => [a, b]
  | .vfma _ a b _ _ => [a, b]
  | .vfms _ a b _ _ => [a, b]
  | .vfnma _ a b _ _ => [a, b]
  | .vfnms _ a b _ _ => [a, b]
  | .vdiv _ a b _ _ => [a, b]
  | .vsqrt _ a _ _ => [a]
  | .vexp2 _ a _ => [a]
  | .vlog2 _ a _ => [a]
  | .vrcp _ a _ => [a]
  | .vrsq _ a _ => [a]
  | .vceq _ a b _ _ => [a, b]
  | .vcne _ a b _ _ => [a, b]
  | .vclt _ a b _ _ => [a, b]
  | .vcle _ a b _ _ => [a, b]
  | .vcgt _ a b _ _ => [a, b]
  | .vcge _ a b _ _ => [a, b]
  | .vcun _ a b _ _ => [a, b]
  | .vcvt _ a _ _ _ _ _ => [a]
  | .vshuf _ a b _ _ => [a, b]
  | .vrot _ a _ _ _ => [a]
  | .vbcast _ a _ _ _ => [a]
  | .vxlane _ a b _ _ => [a, b]
  | .vcompress _ a _ _ => [a]
  | .vexpand _ a _ _ => [a]
  | .vrsum _ a _ _ => [a]
  | .vrmax _ a _ _ => [a]
  | .vrmin _ a _ _ => [a]
  | .vrsumo _ a _ _ => [a]
  | .vgather _ _ b _ _ => [b]
  | .vscatter _ _ b _ _ => [b]
  | .vmovvg _ a _ _ => [a]
  | _ => []

/-- The instruction that acts: the element of a frame that is due, else the instruction itself. -/
def State.acting (x : State) (i : Instr) : Instr :=
  match i with
  | .rep c n p q r => (x.repElement c n p q r).getD i
  | _ => i

/-- Registers that an instruction, or the due element of a frame, reads and writes here (R361). -/
def State.regUse (x : State) (i : Instr) : List Nat × List Nat :=
  match x.acting i with
  | .rng d a b => (if bits (x.ival b).toNat 4 2 ≥ 3 then [a, b] else [b], [d])
  | j => regsOf j

/-- The code of a register of the interrupted code, g0 and p0 apart (R361). -/
def maskCode (c : Nat) : Bool := c != 0 && c != 96

/-- A pending code of the register that a mask code names, in the present bank (R72, R103). -/
def State.pendCode (x : State) (c : Nat) : Nat := if c < 64 then x.codeOfG c else 1000 + c

/-- An instruction that performs an access of its own, or has one performed: what waits behind an acquiring atomic (R107, R302). -/
def performsAccess : Instr → Bool
  | .ld _ _ _ _ | .lds _ _ _ _ | .lda _ _ _ | .ldlk _ _ | .ldv _ _ _ | .verq _ _ | .get _ _ | .recv _ _ => true
  | .vld _ _ _ _ | .vlds _ _ _ _ _ | .vgather _ _ _ _ _ | .vst _ _ _ _ | .vsts _ _ _ _ _ | .vscatter _ _ _ _ _ => true
  | .st _ _ _ _ | .stl _ _ _ | .stul _ _ | .stv _ _ _ | .put _ _ | .send _ _ | .sendh _ _ | .reclaim _ _ | .puti _ _ => true
  | .aadd _ _ _ _ _ _ | .aand _ _ _ _ _ _ | .aor _ _ _ _ _ _ | .axor _ _ _ _ _ _ | .amin _ _ _ _ _ _ | .amax _ _ _ _ _ _ => true
  | .aminn _ _ _ _ _ _ | .amaxn _ _ _ _ _ _ | .aswap _ _ _ _ _ _ | .acas _ _ _ _ _ _ | .afadd _ _ _ _ _ _ => true
  | .fence _ | .fencea _ | .fencel _ | .bara | .barw | .publish | .waitpred _ | .spawn _ | .range _ => true
  | .push _ _ | .pushTry _ _ _ | .trig _ _ _ | .rngsnap _ | .rngrest _ => true
  | .csrr n _ => n == 0
  | _ => false

/-- An instruction of the TASK major that traps in a gang, whatever its operands (R219). -/
def gangTraps : Instr → Bool
  | .spawn _ | .range _ | .take _ _ | .done | .yield | .trig _ _ _ | .untrig _ _ | .chunk _ _ => true
  | _ => false

/-- An instruction that reads or writes a pending register waits (R103), unless it traps for its gang (R219); behind an acquiring
atomic every later access waits for its response (R107). -/
def State.pendingWait (x : State) (i : Instr) : Bool :=
  let p := x.cpu.regs.pend
  !p.isEmpty && !(x.cpu.gang.isSome && gangTraps i) &&
    ((performsAccess i && p.any fun e => e.1 == 128) || (let u := x.regUse i; (u.1 ++ u.2).any fun c => p.any fun e => e.1 == x.pendCode c))

/-! ## Sealing and the input mask (R361, R362) -/

/-- A PUSH that seals: MMR, and CPY or MLDRED with STREAM = 1. -/
def State.pushSeals (x : State) (a : Nat) (e : Eng) : Bool :=
  let h := (x.getG a).val.toNat
  match e, h % 256 with
  | .me, 2 => true
  | .ce, 1 => bit h 17
  | .ca, 2 => bit h 50
  | _, _ => false

/-- The table of R362. -/
def sealsAlways : Instr → Bool
  | .aadd _ _ _ _ _ _ => true
  | .aand _ _ _ _ _ _ => true
  | .aor _ _ _ _ _ _ => true
  | .axor _ _ _ _ _ _ => true
  | .amin _ _ _ _ _ _ => true
  | .amax _ _ _ _ _ _ => true
  | .aminn _ _ _ _ _ _ => true
  | .amaxn _ _ _ _ _ _ => true
  | .aswap _ _ _ _ _ _ => true
  | .acas _ _ _ _ _ _ => true
  | .afadd _ _ _ _ _ _ => true
  | .ldlk _ _ => true
  | .stul _ _ => true
  | .stv _ _ _ => true
  | .reclaim _ _ => true
  | .spawn _ => true
  | .range _ => true
  | .take _ _ => true
  | .done => true
  | .yield => true
  | .trig _ _ _ => true
  | .untrig _ _ => true
  | .chunk _ _ => true
  | .puti _ _ => true
  | .send _ _ => true
  | .recv _ _ => true
  | .sendh _ _ => true
  | .uien _ _ => true
  | .ihret => true
  | .bar => true
  | .bara => true
  | .barw => true
  | .domset _ => true
  | .gang _ => true
  | .split => true
  | .pair _ => true
  | .unpair => true
  | .rngrest _ => true
  | .ecancel _ => true
  | .specommit _ => true
  | .specdrop _ => true
  | .ecall _ => true
  | .ebreak _ => true
  | .trap _ => true
  | .csrw _ _ => true
  | .csrs _ _ => true
  | .csrc _ _ => true
  | .tlbinv _ => true
  | _ => false

/-- The instruction seals the open region before it has any effect (R362). -/
def State.seals (x : State) (i : Instr) : Bool :=
  let j := x.acting i
  sealsAlways j || (vectorSources j).any (fun f => (x.streamOf f).isSome) ||
    (match j with
      | .push a e => x.pushSeals a e
      | .pushTry _ a e => x.pushSeals a e
      | _ => false)

/-- A region is open. -/
def State.regionOpen (x : State) : Bool := x.cpu.csrs.regpc.getLsbD 63

/-- Codes as bits of a mask. -/
def codeMask (cs : List Nat) : BitVec 104 := cs.foldl (fun m c => if maskCode c then m ||| BitVec.ofNat 104 (2 ^ c) else m) 0

/-- The mask once an instruction has read its registers (R361). -/
def State.maskAfterReads (x : State) (cs : List Nat) : BitVec 104 :=
  x.cpu.region.mask ||| (codeMask cs &&& ~~~x.cpu.region.written)

/-- The first register of the mask that an instruction would write (R361). -/
def State.violation (x : State) (i : Instr) : Option Nat :=
  let (rs, ws) := x.regUse i
  let m := x.maskAfterReads rs
  ws.find? fun c => maskCode c && m.getLsbD c

/-- The trap of a violation: cause 0x11 (R361). -/
def State.violationTrap (x : State) (i : Instr) (c : Nat) : Trap :=
  let e := match i with
    | .rep n _ _ _ _ => n * x.repPos.1 + x.repPos.2
    | _ => 0
  ⟨17, x.cpu.csrs.regpc.toNat % 2 ^ 52 + c * 2 ^ 56, e⟩

/-- The trap of a violation is taken; a frame that stops so holds its position (R56, R361). -/
def State.takeViolation (x : State) (i : Instr) (c : Nat) : State :=
  let t := x.violationTrap i c
  match i with
  | .rep _ _ _ _ _ => (x.setRepprog (repAt x.repPos.1 x.repPos.2)).takeTrap t
  | _ => x.takeTrap t

/-- The mask and the written set after an instruction has retired (R361). -/
def State.noteRegs (x : State) (u : List Nat × List Nat) : State :=
  x.modCpu fun c => { c with region := { c.region with
    mask := c.region.mask ||| (codeMask u.1 &&& ~~~c.region.written), written := c.region.written ||| codeMask u.2 } }

/-! ## Rollback (R363, R364) -/

/-- A command of the open region (R360). -/
def Ctx.inRegion (c : Ctx) (num : Nat) : Bool := decide (c.region.start ≤ num)

/-- The record of a removed command: its completion message with STATUS 0x01 and INFO 1, and the core's name (R363; the layout is the
model's, log entry 25). -/
def removedRecord (core time : Nat) (c : Cmd) (e : Eng) : BitVec 256 :=
  let m := ({ c with ended := some ⟨1, c.unperformed, 1, 0⟩ } : Cmd).message e
  BitVec.ofNat 256 (0x12 + core * 2 ^ 32 + time * 2 ^ 64 + m.val.toNat * 2 ^ 128)

/-- Engines without the commands of the region: queues, holds taken by SPEC commands of it, and the count of completions
withdrawn from the inbox. -/
def Ctx.withoutRegion (c : Ctx) : Ctx :=
  let gone := fun (e : Eng) => (c.inbox.filter fun x => x.done == some e && c.inRegion x.cmd).length
  let q := fun (e : Eng) (q : EngQ) =>
    { q with cmds := q.cmds.filter (fun x => !c.inRegion x.num), uncollected := q.uncollected - gone e }
  let keys := ((List.range 8).filter fun i => c.inRegion (vget 0 c.eng.holdBy i)).filterMap fun i => vget none c.eng.hold i
  let eng : Engines := { c.eng with
    me := q .me c.eng.me, ce := q .ce c.eng.ce, ca := q .ca c.eng.ca
    hold := c.eng.hold.map fun h => match h with
      | some k => if keys.elem k then none else some k
      | none => none }
  { c with eng := eng, inbox := c.inbox.filter fun x => !(x.done.isSome && c.inRegion x.cmd) }

/-! ## Pairs (R365 to R369) -/

/-- The checking context of a pair, by its core. -/
def State.checkerOf (s : State) (low : Nat) : Option Ctx :=
  s.ctxs.find? fun c => c.core == low + 1 && c.csrs.pairctl.getLsbD 1 && c.launch.isNone

/-- The acting context of a pair, on either of its cores. -/
def State.pairCtx (s : State) (core : Nat) : Option Ctx :=
  s.ctxs.find? fun c => c.core == core / 2 * 2 && c.csrs.pairctl.getLsbD 0 && !c.csrs.pairctl.getLsbD 1

/-- The register of a record: its code of R361, with 1,000 added for the handler's bank and 2,000 for the runtime's, from the code
under which a response of it is pending (R72, R103, R139). -/
def bankCode (p : Nat) : Nat := if p < 64 then p else if p < 72 then p + 984 else p + 1984

/-- The register that a code of R361 names at the acting context's level and state. -/
def State.recordCode (s : State) (c : Nat) : Nat := if c < 64 then bankCode (s.codeOfG c) else c

/-- A general register in a record: its tag, and its 16 bytes (R367). -/
def GReg.record (g : GReg) : List Byte :=
  let tag : Byte := match g.tag with
    | .data => 0
    | .cap => 1
    | .poison => 2
  tag :: leBytes 16 g.val.toNat

/-- Tag and value of a record's register, of a core with the runtime registers `rt`. -/
def Regs.code (r : Regs) (rt : Vector GReg 4) (c : Nat) : List Byte :=
  if c < 64 then (vget GReg.zero r.g c).record
  else if c < 96 then 0 :: leBytes 128 (vget 0 r.v (c - 64)).toNat
  else if c < 1000 then 0 :: leBytes 4 (vget 0 r.p (c - 96)).toNat
  else if c < 2000 then (vget GReg.zero r.gh (c - 1048)).record
  else (vget GReg.zero rt (c - 2056)).record

/-- Copy a record's register from one file to another; the runtime's own are no part of the file. -/
def Regs.copyCode (dst src : Regs) (c : Nat) : Regs :=
  if c < 64 then { dst with g := vset dst.g c (vget GReg.zero src.g c) }
  else if c < 96 then { dst with v := vset dst.v (c - 64) (vget 0 src.v (c - 64)) }
  else if c < 1000 then { dst with p := vset dst.p (c - 96) (vget 0 src.p (c - 96)) }
  else if c < 2000 then { dst with gh := vset dst.gh (c - 1048) (vget GReg.zero src.gh (c - 1048)) }
  else dst

/-- A value of the checking core that follows the acting core's: what changed there is delivered to both (R365). -/
def followed {α : Type} [DecidableEq α] (chk old new : α) : α := if old = new then chk else new

/-- The checking core's CSRs once the acting core's have changed from `old` to `new`. -/
def Csrs.follow (chk old new : Csrs) : Csrs :=
  { domain := followed chk.domain old.domain new.domain
    frm := followed chk.frm old.frm new.frm
    fflags := followed chk.fflags old.fflags new.fflags
    vqmap := followed chk.vqmap old.vqmap new.vqmap
    repprog := followed chk.repprog old.repprog new.repprog
    repprogH := followed chk.repprogH old.repprogH new.repprogH
    vprog := followed chk.vprog old.vprog new.vprog
    vprogH := followed chk.vprogH old.vprogH new.vprogH
    regpc := followed chk.regpc old.regpc new.regpc
    gensel := followed chk.gensel old.gensel new.gensel
    uivec := followed chk.uivec old.uivec new.uivec
    tcause := followed chk.tcause old.tcause new.tcause
    tval := followed chk.tval old.tval new.tval
    tpc := followed chk.tpc old.tpc new.tpc
    telem := followed chk.telem old.telem new.telem
    tstat := followed chk.tstat old.tstat new.tstat
    preempt := followed chk.preempt old.preempt new.preempt
    pairctl := followed chk.pairctl old.pairctl new.pairctl
    fprint := followed chk.fprint old.fprint new.fprint
    ringcfg := followed chk.ringcfg old.ringcfg new.ringcfg
    tvec := followed chk.tvec old.tvec new.tvec
    tcmp := followed chk.tcmp old.tcmp new.tcmp }

/-- The checking core's generators, likewise. -/
def Gens.follow (chk old new : Gens) : Gens :=
  { key := followed chk.key old.key new.key
    ctr := followed chk.ctr old.ctr new.ctr
    savedKey := followed chk.savedKey old.savedKey new.savedKey
    savedCtr := followed chk.savedCtr old.savedCtr new.savedCtr }

/-- A general register file with every register that changed from `old` to `new` changed likewise (events deliver the same
values to both cores, R365). -/
def Regs.follow (chk old new : Regs) : Regs :=
  { g := Vector.ofFn fun i : Fin 64 => if vget GReg.zero old.g i = vget GReg.zero new.g i then vget GReg.zero chk.g i
      else vget GReg.zero new.g i
    gh := Vector.ofFn fun i : Fin 8 => if vget GReg.zero old.gh i = vget GReg.zero new.gh i then vget GReg.zero chk.gh i
      else vget GReg.zero new.gh i
    v := Vector.ofFn fun i : Fin 32 => if vget 0 old.v i = vget 0 new.v i then vget 0 chk.v i else vget 0 new.v i
    p := Vector.ofFn fun i : Fin 8 => if vget 0 old.p i = vget 0 new.p i then vget 0 chk.p i else vget 0 new.p i
    pend := new.pend }

/-- The memory-write part of a record (R367). -/
def HeldStore.bytes (h : HeldStore) : List Byte := leBytes 8 h.ea ++ leBytes 1 h.size ++ leBytes 16 (h.data.toNat % 2 ^ (8 * h.size))

/-- The sent-value and command parts of a record, with the registers of one core (R367). -/
def State.sentPart (x : State) : Instr → List Byte
  | .aadd _ a b _ _ _ | .aand _ a b _ _ _ | .aor _ a b _ _ _ | .axor _ a b _ _ _ | .amin _ a b _ _ _ | .amax _ a b _ _ _
  | .aminn _ a b _ _ _ | .amaxn _ a b _ _ _ | .aswap _ a b _ _ _ | .acas _ a b _ _ _ | .afadd _ a b _ _ _ =>
    leBytes 8 (x.getG a).addr ++ leBytes 16 (x.ival b).toNat
  | .puti a b => leBytes 8 (x.ea a 0) ++ leBytes 16 (x.ival b).toNat
  | .send a b => leBytes 8 ((x.ival a).toNat % 2 ^ 20) ++ leBytes 16 (x.getG b).val.toNat
  | .sendh a b => leBytes 8 ((x.ival a).toNat % 256) ++ leBytes 16 (x.ival b).toNat
  | .stv v a _ => leBytes 8 (x.ea a 0) ++ leBytes 16 (x.ival v).toNat
  | .push a _ | .pushTry _ a _ =>
    (List.range 4).flatMap (fun i => leBytes 16 (x.getG (a + i)).val.toNat) ++
      (List.range 4).map fun i => match (x.getG (a + i)).tag with
        | .data => (0 : Byte)
        | .cap => 1
        | .poison => 2
  | _ => []

/-- The record of one retired instruction or element (R367): PC, register writes in ascending code with those of responses
written since the last one, memory writes, command and sent value. -/
def fingerRecord (pc : Nat) (r : Regs) (rt : Vector GReg 4) (ws : List Nat) (held : List HeldStore) (sent : List Byte) : List Byte :=
  leBytes 8 pc ++ ((sortBy (· % 1000) ws).filter maskCode).flatMap (fun c => leBytes 1 (c % 1000) ++ r.code rt c) ++
    held.flatMap HeldStore.bytes ++ sent

/-- The running CRC over more bytes: CRC-32C taken on. -/
def crcMore (crc : BitVec 32) (bs : List Byte) : BitVec 32 := ~~~ crcFold (~~~ crc) bs

/-- A context with one more record in its fingerprint. -/
def Ctx.finger (c : Ctx) (bs : List Byte) : Ctx :=
  { c with pair := { c.pair with crc := crcMore c.pair.crc bs, count := c.pair.count + 1, fresh := [] } }

/-- Registers whose codes a list of pending codes names. -/
def freshCodes (fs : List Nat) : List Nat := (fs.filter fun c => decide (c < 76)).map bankCode

/-- The checking context as it follows the acting one, with its own registers, CSRs and generators as given: it stands where the
acting one does, and engines, tasks and inbox are the acting core's. -/
def checkerFrom (act chk : Ctx) (r : Regs) (cs : Csrs) (g : Gens) : Ctx :=
  { act with
    core := act.core + 1, launch := none, run := act.run, regs := r, pair := chk.pair, gang := none, inbox := [], lease := 0
    eng := Engines.reset, task := TaskSt.reset, bar := act.bar, due := [], gens := g
    csrs := { cs with pairctl := (act.csrs.pairctl &&& 0xFF00) ||| 3, fprint := chk.csrs.fprint } }

/-- The checking context once the acting one has changed from `old` to `new` by no instruction of its own (R365). -/
def checkerFollows (old new chk : Ctx) : Ctx :=
  checkerFrom new chk (chk.regs.follow old.regs new.regs) (chk.csrs.follow old.csrs new.csrs) (chk.gens.follow old.gens new.gens)

/-- Replace the checking context of a pair. -/
def State.putChecker (s : State) (low : Nat) (chk : Ctx) : State :=
  s.mapCtx fun c => if c.core == low + 1 && c.csrs.pairctl.getLsbD 1 && c.launch.isNone then chk else c

/-- An event of the acting core of a pair that is no instruction's retirement, with what it delivered to both cores (R365). -/
def State.pairFollow (t s : State) : State :=
  if s.cpu.paired && t.cpu.paired && !s.cpu.csrs.pairctl.getLsbD 1 && t.cpu.core == s.cpu.core && t.cpu.launch == s.cpu.launch then
    match t.checkerOf s.cpu.core with
    | some chk => t.putChecker s.cpu.core (checkerFollows s.cpu t.cpu chk)
    | none => t
  else t

/-- An instruction of R362's table, a PUSH, REGION, a fence, or the ERET at which interrupt 1 stops the pair (R272): a pair exchanges
before it (R366). So it does before a PUBLISH, which
is a release, and before a GET or RNGSNAP that held stores precede (R303, R305; log entry 92). -/
def State.needsExchange (x : State) (i : Instr) : Bool :=
  x.seals i || (match i with
    | .publish => true
    | .get _ _ => !x.cpu.pair.held.isEmpty
    | .rngsnap _ => !x.cpu.pair.held.isEmpty
    | .eret => x.cpu.entered.head? == some preemptCause
    | .push _ _ => true
    | .pushTry _ _ _ => true
    | .region => true
    | .fence _ => true
    | .fencea _ => true
    | .fencel _ => true
    | .stl _ _ _ => true
    | _ => false)

/-- Actions are performed by the acting core alone, and loads are made once, by it; what they write is delivered to both. A vector
instruction that takes a stream entry is computed by each core from the entry delivered (R365). -/
def State.deliveredOnce (x : State) (i : Instr) : Bool :=
  (x.needsExchange i && (vectorSources i).isEmpty) || (match i with
    | .ld _ _ _ _ => true
    | .lds _ _ _ _ => true
    | .lda _ _ _ => true
    | .ldv _ _ _ => true
    | .verq _ _ => true
    | .get _ _ => true
    | .vld _ _ _ _ => true
    | .vlds _ _ _ _ _ => true
    | .vgather _ _ _ _ _ => true
    | .waitpred _ => true
    | .inboxn _ => true
    | .deqn _ => true
    | .eprog _ _ => true
    | _ => false)

/-- Entries of the pair store buffer that an instruction may take (R365). -/
def storeEntries : Instr → Nat
  | .vst _ _ _ t | .vsts _ _ _ _ t | .vscatter _ _ _ _ t => t.lanes
  | _ => 1

/-- A VMEM instruction of which a lane has been performed is the one to act: no instruction boundary (R164). -/
def State.betweenLanes (x : State) (i : Instr) : Bool :=
  x.vprog != 0 && match i with
    | .vld _ _ _ _ | .vlds _ _ _ _ _ | .vgather _ _ _ _ _ | .vst _ _ _ _ | .vsts _ _ _ _ _ | .vscatter _ _ _ _ _ => true
    | _ => false

/-- An exchange is due before an instruction of the acting core of a pair, never between the lanes of one (R366). -/
def State.exchangeDue (x : State) (i : Instr) : Bool :=
  x.cpu.csrs.pairctl.getLsbD 0 && decide (0 < x.cpu.pair.count) && !x.betweenLanes (x.acting i) &&
    (x.needsExchange i || decide (256 ≤ x.cpu.pair.count) || decide (256 < x.cpu.pair.held.length + storeEntries (x.acting i)))

/-- A held store would pass an earlier request of the pair, one released before it among them (R90, R304, R366). -/
def State.heldBehind (s : State) (core : Nat) (launch : Option Nat) (h : HeldStore) : Bool :=
  s.overlapEarlier core launch h.key h.size (fun _ => true) ||
    (s.near core (homeOf h.key) && s.nearEarlier core launch fun _ => true) ||
    s.net.any (fun m => m.core == core && m.launch == launch && m.engine.isNone && m.waiting && m.chan == (homeOf h.key).code * 3) ||
    s.shaded core h.key h.size

/-- Release a held store of a pair: own memory at once, else, and where it would pass an earlier one, as a message (R365, R366). -/
def State.releaseHeld (s : State) (core : Nat) (launch : Option Nat) (h : HeldStore) : State :=
  let bs := leBytes h.size h.data.toNat
  let tag := h.tag == .cap && h.size == 16
  if ownKey core h.key && !h.put && !s.heldBehind core launch h then s.writeMem h.key bs tag (h.tag == .poison) core
  else s.post core launch (.store h.key bs tag (h.tag == .poison) none) h.put none

/-- FPRINT of an exchange (R367). -/
def fprintOf (p : PairSt) : Word := BitVec.ofNat 64 (p.count * 2 ^ 32 + p.crc.toNat)

/-- PAIRCTL with one more mismatch, saturating at 255 (R129, R368). -/
def moreMismatch (w : Word) : Word :=
  let m := bits w.toNat 15 8
  (w &&& ~~~0xFF00) ||| BitVec.ofNat 64 (Nat.min (m + 1) 255 * 256)

/-- Both contexts after an exchange: FPRINT set, the fingerprint begun again. -/
def Ctx.afterExchange (c : Ctx) (bad : Bool) : Ctx :=
  { c with
    csrs := { c.csrs with fprint := fprintOf c.pair, pairctl := if bad then moreMismatch c.csrs.pairctl else c.csrs.pairctl }
    pair := { c.pair with held := [], crc := 0, count := 0 } }

/-- A mismatch counts against both cores, and both roll back together or the tile enters recovery (R368). -/
def State.pairMismatch (s : State) (low : Nat) (isOpen : Bool) : State :=
  let t := low / 16
  let p := (s.tile t).phys
  let (l1, s) := s.unitEvent (coreUnit p (low + 1) 0)
  let s := s.requestRollback low (coreUnit p low 0) (isOpen && !l1)
  if l1 then (s.markLost p).detect t else s

/-- PAIR_EXCHANGE (R366 to R368): the cores compare CRC and COUNT; a match releases the held stores in order, a mismatch
discards them. -/
def execPairExchange (core : Nat) (s : State) : Res :=
  match s.pairCtx core, s.checkerOf (core / 2 * 2) with
  | some a, some b =>
    if a.pair.count = 0 ∨ (s.tile (core / 16)).st.refuses = true then .next s
    else
      let bad := a.pair.crc != b.pair.crc || a.pair.count != b.pair.count
      let s := if bad then s else a.pair.held.foldl (fun s h => s.releaseHeld a.core a.launch h) s
      let s := s.mapCtx fun c =>
        if (c.core == a.core && c.launch == a.launch) || (c.core == b.core && c.csrs.pairctl.getLsbD 1 && c.launch.isNone) then
          c.afterExchange bad else c
      .next (if bad then s.pairMismatch a.core (a.csrs.regpc.getLsbD 63) else s)
  | _, _ => .next s

/-- The rollback of R363, of the acting context; both cores of a pair take it together (R368). DESIGN CHOICE (log entry 110): of a member of a
gang it is a stop, which dissolves the gang (R128); R363 names no gang. -/
def State.rollBack (s : State) : State :=
  let s := s.dissolveGang
  let c := s.cpu
  let removed := ([Eng.me, Eng.ce, Eng.ca].flatMap fun e => ((c.eng.get e).cmds.filter fun x => c.inRegion x.num).map fun x => (x, e))
  let die := physDie (s.tile (c.core / 16)).phys
  let log := removed.map fun x => (die, removedRecord c.core s.dtime x.1 x.2)
  let s : State := { s with dev := { s.dev with log := log ++ s.dev.log } }
  let s := (s.count 13).updCore c.core fun k => { k with rollReq := false }
  let s := s.modCpu fun c =>
    { c.withoutRegion with
      pair := { c.pair with held := [], crc := 0, count := 0, fresh := [] }
      gens := { c.gens with key := c.gens.savedKey, ctr := c.gens.savedCtr }
      stalled := false, frame := none }
  let t := ((s.setRepprog 0).setVprog 0).setPc (pcOf s.cpu.csrs.regpc.toNat)
  match t.checkerOf t.cpu.core with
  | some chk =>
    if t.cpu.paired then
      let own : Gens := { chk.gens with key := chk.gens.savedKey, ctr := chk.gens.savedCtr }
      let chk : Ctx := { chk with pair := { chk.pair with held := [], crc := 0, count := 0, fresh := [] } }
      t.putChecker t.cpu.core (checkerFrom t.cpu chk chk.regs (chk.csrs.follow c.csrs t.cpu.csrs) own)
    else t
  | none => t

/-- ROLLBACK: a request is taken at a boundary, after a debug halt (R356), once no register is pending; without an open region the tile
enters recovery (R363). -/
def execRollback (s : State) : Res :=
  if !(s.core s.cpu.core).rollReq || s.asks CoreSt.haltReq || !s.live then .next s
  else if !s.regionOpen then .next ((s.updCore s.cpu.core fun k => { k with rollReq := false }).detect (s.cpu.core / 16))
  else if !s.cpu.regs.pend.isEmpty then .next s
  else .next s.rollBack

/-! ## The stop at an interval's end -/

/-- A pair of the tile has instructions that no exchange has covered: it exchanges before the stop (R366, R369). -/
def State.pairOpen (s : State) (t : Nat) : Option Nat :=
  (s.ctxs.find? fun c => c.core / 16 == t && c.run.onCore && c.paired && !c.csrs.pairctl.getLsbD 1 && decide (0 < c.pair.count)).map
    Ctx.core

/-- Something on the tile comes before its stop: a rollback that was requested (R363), or the first instruction of a context just
dispatched (R274). -/
def State.stopWaits (s : State) (t : Nat) : Bool :=
  s.ctxs.any fun c => c.core / 16 == t && c.run == .running && ((s.core c.core).rollReq || (s.core c.core).switched)

/-- INTERVAL_END (R381, R382): deferred while the previous commit is in progress; a pair's last exchange comes first. -/
def execIntervalEnd (tile : Nat) (s : State) : Res :=
  if (s.tile tile).st = .run ∧ (s.tile tile).committing.isNone = true ∧ s.intervalDue tile = true ∧ s.stopWaits tile = false then
    match s.pairOpen tile with
    | some core => execPairExchange core s
    | none => .next (s.endInterval tile)
  else .next s

/-- Every pair of the tile with instructions that no exchange has covered exchanges (R366). -/
def State.exchangePairs (s : State) (t : Nat) : State :=
  ((s.ctxs.filter fun c => c.core / 16 == t && c.run.onCore && c.paired && !c.csrs.pairctl.getLsbD 1 && decide (0 < c.pair.count)).map
    Ctx.core).foldl (fun s core =>
      match execPairExchange core s with
      | .next u => u
      | .fault _ | .refused _ => s) s

/-- A tile resumes on a physical tile that it shares: of its contexts that were running, those become ready whose core runs another one,
which they may pre-empt (R266, R397). -/
def State.joinHost (s : State) (t : Nat) : State :=
  (s.ctxs.filter fun c => c.core / 16 == t && c.run == .running &&
    s.ctxs.any fun x => x.core != c.core && s.sameCore x.core c.core && x.run.onCore).foldl (fun s c =>
      match c.launch with
      | some n => (s.updCtx c.core n fun x => { x with run := .ready }).requestFor c.core n
      | none => s) s

/-- The cores of a tile that no context is on take their earliest ready one (R266). -/
def State.dispatchTile (s : State) (t : Nat) : State := ((List.range 16).map fun i => t * 16 + i).foldl State.dispatch s

/-- LEHR_RESUME (R400): the tile runs, on every core the context that R266 chooses; the tile ends its
interval at once, once its pairs have exchanged (R366), with a full checkpoint when its buddy is new; contexts that it is owed are
created (R230). What comes before a stop comes before this one. -/
def execLehrResume (tile : Nat) (s : State) : Res :=
  if (s.tile tile).st ≠ .resume then .next s
  else
    let s := s.resendLost tile
    let s := s.updTile tile fun x => { x with st := .run, fenced := none, byWatch := false, committing := none }
    let s := ((s.joinHost tile).dispatchTile tile).exchangePairs tile
    if (s.tile tile).st ≠ .run then .next s
    else if s.stopWaits tile then .next ((s.updTile tile fun x => { x with endDue := true }).createOwed tile)
    else .next ((s.endInterval tile).createOwed tile)

/-- PLANNED_MIGRATION (R403): with a spare that qualifies, the tile's interval ends as any other does, and every agent of the tile
stands still until the commit and the flip are done (CHECKPOINT_COMMIT, REBINDING_FLIP); gangs dissolve (R128) and locks are lost
(R110). -/
def execPlannedMigration (tile : Nat) (s : State) : Res :=
  let x := s.tile tile
  let due := s.twoEvents x.phys || s.longWarm x.phys
  if x.st ≠ .run ∨ x.committing.isSome = true ∨ due = false ∨ s.responsesPending tile = true ∨ s.stopWaits tile = true then .next s
  else
    match s.spareFor tile, s.pairOpen tile with
    | none, _ => .next s
    | some _, some core => execPairExchange core s
    | some c, none =>
      let s := s.mapCtx fun u => if u.core / 16 == tile then { u.releaseSlots with gang := none } else u
      let s := (List.range 16).foldl (fun s i => s.loseLock (tile * 16 + i)) s
      -- the stream may meet an error that takes the tile out of service (R371)
      let s := s.endInterval tile
      .next (if (s.tile tile).st = .run then s.updTile tile fun x => { x with st := .migrate, chosen := some c } else s)

/-! ## Hardware faults -/

/-- A residue mismatch in the ME's active element (R370): the element writes nothing; a command of the open region asks for
a rollback, any other sends the tile into recovery. -/
def State.residueFailure (s : State) (core : Nat) : State :=
  match s.engCtx core with
  | none => s
  | some c =>
    match c.eng.me.cmds with
    | [] => s
    | x :: _ =>
      if x.started && !x.over && (x.opc == 1 || x.opc == 2) then
        s.requestRollback core (coreUnit (s.tile (core / 16)).phys core 1) (c.csrs.regpc.getLsbD 63 && c.inRegion x.num)
      else s

/-- A spare fails between FENCE and REPLAY (R394): it is recorded as lost, with the store in it, and the sequence starts again at
FENCE; one that a migration reserved leaves the tile where it is (R403). -/
def State.spareFailure (s : State) (t : Nat) : State :=
  let x := s.tile t
  let gone := fun (s : State) (p : Nat) => (s.markLost p).storeGone p
  let again := fun (s : State) (p : Nat) =>
    gone ((s.dropFlip t).updTile t fun x => { x with st := .fence, chosen := none }) p
  match x.st, x.chosen with
  | .migrate, some c => gone (s.staysPut t) c.1
  | .restore, some c => again s c.1
  | .flip, some c => again s c.1
  | .replay, _ => again s x.phys
  | _, _ => s

/-- Physical tiles that have read above 125 °C for 1 ms, 1,000,000 ticks (R9, R410). -/
def State.tooHot (s : State) : List Nat := (s.fabric.hot.filter fun h => decide (h.2 + 1000000 ≤ s.dtime)).map (·.1)

/-- A physical tile stays out of service until the next boot (R410). -/
def State.retire (s : State) (p : Nat) : State := { s with fabric := { s.fabric with retired := nadd s.fabric.retired p } }

/-- OVERTEMPERATURE: above 125 °C for 1 ms, the tile is detected for recovery and its physical tile stays out of service (R410). So does a
spare that no tile is bound to; one that a recovery has reserved has failed (R394). -/
def execOvertemperature (tile : Nat) (s : State) : Res :=
  let p := (s.tile tile).phys
  let s := if s.tooHot.elem p && !s.fabric.retired.elem p && (s.tile tile).st != .lost then (s.retire p).detect tile else s
  .next ((s.tooHot.filter fun q => (s.boundAt q).isNone && !s.fabric.retired.elem q).foldl (fun s q =>
    ((s.tiles.filter fun t => match t.2.chosen with
      | some c => c.1 == q
      | none => false).map (·.1)).foldl State.spareFailure (s.retire q)) s)

/-- The launch whose paired partition a peer's access to a tile may reach (R343); what had arrived whole when the peer was removed is
still performed (R347). -/
def State.pairedHere (s : State) (w tile : Nat) : Option Nat :=
  (s.launches.find? fun l => l.2.live && l.2.hasTile tile &&
    ((l.2.pairing w).isSome || (l.2.unpaired.elem w && !s.peerPresent w))).map (·.1)

/-- A write of a paired launch of a peer wafer into a tile (R343, R345, R347): nothing while flits of it are missing, and dropped
whole and counted when they can come no more; refused and counted outside the pairing; refused by a fenced tile; else its number
decides (R386), and it is performed with its bytes as a determinant. -/
def State.peerWrite (s : State) (w src tile off : Nat) (seq : BitVec 32) (bs : List Byte) (complete : Bool) : State :=
  if !complete then (if s.peerPresent w then s else s.count 2)
  else
    match s.pairedHere w tile with
    | none => s.count 5
    | some n =>
      if s.refusing tile then s
      else
        let c := s.channel (2 ^ 20 + w * 2 ^ 16 + src) (tile * 3)
        match seqTest c.accepted seq, s.remote (some n) (remoteBase + tile * 2 ^ 24 + off) with
        | .early, _ => s
        | .duplicate, _ => s.count 11
        | .inOrder, .ok loc =>
          ((((s.setChannel { c with accepted := seq }).noteStep tile 64).writeMem loc.key bs false false noName).noteDet tile
            (.value 64 bs))
        | .inOrder, .trap _ => s.count 5
        | .inOrder, .wait => s

/-- A read by a paired launch of a peer wafer (R199, R343): refused outside the pairing, answered as absent and counted; a fenced
tile, or one with determinants that its buddy has not acknowledged, does not answer yet. -/
def State.peerRead (s : State) (w tile off n : Nat) : State :=
  let answer := fun (s : State) (r : Reply) => { s with dev := { s.dev with reply := r } }
  match s.pairedHere w tile with
  | none => answer (s.count 5) ⟨[], true⟩
  | some l =>
    if s.refusing tile || s.detsOpen tile || !s.peerPresent w then s
    else
      match s.remote (some l) (remoteBase + tile * 2 ^ 24 + off) with
      | .ok loc =>
        let s := s.meetRead loc.key n noName
        answer s ⟨s.mem.read loc.key n, s.mem.marked loc.key n⟩
      | .trap _ => answer (s.count 5) ⟨[], true⟩
      | .wait => s

/-! ## The firewall of the firmware column (R408) -/

/-- A firmware core's access to memory passes its router: to the SRAM of its die, or by a grant of the configuration table. What a
grant names the spec does not lay out (free value, log entry 98). -/
def State.firmwareMay (s : State) (die key n : Nat) : Bool :=
  let base := devKey (sramBase + die * 0x8000000)
  decide (base ≤ key ∧ key + n ≤ base + 0x8000000) || (!s.dev.cfg.grants.isEmpty && Config.granted s.dev.cfg.grants key)

/-- A read of n bytes or a write by a firmware core of a die: a refused one is answered as absent and counted (R97, R408). -/
def State.firmwareAccess (s : State) (die key n : Nat) (data : Option (List Byte)) : State :=
  let n := match data with
    | some bs => bs.length
    | none => n
  let answer := fun (s : State) (r : Reply) => { s with dev := { s.dev with reply := r } }
  if !s.firmwareMay die key n then
    match data with
    | some _ => s.count 5
    | none => answer (s.count 5) ⟨List.replicate n 0xFF, false⟩
  else
    match data with
    | some bs => s.writeMem key bs false false noName
    | none => let s := s.meetRead key n noName; answer s ⟨s.mem.read key n, s.mem.marked key n⟩

/-! ## The MSI-X table (R275; log entry 80) -/

/-- A 32-bit word of BAR4: four words an entry, then the pending bits from 0x8000. -/
def State.msixWord (s : State) (port off : Nat) : BitVec 32 :=
  if off < 0x8000 then
    let e := s.msix port (off / 16)
    if off / 4 % 4 = 3 then (if e.getLsbD 96 then 1 else 0) else BitVec.ofNat 32 (e.toNat / 2 ^ (32 * (off / 4 % 4)))
  else if off < 0x8100 then
    BitVec.ofNat 32 (((List.range 32).map fun i =>
      if s.front.vectors.elem (port, (off - 0x8000) / 4 * 32 + i) then 2 ^ i else 0).sum)
  else 0

/-- The host writes a word of the table; a vector that is pending is delivered when its mask is cleared. -/
def State.msixPut (s : State) (port off : Nat) (x : BitVec 32) : State :=
  if !s.hostUp port || s.dev.state == .fail || decide (0x8000 ≤ off) then s
  else
    let v := off / 16
    let i := off / 4 % 4
    let x := if i = 3 then x &&& 1 else x
    let e := (s.msix port v).toNat
    let e' := e - bits e (32 * i + 31) (32 * i) * 2 ^ (32 * i) + x.toNat * 2 ^ (32 * i)
    let s : State := { s with front := { s.front with msix := ains s.front.msix (port * 2048 + v) (BitVec.ofNat 128 e') } }
    if !bit e' 96 && s.front.vectors.elem (port, v) then
      ({ s with front := { s.front with vectors := s.front.vectors.filter fun y => y != (port, v) } } : State).sendMsix port v
    else s

/-- An offset of a store lies in a part that holds the tile's current generations: the image, the staging of a commit in progress, and
the two generations (R380). -/
def TileSt.holds (x : TileSt) (off : Nat) : Bool :=
  decide (off < 0x400000) || (x.committing.isSome && decide (off < 0x580000)) || decide (0x580000 ≤ off ∧ off < 0x600000)

/-- A running tile takes a new buddy, or loses the previous store of a new one. -/
def State.newStore (s : State) (t : Nat) : State := if (s.tile t).oldStore.isSome then s.dropOld t else s.newBuddy t

/-- The store that keeps a tile's restore point meets an error (R298, R299): recorded; where it cannot be corrected and lies in a part that
holds the current generations, a running tile takes a new buddy (R379), and one that is being recovered from it is lost (R4, R394). -/
def State.storeError (s : State) (t off : Nat) (hard : Bool) : State :=
  let q := (s.tile t).store
  let s := s.errorRecord (if hard then 2 else 1) 2 noName (q * 2 ^ 52 + off) (physDie q)
  if !hard || !(s.tile t).holds off then s
  else
    match (s.tile t).st with
    | .run | .resume => s.newStore t
    | .migrate => (s.staysPut t).newStore t
    | .fence | .choose | .restore | .flip | .replay => s.loseTile t
    | .lost => s

/-- An error strikes a word of a listed VER line's slot, unless memory holds the slot's words (R298). -/
def State.slotFault (s : State) (line word : Nat) (second hard : Bool) : State :=
  match afind s.verLines line with
  | none => s
  | some l =>
    let x := if second then l.s1 else l.s0
    if l.newest = x then s
    else
      let m : BitVec 8 := BitVec.ofNat 8 (2 ^ word)
      { s with verLines := ains s.verLines line (l.upd second fun y =>
          if hard then { y with bad := y.bad ||| m } else { y with soft := y.soft ||| m }) }

/-- A drift-log entry that a replay needs cannot be read (R394): the tile is lost. -/
def State.driftError (s : State) (t : Nat) : State :=
  if (s.tile t).st = .replay ∧ s.fabric.drift.any (fun e => e.dst == t) = true then s.loseTile t else s

/-- What the outside world may do to the hardware (R275, R298, R343, R363, R368, R370, R379, R394), and to memory that is not the
device's. -/
def State.hwFault (s : State) : HwFault → State
  | .wordError k => if 2 ^ 42 ≤ k then s else { s with mem := { s.mem with bad := nadd s.mem.bad (s.guestKey (k / 8 * 8)) } }
  | .softError k => if 2 ^ 42 ≤ k then s else { s with mem := { s.mem with soft := nadd s.mem.soft (s.guestKey (k / 8 * 8)) } }
  | .checkError line check => { s with mem := { s.mem with
      badCheck := ains s.mem.badCheck (s.guestKey (line / 64 * 64)) check.toNat } }
  | .residue core => s.residueFailure core
  | .parity core unit => s.unitDetect (core / 16) (coreUnit (s.tile (core / 16)).phys core (unit % 4))
  | .pairUpset core reg => s.mapCtx fun c =>
      if c.core == core && c.run.onCore then
        { c with pair := { c.pair with upset := true }, regs := { c.regs with g := vset c.regs.g reg ⟨(vget GReg.zero c.regs.g reg).tag, (vget GReg.zero c.regs.g reg).val ^^^ 2⟩ } }
      else c
  | .buddyStore t off hard => s.storeError t off hard
  | .spareFails t => s.spareFailure t
  | .tileFails t => s.detect t
  | .driftLog t => s.driftError t
  | .firmwareAccess die key n data => s.firmwareAccess die key n data
  | .peerWrite w src t off seq bs complete => s.peerWrite w src t off seq bs complete
  | .peerRead w t off n => s.peerRead w t off n
  | .msixWrite port off x => s.msixPut port (off / 4 * 4) x
  | .msixRead port off =>
    if s.hostUp port && s.dev.state != .fail then { s with dev := { s.dev with reply := ⟨leBytes 4 (s.msixWord port (off / 4 * 4)).toNat, false⟩ } } else s
  | .peerMemory w t off bs => s.writeMem (peerKey w t off) bs false false noName
  | .slotError line word second hard => s.slotFault (line / 64 * 64) (word % 8) second hard
  | .peerTile w t st => { s with fabric := { s.fabric with peerTiles := aput 0 s.fabric.peerTiles (w * 2 ^ 16 + t) st } }
  | .hostMemory p a bs => s.writeMem (hostKey p a) bs false false noName

end Sys2Proof.Machine
end

