-- ==== Sys2Proof/Machine/Front.lean ====
section
/-! DEFINITION. The queue front end: rings, kicks, packets, pinning, LAUNCH and its checks, records of errors, and the host's
writes of queue and partition registers (R228 to R263, R276). -/

namespace Sys2Proof.Machine

/-! ## Reading a packet (R242, R245, R246) -/

/-- n bytes of a packet from an offset, little-endian. -/
def pkt (bs : List Byte) (off n : Nat) : Nat := leNat ((bs.drop off).take n)

/-- Key of the ring slot of an index (R235). -/
def Queue.ring (q : Queue) (i : BitVec 32) : Nat := qKey q.port (q.base + BitVec.ofNat 64 (64 * (i.toNat % q.size)))

/-- No byte of a range of device addresses lies in a drift-log area (R285). -/
def outOfDriftLogs (a n : Nat) : Bool :=
  (List.range 64).all fun d => !overlap a n (sramBase + d * 0x8000000 + 0x7000000) 0x1000000

/-- Every queue address of a range can be read: the host is there, or the device addresses are (R236, R285). -/
def State.qSpan (s : State) (port : Nat) (a : Word) (n : Nat) : Bool :=
  s.qReach port a && (n == 0 || (s.qReach port (a + BitVec.ofNat 64 (n - 1)) && (a.getLsbD 63 || outOfDriftLogs a.toNat n)))

/-- A read of n bytes at a queue address; none when it cannot be read or meets a poison mark. -/
def State.qRead (s : State) (port : Nat) (a : Word) (n : Nat) : State × Option (List Byte) :=
  if !s.qSpan port a n then (s, none)
  else
    let k := qKey port a
    let s := s.meetRead k n noName
    (s, if s.mem.marked k n then none else some (s.mem.read k n))

/-- Bits that an opcode assigns in a byte of its packet (R248, R253). -/
def assigned (op b : Nat) : Nat :=
  match op with
  | 1 => if b = 22 then 0x0F else if b = 23 then 0x1F else if b ≤ 51 then 0xFF else 0
  | 2 => if b = 4 ∨ b = 8 ∨ b = 9 then 0xFF else 0
  | 3 => if b = 8 then 0xF8 else if 9 ≤ b ∧ b ≤ 23 then 0xFF else 0
  | 4 => if 40 ≤ b ∧ b ≤ 47 then 0xFF else 0
  | 5 => if 40 ≤ b ∧ b ≤ 47 then 0xFF else 0
  | 6 => if b = 8 ∨ b = 16 ∨ b = 24 then 0xC0 else if 9 ≤ b ∧ b ≤ 31 then 0xFF else 0
  | _ => 0

/-- Flag bits that an opcode assigns. -/
def assignedFlags (op : Nat) : Nat :=
  match op with
  | 1 => 0x1F | 3 => 3 | 6 => 1 | _ => 0

/-- The byte offset of the first reserved bit that is set, or flags value not assigned (R246 code 0x03). -/
def reservedAt (bs : List Byte) : Option Nat :=
  let op := pkt bs 0 1
  let fl := pkt bs 1 1
  if Nat.land fl (255 - assignedFlags op) ≠ 0 ∨ (op = 1 ∧ fl % 4 = 3) then some 1
  else ((List.range 56).map (· + 4)).find? fun b => Nat.land (pkt bs b 1) (255 - assigned op b) != 0

/-- The checks of R246 on a packet's bytes: error code and offset; 0 when it is well formed. -/
def packetCheck (bs : List Byte) : Nat × Nat :=
  if (crc32c (bs.take 60)).toNat ≠ pkt bs 60 4 then (1, 0)
  else if pkt bs 0 1 = 0 ∨ pkt bs 0 1 > 7 then (2, 0)
  else match reservedAt bs with
    | some off => (3, off)
    | none => (0, 0)

/-- The packet at RIDX of a queue that reads one: its error code and offset, and its bytes where they were read. -/
def State.packetAt (s : State) (q : Nat) : State × Nat × Nat × Option (List Byte) :=
  let x := s.queue q
  let a := x.base + BitVec.ofNat 64 (64 * (x.ridx.toNat % x.size))
  if !s.qSpan x.port a 64 then (s, 5, 0, none)
  else
    let k := x.ring x.ridx
    let s := s.meetRead k 64 noName
    let bs := s.mem.read k 64
    if s.mem.marked k 64 then (s, 6, 0, some bs)
    else
      let (code, off) := packetCheck bs
      (s, code, off, some bs)

/-- A packet is in hand and waits. -/
def Queue.waiting (q : Queue) : Bool := q.hand.isSome

/-- A queue reads its next packet: RUNNING, RIDX ≠ WIDX, and no packet in hand (R242). -/
def Queue.reads (q : Queue) : Bool := q.st == .running && q.ridx != q.widx && !q.waiting

/-- The error record of R247. DESIGN CHOICE (log entry 117): where no packet was read (codes 0x04 and 0x05), the packet id, the CRC
computed and the bytes as read (bytes 2, 3 and 16 to 23) are 0. -/
def State.queueRecord (s : State) (x : Queue) (code off : Nat) (bs : Option (List Byte)) : List Byte :=
  let id := match bs with
    | some b => pkt b 2 2
    | none => 0
  let crc := match bs with
    | some b => (crc32c (b.take 60)).toNat
    | none => 0
  let chk := match bs with
    | some b => pkt b 60 4
    | none => 0
  withCrc ([BitVec.ofNat 8 code, BitVec.ofNat 8 off] ++ leBytes 2 id ++ leBytes 4 x.ridx.toNat ++ leBytes 8 s.dtime ++
    leBytes 4 crc ++ leBytes 4 chk ++ zeros 36)

/-- A queue enters ERROR, or meets an overrun there: RIDX frozen, record at QERRA where it can be written, vector (R241,
R244, R247). -/
def State.queueError (s : State) (q code off : Nat) (bs : Option (List Byte)) : State :=
  let x := s.queue q
  let r := s.queueRecord x code off bs
  let s := s.updQueue q fun x => { x with st := .error, err := BitVec.ofNat 8 code }
  let s := if s.qSpan x.port x.erra 64 then s.writeMem (qKey x.port x.erra) r false false noName else s
  s.raise x.port x.vec

/-- MALFORMED_PACKET: the packet at RIDX fails a check of R246 or cannot be read. -/
def execMalformedPacket (q : Nat) (s : State) : Res :=
  if !(s.queue q).reads then .next s
  else
    match s.packetAt q with
    | (t, code, off, bs) =>
      if code = 0 then .next s else .next (t.queueError q code off (if code = 5 then none else bs))

/-- RIDX moves past the packet in hand (R242). -/
def State.consumePacket (s : State) (q : Nat) : State := s.updQueue q fun x => { x with ridx := x.ridx + 1, hand := none, awaits := none, again := none }

/-- The packet that was read waits in hand. -/
def State.hold (s : State) (q : Nat) (bs : List Byte) : State := s.updQueue q fun x => { x with hand := some bs }

/-- Serve the well-formed packet of an opcode at RIDX. -/
def State.serve (s : State) (q op : Nat) (f : State → List Byte → State) : Res :=
  if !(s.queue q).reads then .next s
  else
    match s.packetAt q with
    | (t, 0, _, some bs) => if pkt bs 0 1 = op then .next (f t bs) else .next s
    | (_, _, _, _) => .next s

/-- A packet in hand is a WAITPKT that names a queue and an id, and the packet has not been read yet (R249). -/
def Queue.awaitsId (x : Queue) (q id : Nat) : Bool :=
  x.awaits.isNone && match x.hand with
    | some bs => pkt bs 0 1 == 2 && pkt bs 4 1 == q && pkt bs 8 2 == id
    | none => false

/-- Keep the id of a LAUNCH or COPY packet that was read; a WAITPKT that waits for it to be read waits for this packet from now on
(R249). -/
def State.keep (s : State) (q id : Nat) (ended : Bool) (launch : Option Nat) (copy : Option Nat := none) : State :=
  let k : KeptId := ⟨id, ended, launch, copy⟩
  let s := s.updQueue q fun x => { x with kept := (k :: x.kept).take 256 }
  let meet : Nat × Queue → Nat × Queue := fun y => if y.2.awaitsId q id then (y.1, { y.2 with awaits := some k }) else y
  { s with front := { s.front with queues := s.front.queues.map meet } }

/-- Every earlier LAUNCH and COPY of the queue has ended or been rejected (R248 WAITALL). -/
def State.allEnded (s : State) (q : Nat) : Bool :=
  (s.queue q).copies.isEmpty && !(s.launches.any fun l => l.2.pkt.queue == q && l.2.live)

/-! ## WAITPKT, SIGNAL, NOP (R248, R249) -/

/-- What a WAITPKT finds (R249): done, to be rejected, or to wait. -/
inductive WaitFor | ended | reject | wait
  deriving DecidableEq, Repr

/-- The kept packet that a WAITPKT names, the newest of its id (R249). -/
def State.keptFor (s : State) (bs : List Byte) : Option KeptId := (s.queue (pkt bs 4 1)).kept.find? fun k => k.id == pkt bs 8 2

/-- The case of R249 for a WAITPKT of queue q: the packet for which it waits already, else what is kept. -/
def State.waitCase (s : State) (q : Nat) (bs : List Byte) : WaitFor :=
  match (s.queue q).awaits.or (s.keptFor bs) with
  | some k => if k.ended then .ended else .wait
  | none => if pkt bs 4 1 = q then .reject else .wait

/-- WAITPKT served, first or again. -/
def State.serveWait (s : State) (q : Nat) (bs : List Byte) : State :=
  match s.waitCase q bs with
  | .ended => s.consumePacket q
  | .reject => (s.frontRecord q 3 6 (pkt bs 2 2) 0 0 0).consumePacket q
  | .wait => (s.hold q bs).updQueue q fun x => { x with awaits := x.awaits.or (s.keptFor bs) }

/-- WAITPKT (R249). -/
def execWaitpkt (q : Nat) (s : State) : Res := s.serve q 2 fun s bs => s.serveWait q bs

/-- An 8-byte write to a queue address, dropped and counted where it cannot be made, or when the host behind the queue's port is gone
(R248, R276). -/
def State.signalWrite (s : State) (port : Nat) (a : Word) (x : Nat) : State :=
  if s.hostUp port && s.qReach port a then s.writeMem (qKey port a) (leBytes 8 x) false false noName else s.count 2

/-- SIGNAL served, first or again. -/
def State.serveSignal (s : State) (q : Nat) (bs : List Byte) : State :=
  if bit (pkt bs 1 1) 0 && !s.allEnded q then s.hold q bs
  else
    let x := s.queue q
    let s := s.signalWrite x.port (BitVec.ofNat 64 (pkt bs 8 8)) (pkt bs 16 8)
    let s := if bit (pkt bs 1 1) 1 then s.raise x.port x.vec else s
    s.consumePacket q

/-- SIGNAL (R248). -/
def execSignal (q : Nat) (s : State) : Res := s.serve q 3 fun s bs => s.serveSignal q bs

/-- NOP (R248). -/
def execNop (q : Nat) (s : State) : Res := s.serve q 7 fun s _ => s.consumePacket q

/-! ## COPY (R248) -/

/-- The copy of a COPY packet starts, and the packet is consumed. -/
def State.startCopy (s : State) (q num : Nat) (bs : List Byte) : State :=
  let job : CopyJob := { id := pkt bs 2 2, num := num, src := pkt bs 8 8, dst := pkt bs 16 8, len := pkt bs 24 8 }
  (s.updQueue q fun x => { x with copies := x.copies ++ [job] }).consumePacket q

/-- The COPY in hand of a queue: the last packet of R249 that was read from it. -/
def Queue.heldCopy (x : Queue) : Nat := ((x.kept.head?).bind KeptId.copy).getD 0

/-- The COPY whose packet RESUME reads again: the one in hand, or the one of an earlier RESUME (R241, R249). -/
def Queue.copyAgain (x : Queue) : Option Nat :=
  match x.hand with
  | some bs => if pkt bs 0 1 = 6 then some x.heldCopy else none
  | none => x.again

/-- The number under which the id of a COPY packet is kept already, when it is read again (R249). -/
def Queue.keptAgain (x : Queue) (id : Nat) : Option Nat :=
  x.again.filter fun n => x.kept.any fun k => k.copy == some n && k.id == id

/-- COPY served, first or again: its id is kept when it is read, and the copy starts when nothing holds it up. -/
def State.serveCopy (s : State) (q : Nat) (bs : List Byte) : State :=
  let wait := bit (pkt bs 1 1) 0 && !s.allEnded q
  if (s.queue q).waiting then if wait then s else s.startCopy q (s.queue q).heldCopy bs
  else
    let (num, s) := match (s.queue q).keptAgain (pkt bs 2 2) with
      | some n => (n, s)
      | none => (s.nextId, ({ s with nextId := s.nextId + 1 } : State).keep q (pkt bs 2 2) false none (some s.nextId))
    if wait then s.hold q bs else s.startCopy q num bs

/-- COPY (R248). -/
def execCopy (q : Nat) (s : State) : Res := s.serve q 6 fun s bs => s.serveCopy q bs

/-- One 64-byte line of a copy: bytes, poison marks by word, and the check the source carries; a line that leaves the
device is compared first (R178, R192, R374). Capability tags stay behind. -/
def State.copyLine (s : State) (port : Nat) (src dst : Word) : State :=
  let a := qKey port src
  let b := qKey port dst
  let s := s.meetRead a 64 noName
  let s := if dst.getLsbD 63 && !src.getLsbD 63 then (s.leave (port, 0) a).1 else s
  let bs := s.mem.read a 64
  let marks := (List.range 8).filter fun i => nmem s.mem.marks (a + 8 * i)
  let check := if src.getLsbD 63 then none else (s.mem.badCheck.find? fun c => c.1 == a).map (·.2)
  let s := (s.writeMem b bs false false noName).carryCheck b check
  { s with mem := { s.mem with marks := marks.foldl (fun ms i => nadd ms (b + 8 * i)) s.mem.marks } }

/-- The lines of a copy in ascending order. -/
def State.copyLines (s : State) (port : Nat) (src dst : Word) : Nat → State
  | 0 => s
  | n + 1 => (s.copyLine port src dst).copyLines port (src + 64) (dst + 64) n

/-- A copy as a whole, with its END record of code 0x05, or 0x06 when a side is unreadable or absent (R248). -/
def State.finishCopy (s : State) (q : Nat) (j : CopyJob) : State :=
  let port := (s.queue q).port
  let src : Word := BitVec.ofNat 64 j.src
  let dst : Word := BitVec.ofNat 64 j.dst
  let ok := s.qSpan port src j.len && s.qSpan port dst j.len
  let s := if ok then s.copyLines port src dst (j.len / 64) else s
  let s := s.keptEnded fun k => k.copy == some j.num
  s.frontRecord q 2 (if ok then 5 else 6) j.id 0 0 0

/-- COPY_DONE: the n-th copy in progress of a queue ends (R248). -/
def execCopyDone (q n : Nat) (s : State) : Res :=
  match (s.queue q).copies[n]? with
  | some j => .next ((s.updQueue q fun x => { x with copies := x.copies.eraseIdx n }).finishCopy q j)
  | none => .next s

/-! ## The working-set descriptor (R256) -/

/-- A descriptor as read. -/
structure WSet where
  root : Nat
  ranges : List WRange
  relocs : List Nat
  deriving DecidableEq, Repr

/-- Page size of a SIZE code (R256). -/
def sizeBits (code : Nat) : Nat := if code = 0 then 16 else if code = 1 then 21 else 30

/-- One range's 16 bytes; none when malformed. -/
def parseRange (bs : List Byte) : Option WRange :=
  let va := pkt bs 0 8; let n := pkt bs 8 4; let sz := pkt bs 12 1; let cls := pkt bs 13 1; let kind := pkt bs 14 1
  if sz > 2 ∨ cls > 3 ∨ kind > 1 ∨ pkt bs 15 1 ≠ 0 ∨ n = 0 ∨ va % 2 ^ sizeBits sz ≠ 0 then none
  else if kind = 1 ∧ cls ≠ 0 then none
  else some { va := va, count := n, bits := sizeBits sz, cls := cls, text := kind == 1 }

def WRange.len (r : WRange) : Nat := r.count * 2 ^ r.bits

/-- Two ranges meet. -/
def WRange.meets (a b : WRange) : Bool := decide (a.va < b.va + b.len ∧ b.va < a.va + a.len)

/-- No two ranges of a list meet. -/
def rangesApart : List WRange → Bool
  | [] => true
  | r :: rs => rs.all (fun x => !r.meets x) && rangesApart rs

/-- The pieces of a list of bytes. -/
def pieces (n : Nat) : Nat → List Byte → List (List Byte)
  | 0, _ => []
  | k + 1, bs => bs.take n :: pieces n k (bs.drop n)

/-- What reading a descriptor gives: unreadable (code 0x04), malformed (code 0x05), or its content. -/
inductive WRead | unreadable | malformed | ok (w : WSet)
  deriving DecidableEq, Repr

/-- The checks of R256 over what was read. -/
def parseWSet (hdr rs rel : List Byte) : WRead :=
  let n := pkt hdr 8 2
  let m := pkt hdr 10 2
  let ranges := (pieces 16 n rs).map parseRange
  let relocs := (pieces 8 m rel).map leNat
  if pkt hdr 12 4 ≠ 0 ∨ pkt hdr 24 8 ≠ 0 ∨ ranges.any Option.isNone = true then .malformed
  else
    let rgs := ranges.filterMap id
    let inRange : Nat → Bool := fun a => rgs.any fun r => decide (r.va ≤ a ∧ a + 16 ≤ r.va + r.len)
    if !rangesApart rgs || (rgs.filter fun r => r.text).length != 1 || relocs.any (fun a => a % 16 != 0 || !inRange a) then
      .malformed
    else .ok { root := pkt hdr 0 8, ranges := rgs, relocs := relocs }

/-- Read and check a descriptor at a queue address (R256). -/
def State.readWSet (s : State) (port : Nat) (a : Word) : State × WRead :=
  if a.toNat % 64 ≠ 0 then (s, .malformed)
  else
    match s.qRead port a 32 with
    | (s, none) => (s, .unreadable)
    | (s, some hdr) =>
      let n := pkt hdr 8 2
      if n = 0 ∨ n > 1024 then (s, .malformed)
      else
        match s.qRead port (a + 32) (16 * n) with
        | (s, none) => (s, .unreadable)
        | (s, some rs) =>
          if pkt hdr 10 2 = 0 then (s, parseWSet hdr rs [])
          else
            match s.qRead port (BitVec.ofNat 64 (pkt hdr 16 8)) (8 * pkt hdr 10 2) with
            | (s, none) => (s, .unreadable)
            | (s, some rel) => (s, parseWSet hdr rs rel)

/-! ## Pinning (R257, R296) -/

/-- Frames that the walk of an address touches (R292, R296). -/
def walkFrames (s : State) (va : Nat) : Nat → Nat → Nat → List Nat
  | 0, _, _ => []
  | fuel + 1, lvl, n =>
    let e := s.mem.nat (devKey (n + 8 * walkIndex lvl va)) 8
    devKey (n / 2 ^ 16 * 2 ^ 16) :: (if bit e 1 then [] else walkFrames s va fuel (lvl + 1) (bits e 63 8 * 256))

/-- Pin a page or frame once more. -/
def addPin (pins : List Pin) (p : Pin) : List Pin :=
  if pins.any fun x => x.code == p.code then pins.map fun x => if x.code = p.code then { x with count := x.count + 1 } else x
  else pins ++ [p]

/-- A page overlaps a page pinned under another class (R257). -/
def classClash (pins : List Pin) (key bits cls : Nat) : Bool :=
  pins.any fun p => p.cls != 4 && p.cls != cls && decide (p.key < key + 2 ^ bits ∧ key < p.key + 2 ^ p.bits)

/-- A page that the host's port has left cannot be made resident (R257, R276). -/
def State.resident (s : State) (key : Nat) : Bool := !s.portAbsent key

/-- At its first pinning a VER page holds version 0 with its present contents, and both floors are 0 (R111). -/
def State.freshVer (s : State) (key bits : Nat) : State :=
  { s with
    verLines := s.verLines.filter fun l => !(decide (key ≤ l.1 ∧ l.1 < key + 2 ^ bits))
    verPages := s.verPages.filter fun p => !(decide (key ≤ p.1 ∧ p.1 < key + 2 ^ bits)) }

/-- Pin one page: the state with its page and frames pinned, and the codes of the pins made. -/
def State.pinPage (s : State) (w : WSet) (va : Nat) : Option (State × List Nat) :=
  if w.root % 2 ^ 16 ≠ 0 then none
  else
    match walkFrom s w.ranges va none 4 0 w.root with
    | none => none
    | some lf =>
      if !s.resident lf.key || classClash s.front.pins lf.key lf.bits lf.cls then none
      else
        let page : Pin := { key := lf.key, bits := lf.bits, cls := lf.cls, count := 1 }
        let new := !(s.front.pins.any fun p => p.code == page.code)
        let s := if new && lf.cls == 1 then s.freshVer lf.key lf.bits else s
        let frames : List Pin := (walkFrames s va 4 0 w.root).eraseDups.map fun k => { key := k, bits := 16, cls := 4, count := 1 }
        let all := page :: frames
        some ({ s with front := { s.front with pins := all.foldl addPin s.front.pins } }, all.map Pin.code)

/-- Pin pages in ascending order; what was pinned before a failure is answered too. -/
def State.pinPages (s : State) (w : WSet) (done : List Nat) : List Nat → State × List Nat × Bool
  | [] => (s, done, true)
  | va :: rest =>
    -- the walk meets what its reads meet (R298)
    let s := if w.root % 2 ^ 16 = 0 then (walkKeys s va none 4 0 w.root).foldl (fun s k => s.meetRead k 8 noName) s else s
    match s.pinPage w va with
    | none => (s, done, false)
    | some (s, ps) => s.pinPages w (done ++ ps) rest

/-- The pages of a working set, range by range. -/
def WSet.pages (w : WSet) : List Nat := w.ranges.flatMap fun r => (List.range r.count).map fun i => r.va + i * 2 ^ r.bits

/-- The set of R67 for a range's KIND. -/
def kindPerms (text : Bool) : Nat := if text then permText else permSpad

/-- A relocation granule encodes a capability that R257 allows. -/
def relocOk (ranges : List WRange) (c : Payload) : Bool :=
  capOk c && ranges.any fun r => decide (r.va ≤ capBase c ∧ capBase c + capLen c ≤ r.va + r.len) &&
    Nat.land (capPerms c) (kindPerms r.text) == capPerms c

/-- Read each relocation granule and set its tag (R257): 0, or the rejection code. -/
def State.relocate (s : State) (w : WSet) : List Nat → State × Nat
  | [] => (s, 0)
  | va :: rest =>
    match walkFrom s w.ranges va none 4 0 w.root with
    | none => (s, 4)
    | some lf =>
      let k := lf.key + va % 2 ^ lf.bits
      let s := s.meetRead k 16 noName
      if s.mem.marked k 16 then (s, 4)
      else if !relocOk w.ranges (BitVec.ofNat 128 (s.mem.nat k 16)) then (s, 5)
      else ({ s with mem := { s.mem with tags := nadd s.mem.tags k } } : State).relocate w rest

/-- Pin a working set: 0 and the pins, or the code of the first failure with its pins released (R257). -/
def State.pinSet (s : State) (w : WSet) : State × Nat × List Nat :=
  let unpin := fun (s : State) (ps : List Nat) => { s with front := { s.front with pins := releasePins s.front.pins ps } }
  match s.pinPages w [] w.pages with
  | (s, ps, false) => (unpin s ps, 4, [])
  | (s, ps, true) =>
    match s.relocate w w.relocs with
    | (s, 0) => (s, 0, ps)
    | (s, code) => (unpin s ps, code, [])

/-- PIN served: consumed when pinning succeeds, or fails with a REJECT record of code 0x04 (R248). -/
def State.servePin (s : State) (q : Nat) (bs : List Byte) : State :=
  let reject := fun (s : State) => (s.frontRecord q 3 4 (pkt bs 2 2) 0 0 0).consumePacket q
  match s.readWSet (s.queue q).port (BitVec.ofNat 64 (pkt bs 40 8)) with
  | (s, .ok w) =>
    match s.pinSet w with
    | (s, 0, ps) =>
      let job : PinJob := { queue := q, wset := pkt bs 40 8, pins := ps }
      ({ s with front := { s.front with pinJobs := s.front.pinJobs ++ [job] } } : State).consumePacket q
    | (s, _, _) => reject s
  | (s, .unreadable) => reject s
  | (s, .malformed) => reject s

/-- PIN (R248). -/
def execPin (q : Nat) (s : State) : Res := s.serve q 4 fun s bs => s.servePin q bs

/-- UNPIN served: pins made by PIN packets of this queue with the same descriptor address are released (R248). -/
def State.serveUnpin (s : State) (q : Nat) (bs : List Byte) : State :=
  let mine : PinJob → Bool := fun j => j.queue == q && j.wset == pkt bs 40 8
  let pins := (s.front.pinJobs.filter mine).foldl (fun ps j => releasePins ps j.pins) s.front.pins
  ({ s with front := { s.front with pins := pins, pinJobs := s.front.pinJobs.filter fun j => !mine j } } : State).consumePacket q

/-- UNPIN (R248). -/
def execUnpin (q : Nat) (s : State) : Res := s.serve q 5 fun s bs => s.serveUnpin q bs

/-! ## Partitions (R260, R261) -/

/-- A partition table entry. -/
def State.part (s : State) (h : Nat) : Part := aget Part.reset s.front.parts h

/-- The valid domains of an entry, INDEX included. -/
def Part.domains (p : Part) : List Word :=
  (List.range 4).filterMap fun k =>
    let d := vget 0 p.dom k
    if domValid d then some (d ||| BitVec.ofNat 64 k) else none

/-- Two lists share a tile. -/
def tilesMeet (a b : List Nat) : Bool := a.any b.elem

/-- No two domains share a tile. -/
def domainsApart : List Word → Bool
  | [] => true
  | d :: ds => ds.all (fun e => !tilesMeet (domTiles d) (domTiles e)) && domainsApart ds

/-- A partition is usable (R261). -/
def State.usable (s : State) (h : Nat) : Bool :=
  let ds := (s.part h).domains
  let fits : Word → Bool := fun d => match s.rectOf (domOrigin d) with
    | some r => domFits r d
    | none => false
  decide (1 ≤ h ∧ h ≤ 127) && domValid (vget 0 (s.part h).dom 0) && ds.all fits && domainsApart ds &&
    !(s.launches.any fun l => l.2.live && l.2.pkt.handle != h && tilesMeet l.2.tiles (ds.flatMap domTiles))

/-! ## LAUNCH (R253 to R263) -/

/-- The lowest P at which a reservation is free on every core of the partition (R258). DESIGN CHOICE (log entry 116): a held
successor takes its reservation, and one of the 8 contexts of a core, from its admission on (R230). -/
def State.place (s : State) (tiles : List Nat) (size : Nat) : Option Nat :=
  let here := (s.launches.filter fun l => l.2.live && tilesMeet l.2.tiles tiles).map (·.2)
  let busy := here.map fun l => (l.base, l.base + reservation l.pkt.foot l.pkt.accn l.pkt.specok)
  if tiles.any fun t => decide ((here.filter fun l => l.hasTile t).length ≥ 8) then none
  else
    ((List.range 30).map (· * 4096)).find? fun p =>
      decide (p + size ≤ 0x1E000) && busy.all fun b => decide (p + size ≤ b.1 ∨ b.2 ≤ p)

/-- Fields of a LAUNCH packet (R253), with what the descriptor and the queue give. -/
def launchPkt (q : Nat) (bs : List Byte) (pred : Option Nat) (w : WSet) (args : List Word) : LaunchPkt :=
  let fl := pkt bs 1 1
  let tcm := pkt bs 20 4
  { queue := q, pid := pkt bs 2 2, handle := pkt bs 4 4, budget := pkt bs 16 4, ovr := fl % 4, dlab := bit fl 4
    hint := bit fl 3, every := bit fl 2, foot := bits tcm 19 0, accn := bits tcm 27 24, specok := bit tcm 28
    entry := pkt bs 24 8, args := args, pred := pred, root := w.root, ranges := w.ranges, wset := pkt bs 40 8 }

/-- The values of R255 that the packet alone decides. -/
def State.packetValues (s : State) (q : Nat) (bs : List Byte) : Bool :=
  let foot := bits (pkt bs 20 4) 19 0
  let twin := (s.queue q).admitted.any fun n => match s.launch? n with
    | some l => l.live && l.pkt.pid == pkt bs 2 2
    | none => false
  decide (foot % 4096 = 0 ∧ 4096 ≤ foot ∧ foot ≤ 94208) && decide (bits (pkt bs 20 4) 27 24 ≤ 8) &&
    decide (pkt bs 16 4 ≠ 0) && decide (pkt bs 32 8 % 8 = 0) && !twin

/-- The entry lies in the text range (R255). -/
def entryOk (w : WSet) (entry : Nat) : Bool :=
  entry % 4 == 0 && w.ranges.any fun r => r.text && decide (r.va ≤ entry ∧ entry < r.va + r.len)

/-- The predecessor that a packet names among the queue's last 256 admitted launches, the newest first (R228). -/
def State.predOf (s : State) (q p : Nat) : Option Nat :=
  (s.queue q).admitted.find? fun n => match s.launch? n with
    | some l => l.pkt.pid == p
    | none => false

/-- A launch starts at admission unless its predecessor has neither hinted nor ended (R230); one whose end waits for a tile's resume
has not ended (R402). -/
def State.heldAt (s : State) (pred : Option Nat) : Bool :=
  match pred.bind s.launch? with
  | some p => (p.live || p.toFree) && !p.hinted
  | none => false

/-- The admission test of R262 with a new entry: the first deadline at which it fails. -/
def State.admissionFails (s : State) (handle deadline budget c2 : Nat) : Option Nat :=
  if deadline ≤ s.dtime then some deadline
  else failsAt ((s.admittedSet handle).map (fun p => (p.2.deadline, p.2.rem)) ++ [(deadline, ((budget * 1024 : Nat) : Int))]) s.dtime c2
    s.front.admfrac.toNat

/-- The argument block: five words, zero for address 0 (R203, R255). -/
def State.argBlock (s : State) (port : Nat) (a : Nat) : State × Option (List Word) :=
  if a = 0 then (s, some [0, 0, 0, 0, 0])
  else match s.qRead port (BitVec.ofNat 64 a) 40 with
    | (s, some bs) => (s, some ((pieces 8 5 bs).map fun b => BitVec.ofNat 64 (leNat b)))
    | (s, none) => (s, none)

/-- The checks 2 to 6 of R263: the code and bytes 8 to 15 of the REJECT record, or what admission needs. -/
def State.admission (s : State) (q : Nat) (bs : List Byte) : (Nat × Nat) ⊕ (Option Nat × Nat) :=
  let h := pkt bs 4 4
  if !s.usable h then .inl (7, 0)
  else
    let p := pkt bs 48 4
    let pred := if p = 0 then none else s.predOf q p
    if p ≠ 0 ∧ pred.isNone = true then .inl (6, 0)
    else
      let tiles := (s.part h).domains.flatMap domTiles
      let c2 := s.cap2 tiles
      if (s.admittedSet h).length ≥ 256 ∨ c2 = 0 then .inl (2, 0)
      else
        match s.admissionFails h (pkt bs 8 8) (pkt bs 16 4) c2 with
        | some d => .inl (1, d)
        | none =>
          let tcm := pkt bs 20 4
          match s.place tiles (reservation (bits tcm 19 0) (bits tcm 27 24) (bit tcm 28)) with
          | none => .inl (3, 0)
          | some base => .inr (pred, base)

/-- A rejected LAUNCH (R232, R251, R263). -/
def State.rejectLaunch (s : State) (q : Nat) (bs : List Byte) (code b8 : Nat) : State :=
  ((s.keep q (pkt bs 2 2) true none).frontRecord q 3 code (pkt bs 2 2) (pkt bs 4 4) b8 0).consumePacket q

/-- An admitted LAUNCH: the launch is recorded, and its contexts are created unless it is held (R230, R253). -/
def State.admitLaunch (s : State) (q : Nat) (bs : List Byte) (pred : Option Nat) (base : Nat) (w : WSet) (args : List Word)
    (pins : List Nat) : State :=
  let n := s.nextLaunch
  let p := launchPkt q bs pred w args
  let l : Launch :=
    { pkt := p, st := .held, domains := (s.part p.handle).domains, base := base, deadline := pkt bs 8 8, demoted := false
      pool := p.budget * 1024, charged := 0, admitted := s.dtime, hinted := false, published := false, missed := false
      recovery := 0, recovered := false, paired := [], unpaired := [], shares := [], sweep := [], wave := none
      pins := pins, raw := [], unlimited := false, endRec := none, toFree := false }
  let s : State := { s with launches := ains s.launches n l, nextLaunch := n + 1 }
  let s := (s.keep q p.pid false (some n)).updQueue q fun x => { x with admitted := (n :: x.admitted).take 256 }
  let s := s.consumePacket q
  if s.heldAt pred then s else s.createContexts n

/-- LAUNCH served: the checks of R263 in order, then admission. -/
def State.serveLaunch (s : State) (q : Nat) (bs : List Byte) : State :=
  let port := (s.queue q).port
  if !s.packetValues q bs then s.rejectLaunch q bs 5 0
  else
    match s.readWSet port (BitVec.ofNat 64 (pkt bs 40 8)) with
    | (s, .unreadable) => s.rejectLaunch q bs 4 0
    | (s, .malformed) => s.rejectLaunch q bs 5 0
    | (s, .ok w) =>
      if !entryOk w (pkt bs 24 8) then s.rejectLaunch q bs 5 0
      else
        match s.admission q bs with
        | .inl (code, b8) => s.rejectLaunch q bs code b8
        | .inr (pred, base) =>
          match s.argBlock port (pkt bs 32 8) with
          | (s, none) => s.rejectLaunch q bs 4 0
          | (s, some args) =>
            match s.pinSet w with
            | (s, 0, pins) => s.admitLaunch q bs pred base w args pins
            | (s, code, _) => s.rejectLaunch q bs code 0

/-- LAUNCH (R253, R263). -/
def execLaunch (q : Nat) (s : State) : Res := s.serve q 1 fun s bs => s.serveLaunch q bs

/-- PACKET_WAIT_END: the packet in hand that waits is consumed when what it awaits has ended (R248, R249); nothing is served outside
RUNNING (R242). -/
def execPacketWaitEnd (q : Nat) (s : State) : Res :=
  let x := s.queue q
  match x.st, x.hand with
  | .running, some bs =>
    match pkt bs 0 1 with
    | 2 => .next (s.serveWait q bs)
    | 3 => .next (s.serveSignal q bs)
    | 6 => .next (s.serveCopy q bs)
    | _ => .next s
  | _, _ => .next s

/-! ## Queue registers (R238 to R244) -/

/-- Queue registers answer only once the device is READY; before that a write is discarded and counted (R404). -/
def State.ready (s : State) : Bool := s.dev.state == .ready

/-- A host write that is discarded and counted (R14, R237). -/
def State.discardWrite (s : State) : State := s.count 0

/-- QKICK (R243, R244). -/
def State.kick (s : State) (q : Nat) (k : BitVec 32) : State :=
  let x := s.queue q
  if !s.ready then s.discardWrite
  else
    let d := (k - x.widx).toNat
    if x.st = .disabled ∨ d = 0 ∨ d > x.size then
      s.updQueue q fun x => { x with stale := if x.stale = 0xFFFF then x.stale else x.stale + 1 }
    else
      let s := s.updQueue q fun x => { x with widx := k }
      if (k - x.ridx).toNat > x.size then s.queueError q 4 0 none else s

/-- QKICK (R243). -/
def execQkick (q : Nat) (k : BitVec 32) (s : State) : Res := .next (if q < 256 then s.kick q k else s)

/-- A QCTL command in a state that lists it; any other is discarded and counted (R241). -/
def State.qctl (s : State) (q cmd : Nat) : State :=
  let x := s.queue q
  if !s.ready then s.discardWrite
  else
    match cmd, x.st with
    | 1, .disabled => s.updQueue q fun x => { x with
        st := .running, widx := 0, ridx := 0, msgw := 0, msgh := 0, stale := 0, err := 0, hand := none, awaits := none, again := none }
    | 2, .running => s.updQueue q fun x => { x with st := .disabled, err := 0, hand := none, awaits := none, again := none }
    | 2, .error => s.updQueue q fun x => { x with st := .disabled, err := 0, hand := none, awaits := none, again := none }
    | 3, .error => s.updQueue q fun x => { x with st := .running, err := 0, hand := none, awaits := none, again := x.copyAgain }
    | 4, .error => s.updQueue q fun x => { x with st := .running, err := 0, ridx := x.ridx + 1, hand := none, awaits := none, again := none }
    | 5, _ => s.updQueue q fun x => { x with stale := 0 }
    | _, _ => s.discardWrite

/-- ENABLE (R241). -/
def execEnable (q : Nat) (s : State) : Res := .next (if q < 256 then s.qctl q 1 else s)
/-- DISABLE: a packet that waits is abandoned (R241, R249). -/
def execDisable (q : Nat) (s : State) : Res := .next (if q < 256 then s.qctl q 2 else s)
/-- RESUME (R241). -/
def execQctlResume (q : Nat) (s : State) : Res := .next (if q < 256 then s.qctl q 3 else s)
/-- SKIP (R241). -/
def execSkip (q : Nat) (s : State) : Res := .next (if q < 256 then s.qctl q 4 else s)
/-- CLRSTALE (R241). -/
def execClrstale (q : Nat) (s : State) : Res := .next (if q < 256 then s.qctl q 5 else s)

/-- A write to a register of a queue block (R238, R239). -/
def State.queueWrite (s : State) (q r value : Nat) : State :=
  let idle := (s.queue q).st == .disabled
  let w : Word := BitVec.ofNat 64 value
  if !s.ready then s.discardWrite
  else
    match r with
    | 0x00 => if idle && value % 64 == 0 then s.updQueue q fun x => { x with base := w } else s.discardWrite
    | 0x08 =>
      if idle && bits value 63 29 == 0 && bits value 8 0 == 0 && decide (bits value 12 9 < 13 ∧ bits value 16 13 < 13) then
        s.updQueue q fun x => { x with cfg := w }
      else s.discardWrite
    | 0x10 => s.kick q (BitVec.ofNat 32 value)
    | 0x14 => s
    | 0x18 => s
    | 0x1C => if bits value 21 16 == 0 then s else s.discardWrite
    | 0x20 => if idle && value % 64 == 0 then s.updQueue q fun x => { x with erra := w } else s.discardWrite
    | 0x28 => if idle && value % 32 == 0 then s.updQueue q fun x => { x with msga := w } else s.discardWrite
    | 0x30 => s
    | 0x34 => s.updQueue q fun x => { x with msgh := BitVec.ofNat 32 value }
    | 0x38 => if bits value 31 4 == 0 then s.qctl q (value % 16) else s.discardWrite
    | _ => s.discardWrite

/-- A 64-bit write to the partition table (R260): entry 0, RSV bits, a domain descriptor with INDEX set, or an entry of a
handle with a launch admitted is discarded and counted; a write to an entry refills its reserve (R269). -/
def State.partWrite (s : State) (off value : Nat) : State :=
  let h := off / 64
  let i := off % 64 / 8
  let live := s.launches.any fun l => l.2.live && l.2.pkt.handle == h
  let bad := if i < 4 then bits value 63 29 != 0 || value % 4 != 0 else if i = 4 then bits value 63 32 != 0 else value != 0
  if off % 8 ≠ 0 ∨ h = 0 ∨ h > 127 ∨ live = true ∨ bad = true then s.discardWrite
  else
    let p := s.part h
    let p := if i < 4 then { p with dom := vset p.dom i (BitVec.ofNat 64 value) }
      else if i = 4 then { p with reserve := BitVec.ofNat 32 value } else p
    { s with front := { s.front with parts := aput Part.reset s.front.parts h { p with left := p.reserve.toNat * 1024 } } }

/-- PARTITION_TABLE_WRITE: `off` counts from the table's start (R260). -/
def execPartitionTableWrite (off value : Nat) (s : State) : Res := .next (s.partWrite off value)

/-! ## Host ports (R276, R349) -/

/-- A SIGNAL in hand of a queue whose host goes is dropped and counted (R276). -/
def State.dropSignal (s : State) (q : Nat) : State :=
  match (s.queue q).hand with
  | some bs => if pkt bs 0 1 = 3 then (s.count 2).updQueue q fun x => { x with hand := none } else s
  | none => s

/-- HOST_PORT_DOWN (R276): its RUNNING queues enter ERROR with code 0x05, host memory behind it is absent, and a summary
being written there is abandoned (R413). -/
def execHostPortDown (port : Nat) (s : State) : Res :=
  if port > 1 then .next s
  else
    let f := s.fabric
    let f := if port = 0 then { f with hostUp0 := false } else { f with hostUp1 := false }
    let s : State := { s with fabric := f }
    let qs := (s.front.queues.filter fun q => q.2.st == .running && q.2.port == port).map (·.1)
    let s := qs.foldl (fun s q => (s.dropSignal q).queueError q 5 0 none) s
    let r := s.dev.resync
    .next (if r.busy && r.addr.getLsbD 63 && port == 0 then { s with dev := { s.dev with resync := { r with busy := false } } } else s)

/-- HOST_PORT_UP (R349): host memory is reachable again; the queues stay as they are. -/
def execHostPortUp (port : Nat) (s : State) : Res :=
  let f := s.fabric
  if port = 0 then .next { s with fabric := { f with hostUp0 := true } }
  else if port = 1 then .next { s with fabric := { f with hostUp1 := true } }
  else .next s

end Sys2Proof.Machine
end

