-- ==== Sys2Proof/Machine/Links.lean ====
section
/-! DEFINITION. Seam links, Gale ports and mesh links: flits and their acknowledgement, replay, sparing, training, links that
go DOWN, and peer wafers that are paired and removed (R337 to R349). -/

namespace Sys2Proof.Machine

/-! ## Links that go DOWN (R340, R344, R347) -/

/-- Ticks in which two training attempts are the most (R339). -/
def trainWindow : Nat := 1000000000

/-- Training attempts of a link in the last 10^9 ticks. -/
def State.recentAttempts (s : State) (l : Link) : List Nat := l.attempts.filter fun d => decide (s.dtime < d + trainWindow)

/-- Unacknowledged flits of a link that goes DOWN are sent on its substitute, in their order (R340). -/
def Link.take (l : Link) : List Flit → Link
  | [] => l
  | f :: fs => (l.enqueue f).take fs

/-- Messages whose flits have all arrived are performed before what they came from turns absent (R347). -/
def State.landed (s : State) : State := (s.net.map (·.id)).foldl (fun s i => (s.arrive i).respond i) s

/-- A peer wafer is removed: every pairing with it is lost for good (R343, R347). -/
def State.removePeer (s : State) (w : Nat) : State :=
  { s with launches := s.launches.map fun l =>
      if (l.2.pairing w).isSome then
        (l.1, { l.2 with paired := l.2.paired.filter fun p => p.wafer != w, unpaired := l.2.unpaired ++ [w] })
      else l }

/-- Nothing waits to be acknowledged on a link any more. -/
def Link.cleared (l : Link) : Link := { l with buffer := [], fails := 0, nack := false }

/-- Responses that have no way back any more bring the absent value (R340). -/
def State.voidResponses (s : State) : State :=
  { s with net := s.net.map fun m =>
      match m.kind with
      | .resp _ => if s.cutBack m.core m.dest then { m with kind := .resp (poisonOnes 2) } else m
      | _ => m }

/-- A link is declared DOWN (R340, R344): the flits of both its ends move to the link in use in its place; without one the targets
behind the seam are absent, reads among them complete with the absent value, or the peer wafer is removed. -/
def State.linkDown (s : State) (id : Nat) : State :=
  let l := s.link id
  let b := s.link (linkBack id)
  let down := fun s : State => (s.setLink { l.cleared with st := .down }).setLink b.cleared
  match (down s).useLink id with
  | some j =>
    let s := down s
    (s.setLink ((s.link j).take l.buffer)).setLink ((s.link (linkBack j)).take b.buffer)
  | none =>
    let s := (down s.landed).voidResponses
    if id < 504 then s else s.removePeer (s.peerOf (id - 504))

/-- A training attempt starts, at which nothing has been presented yet; one that would be the third within 10^9 ticks declares the
link DOWN for good instead (R339, R342). -/
def State.train (s : State) (id : Nat) : State :=
  let l := s.link id
  let recent := s.recentAttempts l
  if recent.length ≥ 2 then (s.setLink { l with dead := true }).linkDown id
  else (s.setLink { l with st := .retrain, nack := false, attempts := s.dtime :: recent, farId := none }).setLink
    { s.link (linkBack id) with nack := false }

/-! ## Flits (R337, R338) -/

/-- A flit that has crossed a link goes on to the next link of its message's route. -/
def State.forward (s : State) (f : Flit) : State :=
  match s.msg? f.msg with
  | none => s
  | some m =>
    match ((s.path m)[f.hop + 1]?).bind s.useLink with
    | some j => s.setLink ((s.link j).enqueue { f with hop := f.hop + 1 })
    | none => s

/-- FLIT_ARRIVAL (R338): the next flit that an end of a link sent arrives. A good one is accepted in sequence; a bad one is discarded with all
after it, and a negative acknowledgement goes back. -/
def execFlitArrival (link : Nat) (good : Bool) (s : State) : Res :=
  let l := s.link link
  match (l.buffer.take replaySize)[l.arrived]? with
  | none => .next s
  | some f =>
    if (s.linkSt link ≠ .up ∧ s.linkSt link ≠ .replay) ∨ l.nack = true then .next s
    else if good then .next ((s.setLink { l with expect := l.expect + 1, fails := 0 }).forward f)
    else .next ((s.setLink { l with nack := true, fails := l.fails + 1 }).setLinkSt link .replay)

/-- No end of a link awaits a resend. -/
def State.noNack (s : State) (id : Nat) : Bool := !(s.link (linkBase id)).nack && !(s.link (linkBack id)).nack

/-- FLIT_ACKNOWLEDGEMENT (R338): the n oldest flits, all accepted by the receiver, leave the replay buffer. -/
def execFlitAcknowledgement (link n : Nat) (s : State) : Res :=
  let l := s.link link
  if n = 0 ∨ n > l.arrived ∨ s.linkSt link = .down then .next s
  else
    let s := s.setLink { l with buffer := l.buffer.drop n }
    .next (if s.linkSt link = .replay ∧ s.noNack link = true then s.setLinkSt link .up else s)

/-- NEGATIVE_ACKNOWLEDGEMENT (R338, R339): the sender resends from the refused flit; at its eighth consecutive failure a lane is
spared when one lane is at fault and the spare is unused, else a training attempt starts or the link goes DOWN. -/
def execNegativeAcknowledgement (link : Nat) (oneLane : Bool) (s : State) : Res :=
  let l := s.link link
  let s' := s.setLink { l with nack := false }
  let b := s'.link (linkBase link)
  if s.linkSt link ≠ .replay ∨ l.nack = false then .next s
  else if l.fails < 8 then .next s'
  else if oneLane && !b.spareUsed then .next (s'.setLink { b with st := .spare, spareUsed := true })
  else .next (s'.train (linkBase link))

/-- The other end's flits fail no longer. -/
def State.resetFails (s : State) (id : Nat) : State := s.setLink { s.link (linkBack id) with fails := 0 }

/-- LANE_SPARING_DONE (R339): the replay buffer is resent. -/
def execLaneSparingDone (link : Nat) (s : State) : Res :=
  let l := s.link link
  if l.st ≠ .spare then .next s else .next (((s.setLink { l with st := .up, fails := 0 }).resetFails link).count 8)

/-- The far end of a Gale port presents the identity that the configuration table names for its peer (R342). -/
def State.identityOk (s : State) (port : Nat) (identity : BitVec 256) : Bool :=
  decide (afind s.dev.cfg.peerid (s.peerOf port) = some identity)

/-- LINK_TRAINED (R339): with at least four good data lanes the link is UP, narrowed if fewer than eight; a Gale port whose far
end fails the check at this training stays out of service and is counted, and one whose far end has presented nothing yet goes on
training (R342). -/
def execLinkTrained (link lanes : Nat) (s : State) : Res :=
  let l := s.link link
  if l.st ≠ .retrain ∨ lanes < 4 then .next s
  else if 504 ≤ link ∧ l.farId.isNone = true then .next s
  else if 504 ≤ link ∧ l.farId.any (s.identityOk (link - 504)) = false then .next ((s.count 9).linkDown link)
  else
    let s := ((s.setLink { l with st := .up, lanes := Nat.min lanes 8, fails := 0 }).resetFails link).count 8
    .next (if Nat.min lanes 8 < l.lanes then s.count 8 else s)

/-- TRAINING_TIMEOUT (R339): not trained within 12 µs, counted; a second attempt starts, or the link goes DOWN. -/
def execTrainingTimeout (link : Nat) (s : State) : Res :=
  if (s.link link).st ≠ .retrain then .next s else .next ((s.count 8).train link)

/-! ## Gale ports and peer wafers (R339, R342 to R349) -/

/-- LOSS_OF_SIGNAL (R339): a Gale port without signal on all nine lanes for 1 µs goes DOWN at once. -/
def execLossOfSignal (port : Nat) (s : State) : Res :=
  if port ≥ 32 ∨ (s.link (504 + port)).st = .down then .next s else .next (s.linkDown (504 + port))

/-- A Gale port that may train: of a configured peer, present, without signal until now, and not declared DOWN for its training
attempts (R333, R339, R342; a port that only lost its signal may train again, log entry 94). -/
def State.portTrains (s : State) (port : Nat) : Bool :=
  decide (port < 32 ∧ s.peerOf port ≠ 0) && !s.linkMissing (504 + port) && (s.link (504 + port)).st == .down &&
    !(s.link (504 + port)).dead

/-- GALE_PORT_TRAINED (R342, R349): a port of a configured peer trains, which counts as a training attempt (R339), and checks the
identity of its far end; one that fails the check stays out of service and is counted. While a port that was UP is retrained, its far
end presents its identity here, and LINK_TRAINED checks it. -/
def execGalePortTrained (port : Nat) (identity : BitVec 256) (s : State) : Res :=
  let l := s.link (504 + port)
  let recent := s.recentAttempts l
  if l.st = .retrain ∧ port < 32 then .next (s.setLink { l with farId := some identity })
  else if s.portTrains port = false then .next s
  else if recent.length ≥ 2 then .next (s.setLink { l with dead := true })
  else
    let tried := { l with attempts := s.dtime :: recent, farId := some identity }
    if s.identityOk port identity then
      .next ((s.setLink { tried.cleared with st := .up, next := 0, expect := 0 }).setLink
        { (s.link (linkBack (504 + port))).cleared with next := 0, expect := 0 })
    else .next ((s.setLink tried).count 9)

/-- PAIRING_EXCHANGE (R343, R344): the second of the two launches has been admitted; a pairing once lost is never made again. -/
def execPairingExchange (launch wafer : Nat) (tiles : List Nat) (s : State) : Res :=
  match s.launch? launch with
  | none => .next s
  | some l =>
    if !l.live || (l.pairing wafer).isSome || l.unpaired.elem wafer || !s.peerPresent wafer then .next s
    else
      let ports := (s.bundle wafer).filter fun p => (s.link (504 + p)).st != .down
      .next (s.updLaunch launch fun l => { l with paired := l.paired ++ [⟨wafer, ports, tiles⟩] })

/-- PAIRED_LAUNCH_END (R343): every tile of the wafer is absent to the launch from now on. -/
def execPairedLaunchEnd (launch wafer : Nat) (s : State) : Res :=
  match s.launch? launch with
  | none => .next s
  | some l =>
    if (l.pairing wafer).isNone then .next s
    else .next (s.landed.updLaunch launch fun l =>
      { l with paired := l.paired.filter fun p => p.wafer != wafer, unpaired := l.unpaired ++ [wafer] })

/-! ## Mesh links (R341) -/

/-- An uncorrectable payload word of a message: it is delivered with its poison mark set. A register message arrives as POISON of
reason 0x03 with the value delivered (R70); a response as POISON of reason 0x01 (R106). -/
def State.poisonWord (s : State) (id word : Nat) : State :=
  match s.msg? id with
  | none => s
  | some m =>
    match m.kind with
    | .store _ _ _ _ _ | .add _ _ | .atom _ _ _ _ _ | .record _ _ _ =>
      { s with fabric := { s.fabric with badWords := s.fabric.badWords ++ [(id, word)] } }
    | .send c v => s.updMsg id fun y => { y with kind := .send c ⟨.poison, BitVec.ofNat 128 (3 * 2 ^ 64 + v.val.toNat % 2 ^ 64)⟩ }
    | .resp _ => s.updMsg id fun y => { y with kind := .resp (poisonOnes 1) }
    | .stream c t e g cmd i => s.updMsg id fun y => { y with kind := .stream c t { e with marks := e.marks ||| BitVec.ofNat 16 (2 ^ word) } g cmd i }
    | .chunk c k => s.updMsg id fun y => { y with kind := .chunk c { k with poisoned := true } }
    | .get _ => s

/-- The tile that receives a message. -/
def Msg.toTile (m : Msg) : Nat :=
  match m.kind with
  | .resp _ => m.core / 16
  | _ => match m.kind.home with
    | some (.tile t) => t
    | _ => m.core / 16

/-- A mesh flit dropped for its header: counted, and an event of the receiving tile's router; a lasting router fault leads to
tile recovery (R341, R371, R372). -/
def State.badHeader (s : State) (t : Nat) : State :=
  let (lasting, s) := (s.count 7).unitEvent (tileUnit (s.tile t).phys 5)
  if lasting then (s.markLost (s.tile t).phys).detect t else s

/-- MESH_FLIT_ARRIVAL (R341): a correctable error is corrected; a bad word is delivered poisoned; a bad header drops the flit. A
load whose reply is dropped is made again, so nothing of it is left but the count. -/
def execMeshFlitArrival (f : MeshFlit) (q : FlitQuality) (s : State) : Res :=
  match q, f with
  | .correctable, _ => .next s
  | .badWord, .message id word => .next (s.poisonWord id word)
  | .badWord, .reply core => .next (s.updCore core fun c => { c with meshBad := true })
  | .badHeader, .message id _ =>
    match s.msg? id with
    | none => .next s
    | some m =>
      if m.st = .performed ∨ m.st = .held then .next s
      else .next ((s.updMsg id fun y => { y with st := .lost }).badHeader m.toTile)
  | .badHeader, .reply core => .next (s.badHeader (core / 16))

end Sys2Proof.Machine
end

