-- ==== Sys2Proof/Machine/Boot.lean ====
section
/-! DEFINITION. Power-on: the boot steps and their failures, rectangles and the positions bound to spares, the firmware column and
its roles (R288, R404 to R409), and throttling by the sensors (R410). -/

namespace Sys2Proof.Machine

/-! ## Images and tables (R404 steps 1 to 3) -/

/-- The kind of an image, by what it holds. -/
def tableKind : BootTable → ImageKind
  | .firmware => .firmware
  | .config _ => .config
  | .links _ => .links
  | .lost _ => .lost

/-- Number of a kind among the version floors. -/
def kindIdx : ImageKind → Nat
  | .firmware => 0 | .config => 1 | .links => 2 | .lost => 3

/-- The image of a kind in the boot store. -/
def findImage (store : List BootImage) (k : ImageKind) : Option BootImage := store.find? fun i => tableKind i.table == k

/-- Verifying an image (R405): its signature, then its version against the floor; 0 when it passes. -/
def verifyImage (floors : Vector (BitVec 32) 4) (i : BootImage) : Nat :=
  if !i.signed then 2 else if i.version.toNat < (vget 0 floors (kindIdx (tableKind i.table))).toNat then 3 else 0

/-- The code of the first image that fails, in the order of R404. -/
def verifyAll (floors : Vector (BitVec 32) 4) (is : List BootImage) : Nat :=
  ((is.map (verifyImage floors)).find? fun c => c != 0).getD 0

/-- Role of a firmware core by default (R409). -/
def defaultRole (row core : Nat) : Nat := if core = 0 then row else if row = 0 then 4 else row

/-- Role of the core at firmware tile t (0 to 31, by die row and tile row) and core c. -/
def configRole (t : ConfigTable) (tile core : Nat) : Nat :=
  if t.rolemap.isEmpty then defaultRole (tile % 4) core else (t.rolemap[tile * t.fwidth + core]?).getD 255

/-- The configuration table's fields lie in their ranges, and every role has a core (R406, R409). -/
def configOk (t : ConfigTable) : Bool :=
  let roles := (List.range 32).flatMap fun i => (List.range t.fwidth).map (configRole t i)
  decide (t.fcol ≤ 7 ∧ 1 ≤ t.fwidth ∧ t.fwidth ≤ 4) && (t.rolemap.isEmpty || t.rolemap.length == 32 * t.fwidth) &&
    roles.all (fun r => decide (r ≤ 4)) && (List.range 5).all roles.elem &&
    decide (t.galemap.length ≤ 32) && t.galemap.all fun w => decide (w ≤ 255)

/-- PHYS names a tile: bit 3 is 0 and the tile column at most 4 (R290). -/
def physOk (p : Nat) : Bool := decide (p < 4096 ∧ p % 16 ≤ 4)

/-- Two tiles of one die joined by a mesh link, the first north or west (R332). -/
def meshJoined (a b : Nat) : Bool := physOk a && physOk b && a / 64 == b / 64 && (b == a + 1 || b == a + 16)

/-- One entry of the link table obeys R333 and names a link that exists (R407). -/
def linkEntryOk (w : Word) : Bool :=
  let kind := bits w.toNat 7 0; let st := bits w.toNat 15 8; let lanes := bits w.toNat 23 16; let rate := bits w.toNat 31 24
  let a := bits w.toNat 47 32; let b := bits w.toNat 63 48
  decide (1 ≤ st ∧ st ≤ 3) && (if st = 2 then decide (4 ≤ lanes ∧ lanes ≤ 7) else lanes == 0) &&
    (if st = 3 then decide (rate = 1 ∨ rate = 2) else rate == 0) &&
    (match kind with
      | 0 => meshJoined a b
      | 1 => physOk a && physOk b && (seamLinkId a b).isSome
      | 2 => decide (a < 32) && b == 0
      | _ => false)

/-- Entries strictly ascend, read as integers of their bytes 0 to 7 (R333, R407). -/
def ascending : List Word → Bool
  | a :: b :: rest => decide (a.toNat < b.toNat) && ascending (b :: rest)
  | _ => true

/-- The link table passes step 3 (R407). -/
def linkTableOk (t : List Word) : Bool := ascending t && t.all linkEntryOk

/-- The tables as verified images give them; the tiles lost in service are in the record of the next boot (R372). -/
def loadTables (is : List BootImage) (lost : List Nat) : CfgTable :=
  is.foldl (fun c i => match i.table with
    | .firmware => c
    | .config t => { c with
        fcol := t.fcol, fwidth := t.fwidth, rolemap := t.rolemap, galemap := t.galemap, peerid := t.peerid, grants := t.grants
        debug := t.debug }
    | .links t => { c with linkTable := t }
    | .lost t => { c with lostTiles := lost.foldl nadd (t.foldl nadd []) }) CfgTable.reset

/-- The link-table digest: SHAKE256 of the table body (R407). -/
def CfgTable.digest (c : CfgTable) : List Byte := shake256 (c.linkTable.flatMap fun w => leBytes 8 w.toNat)

/-! ## Positions and rectangles (R288) -/

/-- The route from one tile to a tile of the same or an adjacent die uses only present links (R335, R336); one that a detour
stands in for does not (log entry 17). -/
def State.routeOpen (s : State) (a b : Nat) : Bool :=
  match s.routeSeams (physDie a) (physDie b) with
  | some [] => s.meshOpen a b
  | some [seam] =>
    match s.seamLink a b seam with
    | none => false
    | some id =>
      let (x, y) := seamEnds id
      let (x, y) := if x / 64 = a / 64 then (x, y) else (y, x)
      s.meshOpen a x && s.meshOpen y b
  | _ => false

/-- A tile is recorded as lost. -/
def State.recordedLost (s : State) (p : Nat) : Bool := s.dev.cfg.lostTiles.elem p

/-- Bindings of the lost positions of a die to its free spares, in row-major order of position: position's own PHYS and spare. -/
def State.bindDie (s : State) (die : Nat) : List (Nat × Nat) :=
  ((List.range 16).foldl (fun (acc : List (Nat × Nat)) i =>
    let p := die / 8 * 512 + die % 8 * 64 + i / 4 * 16 + i % 4
    if !s.recordedLost p then acc
    else
      let free := (spareTiles die).filter fun q =>
        !s.recordedLost q && !s.firmwareTile q && !(acc.any fun b => b.2 == q)
      match leastBy (fun q => s.hops p q * 4096 + q) free with
      | some q => acc ++ [(p, q)]
      | none => acc) [])

/-- Every binding; positions are served in row-major order, and each die's spares serve its own. -/
def State.bindings (s : State) : List (Nat × Nat) := (List.range 64).flatMap s.bindDie

/-- The PHYS that serves a position: its own tile, or the spare it is bound to; none when it is not present. -/
def State.serves (s : State) (bs : List (Nat × Nat)) (row col : Nat) : Option Nat :=
  let p := physAt row col
  if s.recordedLost p then (bs.find? fun b => b.1 == p).map (·.2) else some p

/-- The route in each direction between two adjacent positions is open. -/
def State.adjacentOpen (s : State) (bs : List (Nat × Nat)) (r1 c1 r2 c2 : Nat) : Bool :=
  match s.serves bs r1 c1, s.serves bs r2 c2 with
  | some a, some b => s.routeOpen a b && s.routeOpen b a
  | _, _ => false

/-- A position that is present and in no rectangle yet. -/
def State.leftOver (s : State) (bs : List (Nat × Nat)) (rects : List Rect) (row col : Nat) : Bool :=
  decide (row < 32 ∧ col < 32) && (s.serves bs row col).isSome &&
    !(rects.any fun r => decide (r.row ≤ row ∧ row < r.row + r.rows ∧ r.col ≤ col ∧ col < r.col + r.cols))

/-- Columns from (row, col) rightward, at most n, all left over and joined east–west, and joined to the row above unless the row
is the top one. -/
def State.runWidth (s : State) (bs : List (Nat × Nat)) (rects : List Rect) (row : Nat) (top : Bool) : Nat → Nat → Nat → Nat
  | 0, _, w => w
  | n + 1, col, w =>
    if s.leftOver bs rects row col && (w == 0 || s.adjacentOpen bs row (col - 1) row col) &&
        (top || s.adjacentOpen bs (row - 1) col row col) then
      s.runWidth bs rects row top n (col + 1) (w + 1)
    else w

/-- The best rectangle with a corner, by rows from the top: the widest for each number of rows; a larger area only. -/
def State.growRows (s : State) (bs : List (Nat × Nat)) (rects : List Rect) (row col : Nat) : Nat → Nat → Nat → Option Rect → Option Rect
  | 0, _, _, best => best
  | n + 1, h, w, best =>
    let w := s.runWidth bs rects (row + h) (h == 0) w col 0
    if w = 0 then best
    else
      let better := match best with
        | none => true
        | some b => decide (b.rows * b.cols < (h + 1) * w)
      s.growRows bs rects row col n (h + 1) w (if better then some ⟨row, col, h + 1, w⟩ else best)

/-- The largest flawless rectangle left; ties to the lowest top row, then the lowest left column, then the fewest rows. -/
def State.largestRect (s : State) (bs : List (Nat × Nat)) (rects : List Rect) : Option Rect :=
  (List.range 1024).foldl (fun best i =>
    let row := i / 32; let col := i % 32
    let bound := (32 - row) * (32 - col)
    match best with
    | some b => if bound ≤ b.rows * b.cols then best else s.growRows bs rects row col (32 - row) 0 (32 - col) best
    | none => s.growRows bs rects row col (32 - row) 0 (32 - col) none) none

/-- The numbering of R288: at most 63 rectangles. -/
def State.numberRects (s : State) (bs : List (Nat × Nat)) : Nat → List Rect → List Rect
  | 0, rects => rects
  | n + 1, rects =>
    (s.largestRect bs rects).elim rects fun r => s.numberRects bs n (rects ++ [r])

/-- Present positions that no rectangle holds (R288). -/
def State.unnamed (s : State) (bs : List (Nat × Nat)) (rects : List Rect) : Nat :=
  ((List.range 1024).filter fun i => s.leftOver bs rects (i / 32) (i % 32)).length

/-- The boot entry of a tile on a physical tile: its buddy is the tile at the same place on die d XOR 1, or, when that is lost, the
free store that firmware chooses (R378, R379); so it is when that store was given to a tile bound before. -/
def State.bootTile (s : State) (t p cls : Nat) : State :=
  let taken := s.tiles.any fun x => x.1 != t && x.2.buddy == buddyPhys p && x.2.st != .lost
  let s := s.updTile t fun x => { x with phys := p, cls := cls, buddy := buddyPhys p }
  if s.recordedLost (buddyPhys p) || taken then s.newBuddy t else s

/-- Tiles whose boot state differs from an unflawed one. -/
def State.bindTiles (s : State) (bs : List (Nat × Nat)) : State :=
  (List.range 1024).foldl (fun s i =>
    match s.idAt (i / 32) (i % 32), s.serves bs (i / 32) (i % 32) with
    | some t, some p =>
      let own := p == physAt (i / 32) (i % 32)
      if own && !s.recordedLost (buddyPhys p) then s else s.bootTile t p (if own then 0 else 1)
    | _, _ => s) s

/-! ## The firmware column (R408, R409) -/

/-- PHYS of firmware tile t (0 to 31): die row t / 4 of column FCOL, tile row t % 4. -/
def CfgTable.fwTile (c : CfgTable) (t : Nat) : Nat := t / 4 * 512 + c.fcol * 64 + t % 4 * 16 + 4

/-- The next firmware tile of the die, in tile-row order, that is not lost. -/
def State.fwNext (s : State) (t : Nat) : Option Nat :=
  ((List.range 3).map fun i => t / 4 * 4 + (t % 4 + 1 + i) % 4).find? fun u => !s.recordedLost (s.dev.cfg.fwTile u)

/-- The firmware cores and their roles: role, PHYS and core index; none when a die of the column has no firmware tile left. -/
def State.placeFirmware (s : State) : Option (List (Nat × Nat × Nat)) :=
  let c := s.dev.cfg
  let t : ConfigTable := ⟨c.fcol, c.fwidth, c.rolemap, c.galemap, c.peerid, c.grants, c.debug⟩
  let dead := (List.range 8).any fun d => (List.range 4).all fun r => s.recordedLost (c.fwTile (4 * d + r))
  if dead then none
  else some ((List.range 32).flatMap fun i => (List.range c.fwidth).filterMap fun k =>
    if !s.recordedLost (c.fwTile i) then some (configRole t i k, c.fwTile i, k)
    else (s.fwNext i).map fun u => (configRole t i k, c.fwTile u, c.fwidth + k))

/-! ## Power-on (R404) -/

/-- What survives a loss of power: the boot store with its record of the tiles lost in service (R372), the fuses, the strap, memory that
is not the device's, and the model's own schedule and count of free values. -/
def State.powerCycle (s : State) : State :=
  let r := State.reset
  { r with
    mem := { r.mem with bytes := s.mem.bytes.filter fun c => decide (2 ^ 42 ≤ c.1), marks := s.mem.marks.filter fun k => decide (2 ^ 42 ≤ k) }
    fabric := { r.fabric with lost := s.fabric.lost }
    dev := { r.dev with store := s.dev.store, floors := s.dev.floors, strap := s.dev.strap }
    agenda := s.agenda, free := s.free }

/-- The boot stops with a code (R404). -/
def State.bootFails (s : State) (code : Nat) : State := { s with dev := { s.dev with state := .fail, code := BitVec.ofNat 8 code } }

/-- Gale ports are not UP before they have trained and passed their check; narrowed seams have used their spare (R334, R342). -/
def bootLinks (c : CfgTable) : List Link :=
  let plain : Nat → Link := fun id =>
    { id := id, st := .up, lanes := 8, spareUsed := false, next := 0, expect := 0, buffer := [], fails := 0, nack := false,
      attempts := [], farId := none, dead := false }
  let narrowed := c.linkTable.filterMap fun w =>
    if bits w.toNat 15 8 = 2 then
      (match bits w.toNat 7 0 with
        | 1 => seamLinkId (bits w.toNat 47 32) (bits w.toNat 63 48)
        | 2 => some (504 + bits w.toNat 47 32)
        | _ => none).map fun id => { plain id with lanes := bits w.toNat 23 16, spareUsed := true }
    else none
  let gale := (List.range 32).map fun p =>
    let l := (narrowed.find? fun l => l.id == 504 + p).getD (plain (504 + p))
    { l with st := .down }
  gale ++ narrowed.filter fun l => decide (l.id < 504)

/-- The links of the route from a tile to one of the same or an adjacent die, by their endpoints, north or west first (R335, R336). -/
def State.routeLinks (s : State) (a b : Nat) : List (Nat × Nat) :=
  match s.routeSeams (physDie a) (physDie b) with
  | some [] => meshPath a b
  | some [seam] =>
    match s.seamLink a b seam with
    | none => []
    | some id =>
      let (x, y) := if (seamEnds id).1 / 64 = a / 64 then seamEnds id else (seamEnds id).swap
      meshPath a x ++ [seamEnds id] ++ meshPath y b
  | _ => []

/-- The links of the routes, in both directions, between the adjacent positions of a rectangle that a physical tile serves (R288). -/
def State.rectUses (s : State) (bs : List (Nat × Nat)) (r : Rect) (link : Nat × Nat) : Bool :=
  (List.range r.rows).any fun i => (List.range r.cols).any fun j =>
    let at_ := fun di dj : Nat => s.serves bs (r.row + i + di) (r.col + j + dj)
    let uses := fun (p q : Option Nat) =>
      match p, q with
      | some a, some b => (s.routeLinks a b).elem link || (s.routeLinks b a).elem link
      | _, _ => false
    (decide (i + 1 < r.rows) && uses (at_ 0 0) (at_ 1 0)) || (decide (j + 1 < r.cols) && uses (at_ 0 0) (at_ 0 1))

/-- Mesh and seam links that the routes of a rectangle use and whose STATE in the link table is `st`: 2 narrowed, 3 slower (R288,
R333). -/
def State.linksIn (s : State) (st : Nat) (r : Rect) : Nat :=
  (s.dev.cfg.linkTable.filter fun w =>
    decide (bits w.toNat 7 0 < 2) && bits w.toNat 15 8 == st &&
      s.rectUses s.bindings r (bits w.toNat 47 32, bits w.toNat 63 48)).length

/-- The name under which a firmware core's own state is held; no tile name reaches it (R139, R408). -/
def firmwareCore (phys k : Nat) : Nat := 2 ^ 20 + phys * 16 + k

/-- Boot sets the firmware text capability, and FVEC of every firmware core: what they are is the image's (R139, R408; log entry
118). -/
def State.setFirmware (s : State) (image : BitVec 256) (roles : List (Nat × Nat × Nat)) : State :=
  let s : State := { s with dev := { s.dev with fwText := Config.firmwareText image } }
  roles.foldl (fun s r => s.updCore (firmwareCore r.2.1 r.2.2) fun k =>
    { k with fvec := (Config.firmwareEntry image r.1).zeroExtend 64 }) s

/-- Steps 4 to 8 with the tables in force. -/
def State.bootWith (s : State) : State :=
  let bs := s.bindings
  let rects := s.numberRects bs 63 []
  if rects.isEmpty then s.bootFails 5
  else
    match s.placeFirmware with
    | none => s.bootFails 6
    | some roles =>
      let n := s.unnamed bs rects
      let s : State := { s with
        fabric := { s.fabric with rects := rects, links := bootLinks s.dev.cfg }
        dev := { s.dev with
          state := .ready, code := 0, roles := roles, bootSummary := rects.map fun r => (s.linksIn 2 r, s.linksIn 3 r) } }
      let image := ((findImage s.dev.store .firmware).map BootImage.digest).getD 0
      ((s.setFirmware image roles).bindTiles bs).count 6 n

/-- POWER_ON_RESET (R404): every power-on runs the whole boot. -/
def execPowerOnReset (s : State) : Res :=
  let lost := s.fabric.lost
  let t := s.powerCycle
  match findImage t.dev.store .firmware, findImage t.dev.store .config, findImage t.dev.store .links, findImage t.dev.store .lost with
  | some a, some b, some c, some d =>
    let code := verifyAll t.dev.floors [a, b, c, d]
    if code ≠ 0 then .next (t.bootFails code)
    else
      let okCfg := match b.table with
        | .config k => configOk k
        | _ => false
      let okLinks := match c.table with
        | .links k => linkTableOk k
        | _ => false
      if !okCfg || !okLinks then .next (t.bootFails 4)
      else .next ({ t with dev := { t.dev with cfg := loadTables [a, b, c, d] lost } } : State).bootWith
  | _, _, _, _ => .next (t.bootFails 1)

/-- ROLE_RESTART (R408): the roles of a failed firmware core restart on a surviving firmware core, from their duplicates; what is
admitted runs on. Which of the cores that have the role failed, and which of the others takes all its roles, are free values (log entry
97). -/
def execRoleRestart (role : Nat) (s : State) : Res :=
  let (n, s) := s.drawFree
  let (m, s) := s.drawFree
  let having := s.dev.roles.filter fun r => r.1 == role
  match having[Config.failedRole n % having.length]? with
  | none => .next s
  | some r =>
    let rest := s.dev.roles.filter fun x => !(x.2 == r.2)
    match rest[Config.heirRole m % rest.length]? with
    | none => .next s
    | some y =>
      let moved := (s.dev.roles.filter fun x => x.2 == r.2).map fun x => (x.1, y.2.1, y.2.2)
      .next { s with dev := { s.dev with roles := rest ++ moved } }

/-! ## Sensors (R410) -/

/-- Site code of a throttle entry. -/
def siteCode : SensorSite → Nat
  | .tile p => p
  | .link id => 4096 + id

/-- What R410 makes of a reading, in tenths of a degree and milliamperes: 0 full clock, 1 a cycle in 4 skipped, 2 a cycle in 2. -/
def throttleOf (temp current : Nat) : Nat := if 1050 < temp ∨ 40000 ≤ current then 2 else if 950 ≤ temp then 1 else 0

/-- Since when a reading has held: begun at a sample, forgotten when it ends. -/
def sinceWhen (l : List (Nat × Nat)) (p now : Nat) (holds : Bool) : List (Nat × Nat) :=
  if holds then (if (afind l p).isSome then l else ains l p now) else l.filter fun e => e.1 != p

/-- SENSOR_SAMPLE (R410): every 10 µs a tile or link sets its throttling from its own readings. -/
def execSensorSample (site : SensorSite) (temp current : Nat) (s : State) : Res :=
  let f := s.fabric
  let f := { f with throttle := aput 0 f.throttle (siteCode site) (throttleOf temp current), temps := ains f.temps (siteCode site) temp }
  match site with
  | .tile p => .next { s with fabric := { f with
      hot := sinceWhen f.hot p s.dtime (decide (1250 < temp)), warm := sinceWhen f.warm p s.dtime (decide (1050 < temp)) } }
  | .link _ => .next { s with fabric := f }

end Sys2Proof.Machine
end

