-- ==== Sys2Proof/Machine/Device.lean ====
section
/-! DEFINITION. The device's outside: BAR0 registers, BAR2, the resynchronisation summary, the debug window, the I3C port and
boundary scan (R237, R285, R296, R374, R375, R411 to R416). -/

namespace Sys2Proof.Machine

/-! ## Words of BAR0 (R240, R411, R412) -/

/-- Change the device-level state. -/
def State.modDev (s : State) (f : Device → Device) : State := { s with dev := f s.dev }

/-- What a host, I3C or scan read answers. -/
def State.answer (s : State) (bs : List Byte) (bad : Bool) : State := s.modDev fun d => { d with reply := ⟨bs, bad⟩ }

/-- DEVSTAT (R411). -/
def State.devstat (s : State) : Nat :=
  (match s.dev.state with
    | .boot => 0
    | .ready => 1
    | .fail => 2) + s.dev.code.toNat * 256

/-- DEVID: part code 0x0016, revision 0 (R411). -/
def devId : Nat := 0x0016

/-- Every physical tile in order of PHYS. -/
def allTiles : List Nat :=
  (List.range 64).flatMap fun d => (List.range 20).map fun i => d / 8 * 512 + d % 8 * 64 + i / 5 * 16 + i % 5

/-- Tiles that time-share a host's (R397). -/
def State.guests (s : State) : Nat := (s.tiles.filter fun t => t.2.shared && t.2.st != .lost).length

/-- A tile that a planned migration has left is a free spare (R403): named by its own position, bound to none. -/
def State.vacated (s : State) (p : Nat) : Bool := (s.ownId p).isSome && (s.boundAt p).isNone && !s.physLost p

/-- TILES: free spares, tiles lost, guests (R411). -/
def State.tilesWord (s : State) : Nat :=
  (((List.range 64).flatMap spareTiles).filter s.spareFree).length + (allTiles.filter s.vacated).length + (allTiles.filter s.physLost).length * 2 ^ 16 + s.guests * 2 ^ 32

/-- QSTAT (R240). -/
def Queue.stat (q : Queue) : Nat :=
  q.stale.toNat + (match q.st with
    | .disabled => 0
    | .running => 1
    | .error => 2) * 2 ^ 22 + q.err.toNat * 2 ^ 24

/-- A register of a queue block (R238): write-only registers read zero. -/
def State.queueRead (s : State) (q r : Nat) : Nat :=
  let x := s.queue q
  match r with
  | 0x00 => x.base.toNat | 0x08 => x.cfg.toNat | 0x14 => x.widx.toNat | 0x18 => x.ridx.toNat | 0x1C => x.stat
  | 0x20 => x.erra.toNat | 0x28 => x.msga.toNat | 0x30 => x.msgw.toNat | 0x34 => x.msgh.toNat
  | _ => 0

/-- RESYNCS (R411). -/
def Resync.stat (r : Resync) : Nat := (if r.busy then 1 else 0) + (if r.done then 2 else 0) + (if r.err then 4 else 0)

/-- A word of the partition table (R260). -/
def State.partRead (s : State) (off : Nat) : Nat :=
  let p := s.part (off / 64)
  let i := off % 64 / 8
  if off / 64 = 0 then 0 else if i < 4 then (vget 0 p.dom i).toNat else if i = 4 then p.reserve.toNat else 0

/-! ## The debug window (R375, R416) -/

/-- The logical tile and the core that DBGSEL names; none for a firmware core or a core outside service. -/
def State.dbgCore (s : State) (sel : Word) : Option Nat :=
  let p := bits sel.toNat 11 0
  if s.firmwareTile p then none else (s.boundAt p).map fun t => t * 16 + bits sel.toNat 15 12

/-- A context is halted on the core, a guest's among them (R375, R397). -/
def State.haltedOn (s : State) (core : Nat) : Bool := s.ctxs.any fun c => s.sameCore c.core core && c.run == .halted

/-- The cores that a HALT, RESUME or DETACH of a core reaches: under each of its names, its gang or pair (R397, R416). -/
def State.debugGroup (s : State) (core : Nat) : List Nat := (s.namesOf core).flatMap s.together

/-- DBGSTAT of the core that DBGSEL names (R416). -/
def State.dbgStat (s : State) : Nat :=
  let (a, h) := match s.dbgCore s.dev.dbg.sel with
    | some c => (s.attachedAt c, s.haltedOn c)
    | none => (false, false)
  (if a then 1 else 0) + (if h then 2 else 0) + (if s.dev.dbg.err ≠ 0 then 4 else 0) + s.dev.dbg.err * 256

/-- The context a debug command acts on: the one that was running when the core halted. -/
def State.haltedCtx (s : State) (core : Nat) : Option Ctx := s.ctxs.find? fun c => s.sameCore c.core core && c.run == .halted

/-- DBGREG fields. -/
def regSpace (r : Word) : Nat := bits r.toNat 1 0
def regBank (r : Word) : Bool := bit r.toNat 2
def regIndex (r : Word) : Nat := bits r.toNat 16 3
def regRow (r : Word) : Nat := bits r.toNat 21 17
def regAlt (r : Word) : Nat := bits r.toNat 22 22

/-- The context in which a debugger sees the handler's bank, or the interrupted code's (R72, R416). Codes 56 to 59 are those of the level
at which the core halted: the runtime's own at runtime level (R139; log entry 105). -/
def Ctx.banked (c : Ctx) (h : Bool) : Ctx := { c with handler := h }

/-- Tag codes of R69. -/
def tagCode : Tag → Nat
  | .data => 0 | .cap => 1 | .poison => 2

/-- The value and tag that READ fills in (R416); what names no register reads zero. -/
def State.dbgValue (s : State) (c : Ctx) (r : Word) : BitVec 2048 × Nat :=
  let i := regIndex r
  match regSpace r with
  | 0 =>
    let g := if i < 64 then ({ s with cpu := c.banked (regBank r) } : State).getG i else GReg.zero
    (g.val.zeroExtend 2048, tagCode g.tag)
  | 1 =>
    if i < 32 then ((vget 0 c.regs.v i).zeroExtend 2048, 0)
    else if i < 40 then ((({ s with cpu := c } : State).getP (i - 32)).zeroExtend 2048, 0)
    else (0, 0)
  | 2 => ((({ s with cpu := { c with handler := regBank r } } : State).csrRead i).zeroExtend 2048, 0)
  | _ =>
    let b := regAlt r
    let row := regRow r
    if nmem c.eng.wide (8 * b + i) then
      ((c.eng.accRow b i (2 * row)).zeroExtend 2048 ||| ((c.eng.accRow b i (2 * row + 1)).zeroExtend 2048 <<< (1024 : Nat)), 0)
    else ((c.eng.accRow b i row).zeroExtend 2048, 0)

/-- A general register value that R375 lets a debugger write; none for tag 0b11 and for a CAP that breaks R76. -/
def dbgGReg (v : BitVec 2048) (tag : Word) : Option GReg :=
  let x : Payload := v.truncate 128
  match bits tag.toNat 1 0 with
  | 0 => some ⟨.data, x⟩
  | 1 => if capOk x then some ⟨.cap, x⟩ else none
  | 2 => some ⟨.poison, x⟩
  | _ => none

/-- A CSR written by a debugger: its writable bits (R13, R375); FRM.RM never becomes 6 or 7 (R38). -/
def State.dbgCsr (s : State) (n : Nat) (x : Word) : State :=
  match csrMap n with
  | none => s
  | some (rw, _) => if rw = 0 ∨ (n = 0x005 ∧ bits x.toNat 2 0 ≥ 6) then s else s.csrStore n (s.csrWritten n rw x)

/-- The halted context once a register has been written, with its region sealed (R375); none when the write is refused. A write
to a pending register leaves its response to be discarded. -/
def State.dbgStore (s : State) (c : Ctx) (r : Word) (v : BitVec 2048) (tag : Word) : Option State :=
  let i := regIndex r
  let s : State := { s with cpu := c }
  match regSpace r with
  | 0 =>
    match dbgGReg v tag with
    | none => none
    | some g =>
      let t : State := { s with cpu := c.banked (regBank r) }
      let code := t.codeOfG i
      some ((if i < 64 then t.setG i g else t).modCpu fun x =>
        { x with handler := c.handler, level := c.level, regs := { x.regs with pend := x.regs.pend.filter fun p => p.1 != code } })
  | 1 => some (if i < 32 then s.setV i (v.truncate 1024) else if i < 40 then s.setP (i - 32) (v.truncate 32) else s)
  | 2 =>
    let t := ({ s with cpu := { c with handler := regBank r } } : State).dbgCsr i (v.truncate 64)
    some (t.modCpu fun x => { x with handler := c.handler })
  | _ =>
    let b := regAlt r
    let row := regRow r
    if 8 ≤ i then some s
    else
      let e := if nmem c.eng.wide (8 * b + i) then
          (c.eng.setRow b i (2 * row) (v.truncate 1024)).setRow b i (2 * row + 1) ((v >>> (1024 : Nat)).truncate 1024)
        else c.eng.setRow b i row (v.truncate 1024)
      some (s.modCpu fun x => { x with eng := e })

/-- Halted contexts run again; the instruction at the PC is executed afresh (R375). -/
def State.resumeCores (s : State) (cs : List Nat) : State :=
  s.mapCtx fun c => if cs.elem c.core && c.run == .halted then { c with run := .running, stalled := false } else c

/-- Set or clear ERR and its code (R416). -/
def State.dbgErr (s : State) (e : Nat) : State := s.modDev fun d => { d with dbg := { d.dbg with err := e } }

/-- A debug command on a core that is in service (R416); what DETACH ends takes back the halts that its core asked for. -/
def State.dbgDo (s : State) (core : Nat) (x : DbgCmd) : State :=
  let attached := s.attachedAt core
  let all := s.debugGroup core
  let s := s.dbgErr 0
  let ask := fun (b : Bool) (s : State) => all.foldl (fun s c => s.updCore c fun k => { k with haltReq := b }) s
  match x.cmd with
  | 1 => if attached then s.dbgErr 1 else s.updCore core fun k => { k with attached := true }
  | 2 => (s.namesOf core).foldl (fun s c => s.updCore c fun k => { k with attached := false }) (ask false (s.resumeCores all))
  | 3 => if !attached then s.dbgErr 2 else ask true s
  | 4 => if !s.haltedOn core then s.dbgErr 2 else s.resumeCores all
  | 5 =>
    match s.haltedCtx core with
    | none => s.dbgErr 2
    | some c =>
      let (v, t) := s.dbgValue c x.reg
      s.modDev fun d => { d with dbg := { d.dbg with data := v, tag := BitVec.ofNat 64 t } }
  | _ =>
    match s.haltedCtx core with
    | none => s.dbgErr 2
    | some c =>
      let me := s.cpu
      let w : State → Option State := fun t => (t.dbgStore c x.reg x.data x.tag).map State.seal
      if c.core = me.core ∧ me.run = .halted then (w s).getD (s.dbgErr 3)
      else
        match w s with
        | none => s.dbgErr 3
        | some t =>
          { t with cpu := me, others := t.others.map fun x => if x.core == c.core && x.run == .halted then t.cpu else x }

/-- A debug command as it is applied: with code 1 or 2 for a core outside service (R416). -/
def State.dbgCommand (s : State) (x : DbgCmd) : State :=
  match s.dbgCore x.sel with
  | none => s.dbgErr (if x.cmd = 1 then 1 else if x.cmd = 2 then 0 else 2)
  | some core => s.dbgDo core x

/-- A command waits while the tile of its core, as the core stood when the command came or as it stands, is in recovery: past the flip of
that tile too, until its RESUME (R416). -/
def State.dbgWaits (s : State) (x : DbgCmd) : Bool :=
  (x.tile.toList ++ ((s.dbgCore x.sel).map (· / 16)).toList).any fun t => (s.tile t).st.refuses

/-- Commands are applied one at a time, in arrival order: one that waits holds those behind it (R416). -/
def State.dbgRun (s : State) : List DbgCmd → State
  | [] => s.modDev fun d => { d with dbg := { d.dbg with waiting := [] } }
  | x :: xs =>
    if s.dbgWaits x then s.modDev fun d => { d with dbg := { d.dbg with waiting := x :: xs } } else (s.dbgCommand x).dbgRun xs

/-- A command arrives: discarded and counted when DEBUG is 0, applied at once when none waits before it (R416). -/
def State.dbgArrive (s : State) (cmd : Nat) : State :=
  let d := s.dev.dbg
  let x : DbgCmd := ⟨d.sel, cmd, d.reg, d.tag, d.data, (s.dbgCore d.sel).map (· / 16)⟩
  if !s.dev.cfg.debug then s.discardWrite
  else if d.waiting.isEmpty && !s.dbgWaits x then s.dbgCommand x
  else s.dbgRun (d.waiting ++ [x])

/-- Commands that waited for a recovery are applied when it has resumed (R416). -/
def State.dbgDrain (s : State) : State := if s.dev.dbg.waiting.isEmpty then s else s.dbgRun s.dev.dbg.waiting

/-- ATTACH (R416). -/
def execAttach (s : State) : Res := .next (s.dbgArrive 1)
/-- DETACH (R416). -/
def execDetach (s : State) : Res := .next (s.dbgArrive 2)
/-- DBG_HALT (R416). -/
def execDbgHalt (s : State) : Res := .next (s.dbgArrive 3)
/-- DBG_RESUME (R416). -/
def execDbgResume (s : State) : Res := .next (s.dbgArrive 4)
/-- DBG_READ (R416). -/
def execDbgRead (s : State) : Res := .next (s.dbgArrive 5)
/-- DBG_WRITE (R375, R416). -/
def execDbgWrite (s : State) : Res := .next (s.dbgArrive 6)

/-- The 64-bit word at an offset of the window (R416); zero while DEBUG is 0. -/
def State.dbgRead (s : State) (off : Nat) : Nat :=
  let d := s.dev.dbg
  if !s.dev.cfg.debug then 0
  else
    match off with
    | 0x000 => d.sel.toNat
    | 0x008 => s.dbgStat * 2 ^ 32
    | 0x00C => s.dbgStat
    | 0x010 => d.reg.toNat
    | 0x018 => d.tag.toNat
    | _ => if 0x100 ≤ off ∧ off < 0x200 then bits d.data.toNat (8 * (off - 0x100) + 63) (8 * (off - 0x100)) else 0

/-- Replace 64 bits of DBGDATA. -/
def dbgPut (x : BitVec 2048) (i : Nat) (v : Nat) : BitVec 2048 :=
  (x &&& ~~~(BitVec.ofNat 2048 ((2 ^ 64 - 1) * 2 ^ i))) ||| BitVec.ofNat 2048 (v % 2 ^ 64 * 2 ^ i)

/-- A write in the window (R14, R416). -/
def State.dbgPutReg (s : State) (off v : Nat) : State :=
  let set := fun (f : DbgWin → DbgWin) => s.modDev fun d => { d with dbg := f d.dbg }
  if !s.dev.cfg.debug then s.discardWrite
  else
    match off with
    | 0x000 => if bits v 63 16 = 0 then set fun d => { d with sel := BitVec.ofNat 64 v } else s.discardWrite
    | 0x008 => if bits v 31 4 = 0 ∧ 1 ≤ v % 16 ∧ v % 16 ≤ 6 then s.dbgArrive (v % 16) else s.discardWrite
    | 0x00C => if bits v 31 16 = 0 ∧ bits v 7 3 = 0 then s else s.discardWrite
    | 0x010 => if bits v 63 23 = 0 then set fun d => { d with reg := BitVec.ofNat 64 v } else s.discardWrite
    | 0x018 => if bits v 63 2 = 0 then set fun d => { d with tag := BitVec.ofNat 64 v } else s.discardWrite
    | _ =>
      if 0x100 ≤ off ∧ off < 0x200 ∧ off % 8 = 0 then set fun d => { d with data := dbgPut d.data (8 * (off - 0x100)) v }
      else s.discardWrite

/-! ## RESYNC (R413) -/

/-- A write to RESYNCC (R411, R413): reserved bits, and a request while BUSY, are discarded and counted. -/
def State.resyncWrite (s : State) (value : Nat) : State :=
  let r := s.dev.resync
  if bits value 31 1 ≠ 0 then s.discardWrite
  else if value % 2 = 0 then s
  else if r.busy then s.discardWrite
  else s.modDev fun d => { d with resync := { r with busy := true, done := false, err := false } }

/-- RESYNC_REQUEST (R413). -/
def execResyncRequest (value : Nat) (s : State) : Res := .next (s.resyncWrite value)

/-- Bytes filled up with zeros to n. -/
def padTo (n : Nat) (bs : List Byte) : List Byte := bs ++ zeros (n - bs.length)

/-- A queue's 64 bytes. -/
def Queue.summary (q : Queue) : List Byte :=
  padTo 64 (leBytes 8 q.base.toNat ++ leBytes 8 q.cfg.toNat ++ leBytes 4 q.widx.toNat ++ leBytes 4 q.ridx.toNat ++ leBytes 4 q.stat ++
    leBytes 4 q.msgw.toNat ++ leBytes 4 q.msgh.toNat ++ leBytes 4 q.overflow.toNat)

/-- A rectangle's 16 bytes: five fields, each of two bytes (log entry 28). -/
def State.rectSummary (s : State) (k : Nat) : List Byte :=
  match s.fabric.rects[k]? with
  | some r => padTo 16 (leBytes 2 r.row ++ leBytes 2 r.col ++ leBytes 2 r.rows ++ leBytes 2 r.cols ++ leBytes 2 (s.linksIn 2 r))
  | none => zeros 16

/-- A physical tile's 2 bytes. -/
def State.tileSummary (s : State) (p : Nat) : List Byte :=
  let at_ := s.boundAt p
  let st := if s.physLost p then 3 else if s.firmwareTile p then 2 else if at_.isSome then 0 else 1
  let cls := match at_ with
    | some t => (s.tile t).cls
    | none => 0
  let guest := s.tiles.any fun t => t.2.shared && t.2.st != .lost && t.2.phys == p
  leBytes 2 (st + cls * 4 + (if guest then 16 else 0))

/-- A launch's 64 bytes; what its contexts hold of leases is unspent too (R268). -/
def State.launchSummary (s : State) (n : Nat) (l : Launch) : List Byte :=
  let st := match l.st with
    | .held => 0
    | _ => if l.demoted then 2 else 1
  let lease := ((s.ctxs.filter fun c => c.launch == some n).map Ctx.lease).sum
  padTo 64 (leBytes 2 l.pkt.queue ++ leBytes 2 l.pkt.pid ++ leBytes 4 l.pkt.handle ++ leBytes 1 st ++ zeros 7 ++ leBytes 8 l.deadline ++
    leBytes 8 (l.pool + lease) ++ leBytes 8 l.charged ++ leBytes 4 (Nat.min (l.recovery / 1024) (2 ^ 32 - 1)))

/-- The newest 256 records of each die's health log, dies in order, newest first (log entry 28). -/
def State.logRecords (s : State) : List (BitVec 256) :=
  (List.range 64).flatMap fun d => ((s.dev.log.filter fun r => r.1 == d).map (·.2)).take 256

/-- Health counter i (R412). -/
def State.health (s : State) (i : Nat) : Nat := vget 0 s.dev.health i

/-- The summary's header and what follows it (R413). -/
def State.summary (s : State) : List Byte × List Byte :=
  let ls := s.launches.filter fun l => l.2.live
  let recs := s.logRecords
  let body := (List.range 256).flatMap (fun q => (s.queue q).summary) ++ (List.range 63).flatMap s.rectSummary ++
    allTiles.flatMap s.tileSummary ++ s.dev.cfg.digest ++ (List.range 256).flatMap (fun i => leBytes 8 (s.health i)) ++
    ls.flatMap (fun l => s.launchSummary l.1 l.2) ++ recs.flatMap fun r => leBytes 32 r.toNat
  let hdr := leBytes 8 s.dtime ++ leBytes 4 (64 + body.length) ++ leBytes 2 ls.length ++ leBytes 2 recs.length ++ zeros 44 ++
    leBytes 4 (crc32c body).toNat
  (hdr, body)

/-- RESYNC_COMPLETE (R413): the summary of this instant is written at RESYNCA through port 0, DONE is set and the vector raised; with
a buffer too short only the header is written and ERR is set; with its host gone the request is abandoned. -/
def execResyncComplete (s : State) : Res :=
  let r := s.dev.resync
  if !r.busy || !s.ready then .next s
  else
    let (hdr, body) := s.summary
    let short := decide (r.len.toNat < 64 + body.length)
    let bs := if short then hdr else hdr ++ body
    if !s.qSpan 0 r.addr bs.length then .next (s.modDev fun d => { d with resync := { r with busy := false } })
    else
      let s := s.writeMem (qKey 0 r.addr) bs false false noName
      let s := s.modDev fun d => { d with resync := { r with busy := false, done := true, err := short } }
      .next (s.raise 0 (bits r.vec.toNat 10 0))

/-! ## BAR0 (R14, R237, R411) -/

/-- A host write at an offset of BAR0 (R237): each block's own rules; read-only registers keep their value; what is not listed, or
sets a reserved bit, is discarded and counted. -/
def State.bar0Write (s : State) (off v : Nat) : State :=
  let rs := fun (f : Resync → Resync) => s.modDev fun d => { d with resync := f d.resync }
  if 0x10000 ≤ off ∧ off < 0x20000 then s.queueWrite ((off - 0x10000) / 0x100) (off % 0x100) v
  else if 0x4000 ≤ off ∧ off < 0x4200 then s.dbgPutReg (off - 0x4000) v
  else if 0x2000 ≤ off ∧ off < 0x4000 then s.partWrite (off - 0x2000) v
  else if 0x800 ≤ off ∧ off < 0x1000 then s
  else if 0x100 ≤ off ∧ off < 0x300 then (if bits v 63 48 = 0 then s else s.discardWrite)
  else
    match off with
    | 0x000 | 0x018 | 0x020 | 0x028 | 0x030 | 0x040 => s
    | 0x008 => if bits v 63 16 = 0 ∧ bits v 7 2 = 0 then s else s.discardWrite
    | 0x010 => if bits v 63 48 = 0 then s else s.discardWrite
    | 0x410 => if bits v 31 3 = 0 then s else s.discardWrite
    | 0x400 => if v % 64 = 0 then rs fun r => { r with addr := BitVec.ofNat 64 v } else s.discardWrite
    | 0x408 => rs fun r => { r with len := BitVec.ofNat 32 v }
    | 0x40C => s.resyncWrite v
    | 0x414 => if bits v 31 11 = 0 then rs fun r => { r with vec := BitVec.ofNat 32 v } else s.discardWrite
    | 0x1000 => if bits v 63 16 = 0 then { s with front := { s.front with admfrac := BitVec.ofNat 16 v } } else s.discardWrite
    | _ => s.discardWrite

/-- REGISTER_WRITE (R14, R237). -/
def execRegisterWrite (off value : Nat) (s : State) : Res := .next (s.bar0Write off value)

/-- The hottest tile of a die, by the readings that its 20 tiles took last (R410, R411); none while one has taken none. -/
def State.hottest (s : State) (die : Nat) : Option Nat :=
  let ts := (List.range 20).map fun i => afind s.fabric.temps (die / 8 * 512 + die % 8 * 64 + i / 5 * 16 + i % 5)
  if ts.all Option.isSome then some ((ts.filterMap id).foldl Nat.max 0) else none

/-- PWRDIE of a die: its draw, and its hottest tile, which a sensor that has taken no sample leaves open (R411). -/
def State.powerDie (s : State) (draw die : Nat) : Nat :=
  let x := (Config.power draw die).toNat
  x % 2 ^ 32 + ((s.hottest die).getD (bits x 47 32)) % 2 ^ 16 * 2 ^ 32

/-- A host read of the 64-bit word at an offset of BAR0; `draw` picks the sensors' figures (R237, R411). -/
def State.bar0Read (s : State) (draw off : Nat) : Nat :=
  if 0x10000 ≤ off ∧ off < 0x20000 then s.queueRead ((off - 0x10000) / 0x100) (off % 0x100)
  else if 0x4000 ≤ off ∧ off < 0x4200 then s.dbgRead (off - 0x4000)
  else if 0x2000 ≤ off ∧ off < 0x4000 then s.partRead (off - 0x2000)
  else if 0x800 ≤ off ∧ off < 0x1000 then s.health ((off - 0x800) / 8)
  else if 0x100 ≤ off ∧ off < 0x300 then s.powerDie draw ((off - 0x100) / 8)
  else if 0x018 ≤ off ∧ off < 0x038 then leNat ((s.dev.cfg.digest.drop (off - 0x018)).take 8)
  else
    match off with
    | 0x000 => devId
    | 0x008 => s.devstat
    | 0x010 => s.tilesWord
    | 0x040 => (Config.power draw 64).toNat
    | 0x400 => s.dev.resync.addr.toNat
    | 0x408 => s.dev.resync.len.toNat
    | 0x410 => s.dev.resync.stat
    | 0x414 => s.dev.resync.vec.toNat
    | 0x1000 => s.front.admfrac.toNat
    | _ => 0

/-! ## BAR2 (R285, R296, R374) -/

/-- A host access that BAR2 refuses: some byte lies in a drift-log area or a reserved address (R285). -/
def bar2Refused (a n : Nat) : Bool := (List.range n).any fun i => !devOk (a + i)

/-- BAR2_WRITE (R285, R296): also refused where it touches a frame that holds a pinned node; a device whose boot failed has no BAR2
(R404). -/
def execBar2Write (addr : Nat) (data : List Byte) (s : State) : Res :=
  if s.dev.state = .fail then .next s
  else if bar2Refused addr data.length || (List.range data.length).any (fun i => s.framePinned (addr + i)) then .next (s.count 1)
  else .next (s.writeMem (devKey addr) data false false noName)

/-- BAR2_READ on a PCIe port (R275, R285, R374): each line it reads is compared at its exit, that port; the poisoned bit tells of a
mismatch or a mark. A device whose boot failed has no BAR2 (R404), and a port that is down none: neither gives a completion. -/
def execBar2Read (addr : BarAddr) (n : Nat) (s : State) : Res :=
  if s.dev.state = .fail ∨ s.hostUp addr.port = false then .next s
  else if bar2Refused addr.off n then .next ((s.count 1).answer (List.replicate n 0xFF) false)
  else
    let k := devKey addr.off
    let s := s.meetRead k n noName
    let s := (linesIn k n).foldl (fun s l => (s.leave (addr.port, 0) l).1) s
    .next (s.answer (s.mem.read k n) (s.mem.marked k n))

/-! ## The I3C port (R414) -/

/-- I3C_READ_DEVSTAT. -/
def execI3cReadDevstat (s : State) : Res := .next (s.answer (leBytes 8 s.devstat) false)

/-- I3C_READ_POWER: PWRTOT and the 64 PWRDIE words. -/
def execI3cReadPower (s : State) : Res :=
  let (n, s) := s.drawFree
  .next (s.answer (leBytes 8 (s.bar0Read n 0x040) ++ (List.range 64).flatMap fun d => leBytes 8 (s.bar0Read n (0x100 + 8 * d))) false)

/-- ATTESTATION_REPORT: DEVID, the identity key digest, versions and digests of the four images, the link-table digest, the nonce and
DTIME, in that order, and the signature (R405; the layout is log entry 28). -/
def execAttestationReport (nonce : BitVec 256) (s : State) : Res :=
  let image := fun k => match findImage s.dev.store k with
    | some i => leBytes 4 i.version.toNat ++ leBytes 32 i.digest.toNat
    | none => zeros 36
  let r := leBytes 8 devId ++ leBytes 32 Config.identityDigest.toNat ++ image .firmware ++ image .config ++ image .links ++ image .lost ++
    s.dev.cfg.digest ++ leBytes 32 nonce.toNat ++ leBytes 8 s.dtime
  let (n, s) := s.drawFree
  .next (s.answer (r ++ Config.attestSignature n r) false)

/-- BOOT_STORE_WRITE: it takes effect at the next boot and is verified there. -/
def execBootStoreWrite (img : BootImage) (s : State) : Res :=
  .next (s.modDev fun d => { d with store := img :: d.store.filter fun i => tableKind i.table != tableKind img.table })

/-- VERSION_FLOOR_RAISE: under a vendor signature; a floor is never lowered. -/
def execVersionFloorRaise (kind : ImageKind) (floor : BitVec 32) (signature : Bool) (s : State) : Res :=
  let i := kindIdx kind
  if signature && decide ((vget 0 s.dev.floors i).toNat < floor.toNat) then
    .next (s.modDev fun d => { d with floors := vset d.floors i floor })
  else .next s

/-- DEBUG_WINDOW_ACCESS: NACKed when DEBUG = 0; else the 64-bit word at an offset of the window, as a BAR0 access does. -/
def execDebugWindowAccess (off : Nat) (write : Option (BitVec 64)) (s : State) : Res :=
  if !s.dev.cfg.debug then .next (s.answer [] true)
  else
    match write with
    | some v => .next ((s.dbgPutReg off v.toNat).answer [] false)
    | none => .next (s.answer (leBytes 8 (s.dbgRead off)) false)

/-! ## Boundary scan (R415) -/

/-- The boundary-scan instruction in force. -/
def State.setScan (s : State) (n : Nat) : State := s.modDev fun d => { d with scan := n }

/-- BYPASS. -/
def execBypass (s : State) : Res := .next (s.setScan 0)
/-- IDCODE: 0x0F2E_A19B. -/
def execIdcode (s : State) : Res := .next ((s.setScan 1).answer (leBytes 4 0x0F2EA19B) false)
/-- SAMPLE/PRELOAD. -/
def execSamplePreload (s : State) : Res := .next (s.setScan 2)
/-- EXTEST: acts only when the test-mode strap was high at power-on, else as BYPASS. -/
def execExtest (s : State) : Res := .next (s.setScan (if s.dev.strap then 3 else 0))

/-! ## Fetching (R51, R95) -/

/-- ILLEGAL_INSTRUCTION: cause 0x01 with the word in TVAL, and no other effect (R51, R52). -/
def execIllegalInstruction (w : Nat) (s : State) : Res := .next (s.takeTrap (illegal w))

/-- INSTRUCTION_FETCH: the word at the PC is fetched; a failing check traps with TPC = TVAL = PC (R95). -/
def execInstructionFetch (s : State) : Res :=
  match s.fetchAt s.pc with
  | (t, .ok _) => .next t
  | (t, .trap x) => .next (t.takeTrap x)
  | (t, .wait) => .next t.stall

end Sys2Proof.Machine
end

