-- ==== Sys2Proof/Machine/Dispatch.lean ====
section
/-! DEFINITION. The dispatch: one arm for each constructor of `Instr`, each one direct call of its meaning. -/

namespace Sys2Proof.Machine

def exec (i : Instr) (s : State) : Host.Outcome State Fault Refusal :=
  match i with
  | .add d a b => Sys2Proof.Machine.execAdd d a b s
  | .sub d a b => Sys2Proof.Machine.execSub d a b s
  | .and d a b => Sys2Proof.Machine.execAnd d a b s
  | .or d a b => Sys2Proof.Machine.execOr d a b s
  | .xor d a b => Sys2Proof.Machine.execXor d a b s
  | .andn d a b => Sys2Proof.Machine.execAndn d a b s
  | .shl d a b => Sys2Proof.Machine.execShl d a b s
  | .shr d a b => Sys2Proof.Machine.execShr d a b s
  | .sar d a b => Sys2Proof.Machine.execSar d a b s
  | .rol d a b => Sys2Proof.Machine.execRol d a b s
  | .slt d a b => Sys2Proof.Machine.execSlt d a b s
  | .sltn d a b => Sys2Proof.Machine.execSltn d a b s
  | .min d a b => Sys2Proof.Machine.execMin d a b s
  | .max d a b => Sys2Proof.Machine.execMax d a b s
  | .minn d a b => Sys2Proof.Machine.execMinn d a b s
  | .maxn d a b => Sys2Proof.Machine.execMaxn d a b s
  | .mul d a b => Sys2Proof.Machine.execMul d a b s
  | .mulh d a b => Sys2Proof.Machine.execMulh d a b s
  | .mulhn d a b => Sys2Proof.Machine.execMulhn d a b s
  | .div d a b => Sys2Proof.Machine.execDiv d a b s
  | .divn d a b => Sys2Proof.Machine.execDivn d a b s
  | .rem d a b => Sys2Proof.Machine.execRem d a b s
  | .remn d a b => Sys2Proof.Machine.execRemn d a b s
  | .clz d a => Sys2Proof.Machine.execClz d a s
  | .ctz d a => Sys2Proof.Machine.execCtz d a s
  | .popc d a => Sys2Proof.Machine.execPopc d a s
  | .bswap d a => Sys2Proof.Machine.execBswap d a s
  | .addw d a b => Sys2Proof.Machine.execAddw d a b s
  | .subw d a b => Sys2Proof.Machine.execSubw d a b s
  | .mulw d a b => Sys2Proof.Machine.execMulw d a b s
  | .seq d a b => Sys2Proof.Machine.execSeq d a b s
  | .sne d a b => Sys2Proof.Machine.execSne d a b s
  | .addi d a imm => Sys2Proof.Machine.execAddi d a imm s
  | .andi d a imm => Sys2Proof.Machine.execAndi d a imm s
  | .ori d a imm => Sys2Proof.Machine.execOri d a imm s
  | .xori d a imm => Sys2Proof.Machine.execXori d a imm s
  | .shli d a n => Sys2Proof.Machine.execShli d a n s
  | .shri d a n => Sys2Proof.Machine.execShri d a n s
  | .sari d a n => Sys2Proof.Machine.execSari d a n s
  | .roli d a n => Sys2Proof.Machine.execRoli d a n s
  | .slti d a imm => Sys2Proof.Machine.execSlti d a imm s
  | .sltni d a imm => Sys2Proof.Machine.execSltni d a imm s
  | .lui d imm => Sys2Proof.Machine.execLui d imm s
  | .cpc d imm => Sys2Proof.Machine.execCpc d imm s
  | .cinc d a b => Sys2Proof.Machine.execCinc d a b s
  | .cbnd d a b => Sys2Proof.Machine.execCbnd d a b s
  | .cbndx d a b => Sys2Proof.Machine.execCbndx d a b s
  | .cperm d a b => Sys2Proof.Machine.execCperm d a b s
  | .cgeta d a => Sys2Proof.Machine.execCgeta d a s
  | .cgetb d a => Sys2Proof.Machine.execCgetb d a s
  | .cgetl d a => Sys2Proof.Machine.execCgetl d a s
  | .cgetp d a => Sys2Proof.Machine.execCgetp d a s
  | .cseta d a b => Sys2Proof.Machine.execCseta d a b s
  | .ctag d a => Sys2Proof.Machine.execCtag d a s
  | .csub d a b => Sys2Proof.Machine.execCsub d a b s
  | .ctest d a b => Sys2Proof.Machine.execCtest d a b s
  | .cclr d a => Sys2Proof.Machine.execCclr d a s
  | .cinci d a imm => Sys2Proof.Machine.execCinci d a imm s
  | .ld d a w imm => Sys2Proof.Machine.execLd d a w imm s
  | .lds d a w imm => Sys2Proof.Machine.execLds d a w imm s
  | .st src a w imm => Sys2Proof.Machine.execSt src a w imm s
  | .aadd d a b w src o => Sys2Proof.Machine.execAadd d a b w src o s
  | .aand d a b w src o => Sys2Proof.Machine.execAand d a b w src o s
  | .aor d a b w src o => Sys2Proof.Machine.execAor d a b w src o s
  | .axor d a b w src o => Sys2Proof.Machine.execAxor d a b w src o s
  | .amin d a b w src o => Sys2Proof.Machine.execAmin d a b w src o s
  | .amax d a b w src o => Sys2Proof.Machine.execAmax d a b w src o s
  | .aminn d a b w src o => Sys2Proof.Machine.execAminn d a b w src o s
  | .amaxn d a b w src o => Sys2Proof.Machine.execAmaxn d a b w src o s
  | .aswap d a b w src o => Sys2Proof.Machine.execAswap d a b w src o s
  | .acas d a b w src o => Sys2Proof.Machine.execAcas d a b w src o s
  | .afadd d a b w src o => Sys2Proof.Machine.execAfadd d a b w src o s
  | .fence src => Sys2Proof.Machine.execFence src s
  | .fencea src => Sys2Proof.Machine.execFencea src s
  | .fencel src => Sys2Proof.Machine.execFencel src s
  | .lda d a src => Sys2Proof.Machine.execLda d a src s
  | .stl d a src => Sys2Proof.Machine.execStl d a src s
  | .ldlk d a => Sys2Proof.Machine.execLdlk d a s
  | .stul d a => Sys2Proof.Machine.execStul d a s
  | .ldv d a b => Sys2Proof.Machine.execLdv d a b s
  | .stv d a b => Sys2Proof.Machine.execStv d a b s
  | .verq d a => Sys2Proof.Machine.execVerq d a s
  | .reclaim a b => Sys2Proof.Machine.execReclaim a b s
  | .beq a b x => Sys2Proof.Machine.execBeq a b x s
  | .bne a b x => Sys2Proof.Machine.execBne a b x s
  | .blt a b x => Sys2Proof.Machine.execBlt a b x s
  | .bge a b x => Sys2Proof.Machine.execBge a b x s
  | .bltn a b x => Sys2Proof.Machine.execBltn a b x s
  | .bgen a b x => Sys2Proof.Machine.execBgen a b x s
  | .beqz a x => Sys2Proof.Machine.execBeqz a x s
  | .bnez a x => Sys2Proof.Machine.execBnez a x s
  | .bltz a x => Sys2Proof.Machine.execBltz a x s
  | .bgez a x => Sys2Proof.Machine.execBgez a x s
  | .bgtz a x => Sys2Proof.Machine.execBgtz a x s
  | .blez a x => Sys2Proof.Machine.execBlez a x s
  | .j x => Sys2Proof.Machine.execJ x s
  | .jal x => Sys2Proof.Machine.execJal x s
  | .jr a => Sys2Proof.Machine.execJr a s
  | .jalr d a => Sys2Proof.Machine.execJalr d a s
  | .rep c n x y z => Sys2Proof.Machine.execRep c n x y z s
  | .fadd d a b p => Sys2Proof.Machine.execFadd d a b p s
  | .fsub d a b p => Sys2Proof.Machine.execFsub d a b p s
  | .fmul d a b p => Sys2Proof.Machine.execFmul d a b p s
  | .fdiv d a b p => Sys2Proof.Machine.execFdiv d a b p s
  | .fma d a b p => Sys2Proof.Machine.execFma d a b p s
  | .fsqrt d a p => Sys2Proof.Machine.execFsqrt d a p s
  | .fmin d a b p => Sys2Proof.Machine.execFmin d a b p s
  | .fmax d a b p => Sys2Proof.Machine.execFmax d a b p s
  | .fcmp d a b p => Sys2Proof.Machine.execFcmp d a b p s
  | .fcvt d a t r p => Sys2Proof.Machine.execFcvt d a t r p s
  | .fclass d a p => Sys2Proof.Machine.execFclass d a p s
  | .spawn a => Sys2Proof.Machine.execSpawn a s
  | .range a => Sys2Proof.Machine.execRange a s
  | .take d a => Sys2Proof.Machine.execTake d a s
  | .done => Sys2Proof.Machine.execDone s
  | .yield => Sys2Proof.Machine.execYield s
  | .trig d a b => Sys2Proof.Machine.execTrig d a b s
  | .untrig d a => Sys2Proof.Machine.execUntrig d a s
  | .deqn d => Sys2Proof.Machine.execDeqn d s
  | .chunk d a => Sys2Proof.Machine.execChunk d a s
  | .put a b => Sys2Proof.Machine.execPut a b s
  | .puti a b => Sys2Proof.Machine.execPuti a b s
  | .get d a => Sys2Proof.Machine.execGet d a s
  | .send a b => Sys2Proof.Machine.execSend a b s
  | .recv d a => Sys2Proof.Machine.execRecv d a s
  | .sendh a b => Sys2Proof.Machine.execSendh a b s
  | .inboxn d => Sys2Proof.Machine.execInboxn d s
  | .uien d a => Sys2Proof.Machine.execUien d a s
  | .ihret => Sys2Proof.Machine.execIhret s
  | .bar => Sys2Proof.Machine.execBar s
  | .bara => Sys2Proof.Machine.execBara s
  | .barw => Sys2Proof.Machine.execBarw s
  | .domset a => Sys2Proof.Machine.execDomset a s
  | .gang a => Sys2Proof.Machine.execGang a s
  | .split => Sys2Proof.Machine.execSplit s
  | .pair d => Sys2Proof.Machine.execPair d s
  | .unpair => Sys2Proof.Machine.execUnpair s
  | .tname d a => Sys2Proof.Machine.execTname d a s
  | .tnbr d a b => Sys2Proof.Machine.execTnbr d a b s
  | .tdist d a => Sys2Proof.Machine.execTdist d a s
  | .region => Sys2Proof.Machine.execRegion s
  | .chkp a => Sys2Proof.Machine.execChkp a s
  | .ckpt => Sys2Proof.Machine.execCkpt s
  | .rngsnap a => Sys2Proof.Machine.execRngsnap a s
  | .rngrest a => Sys2Proof.Machine.execRngrest a s
  | .rng d a b => Sys2Proof.Machine.execRng d a b s
  | .succhint => Sys2Proof.Machine.execSucchint s
  | .waitpred d => Sys2Proof.Machine.execWaitpred d s
  | .publish => Sys2Proof.Machine.execPublish s
  | .push a e => Sys2Proof.Machine.execPush a e s
  | .pushTry d a e => Sys2Proof.Machine.execPushTry d a e s
  | .eprog d e => Sys2Proof.Machine.execEprog d e s
  | .ecancel e => Sys2Proof.Machine.execEcancel e s
  | .specommit a => Sys2Proof.Machine.execSpecommit a s
  | .specdrop a => Sys2Proof.Machine.execSpecdrop a s
  | .ecall c => Sys2Proof.Machine.execEcall c s
  | .ebreak c => Sys2Proof.Machine.execEbreak c s
  | .eret => Sys2Proof.Machine.execEret s
  | .wfi => Sys2Proof.Machine.execWfi s
  | .halt => Sys2Proof.Machine.execHalt s
  | .trap c => Sys2Proof.Machine.execTrap c s
  | .csrr n a => Sys2Proof.Machine.execCsrr n a s
  | .csrw n a => Sys2Proof.Machine.execCsrw n a s
  | .csrs n a => Sys2Proof.Machine.execCsrs n a s
  | .csrc n a => Sys2Proof.Machine.execCsrc n a s
  | .tlbinv a => Sys2Proof.Machine.execTlbinv a s
  | .vadd d a b p t => Sys2Proof.Machine.execVadd d a b p t s
  | .vsub d a b p t => Sys2Proof.Machine.execVsub d a b p t s
  | .vmul d a b p t => Sys2Proof.Machine.execVmul d a b p t s
  | .vmin d a b p t => Sys2Proof.Machine.execVmin d a b p t s
  | .vmax d a b p t => Sys2Proof.Machine.execVmax d a b p t s
  | .vabs d a p t => Sys2Proof.Machine.execVabs d a p t s
  | .vneg d a p t => Sys2Proof.Machine.execVneg d a p t s
  | .vand d a b p t => Sys2Proof.Machine.execVand d a b p t s
  | .vor d a b p t => Sys2Proof.Machine.execVor d a b p t s
  | .vxor d a b p t => Sys2Proof.Machine.execVxor d a b p t s
  | .vshl d a b p t => Sys2Proof.Machine.execVshl d a b p t s
  | .vshr d a b p t => Sys2Proof.Machine.execVshr d a b p t s
  | .vsar d a b p t => Sys2Proof.Machine.execVsar d a b p t s
  | .vmulh d a b p t => Sys2Proof.Machine.execVmulh d a b p t s
  | .vadds d a b p t => Sys2Proof.Machine.execVadds d a b p t s
  | .vsubs d a b p t => Sys2Proof.Machine.execVsubs d a b p t s
  | .vfma d a b p t => Sys2Proof.Machine.execVfma d a b p t s
  | .vfms d a b p t => Sys2Proof.Machine.execVfms d a b p t s
  | .vfnma d a b p t => Sys2Proof.Machine.execVfnma d a b p t s
  | .vfnms d a b p t => Sys2Proof.Machine.execVfnms d a b p t s
  | .vdiv d a b p t => Sys2Proof.Machine.execVdiv d a b p t s
  | .vsqrt d a p t => Sys2Proof.Machine.execVsqrt d a p t s
  | .vexp2 d a p => Sys2Proof.Machine.execVexp2 d a p s
  | .vlog2 d a p => Sys2Proof.Machine.execVlog2 d a p s
  | .vrcp d a p => Sys2Proof.Machine.execVrcp d a p s
  | .vrsq d a p => Sys2Proof.Machine.execVrsq d a p s
  | .vceq d a b p t => Sys2Proof.Machine.execVceq d a b p t s
  | .vcne d a b p t => Sys2Proof.Machine.execVcne d a b p t s
  | .vclt d a b p t => Sys2Proof.Machine.execVclt d a b p t s
  | .vcle d a b p t => Sys2Proof.Machine.execVcle d a b p t s
  | .vcgt d a b p t => Sys2Proof.Machine.execVcgt d a b p t s
  | .vcge d a b p t => Sys2Proof.Machine.execVcge d a b p t s
  | .vcun d a b p t => Sys2Proof.Machine.execVcun d a b p t s
  | .vcvt d a src x p t m => Sys2Proof.Machine.execVcvt d a src x p t m s
  | .vshuf d a b p t => Sys2Proof.Machine.execVshuf d a b p t s
  | .vrot d a n p t => Sys2Proof.Machine.execVrot d a n p t s
  | .vbcast d a n p t => Sys2Proof.Machine.execVbcast d a n p t s
  | .vxlane d a b p t => Sys2Proof.Machine.execVxlane d a b p t s
  | .vcompress d a p t => Sys2Proof.Machine.execVcompress d a p t s
  | .vexpand d a p t => Sys2Proof.Machine.execVexpand d a p t s
  | .vrsum d a p t => Sys2Proof.Machine.execVrsum d a p t s
  | .vrmax d a p t => Sys2Proof.Machine.execVrmax d a p t s
  | .vrmin d a p t => Sys2Proof.Machine.execVrmin d a p t s
  | .vrsumo d a p t => Sys2Proof.Machine.execVrsumo d a p t s
  | .vld d a p t => Sys2Proof.Machine.execVld d a p t s
  | .vlds d a b p t => Sys2Proof.Machine.execVlds d a b p t s
  | .vgather d a b p t => Sys2Proof.Machine.execVgather d a b p t s
  | .vst d a p t => Sys2Proof.Machine.execVst d a p t s
  | .vsts d a b p t => Sys2Proof.Machine.execVsts d a b p t s
  | .vscatter d a b p t => Sys2Proof.Machine.execVscatter d a b p t s
  | .vmovgv d a n p t => Sys2Proof.Machine.execVmovgv d a n p t s
  | .vmovvg d a n t => Sys2Proof.Machine.execVmovvg d a n t s
  | .vsplat d a p t => Sys2Proof.Machine.execVsplat d a p t s
  | .vqbind k a => Sys2Proof.Machine.execVqbind k a s
  | .vqdrop k => Sys2Proof.Machine.execVqdrop k s
  | .vpand d a b p => Sys2Proof.Machine.execVpand d a b p s
  | .vpor d a b p => Sys2Proof.Machine.execVpor d a b p s
  | .vpxor d a b p => Sys2Proof.Machine.execVpxor d a b p s
  | .vpnot d a p => Sys2Proof.Machine.execVpnot d a p s
  | .vpcnt d a p => Sys2Proof.Machine.execVpcnt d a p s
  | .vpset d a p => Sys2Proof.Machine.execVpset d a p s
  | .vpfirst d a p => Sys2Proof.Machine.execVpfirst d a p s
  | .timerInterrupt => Sys2Proof.Machine.execTimerInterrupt s
  | .uiEntry => Sys2Proof.Machine.execUiEntry s
  | .responseArrival n => Sys2Proof.Machine.execResponseArrival n s
  | .lockLoss core => Sys2Proof.Machine.execLockLoss core s
  | .mma core => Sys2Proof.Machine.execMma core s
  | .mmr core => Sys2Proof.Machine.execMmr core s
  | .accz core => Sys2Proof.Machine.execAccz core s
  | .accld core => Sys2Proof.Machine.execAccld core s
  | .accst core => Sys2Proof.Machine.execAccst core s
  | .cpy core => Sys2Proof.Machine.execCpy core s
  | .cpy2 core => Sys2Proof.Machine.execCpy2 core s
  | .deal core => Sys2Proof.Machine.execDeal core s
  | .xpose core => Sys2Proof.Machine.execXpose core s
  | .agset core => Sys2Proof.Machine.execAgset core s
  | .mldred core => Sys2Proof.Machine.execMldred core s
  | .mstore core => Sys2Proof.Machine.execMstore core s
  | .agstat core => Sys2Proof.Machine.execAgstat core s
  | .engineElement core e => Sys2Proof.Machine.execEngineElement core e s
  | .latchChunkArrival core => Sys2Proof.Machine.execLatchChunkArrival core s
  | .mmrWriteBack core => Sys2Proof.Machine.execMmrWriteBack core s
  | .streamEntryArrival n => Sys2Proof.Machine.execStreamEntryArrival n s
  | .completionMessage core e => Sys2Proof.Machine.execCompletionMessage core e s
  | .messageArrival n => Sys2Proof.Machine.execMessageArrival n s
  | .firingPush core launch n => Sys2Proof.Machine.execFiringPush core launch n s
  | .stealProbe thief victim launch => Sys2Proof.Machine.execStealProbe thief victim launch s
  | .stealGrant core launch => Sys2Proof.Machine.execStealGrant core launch s
  | .dieAgentSteal launch die => Sys2Proof.Machine.execDieAgentSteal launch die s
  | .sharePush launch n => Sys2Proof.Machine.execSharePush launch n s
  | .barrierArrival launch tile => Sys2Proof.Machine.execBarrierArrival launch tile s
  | .barrierRelease core launch => Sys2Proof.Machine.execBarrierRelease core launch s
  | .lullWave launch => Sys2Proof.Machine.execLullWave launch s
  | .contextWake core launch => Sys2Proof.Machine.execContextWake core launch s
  | .contextSwitch core => Sys2Proof.Machine.execContextSwitch core s
  | .preemptInterrupt => Sys2Proof.Machine.execPreemptInterrupt s
  | .deadlineMiss launch => Sys2Proof.Machine.execDeadlineMiss launch s
  | .budgetExhausted core => Sys2Proof.Machine.execBudgetExhausted core s
  | .reserveRefill => Sys2Proof.Machine.execReserveRefill s
  | .rollback => Sys2Proof.Machine.execRollback s
  | .pairExchange core => Sys2Proof.Machine.execPairExchange core s
  | .watchdogFire tile => Sys2Proof.Machine.execWatchdogFire tile s
  | .intervalEnd tile => Sys2Proof.Machine.execIntervalEnd tile s
  | .snapshotTimeout tile => Sys2Proof.Machine.execSnapshotTimeout tile s
  | .checkpointCommit tile => Sys2Proof.Machine.execCheckpointCommit tile s
  | .refusedMessageResend n => Sys2Proof.Machine.execRefusedMessageResend n s
  | .lehrFence tile => Sys2Proof.Machine.execLehrFence tile s
  | .lehrChoose tile => Sys2Proof.Machine.execLehrChoose tile s
  | .lehrRestore tile => Sys2Proof.Machine.execLehrRestore tile s
  | .rebindingFlip tile => Sys2Proof.Machine.execRebindingFlip tile s
  | .lehrReplay tile => Sys2Proof.Machine.execLehrReplay tile s
  | .lehrResume tile => Sys2Proof.Machine.execLehrResume tile s
  | .plannedMigration tile => Sys2Proof.Machine.execPlannedMigration tile s
  | .flitArrival link good => Sys2Proof.Machine.execFlitArrival link good s
  | .flitAcknowledgement link n => Sys2Proof.Machine.execFlitAcknowledgement link n s
  | .negativeAcknowledgement link oneLane => Sys2Proof.Machine.execNegativeAcknowledgement link oneLane s
  | .laneSparingDone link => Sys2Proof.Machine.execLaneSparingDone link s
  | .linkTrained link lanes => Sys2Proof.Machine.execLinkTrained link lanes s
  | .trainingTimeout link => Sys2Proof.Machine.execTrainingTimeout link s
  | .lossOfSignal port => Sys2Proof.Machine.execLossOfSignal port s
  | .meshFlitArrival f q => Sys2Proof.Machine.execMeshFlitArrival f q s
  | .galePortTrained port identity => Sys2Proof.Machine.execGalePortTrained port identity s
  | .hostPortDown port => Sys2Proof.Machine.execHostPortDown port s
  | .launch q => Sys2Proof.Machine.execLaunch q s
  | .waitpkt q => Sys2Proof.Machine.execWaitpkt q s
  | .signal q => Sys2Proof.Machine.execSignal q s
  | .pin q => Sys2Proof.Machine.execPin q s
  | .unpin q => Sys2Proof.Machine.execUnpin q s
  | .copy q => Sys2Proof.Machine.execCopy q s
  | .nop q => Sys2Proof.Machine.execNop q s
  | .packetWaitEnd q => Sys2Proof.Machine.execPacketWaitEnd q s
  | .copyDone q n => Sys2Proof.Machine.execCopyDone q n s
  | .qkick q k => Sys2Proof.Machine.execQkick q k s
  | .enable q => Sys2Proof.Machine.execEnable q s
  | .disable q => Sys2Proof.Machine.execDisable q s
  | .qctlResume q => Sys2Proof.Machine.execQctlResume q s
  | .skip q => Sys2Proof.Machine.execSkip q s
  | .clrstale q => Sys2Proof.Machine.execClrstale q s
  | .partitionTableWrite off value => Sys2Proof.Machine.execPartitionTableWrite off value s
  | .registerWrite off value => Sys2Proof.Machine.execRegisterWrite off value s
  | .bar2Write addr data => Sys2Proof.Machine.execBar2Write addr data s
  | .bar2Read addr n => Sys2Proof.Machine.execBar2Read addr n s
  | .resyncRequest value => Sys2Proof.Machine.execResyncRequest value s
  | .resyncComplete => Sys2Proof.Machine.execResyncComplete s
  | .attach => Sys2Proof.Machine.execAttach s
  | .detach => Sys2Proof.Machine.execDetach s
  | .dbgHalt => Sys2Proof.Machine.execDbgHalt s
  | .dbgResume => Sys2Proof.Machine.execDbgResume s
  | .dbgRead => Sys2Proof.Machine.execDbgRead s
  | .dbgWrite => Sys2Proof.Machine.execDbgWrite s
  | .i3cReadDevstat => Sys2Proof.Machine.execI3cReadDevstat s
  | .i3cReadPower => Sys2Proof.Machine.execI3cReadPower s
  | .attestationReport nonce => Sys2Proof.Machine.execAttestationReport nonce s
  | .bootStoreWrite img => Sys2Proof.Machine.execBootStoreWrite img s
  | .versionFloorRaise kind floor signature => Sys2Proof.Machine.execVersionFloorRaise kind floor signature s
  | .debugWindowAccess off write => Sys2Proof.Machine.execDebugWindowAccess off write s
  | .bypass => Sys2Proof.Machine.execBypass s
  | .idcode => Sys2Proof.Machine.execIdcode s
  | .samplePreload => Sys2Proof.Machine.execSamplePreload s
  | .extest => Sys2Proof.Machine.execExtest s
  | .powerOnReset => Sys2Proof.Machine.execPowerOnReset s
  | .sensorSample site temp current => Sys2Proof.Machine.execSensorSample site temp current s
  | .overtemperature tile => Sys2Proof.Machine.execOvertemperature tile s
  | .roleRestart role => Sys2Proof.Machine.execRoleRestart role s
  | .illegalInstruction w => Sys2Proof.Machine.execIllegalInstruction w s
  | .instructionFetch => Sys2Proof.Machine.execInstructionFetch s
  | .hostPortUp port => Sys2Proof.Machine.execHostPortUp port s
  | .writeAcknowledgement n => Sys2Proof.Machine.execWriteAcknowledgement n s
  | .malformedPacket q => Sys2Proof.Machine.execMalformedPacket q s
  | .pairingExchange launch wafer tiles => Sys2Proof.Machine.execPairingExchange launch wafer tiles s
  | .pairedLaunchEnd launch wafer => Sys2Proof.Machine.execPairedLaunchEnd launch wafer s

end Sys2Proof.Machine
end

