-- ==== Sys2Proof/Machine/Run.lean ====
section
/-! DEFINITION. What happens around an instruction: boundary events (R356), the resident runtime's services (R139, R350), waits and
seals (R102, R103, R361, R362), pairs and gangs (R128, R365 to R369), the limits of the checkpoint areas (R387), the cycle with its
charges and the watchdog (R267, R376, R410), and the order in which the device's agents move (log entry 5). -/

namespace Sys2Proof.Machine

/-! ## The resident runtime (R139, R350) -/

/-- ECALL 16, ring set-up: RINGCFG, g1 and the return to TPC + 4 (R350); a response that g1 awaits is waited for first (R103). -/
def State.ringSetup (s : State) : State :=
  if s.cpu.regs.pend.any fun p => p.1 == 1 then s.stall else
  let i := s.cpu.core % 16
  let base := s.cpu.core / 16 * 16
  let ring := 2 ^ 63 + i * 2 ^ 48 + 15 * 2 ^ 40 + (base + (i + 15) % 16) * 2 ^ 20 + (base + (i + 1) % 16)
  let s := s.modCsr fun c => { c with ringcfg := BitVec.ofNat 64 ring, tpc := BitVec.ofNat 64 ((c.tpc.toNat + 4) % 2 ^ 52) }
  (s.put 1 0).returnFrom

/-- The runtime's service of the trap or interrupt in TCAUSE, as one step: ECALL 16, the returns of R269 and R272, and the end of
the launch for everything else. The timer, which only the runtime sets, is disabled (log entry 9). -/
def State.serveTrap (s : State) : State :=
  let c := s.cpu.csrs.tcause
  if c = preemptCause then s.returnFrom
  else if c.getLsbD 63 then (s.modCsr fun c => { c with tcmp := BitVec.allOnes 64 }).returnFrom
  else
    match c.toNat with
    | 9 => if s.cpu.csrs.tval = 16 ∧ bits s.cpu.csrs.tstat.toNat 3 2 = 0 then s.ringSetup else s.escalate 9
    | 14 => s.returnFrom
    | 15 => s.returnFrom
    | n => s.escalate n

/-! ## Boundaries (R356) -/

/-- The trap due that comes first: a passed deadline, then a spent budget, then any other. -/
def firstDue (ds : List (Nat × Nat × Nat)) : Option (Nat × Nat × Nat) :=
  (ds.find? fun d => d.1 == 15).or ((ds.find? fun d => d.1 == 14).or ds.head?)

/-- The acting context halts (R375), with the checking core of its pair (R416); the request to its physical core is met (R397). DESIGN CHOICE (log entry 61): interrupt 4 halts at runtime
level with IE = 0 too, and leaves TCAUSE as it is. -/
def State.haltNow (s : State) : State :=
  let s := if s.cpu.paired && (s.core (s.cpu.core + 1)).haltReq then s.updCore (s.cpu.core + 1) fun k => { k with haltReq := false } else s
  ((s.namesOf s.cpu.core).foldl (fun s k => s.updCore k fun x => { x with haltReq := false }) s).haltHere

/-- The state that a meaning leaves; every meaning answers a next state. -/
def outState (s : State) (r : Res) : State :=
  match r with
  | .next t => t
  | .fault _ => s
  | .refused _ => s

/-- The progress of the instruction at which the acting context stops, for TELEM of causes 0x0E and 0x0F (R17, R137): the next
element of a frame, the highest lane done of a VMEM instruction, else 0. -/
def State.progress (s : State) : Nat :=
  match (s.fetchAt s.pc).2 with
  | .ok w =>
    match decodeWord w with
    | some (.rep c _ _ _ _) => c * s.repPos.1 + s.repPos.2
    | some (.vld _ _ _ _) | some (.vlds _ _ _ _ _) | some (.vgather _ _ _ _ _) | some (.vst _ _ _ _) | some (.vsts _ _ _ _ _)
    | some (.vscatter _ _ _ _ _) => s.vprog.toNat.log2
    | _ => 0
  | .trap _ | .wait => 0

/-- A trap that was due is taken (R137, R269). -/
def State.takeDue (s : State) (d : Nat × Nat × Nat) : State :=
  (s.modCpu fun c => { c with due := c.due.erase d }).takeTrap ⟨d.1, d.2.1, if d.1 = 14 ∨ d.1 = 15 then s.progress else d.2.2⟩

/-- The first event pending at a boundary of the acting context, taken (R356); none when the next instruction may issue. An event
that stops a pair, whichever core it is asked of, comes after its exchange (R366, R369), and what it does to the acting core the
checking core follows (R365). A trap that is due is taken at every level, and escalates where `take_trap` does (R137). -/
def State.boundary (s : State) : Option State :=
  let k := s.core s.cpu.core
  let swap := decide (s.cpu.paired = true ∧ 0 < s.cpu.pair.count)
  if s.asks CoreSt.haltReq then some (if swap then outState s (execPairExchange s.cpu.core s) else s.haltNow.pairFollow s)
  else if k.rollReq then
    some (if s.regionOpen && !s.cpu.regs.pend.isEmpty then s.stall else outState s (execRollback s))
  else
    match firstDue s.cpu.due with
    | some d => some ((s.takeDue d).pairFollow s)
    | none =>
      -- a lease that is spent while the pool is empty: the trap is due at once (R269)
      if decide (outState s (execBudgetExhausted s.cpu.core s) ≠ s) then some (outState s (execBudgetExhausted s.cpu.core s))
      else if s.asks CoreSt.preReq && s.cpu.level == .app && s.cpu.launch.isSome then
        some (if swap then outState s (execPairExchange s.cpu.core s) else s.preempt)
      else if s.asks CoreSt.preReq && s.cpu.level == .runtime && tstatIE s.cpu.csrs.tstat then
        some ((outState s (execPreemptInterrupt s)).pairFollow s)
      else if s.timerDue then some ((s.takeInterrupt 2).pairFollow s)
      else if s.cpu.uiDue then some ((outState s (execUiEntry s)).pairFollow s)
      else none

/-! ## Limits (R381, R383, R387, R390) -/

/-- Bytes of a die's drift-log area in use: entries stay with the die on which they were written. -/
def State.driftSize (s : State) (die : Nat) : Nat := ((s.fabric.drift.filter fun e => e.die == die).map DriftEntry.size).sum

/-- Bytes of a die's drift-log area: 16 MiB, or 12 MiB on a die that hosts a guest (R285, R397). -/
def State.driftArea (s : State) (die : Nat) : Nat := if s.dieHasGuest die then 12 * 2 ^ 20 else 2 ^ 24

/-- The die whose drift-log area has no room for what a step would add (R387). -/
def State.logFull (s t : State) : Option Nat :=
  (((t.fabric.drift.drop s.fabric.drift.length).map fun e => e.die).eraseDups).find? fun d => decide (t.driftArea d < t.driftSize d)

/-- What a step would add to a tile's interval finds no room while the previous commit is in progress: the staging, or the
determinant area (R381). -/
def State.intervalFull (s t : State) (tile : Nat) : Bool :=
  let a := s.tile tile
  let b := t.tile tile
  a.committing.isSome &&
    (decide (a.dirty.length < b.dirty.length ∧ b.full = false ∧ stagingLines < b.dirty.length + t.accReserve tile) ||
      decide (a.detBytes < b.detBytes ∧ detArea < b.detBytes))

/-- What a step would add finds no room: in the drift log of a die, or in a tile's interval. -/
def State.full (s t : State) : Bool := (s.logFull t).isSome || s.tiles.any fun x => s.intervalFull t x.1

/-- The Lehr engine of a die whose drift-log area is full asks each receiver that holds its oldest entries, those of a channel, to end its
interval (R387). -/
def State.relieve (s t : State) : State :=
  match s.logFull t with
  | some d => ((s.fabric.drift.filter fun e => e.die == d).map DriftEntry.dst).eraseDups.foldl (fun s u =>
      if (s.tile u).endDue then s else s.updTile u fun x => { x with endDue := true }) s
  | none => s

/-- A step of an agent, which waits when what it adds finds no room (R381, R387). -/
def State.limited (s : State) (f : State → Res) : Res :=
  match f s with
  | .next t => .next (if s.full t then s.relieve t else t)
  | .fault e => .fault e
  | .refused e => .refused e

/-! ## Pairs (R365, R367) -/

/-- A VMEM instruction has performed a lane and is not at its end (R164). -/
def State.midLanes (t s : State) : Bool := t.pc == s.pc && t.vprog != s.vprog

/-- The instruction at the PC, or the due element of a frame, has retired: the context goes on at its level. -/
def State.retiredFrom (t s : State) : Bool :=
  t.cpu.core == s.cpu.core && t.cpu.launch == s.cpu.launch && t.cpu.run == .running && !t.cpu.stalled && t.cpu.level == s.cpu.level &&
    !t.midLanes s

/-- The store lanes of a VMEM instruction, which its record holds in ascending order whatever order they were performed in (R165,
R367): each active lane with its address and data. -/
def State.laneStores (s : State) (d p : Nat) (t : VType) (ea : Nat → Nat) : List HeldStore :=
  ((List.range t.lanes).filter fun i => active (s.getP p) i).map fun i =>
    ⟨0, ea i, laneBytes t, BitVec.ofNat 128 (laneGet t (s.getV d) i), .data, false⟩

/-- The memory writes of an instruction's record: the store lanes of a VMEM instruction, else the stores it has just made (R367). -/
def State.recordStores (s : State) (i : Instr) (made : List HeldStore) : List HeldStore :=
  match i with
  | .vst d a p t => s.laneStores d p t fun i => s.laneEa a (i * (laneBytes t))
  | .vsts d a b p t => s.laneStores d p t fun i => s.laneEa a (i * (s.ival b).toInt)
  | .vscatter d a b p t =>
    match s.src1 b 0 with
    | .ok v => s.laneStores d p t fun i => s.laneEa a (indexOf v i * (laneBytes t))
    | .trap _ | .wait => made
  | _ => made

/-- A core's own result of an instruction: what of it is the core's own, and the stores it would make. -/
structure OwnResult where
  regs : Regs
  /-- the runtime's registers of the core (R139). -/
  rt : Vector GReg 4
  csrs : Csrs
  gens : Gens
  pcc : Payload
  held : List HeldStore
  deriving DecidableEq, Repr

/-- What a step of the acting core leaves of it, the stores it has just made counted from those that a state before held. -/
def State.ownResult (t s : State) : OwnResult :=
  ⟨t.cpu.regs, (t.core t.cpu.core).rt, t.cpu.csrs, t.cpu.gens, t.cpu.pcc, t.cpu.pair.held.drop s.cpu.pair.held.length⟩

/-- The registers of the checking core once what the acting core read is delivered to it: of a vector load the lanes that were
loaded, else the registers written; both cores await the same responses (R103, R365). -/
def State.deliver (s t : State) (i : Instr) (r : Regs) : Regs :=
  let r : Regs := { r with pend := t.cpu.regs.pend }
  let lanes := fun (d p : Nat) (ty : VType) =>
    let v := ((List.range ty.lanes).filter fun k => active (s.getP p) k).foldl (fun v k => laneSet ty v k (laneGet ty (t.getV d) k)) (vget 0 r.v d)
    ({ r with v := vset r.v d v } : Regs)
  match s.acting i with
  | .vld d _ p ty | .vlds d _ _ p ty | .vgather d _ _ p ty => lanes d p ty
  | _ => ((s.regUse i).2.map s.recordCode).foldl (fun r c => r.copyCode t.cpu.regs c) r

/-- The acting core as it would be with the checking core's own state. -/
def State.asChecker (s : State) (chk : Ctx) : State :=
  let rt := (s.core (s.cpu.core + 1)).rt
  let s := if (s.core s.cpu.core).rt = rt then s else s.updCore s.cpu.core fun k => { k with rt := rt }
  { s with cpu := { s.cpu with
      regs := { chk.regs with pend := s.cpu.regs.pend }, pcc := chk.pcc, gens := chk.gens
      csrs := { chk.csrs with pairctl := s.cpu.csrs.pairctl } } }

/-- The stores that the checking core would make by an instruction, from its own registers (R365). -/
def State.ownStores (s : State) (i : Instr) (chk : Ctx) : List HeldStore :=
  match exec i (s.asChecker chk) with
  | .next u => (u.ownResult s).held
  | .fault _ | .refused _ => []

/-- The checking core's own result of an instruction that the acting core has retired, from its own registers (R365). -/
def State.checked (s t : State) (i : Instr) (chk : Ctx) : OwnResult :=
  let mine := t.ownResult s
  let old := s.ownResult s
  let rt := (s.core (s.cpu.core + 1)).rt
  if s.deliveredOnce (s.acting i) then
    { regs := s.deliver t i chk.regs, rt := followed rt old.rt mine.rt, csrs := chk.csrs.follow old.csrs mine.csrs
      gens := chk.gens.follow old.gens mine.gens, pcc := mine.pcc
      held := if mine.held.isEmpty then [] else s.ownStores i chk }
  else
    match exec i (s.asChecker chk) with
    | .next u => let own := u.ownResult s; { own with regs := { own.regs with pend := t.cpu.regs.pend } }
    | .fault _ | .refused _ => ⟨chk.regs, rt, chk.csrs, chk.gens, chk.pcc, []⟩

/-- After an instruction of the acting core of a pair: both cores have their records, and the checking core follows (R365, R367). -/
def State.pairAfter (t s : State) (i : Instr) : State :=
  if !(s.cpu.paired && t.cpu.paired) || s.cpu.csrs.pairctl.getLsbD 1 then t
  else
    match t.checkerOf s.cpu.core with
    | none => t
    | some chk =>
      if t.retiredFrom s then
        let pendNow := t.cpu.regs.pend
        let ws := (((s.regUse i).2.filter fun c => !(pendNow.any fun p => p.1 == s.pendCode c)).map s.recordCode ++
          freshCodes s.cpu.pair.fresh).eraseDups
        let mine := t.ownResult s
        let its := s.checked t i chk
        let own := s.asChecker chk
        let a := fingerRecord s.pc mine.regs mine.rt ws (s.recordStores i mine.held) (s.sentPart (s.acting i))
        let b := fingerRecord (capAddr chk.pcc) its.regs its.rt ws (own.recordStores i its.held) (own.sentPart (s.acting i))
        let c := (checkerFrom t.cpu chk its.regs its.csrs its.gens).finger b
        let t := if (t.core (s.cpu.core + 1)).rt = its.rt then t else t.updCore (s.cpu.core + 1) fun k => { k with rt := its.rt }
        (t.modCpu fun x => x.finger a).putChecker s.cpu.core { c with pcc := its.pcc }
      else t.pairFollow s

/-- The checking core of a pair whose acting context is on its core joins when it is free and no context that is ready there comes
first; one that runs another context is sent a pre-emption request with the pair's deadline (R266, R369). -/
def State.joinPair (s : State) (c : Ctx) : State :=
  let hi := c.core + 1
  match s.ctxs.find? fun x => x.core == hi && x.run.onCore with
  | some x =>
    if !(s.core hi).preReq && decide (s.deadlineOf c + bits x.csrs.preempt.toNat 31 0 < s.deadlineOf x) then
      s.updCore hi fun k => { k with preReq := true }
    else s
  | none =>
    let t := s.dispatch hi
    if t.busyCore hi then t
    else { t with others := t.others ++ [{ checkerFrom c (emptyCore hi) c.regs c.csrs c.gens with pair := c.pair }] }

/-- After a step: the checking core of a pair whose acting context has left its core leaves too, and one that is waited for joins
or is asked for (R369). -/
def State.pairSync (s : State) : State :=
  let acts := s.ctxs.filter fun c => c.csrs.pairctl.getLsbD 0 && !c.csrs.pairctl.getLsbD 1 && c.run.onCore
  let gone : Ctx → Bool := fun c => c.csrs.pairctl.getLsbD 1 && c.launch.isNone && !(acts.any fun a => a.core + 1 == c.core)
  let cores := (s.ctxs.filter gone).map Ctx.core
  let s := if cores.isEmpty then s
    else
      let s : State := { s with
        cpu := if gone s.cpu then emptyCore s.cpu.core else s.cpu
        others := s.others.filter fun c => !gone c }
      cores.foldl State.dispatch s
  (acts.filter fun c => (s.checkerOf c.core).isNone).foldl State.joinPair s

/-! ## An instruction issues -/

/-- The acting context of a pair would park with instructions that no exchange covers: the exchange comes first (R366). -/
def State.parksUnexchanged (t s : State) : Bool :=
  s.cpu.paired && decide (0 < s.cpu.pair.count) && t.ctxs.any fun c => c.core == s.cpu.core && c.launch == s.cpu.launch &&
    match c.run with
    | .parked _ => true
    | .running | .ready | .halted | .pairSaved | .ended => false

/-- The instruction's meaning, with what surrounds it: it waits when it finds no room, a pair that would park exchanges first, and the
input mask and a pair's records follow it. -/
def State.runInstr (s : State) (i : Instr) : Res :=
  match exec i s with
  | .next t =>
    if s.full t then .next (s.relieve t).stall
    else if t.parksUnexchanged s then execPairExchange s.cpu.core s
    else
      let u := s.regUse i
      let t := if t.regionOpen && t.retiredFrom s then t.noteRegs u else t
      .next (t.pairAfter s i)
  | .fault e => .fault e
  | .refused e => .refused e

/-- An instruction issues at a boundary: it waits for pending registers, a pair exchanges first where it must, an open region is
sealed before a sealing instruction has any effect, and a write to a region's input traps (R103, R361, R362, R366). -/
def State.issue (s : State) (i : Instr) : Res :=
  if s.pendingWait i then .next s.stall
  else if s.exchangeDue i then execPairExchange s.cpu.core s
  else if s.regionOpen then
    if s.seals i then s.seal.runInstr i
    else
      match s.violation i with
      | some c => .next ((s.takeViolation i c).pairFollow s)
      | none => s.runInstr i
  else s.runInstr i

/-- Where the resident runtime's image lies and its trap entry is (R139, R258; log entry 9). -/
def runtimeBase : Nat := 0x1E000

/-- The word at the PC is fetched, decoded and issued (R51, R95); the entry of the resident runtime's image, which the spec does not
give, is served whole (R139). -/
def State.fetchIssue (s : State) : Res :=
  match s.fetchAt s.pc with
  | (t, .trap x) => .next ((t.takeTrap x).pairFollow t)
  | (t, .wait) => .next t.stall
  | (t, .ok w) =>
    match decodeWord w with
    | some i => t.issue i
    | none =>
      if s.cpu.level = .runtime ∧ s.pc = runtimeBase then
        -- the return from interrupt 1 stops a pair, after its exchange (R272, R366)
        if s.cpu.paired ∧ 0 < s.cpu.pair.count ∧ s.cpu.csrs.tcause = preemptCause then execPairExchange s.cpu.core t
        else .next (t.serveTrap.pairFollow t)
      else .next ((t.takeTrap (illegal w)).pairFollow t)

/-! ## Gangs (R128) -/

/-- The members of the acting context's gang. -/
def State.members (s : State) : List Ctx :=
  match s.cpu.gang with
  | some g => (s.group g.size).filter fun c => match c.gang with
    | some h => h.formed
    | none => false
  | none => []

/-- Members stand at two instructions: some have gone on from the one that others are still in. -/
def State.gangSpread (s : State) : Bool := s.members.any fun c => capAddr c.pcc != s.pc

/-- A member of a gang is still in the instruction that others have gone on from: it waits in it, or has lanes left (R164). -/
def State.gangBehind (s : State) (c : Ctx) : Bool :=
  c.stalled || c.run != .running ||
    (s.gangSpread && match s.members.find? fun x => x.stalled || x.run != .running with
      | some x => capAddr c.pcc == capAddr x.pcc
      | none => (({ s with cpu := c } : State).vprog) != 0)

/-- A member of the gang is behind the others. -/
def State.gangWaits (s : State) : Bool := s.members.any s.gangBehind

/-- The acting core of a state has retired an instruction, or an element or a lane of one, in the step that led here (R376, R389): its
context waits in nothing, has taken no trap and no interrupt, and no exchange took the place of the instruction. -/
def State.stepped (t s : State) : Bool :=
  let onward := fun (c : Ctx) =>
    !c.stalled && decide (c.entered.length ≤ s.cpu.entered.length) &&
      !(s.cpu.paired && c.paired && decide (0 < s.cpu.pair.count ∧ c.pair.count = 0))
  match s.cpu.launch with
  | none => t.cpu.core != s.cpu.core || onward t.cpu
  | some n =>
    match t.ctxOf s.cpu.core n with
    | none => true
    | some c => onward c

/-- A follower executes the leader's instruction on its own registers; when the leader has retired it, its branch decision governs.
The instruction reaches a follower as a member of the gang, even where another member's trap has dissolved it (R128, R219). -/
def State.follow (s : State) (g : GangSt) (pc0 : Payload) (moved : Bool) (lead : Ctx) (c : Ctx) : State :=
  -- the leader's or another follower's trap has dissolved the gang
  let gone := ((lead.launch.bind fun n => s.ctxOf lead.core n).map fun x => x.gang.isNone).getD true
  match c.launch.bind fun n => s.ctxOf c.core n with
  | none => s
  | some x =>
    s.asCtx x fun t =>
      let t := (t.modCpu fun y => { y with gang := some g }).setPcc pc0
      let u := outState t t.fetchIssue
      let u := if gone then u.leaveGang else u
      let done := u.stepped t
      let u := if moved && u.retiredFrom t then u.setPcc lead.pcc else u
      if done then u.noteStep (x.core / 16) (x.core % 16) else u

/-- Members that have gone on stand where the leader does, once the leader has gone on (R128). -/
def State.alignGang (t s : State) (g : GangSt) : State :=
  let base := gangBase s.cpu.core g.size
  if !(t.retiredFrom s) then t
  else if s.cpu.core = base then
    let done := (s.members.filter fun c => c.core != base && !s.gangBehind c).map Ctx.core
    t.mapCtx fun c => if done.elem c.core && c.launch == s.cpu.launch && c.run == .running then { c with pcc := t.cpu.pcc } else c
  else
    match s.members.find? fun c => c.core == base && !s.gangBehind c with
    | some lead => t.setPcc lead.pcc
    | none => t

/-- A follower of the gang with an event pending at its boundary (R356): the next instruction issues on no member before it is taken. -/
def State.gangEvent (s : State) : Option Ctx :=
  s.members.find? fun c => c.core != s.cpu.core && (s.focus c).live && (s.focus c).boundary.isSome

/-- A context of a state as it stands in a later one. -/
def State.sameCtx (t : State) (c : Ctx) : Ctx := (c.launch.bind fun n => t.ctxOf c.core n).getD t.cpu

/-- A step of a formed gang: the leader executes, then every follower, the same instruction, once no member has an event pending (R356);
while members are behind, only those execute. -/
def State.gangStep (s : State) (g : GangSt) : Res :=
  if s.gangWaits then
    if s.gangBehind s.cpu then
      match s.fetchIssue with
      | .next t => .next (t.alignGang s g)
      | .fault e => .fault e
      | .refused e => .refused e
    else .next s
  else if s.cpu.core % g.size ≠ 0 then .next s
  else
    let fs := s.members.filter fun c => c.core != s.cpu.core
    let pc0 := s.cpu.pcc
    match s.gangEvent with
    | some c => .next (s.asCtx c fun t => t.boundary.getD t)
    | none =>
      match s.fetchIssue with
      | .next t => .next (fs.foldl (fun u c => u.follow g pc0 (t.retiredFrom s) (t.sameCtx s.cpu) c) t)
      | .fault e => .fault e
      | .refused e => .refused e

/-! ## A step of a core -/

/-- A context that was dispatched has had its first instruction: a stop that waited for it may come (R274). -/
def State.unswitched (s : State) : State :=
  if (s.core s.cpu.core).switched then s.updCore s.cpu.core fun k => { k with switched := false } else s

/-- A context that its handler, or the runtime, has returned to another place than its DONE waits there no longer (R102, R210). -/
def State.leftDone (s : State) : State :=
  match s.cpu.task.idle with
  | some (pc, handler, level) =>
    if handler = s.cpu.handler ∧ level = s.cpu.level ∧ pc ≠ s.pc then s.modTask fun t => { t with idle := none } else s
  | none => s

/-- One step of the acting core: nothing for a core that issues nothing or skips the cycle, else a boundary event, else an
instruction, for which a pair waits until its checking core has joined (R369). -/
def State.runCore (s : State) : Res :=
  if !s.live || s.skips (s.cpu.core / 16) then .next s
  else
    match s.boundary with
    | some t => .next t
    | none =>
      let s := s.unswitched.leftDone
      if s.cpu.paired && (s.checkerOf s.cpu.core).isNone then .next s.stall
      else if s.cpu.waitsDone then s.runInstr .done
      else
        match s.cpu.gang with
        | some g => if g.formed then s.gangStep g else s.fetchIssue
        | none => s.fetchIssue

/-! ## A cycle (R10, R267, R376, R410) -/

/-- Two logical tiles are in service on one physical tile: a host and its guest (R397). -/
def State.samePhys (s : State) (t u : Nat) : Bool := t == u || (s.tile t).phys == (s.tile u).phys

/-- The logical tile at which a physical tile's one watchdog counter is kept (R376): that in service there, whose guest has none. -/
def State.watchAt (s : State) (t : Nat) : Nat := (s.boundAt (s.tile t).phys).getD t

/-- The tile's watchdog keeps its count (R376): a core of the physical tile is halted, a core of it waits for what a fenced tile has
refused, or a tile is between fence and resume or migrates. -/
def State.watchHeld (s : State) (t : Nat) : Bool :=
  s.ctxs.any (fun c => c.run == .halted && s.samePhys (c.core / 16) t) ||
    s.net.any (fun m => m.st == .refused && s.samePhys (m.core / 16) t) || s.tiles.any fun x => x.2.st.refuses

/-- The tile has work (R376). -/
def State.hasWork (s : State) (t : Nat) : Bool :=
  s.ctxs.any fun c => s.samePhys (c.core / 16) t &&
    (c.run == .running || c.run == .ready || !c.eng.me.cmds.isEmpty || !c.eng.ce.cmds.isEmpty || !c.eng.ca.cmds.isEmpty)

/-- The watchdog counter of a tile after a cycle (R376); `busy` says that the physical tile retired an instruction. -/
def State.watch (s : State) (busy : Bool) (t : Nat) : State :=
  let old := (s.tile t).watchdog
  let new := if s.watchHeld t then old
    else if busy || !s.hasWork t then 0
    else if s.skips t then old else old + 1
  if new = old then s else s.updTile t fun x => { x with watchdog := new }

/-- Every watchdog after a cycle; they hold while a tile is between fence and resume. -/
def State.watchAll (s : State) (busy : Option Nat) : State :=
  if s.tiles.any fun t => t.2.st.refuses then s
  else
    let ts := ((s.ctxs.filter fun c => !c.isEmpty).map fun c => c.core / 16) ++ ((s.tiles.filter fun t => t.2.watchdog != 0).map fun t => t.1)
    ((ts.map s.watchAt).eraseDups).foldl (fun s t => s.watch ((busy.map fun b => s.samePhys b t).getD false) t) s

/-- A skipped cycle of a tile is no cycle of its interval, of a hold by LDLK of one of its cores, or of the wait of a gate for it (R110,
R115, R381, R410). -/
def State.stretch (s : State) : State :=
  let ts := (s.fabric.throttle.filter fun e => decide (e.1 < 4096) && (if e.2 = 1 then s.cycle % 4 == 3 else s.cycle % 2 == 1)).filterMap
    fun e => s.boundAt e.1
  if ts.isEmpty then s
  else
    let late := fun (g : BitVec 12 × Nat × List Nat) => if g.2.2.any fun w => ts.elem (w / 4) then (g.1, g.2.1 + 10, g.2.2) else g
    let s := ts.foldl (fun s t => s.updTile t fun x => { x with since := x.since + 10, dueSince := x.dueSince.map (· + 10) }) s
    { s with
      cores := s.cores.map fun k => (k.1, if ts.elem (k.1 / 16) then { k.2 with lock := k.2.lock.map fun l => (l.1, l.2 + 10) } else k.2)
      verPages := s.verPages.map fun p => (p.1, { p.2 with gates := p.2.gates.map late }) }

/-- Since when the end of each tile's interval has been due, with nothing that defers it (R381, R418). -/
def State.noteDue (s : State) : State :=
  (s.tiles.map (·.1)).foldl (fun s t =>
    let x := s.tile t
    let due := x.st == .run && x.committing.isNone && s.intervalDue t
    if due == x.dueSince.isSome then s else s.updTile t fun x => { x with dueSince := if due then some s.clk else none }) s

/-- Tiles that skip this cycle, counted in units of 2^20 (R410, R412). -/
def State.countSkips (s : State) : State :=
  let n := (s.fabric.throttle.filter fun e => decide (e.1 < 4096) &&
    (if e.2 = 1 then s.cycle % 4 == 3 else s.cycle % 2 == 1)).length
  if n = 0 then s
  else
    let a := s.dev.skipped
    (s.modDev fun d => { d with skipped := a + n }).count 12 ((a + n) / 2 ^ 20 - a / 2 ^ 20)

/-- What an agent of the device does of itself, put off while what it adds finds no room (R381, R387). -/
def State.unlessFull (s : State) (f : State → State) : State :=
  let t := f s
  if s.full t then s.relieve t else t

/-- Every miss is taken at its tick, before anything else happens, but one whose records find no room (R231, R269, R381). -/
def State.missDeadlines (s : State) : State :=
  (s.launches.filter fun p => s.missDue p.2).foldl (fun s p => s.unlessFull fun s => outState s (execDeadlineMiss p.1 s)) s

/-- A cycle passes: its charges, the watchdogs, the clock, with the refill of the reserves and the deadlines that it passes (R231,
R269). -/
def State.tick (s : State) (busy : Option Nat) : State :=
  let old := s.dtime / 2 ^ 20
  let s := (s.chargeCycle.watchAll busy).countSkips.stretch.noteDue
  let s : State := { s with clk := s.clk + 10 }
  let s := if s.dtime / 2 ^ 20 = old then s else s.refillReserves
  s.missDeadlines

/-- n cycles pass in which no core acts. -/
def State.ticks (s : State) : Nat → State
  | 0 => s
  | n + 1 => (s.tick none).ticks n

/-- What follows every step: pairs join and leave, debug commands that waited are applied, END records that waited are
written, each unless what it records finds no room (R381), and idleness is noted (R225, R252, R369, R416). -/
def State.settled (s : State) : State :=
  (((s.unlessFull State.pairSync).unlessFull State.dbgDrain).unlessFull State.finishEnds).noteIdle

/-! ## Turns (log entry 5) -/

/-- Rows of the opcode table that are steps of their own, not instruction words. -/
def isEvent (i : Instr) : Bool := wf i && (encode i).isNone

/-- An element that an engine performs is progress of its physical tile, unless the watchdog is held (R376). -/
def State.progressed (s : State) (core : Nat) : State :=
  if s.watchHeld (core / 16) then s
  else ((s.tiles.filter fun t => s.samePhys t.1 (core / 16) && t.2.watchdog != 0).map (·.1)).foldl
    (fun s t => s.updTile t fun x => { x with watchdog := 0 }) s

/-- ENGINE_ELEMENT, with the watchdog reset; an element that was performed is a step of the engine (R389). -/
def State.engineStep (core : Nat) (e : Eng) (s : State) : Res :=
  match execEngineElement core e s with
  | .next t => .next (if t = s then s else (t.progressed core).noteStep (core / 16) (engAgent core e))
  | .fault r => .fault r
  | .refused r => .refused r

/-- A step of its own happens; anything else is none. -/
def State.runEvent (s : State) (i : Instr) : Res :=
  if !isEvent i then .next s.settled
  else
    let r := s.limited fun s => match i with
      | .engineElement core e => s.engineStep core e
      | j => exec j s
    match r with
    | .next t => .next t.settled
    | .fault e => .fault e
    | .refused e => .refused e

/-- The acting core issues in this step: no event of R356 comes first, a pair's checking core has joined (R369), and of a formed gang it
is the leader, or a member that is behind (R128). -/
def State.acts (s : State) : Bool :=
  s.live && !s.skips (s.cpu.core / 16) && s.boundary.isNone && !(s.cpu.paired && (s.checkerOf s.cpu.core).isNone) &&
    match s.cpu.gang with
    | some g => !g.formed || (if s.gangWaits then s.gangBehind s.cpu else s.cpu.core % g.size == 0 && s.gangEvent.isNone)
    | none => true

/-- A core takes one step and a cycle passes. -/
def State.runTurn (s : State) (core : Nat) : Res :=
  let s := s.turnTo core
  match s.runCore with
  | .next t =>
    let busy := s.acts && t.stepped s
    let t := if busy then t.noteStep (core / 16) (core % 16) else t
    -- what the step or its boundary event adds finds no room: it waits (R381, R387)
    let wait := s.full t
    let t := if wait then (s.relieve t).stall else t
    let busy := busy && !wait
    .next (t.tick (if busy then some (core / 16) else none)).settled
  | .fault e => .fault e
  | .refused e => .refused e

/-- The command that an engine would start, as a step. -/
def startStep (core : Nat) (e : Eng) (opc : Nat) : List (State → Res) :=
  match e, opc with
  | .me, 1 => [execMma core] | .me, 2 => [execMmr core] | .me, 3 => [execAccz core] | .me, 4 => [execAccld core] | .me, 5 => [execAccst core]
  | .ce, 1 => [execCpy core] | .ce, 2 => [execCpy2 core] | .ce, 3 => [execDeal core] | .ce, 4 => [execXpose core]
  | .ca, 1 => [execAgset core] | .ca, 2 => [execMldred core] | .ca, 3 => [execMstore core] | .ca, 4 => [execAgstat core]
  | _, _ => []

/-- Steps that a message in flight may take next. -/
def msgSteps (m : Msg) : List (State → Res) :=
  match m.st, m.kind with
  | .held, _ => []
  | .lost, _ => [execRefusedMessageResend m.id]
  | .performed, _ => [execWriteAcknowledgement m.id]
  | .refused, _ => [execRefusedMessageResend m.id]
  | .turned, _ => [execRefusedMessageResend m.id]
  | .sent, .resp _ => [execResponseArrival m.id]
  | .sent, .stream _ _ _ _ _ _ => [execStreamEntryArrival m.id]
  | .sent, .chunk c _ => [execLatchChunkArrival c]
  | .sent, _ => [execMessageArrival m.id]

/-- Steps of a link. -/
def linkSteps (l : Link) : List (State → Res) :=
  [execFlitAcknowledgement l.id l.arrived, execNegativeAcknowledgement l.id false, execFlitArrival l.id true]

/-- Steps of a context's engines and of its deque unit. -/
def ctxSteps (c : Ctx) : List (State → Res) :=
  let eng := [Eng.me, Eng.ce, Eng.ca].flatMap fun e =>
    match (c.eng.get e).cmds with
    | [] => []
    | x :: _ => (if x.started then [State.engineStep c.core e, execCompletionMessage c.core e] else startStep c.core e x.opc ++ [execCompletionMessage c.core e])
  let wb := if c.eng.me.cmds.any fun x => !x.wb.isEmpty then [execMmrWriteBack c.core] else []
  match c.launch with
  | none => eng ++ wb
  | some n =>
    let wake : List (State → Res) := match c.run with
      | .parked _ => [execContextWake c.core n]
      | _ => []
    let bar : List (State → Res) := if c.bar.arr = .arrived then [execBarrierArrival n (c.core / 16), execBarrierRelease c.core n] else []
    let fire := ((List.range 32).filter fun k => match vget .free c.task.trig k with
      | .firing _ => true
      | _ => false).map fun k => execFiringPush c.core n k
    let grant : List (State → Res) := if c.task.grant.isSome then [execStealGrant c.core n] else []
    let budget : List (State → Res) := if c.lease = 0 ∧ (c.run.onCore = true ∨ c.atGate = true) then [execBudgetExhausted c.core] else []
    eng ++ wb ++ wake ++ bar ++ fire ++ grant ++ budget

/-- Steps of a launch's agents. -/
def launchSteps (s : State) (n : Nat) (l : Launch) : List (State → Res) :=
  if !l.live then []
  else
    ((List.range l.shares.length).map fun k => execSharePush n k) ++ [execDeadlineMiss n] ++
      (if l.st = .running then l.tiles.map (fun t => execBarrierArrival n t) ++ [execLullWave n] else []) ++
      ((s.ctxs.filter (fun c => c.launch == some n && c.thief)).flatMap fun c =>
        ((s.probeOrder n c).filter (s.stealable n)).map fun v => execStealProbe c.core v n) ++
      (l.tiles.map s.dieOf).eraseDups.map fun d => execDieAgentSteal n d

/-- Steps of a queue. -/
def queueSteps (q : Nat) (x : Queue) : List (State → Res) :=
  (if x.waiting then [execPacketWaitEnd q] else []) ++
    (if x.reads then [execMalformedPacket q, execLaunch q, execWaitpkt q, execSignal q, execPin q, execUnpin q, execCopy q, execNop q] else []) ++
    (List.range x.copies.length).map fun k => execCopyDone q k

/-- Steps of a tile's recovery. -/
def tileSteps (t : Nat) (x : TileSt) : List (State → Res) :=
  match x.st with
  | .fence => [execLehrFence t] | .choose => [execLehrChoose t] | .restore => [execLehrRestore t] | .flip => [execRebindingFlip t]
  | .replay => [execLehrReplay t] | .resume => [execLehrResume t]
  | .run => [execWatchdogFire t, execOvertemperature t, execPlannedMigration t, execIntervalEnd t, execCheckpointCommit t]
  | .migrate => [execCheckpointCommit t, execRebindingFlip t]
  | .lost => []

/-- The buddy acknowledges what a tile sent it (R391). -/
def buddyStep (t : Nat) (s : State) : Res := .next (s.buddyAck t)

/-- Every step that the device's own agents may take now, in the order in which the default schedule tries them. -/
def State.ownSteps (s : State) : List (State → Res) :=
  List.map (fun f u => u.limited f) <| (if s.dev.state == .boot then [execPowerOnReset] else []) ++
    (s.tiles.filter fun t => s.detsOpen t.1).map (fun t => buddyStep t.1) ++ s.fabric.links.flatMap linkSteps ++ s.net.flatMap msgSteps ++ s.ctxs.flatMap ctxSteps ++
    (s.cores.filter fun k => k.2.lock.isSome).map (fun k => execLockLoss k.1) ++
    (s.cores.filter fun k => k.2.preReq).map (fun k => execContextSwitch k.1) ++
    s.tiles.flatMap (fun t => tileSteps t.1 t.2) ++ s.front.queues.flatMap (fun q => queueSteps q.1 q.2) ++
    (if s.dev.resync.busy then [execResyncComplete] else []) ++ s.launches.flatMap fun l => launchSteps s l.1 l.2

/-- A step of its own that changes something. -/
def State.fires (s : State) (f : State → Res) : Bool :=
  match f s with
  | .next t => decide (t ≠ s)
  | .fault _ => true
  | .refused _ => true

/-- Core names with a context that may issue, from the one after the acting core on. -/
def State.nextCore (s : State) : Nat :=
  let cs := (s.ctxs.filter fun c => c.run == .running && !c.csrs.pairctl.getLsbD 1).map Ctx.core
  ((cs.filter fun c => decide (s.cpu.core < c)).foldl (fun b c => match b with
      | none => some c
      | some x => some (Nat.min x c)) none).getD
    ((cs.foldl (fun b c => match b with
      | none => some c
      | some x => some (Nat.min x c)) none).getD s.cpu.core)

/-- Whose turn it is: the agenda's first entry; without one, the acting core goes on for 63 cycles of every 64 while it does not
wait, and then an agent that can do something, with the next core. -/
def State.turn (s : State) : Turn :=
  match s.agenda with
  | t :: _ => t
  | [] =>
    if s.live && !s.cpu.stalled && s.cycle % 64 != 63 then .core s.cpu.core else .own

/-- The first step of the device's own agents that changes something, if there is one, and the next core's turn. -/
def State.runOwn (s : State) : Res :=
  match s.ownSteps.find? s.fires with
  | some f =>
    match f s with
    | .next t => t.settled.runTurn t.settled.nextCore
    | .fault e => .fault e
    | .refused e => .refused e
  | none => s.runTurn s.nextCore

/-- A turn taken. -/
def State.take (s : State) : Turn → Res
  | .event i => s.runEvent i
  | .core n => s.runTurn n
  | .cycles n => .next (s.ticks n).settled
  | .fault f =>
    match f with
    | .peerWrite _ _ _ _ _ _ _ => let t := s.hwFault f; .next (if s.full t then s.relieve t else t).settled
    | _ => .next (s.hwFault f).settled
  | .buddy t => .next (s.buddyAck t).settled
  | .own => s.runOwn

end Sys2Proof.Machine
end

