-- ==== Sys2Proof/Machine/Step.lean ====
section
/-! DEFINITION. One step of the machine: the next turn is taken (log entry 5). `withFetchWord` stands for the loading of a program
from outside the machine (log entry 1). -/

namespace Sys2Proof.Machine

/-- The state with the turn of the agenda that is taken removed. -/
def State.popTurn (s : State) : State := { s with agenda := s.agenda.tail }

/-- One step: whoever's turn it is moves. -/
def step (s : State) : Host.Outcome State Fault Refusal := s.popTurn.take s.turn

/-- The context that runs a bare word: on the acting core, at application level, with nothing pending or due. -/
def Ctx.bare (c : Ctx) : Ctx :=
  { c with
    launch := none, run := .running, stalled := false, level := .app, handler := false, uien := false, due := [], gang := none
    pcc := bareText, regs := { c.regs with pend := [] }, csrs := { c.csrs with pairctl := 0, regpc := 0, tcmp := BitVec.allOnes 64 }
    task := { c.task with running := true, idle := none } }

/-- An instruction word stored where the next step fetches: at the first bytes of the acting core's TCM, the core's next turn due and
nothing ahead of the instruction. -/
def State.withFetchWord (s : State) (nbits w : Nat) : State :=
  let core := s.cpu.core
  let s := ({ s with
    cpu := s.cpu.bare
    mem := s.mem.write (tcmKey core 0) (leBytes 4 (w % 2 ^ nbits) ++ s.mem.read (tcmKey core 4) 4) false false
    agenda := .core core :: s.agenda } : State).updCore core fun k => { k with haltReq := false, preReq := false, rollReq := false }
  let s := s.updTile (core / 16) fun t => { t with st := .run, watchdog := 0 }
  { s with fabric := { s.fabric with throttle := aput 0 s.fabric.throttle (s.tile (core / 16)).phys 0 } }

end Sys2Proof.Machine
end

