-- ==== Sys2Proof/Safety.lean ====
section
/-! DEFINITION. What counts as a safe run, and the words in which claims are stated: a machine that goes on, an instruction that
retires, and what an instruction leaves alone. -/

namespace Sys2Proof.Machine

/-- The machine goes on: its next step is a next state. -/
def State.goesOn (s : State) : Prop := ∃ t, step s = .next t

/-- The instruction at the PC has retired from s to t: the PC is past it, and it waits no longer. -/
def Retires (s t : State) : Prop := t.pc = s.pc4 ∧ t.cpu.stalled = false ∧ t.cpu.level = s.cpu.level

/-- A general register that is not POISON (R69). -/
def State.clean (s : State) (n : Nat) : Prop := (s.getG n).tag ≠ .poison

/-- A DATA register whose bits [63:0] are x and whose upper half is zero: what R80 puts. -/
def word (x : Word) : GReg := ⟨.data, x.zeroExtend 128⟩

/-- Nothing but the general registers named, the address of PCC and the waiting mark differs between s and t: no other register of either
bank, no register of the runtime on any core but one named at runtime level on the acting core, no vector or predicate register, no CSR,
no bound or permission of PCC, no byte of memory, nothing else of the device. -/
def KeepsButRegs (s t : State) (gs : List Nat) : Prop :=
  (∀ n, n < 64 → n ∉ gs → t.getG n = s.getG n) ∧
  (∀ n, n < 64 → n ∉ gs → vget GReg.zero t.cpu.regs.g n = vget GReg.zero s.cpu.regs.g n) ∧
  (∀ n, n < 8 → n + 48 ∉ gs → vget GReg.zero t.cpu.regs.gh n = vget GReg.zero s.cpu.regs.gh n) ∧
  t.cpu.regs.v = s.cpu.regs.v ∧ t.cpu.regs.p = s.cpu.regs.p ∧ t.cpu.regs.pend = s.cpu.regs.pend ∧
  (∀ c, { t.core c with rt := (s.core c).rt } = s.core c) ∧
  (∀ c k, k < 4 → (c ≠ s.cpu.core ∨ s.cpu.level ≠ .runtime ∨ k + 56 ∉ gs) →
    vget GReg.zero (t.core c).rt k = vget GReg.zero (s.core c).rt k) ∧
  (∃ a, t.cpu.pcc = capSetAddr s.cpu.pcc a) ∧
  (∀ k, t.mem.byte k = s.mem.byte k) ∧
  { t with cpu := { t.cpu with regs := s.cpu.regs, pcc := s.cpu.pcc, stalled := s.cpu.stalled }, cores := s.cores } = s

/-- No byte of memory outside n bytes from a key differs. -/
def KeepsBytesBut (s t : State) (k n : Nat) : Prop := ∀ a, a < k ∨ k + n ≤ a → t.mem.byte a = s.mem.byte a

/-- No byte of memory differs. -/
def KeepsBytes (s t : State) : Prop := ∀ a, t.mem.byte a = s.mem.byte a

/-- No register of the acting context differs: general, vector, predicate and control. -/
def KeepsRegs (s t : State) : Prop :=
  (∀ n, n < 64 → t.getG n = s.getG n) ∧ (∀ n, t.getV n = s.getV n) ∧ (∀ n, t.getP n = s.getP n) ∧ t.cpu.csrs = s.cpu.csrs

/-- The PC and the level of the code that runs stay: a step of some other agent. -/
def KeepsPlace (s t : State) : Prop := t.cpu.pcc = s.cpu.pcc ∧ t.cpu.level = s.cpu.level ∧ t.cpu.core = s.cpu.core

/-- A register holds a capability that grants an access of n bytes at ea (R77). -/
def State.grants (s : State) (a ea n : Nat) (need : Perm) : Prop :=
  let g := s.getG a
  g.tag = .cap ∧ capHas g.val need = true ∧ capBase g.val ≤ ea ∧ ea + n ≤ capBase g.val + capLen g.val ∧ ea % n = 0

/-- The trap of an access of n bytes at ea that the checks of R77 stop, in their order. -/
def State.accessTraps (s : State) (a ea n : Nat) (need : Perm) (t : Trap) : Prop :=
  let g := s.getG a
  let b := capBase g.val
  let top := b + capLen g.val
  (g.tag = .poison ∧ t = ⟨6, g.reason, 0⟩) ∨ (g.tag = .data ∧ t = ⟨2, ea, 0⟩) ∨
    (g.tag = .cap ∧ capHas g.val need = false ∧ t = ⟨4, ea, 0⟩) ∨
    (g.tag = .cap ∧ capHas g.val need = true ∧ (ea < b ∨ top < ea + n) ∧ t = ⟨3, ea, 0⟩) ∨
    (g.tag = .cap ∧ capHas g.val need = true ∧ b ≤ ea ∧ ea + n ≤ top ∧ ea % n ≠ 0 ∧ t = ⟨5, ea, 0⟩)

/-- An address in no window: the holes between those of R280. -/
def inHole (ea : Nat) : Prop :=
  (0x20000 ≤ ea ∧ ea < 0x10000000) ∨ (0x10200000 ≤ ea ∧ ea < 0x010000000000)

/-- An address of the translated window (R280) for which translation finds no page in the acting context's launch (R86 step 2). -/
def State.findsNoPage (s : State) (ea : Nat) : Prop :=
  ((0x010000000000 ≤ ea ∧ ea ≤ 0x07FFFFFFFFFF) ∨ (0x090000000000 ≤ ea ∧ ea < 2 ^ 52)) ∧
    ∀ n, s.cpu.launch = some n → s.translate n (s.dataTlb s.cpu.core) ea = none

/-- Nothing is in flight, no memory error stands, the core is in no pair, its tile is in service. -/
def State.quiet (s : State) : Prop :=
  s.cpu.core < 2 ^ 20 ∧ s.net = [] ∧ s.mem.bad = [] ∧ s.mem.soft = [] ∧ s.cpu.paired = false ∧ s.cpu.pair.held = [] ∧
    (s.tile (s.cpu.core / 16)).st = .run ∧ (s.core s.cpu.core).meshBad = false

/-- The bits an element takes in its lane (R142). -/
def laneBitsOf (t : VType) (x : Nat) : Nat := if t = .f64 then x % 2 ^ 64 else laneImage t x

/-- From s to u the active lanes of vd took the elements f gives and the others kept their bits; nothing else that a program sees
has changed but flags, generators and stream queues (R37, R142, R143). -/
def TakesLanes (s u : State) (d p : Nat) (t : VType) (f : Nat → Nat) : Prop :=
  (∀ i, i < t.lanes → laneRaw t (u.getV d) i = if active (s.getP p) i then laneBitsOf t (f i) else laneRaw t (s.getV d) i) ∧
  (∀ n, n ≠ d → u.getV n = s.getV n) ∧ (∀ n, u.getP n = s.getP n) ∧ (∀ n, u.getG n = s.getG n) ∧ u.mem = s.mem ∧ u.cpu.pcc = s.cpu.pcc

/-- What a lane-by-lane instruction leaves beside its lanes: FFLAGS takes the flags of the active lanes' results and no other CSR
changes (R37), each stream register that a source field names gives up one entry and the others none (R149), and the generator that
GENSEL selects has produced eight outputs, four for f64, where the instruction rounds under SR, and otherwise none (R33). -/
def LaneEffects (s u : State) (p : Nat) (t : VType) (fs : List Nat) (rounds : Bool) (f : Nat → FR) : Prop :=
  (∀ b, u.cpu.csrs.fflags.getLsbD b = true ↔ (s.cpu.csrs.fflags.getLsbD b = true ∨
    ∃ i, i < t.lanes ∧ active (s.getP p) i = true ∧ (f i).fl.getLsbD b = true)) ∧
  { u.cpu.csrs with fflags := s.cpu.csrs.fflags } = s.cpu.csrs ∧
  (∀ k, k < 4 → vget [] u.cpu.streams k = (vget [] s.cpu.streams k).drop (if some k ∈ fs.map s.streamOf then 1 else 0)) ∧
  u.cpu.gens = if rounds = true ∧ s.rm = .sr then s.cpu.gens.skip s.sel (if t = .f64 then 4 else 8) else s.cpu.gens

/-- A trap that strikes is taken by the runtime and does not escalate (R137). -/
def State.takesTraps (s : State) : Prop := s.cpu.level = .app ∨ (s.cpu.level = .runtime ∧ tstatIE s.cpu.csrs.tstat = true)

/-- No earlier access of the core is outstanding (R108). -/
def State.acked (s : State) : Prop := s.unacked = false

end Sys2Proof.Machine
end

