-- ==== Sys2Proof/Certificates/Slice0/Obligations.lean ====
section
/-! DEFINITION. The statements made about the model, for the provers. -/

open Sys2Proof Sys2Proof.Machine

/-- Decoding the word of a well-formed instruction gives it back (R41, R42, R43, R44, R45, R46, R47, R48, R49, R50, R51). For every instruction and every operand its encoding admits, the decoder reads the instruction from the word that the encoder gives. -/
def Obligations.DecodeOfEncode : Prop :=
  ∀ (i : Instr) (w : Nat), wf i = true → encode i = some w → decodeWord w = some i

/-- A word decodes to at most the instruction whose word it is (R41, R51). Every 32-bit word that the decoder accepts decodes to a well-formed instruction whose word is that word, so no bit of an accepted word is ignored and no two words stand for one instruction. -/
def Obligations.EncodeOfDecode : Prop :=
  ∀ (w : Nat) (i : Instr), w < 2 ^ 32 → decodeWord w = some i → wf i = true ∧ encode i = some w

/-- Words written out from the encoding tables decode to their instructions (R42, R43, R45, R48, R51, R53, R84). Fourteen words decode to the instructions that they stand for: CINCI and CBND of the spec's worked derivation and the seven words that it works from R42 to R49, as it prints them, and ADD, SUB, J, REP and VADD written out from the encoding tables bit by bit; the word 0 is no instruction. -/
def Obligations.DecodeWords : Prop :=
  decodeTableWord 32 0x04304200 = some (.add 3 1 2) ∧ decodeTableWord 32 0x08517FF8 = some (.addi 5 5 (-8)) ∧
  decodeTableWord 32 0x307F1803 = some (.ld 7 60 .d64 3) ∧ decodeTableWord 32 0x488807FD = some (.bne 4 0 (-3)) ∧
  decodeTableWord 32 0x84853100 = some (.vfma 4 5 6 1 .f32) ∧ decodeTableWord 32 0x7C025800 = some (.csrr 0 9) ∧
  decodeTableWord 32 0x70000000 = some .region ∧ decodeTableWord 32 0x2D4F4100 = some (.cinci 20 61 256) ∧ decodeTableWord 32 0x29451501 = some (.cbnd 20 20 21) ∧
  decodeTableWord 32 (1 * 2 ^ 26 + 3 * 2 ^ 20 + 1 * 2 ^ 14 + 2 * 2 ^ 8 + 0) = some (.add 3 1 2) ∧
  decodeTableWord 32 (1 * 2 ^ 26 + 3 * 2 ^ 20 + 1 * 2 ^ 14 + 2 * 2 ^ 8 + 1) = some (.sub 3 1 2) ∧
  decodeTableWord 32 (0x14 * 2 ^ 26 + (2 ^ 26 - 1)) = some (.j (-1)) ∧
  decodeTableWord 32 (0x17 * 2 ^ 26 + (3 - 1) * 2 ^ 22 + (4 - 1) * 2 ^ 14 + 1 * 2 ^ 12 + 2 * 2 ^ 10 + 3 * 2 ^ 8) = some (.rep 3 4 1 2 3) ∧
  decodeTableWord 32 (0x20 * 2 ^ 26 + 5 * 2 ^ 21 + 6 * 2 ^ 16 + 7 * 2 ^ 11 + 1 * 2 ^ 8 + 0) = some (.vadd 5 6 7 1 .f32) ∧
  decodeTableWord 32 0 = none

/-- A step runs the instruction that the word at the PC decodes to (R10, R51, R95, R103, R267, R356, R361, R362, R376, R389). When it is the turn of a core that is in no gang and no pair and waits in no DONE, no boundary event is pending, and the word at the PC decodes to i, a step waits when a register that i names awaits a response (R103); else, with a region open, it seals the region first where i is an instruction of R362, or traps with cause 0x11 where i would write a register of the input mask (R361); and else it is exec of i at the state that the fetch left, followed by the input mask of an open region, the step's place in its tile's episode when i retired (R389; the model's choice of log entry 77), the cycle's charges and the watchdog (R267, R376), and what settles between steps; what finds no room waits. Each instruction of R362's table but PUSH, whose command decides, seals; ADD would write the mask where gd is in it, or where this ADD is the first to read it. One step is one cycle and one tick of the clock (R10), which is the model's choice (log entry 6). -/
def Obligations.StepRunsDecoded : Prop :=
  (∀ (p u : State) (w : Nat) (i : Instr),
    p.live = true → p.skips (p.cpu.core / 16) = false → p.boundary = none → p.unswitched.leftDone.cpu.waitsDone = false → p.cpu.gang = none →
    p.cpu.paired = false → p.unswitched.leftDone.fetchAt p.pc = (u, .ok w) → decodeWord w = some i → u.cpu.paired = false →
    let here := step { p with agenda := .core p.cpu.core :: p.agenda }
    let fin := fun t : State =>
      let v := if t.stepped p then t.noteStep (p.cpu.core / 16) (p.cpu.core % 16) else t
      (.next (if p.full v then ((p.relieve v).stall.tick none).settled
        else (v.tick (if t.stepped p then some (p.cpu.core / 16) else none)).settled) : Res)
    let runs := fun v : State => ∀ t, exec i v = .next t →
      here = fin (if v.full t then (v.relieve t).stall else if t.regionOpen && t.retiredFrom v then t.noteRegs (v.regUse i) else t)
    (u.pendingWait i = true → here = fin u.stall) ∧
    (u.pendingWait i = false →
      (u.regionOpen = false → runs u) ∧
      (u.regionOpen = true → u.seals i = true → u.seal.regionOpen = false ∧ runs u.seal) ∧
      (u.regionOpen = true → u.seals i = false →
        (∀ c, u.violation i = some c → here = fin (u.takeViolation i c)) ∧ (u.violation i = none → runs u)))) ∧
  (∀ (s : State) (d a b n : Nat) (w : AWidth) (sc : Scope) (o : Ord) (e : Eng),
    (∀ x ∈ [Instr.aadd d a b w sc o, .aand d a b w sc o, .aor d a b w sc o, .axor d a b w sc o, .amin d a b w sc o, .amax d a b w sc o,
      .aminn d a b w sc o, .amaxn d a b w sc o, .aswap d a b w sc o, .acas d a b w sc o, .afadd d a b w sc o, .puti a b, .send a b, .sendh a b,
      .ldlk d a, .stul d a, .stv d a b, .reclaim a b, .spawn a, .range a, .take d a, .chunk d a, .done, .yield, .trig d a b, .untrig d a,
      .bar, .bara, .barw, .domset a, .gang a, .split, .pair d, .unpair, .recv d a, .uien d a, .ihret, .ecancel e, .specommit a, .specdrop a,
      .rngrest a, .ecall n, .ebreak n, .trap n, .csrw n a, .csrs n a, .csrc n a, .tlbinv a], s.seals x = true) ∧
    (∀ (i : Instr) (c : Nat), (∀ c n x y z, i ≠ .rep c n x y z) →
      s.takeViolation i c = s.takeTrap ⟨0x11, s.cpu.csrs.regpc.toNat % 2 ^ 52 + c * 2 ^ 56, 0⟩) ∧
    (d < 64 → d ≠ 0 → s.violation (.add d a b) =
      if s.cpu.region.mask.getLsbD d = true ∨ ((d = a ∨ d = b) ∧ s.cpu.region.written.getLsbD d = false) then some d else none))

/-- No instruction and no step stops the machine (R3, R51, R102, R137). In every state, for every instruction, exec answers a next state, and so does every step: traps are taken, waits wait, and an escalation ends a launch; none of them ends the run. -/
def Obligations.NothingStops : Prop :=
  (∀ (i : Instr) (s : State), ∃ t, exec i s = .next t) ∧ ∀ s : State, s.goesOn

/-- A context counted idle without a break is idle after every step (R210, R225). After every step, each context that the lull tree counts as idle since the last wave is idle at that moment, as R210 and R225 define it: no step leaves the mark on a context that has work. -/
def Obligations.IdleStays : Prop :=
  ∀ s t : State, step s = .next t → ∀ c ∈ t.ctxs, c.idleSince = true → t.idle c = true

/-- The invariant of IdleStays holds at reset (R225). At reset no context is counted idle without being idle. -/
def Obligations.IdleAtReset : Prop :=
  ∀ c ∈ State.reset.ctxs, c.idleSince = true → State.reset.idle c = true

/-- What reset leaves (R9, R10, R34, R37, R138, R140, R262, R411, R412). At reset the generators' keys and counters are 0, the status registers hold their reset columns, DEVSTAT shows BOOT with code 0, the health counters are 0, ADMFRAC is 0xE000 and device time is 0; no launch, no context and no message exists. That every byte of memory reads 0 is the model's choice for memory that boot does not zero (log entry 3). -/
def Obligations.ResetValues : Prop :=
  let s := State.reset
  s.cpu.gens = ⟨Vector.replicate 4 0, Vector.replicate 4 0, Vector.replicate 4 0, Vector.replicate 4 0⟩ ∧
  s.cpu.csrs.frm = 0 ∧ s.cpu.csrs.fflags = 0 ∧ s.cpu.csrs.tstat = 0 ∧ s.cpu.csrs.tcause = 0 ∧ s.cpu.csrs.tcmp = BitVec.allOnes 64 ∧
  s.cpu.csrs.preempt = 2000 ∧ s.cpu.csrs.pairctl = 0 ∧
  s.dev.state = .boot ∧ s.dev.code = 0 ∧ s.dev.health = Vector.replicate 16 0 ∧ s.front.admfrac = 0xE000 ∧
  s.dtime = 0 ∧ s.cycle = 0 ∧ s.launches = [] ∧ s.others = [] ∧ s.net = [] ∧ (∀ k, s.mem.byte k = 0) ∧ Memory.wf s.mem = true

/-- A register read after a write (R71, R72, R139, R142, R143). For every state and register number, a general, vector or predicate register reads as it was written and every other one as before, in the bank that its code names; g0 reads as DATA zero and p0 as all ones, and writes to them are discarded. -/
def Obligations.Registers : Prop :=
  ∀ (s : State) (d n : Nat) (v : GReg) (x : BitVec 1024) (q : BitVec 32),
    (d < 64 → (s.setG d v).getG n = if n = d ∧ d ≠ 0 then v else s.getG n) ∧
    (d < 32 → (s.setV d x).getV n = if n = d then x else s.getV n) ∧
    (d < 8 → (s.setP d q).getP n = if n = d ∧ d ≠ 0 then q else s.getP n) ∧
    s.getG 0 = ⟨.data, 0⟩ ∧ s.setG 0 v = s ∧ s.getP 0 = 0xFFFFFFFF ∧ s.setP 0 q = s ∧
    (s.cpu.handler = true → s.cpu.level ≠ .runtime → 48 ≤ d → d ≤ 55 → (s.setG d v).cpu.regs.g = s.cpu.regs.g) ∧
    (s.cpu.level = .runtime → 56 ≤ d → d ≤ 59 → (s.setG d v).cpu.regs = s.cpu.regs)

/-- Memory read after a write, and its canonical form (R12, R78, R89, R298). A write leaves its bytes, lowest address first, and every other byte of memory as it was; it clears the capability tag of every granule it touches, or sets it when it stores a capability, and no other; poisoned data marks every word it touches, any other data removes the mark of a word written whole, and a word written in part keeps its mark and takes one when it held an uncorrectable error. The write and the read that meets an error keep the canonical form of bytes, tags and marks. -/
def Obligations.MemoryWrites : Prop :=
  ∀ (s : State) (k a b : Nat) (bs : List Byte) (t p : Bool),
    (s.writeMem k bs t p b).mem.byte a = (if k ≤ a ∧ a < k + bs.length then bs.getD (a - k) 0 else s.mem.byte a) ∧
    (s.meetRead k a b).mem.byte a = s.mem.byte a ∧
    (a % 16 = 0 → (s.writeMem k bs t p b).mem.tagged a = (if bs ≠ [] ∧ a < k + bs.length ∧ k < a + 16 then t else s.mem.tagged a)) ∧
    (a % 8 = 0 → nmem (s.writeMem k bs t p b).mem.marks a = (if bs ≠ [] ∧ a < k + bs.length ∧ k < a + 8 then
      p || (!(decide (k ≤ a ∧ a + 8 ≤ k + bs.length)) && (nmem s.mem.marks a || nmem s.mem.bad a)) else nmem s.mem.marks a)) ∧
    (Memory.wf s.mem = true → Memory.wf (s.writeMem k bs t p b).mem = true ∧ Memory.wf (s.meetRead k a b).mem = true)

/-- Two-source integer instructions put their results (R80, R81). On operands that are not POISON, each two-source integer instruction of major 0x01 retires with its result of R81, of A = ival(a) and B = ival(b), as DATA in gd. -/
def Obligations.IntegerResults : Prop :=
  ∀ (s : State) (d a b : Nat), s.clean a → s.clean b →
    let A := s.ival a; let B := s.ival b; let sh := B.toNat % 64
    let done := fun x : Word => (.next (s.setG d (word x)).advance : Res)
    exec (.add d a b) s = done (A + B) ∧ exec (.sub d a b) s = done (A - B) ∧
    exec (.and d a b) s = done (A &&& B) ∧ exec (.or d a b) s = done (A ||| B) ∧ exec (.xor d a b) s = done (A ^^^ B) ∧
    exec (.andn d a b) s = done (A &&& ~~~B) ∧
    exec (.shl d a b) s = done (BitVec.ofNat 64 (A.toNat * 2 ^ sh)) ∧ exec (.shr d a b) s = done (BitVec.ofNat 64 (A.toNat / 2 ^ sh)) ∧
    exec (.sar d a b) s = done (BitVec.ofInt 64 (A.toInt / 2 ^ sh)) ∧
    exec (.rol d a b) s = done (BitVec.ofNat 64 (if sh = 0 then A.toNat else Nat.lor (A.toNat * 2 ^ sh) (A.toNat / 2 ^ (64 - sh)))) ∧
    exec (.slt d a b) s = done (if A.toInt < B.toInt then 1 else 0) ∧ exec (.sltn d a b) s = done (if A.toNat < B.toNat then 1 else 0) ∧
    exec (.min d a b) s = done (if A.toInt < B.toInt then A else B) ∧ exec (.max d a b) s = done (if A.toInt < B.toInt then B else A) ∧
    exec (.minn d a b) s = done (if A.toNat < B.toNat then A else B) ∧ exec (.maxn d a b) s = done (if A.toNat < B.toNat then B else A) ∧
    exec (.mul d a b) s = done (A * B) ∧ exec (.mulh d a b) s = done (BitVec.ofInt 64 (A.toInt * B.toInt / 2 ^ 64)) ∧
    exec (.mulhn d a b) s = done (BitVec.ofNat 64 (A.toNat * B.toNat / 2 ^ 64)) ∧
    exec (.div d a b) s = done (if B = 0 then BitVec.ofNat 64 (2 ^ 64 - 1)
      else if A.toInt = -2 ^ 63 ∧ B.toInt = -1 then BitVec.ofNat 64 (2 ^ 63) else BitVec.ofInt 64 (A.toInt.tdiv B.toInt)) ∧
    exec (.divn d a b) s = done (if B = 0 then BitVec.ofNat 64 (2 ^ 64 - 1) else BitVec.ofNat 64 (A.toNat / B.toNat)) ∧
    exec (.rem d a b) s = done (if B = 0 then A
      else if A.toInt = -2 ^ 63 ∧ B.toInt = -1 then 0 else BitVec.ofInt 64 (A.toInt - A.toInt.tdiv B.toInt * B.toInt)) ∧
    exec (.remn d a b) s = done (if B = 0 then A else BitVec.ofNat 64 (A.toNat % B.toNat)) ∧
    exec (.addw d a b) s = done ((BitVec.ofNat 32 (A.toNat + B.toNat)).signExtend 64) ∧
    exec (.subw d a b) s = done ((BitVec.ofInt 32 (A.toNat - B.toNat)).signExtend 64) ∧
    exec (.mulw d a b) s = done ((BitVec.ofNat 32 (A.toNat * B.toNat)).signExtend 64) ∧
    exec (.seq d a b) s = done (if A = B then 1 else 0) ∧ exec (.sne d a b) s = done (if A = B then 0 else 1)

/-- One-source and immediate integer instructions put their results (R80, R81, R82). On an operand that is not POISON, each one-source instruction of R81 and each immediate instruction of R82 retires with its result in gd, ORI and XORI with every immediate, the shifts with every amount below 64; LUI retires with i × 2^12 whatever its registers hold; CLZ, CTZ and POPC count bits of ival(a). -/
def Obligations.IntegerOneSource : Prop :=
  ∀ (s : State) (d a n m : Nat) (i : Int),
    let A := s.ival a
    let done := fun x : Word => (.next (s.setG d (word x)).advance : Res)
    exec (.lui d i) s = done (BitVec.ofInt 64 (i * 2 ^ 12)) ∧
    (s.clean a → n < 64 →
    (∃ k, exec (.clz d a) s = done (BitVec.ofNat 64 k) ∧ k ≤ 64 ∧ A.toNat < 2 ^ (64 - k) ∧ (k < 64 → 2 ^ (63 - k) ≤ A.toNat)) ∧
    (∃ k, exec (.ctz d a) s = done (BitVec.ofNat 64 k) ∧ k ≤ 64 ∧ A.toNat % 2 ^ k = 0 ∧ (k < 64 → A.toNat / 2 ^ k % 2 = 1)) ∧
    exec (.popc d a) s = done (BitVec.ofNat 64 ((List.range 64).filter fun j => A.toNat.testBit j).length) ∧
    exec (.bswap d a) s = done (BitVec.ofNat 64 (leNat (leBytes 8 A.toNat).reverse)) ∧
    exec (.addi d a i) s = done (A + BitVec.ofInt 64 i) ∧ exec (.andi d a i) s = done (A &&& BitVec.ofInt 64 i) ∧
    exec (.ori d a m) s = done (A ||| BitVec.ofNat 64 m) ∧ exec (.xori d a m) s = done (A ^^^ BitVec.ofNat 64 m) ∧
    exec (.shli d a n) s = done (BitVec.ofNat 64 (A.toNat * 2 ^ n)) ∧ exec (.shri d a n) s = done (BitVec.ofNat 64 (A.toNat / 2 ^ n)) ∧
    exec (.sari d a n) s = done (BitVec.ofInt 64 (A.toInt / 2 ^ n)) ∧
    exec (.roli d a n) s = done (BitVec.ofNat 64 (if n = 0 then A.toNat else Nat.lor (A.toNat * 2 ^ n) (A.toNat / 2 ^ (64 - n)))) ∧
    exec (.slti d a i) s = done (if A.toInt < (BitVec.ofInt 64 i).toInt then 1 else 0) ∧
    exec (.sltni d a i) s = done (if A.toNat < (BitVec.ofInt 64 i).toNat then 1 else 0))

/-- A POISON operand is copied whole by an integer instruction, and traps in a branch (R69, R80, R92, R131, R357). With a POISON operand, every register form of the integer majors copies the first POISON operand, in order a, b, to gd with its payload, and retires without a trap; every conditional branch, and CHKP, trap with cause 0x06 and the reason of the first POISON operand in TVAL. -/
def Obligations.IntegerPoison : Prop :=
  ∀ (s : State) (d a b n : Nat) (i : Int),
    (∀ x ∈ [Instr.add d a b, .sub d a b, .and d a b, .or d a b, .xor d a b, .andn d a b, .shl d a b, .shr d a b, .sar d a b, .rol d a b,
        .slt d a b, .sltn d a b, .min d a b, .max d a b, .minn d a b, .maxn d a b, .mul d a b, .mulh d a b, .mulhn d a b, .div d a b,
        .divn d a b, .rem d a b, .remn d a b, .addw d a b, .subw d a b, .mulw d a b, .seq d a b, .sne d a b],
      (¬ s.clean a → exec x s = .next (s.setG d (s.getG a)).advance) ∧
      (s.clean a → ¬ s.clean b → exec x s = .next (s.setG d (s.getG b)).advance)) ∧
    (∀ x ∈ [Instr.clz d a, .ctz d a, .popc d a, .bswap d a, .addi d a i, .andi d a i, .ori d a n, .xori d a n, .shli d a n, .shri d a n,
        .sari d a n, .roli d a n, .slti d a i, .sltni d a i],
      ¬ s.clean a → exec x s = .next (s.setG d (s.getG a)).advance) ∧
    (∀ x ∈ [Instr.beq a b i, .bne a b i, .blt a b i, .bge a b i, .bltn a b i, .bgen a b i],
      (¬ s.clean a → exec x s = .next (s.takeTrap ⟨6, (s.getG a).reason, 0⟩)) ∧
      (s.clean a → ¬ s.clean b → exec x s = .next (s.takeTrap ⟨6, (s.getG b).reason, 0⟩))) ∧
    (∀ x ∈ [Instr.beqz a i, .bnez a i, .bltz a i, .bgez a i, .bgtz a i, .blez a i, .chkp a],
      ¬ s.clean a → exec x s = .next (s.takeTrap ⟨6, (s.getG a).reason, 0⟩))

/-- What integer and capability instructions leave alone (R71, R72, R74, R79, R80, R82, R83, R84, R139). An integer instruction, LUI, CPC, or a capability instruction that reads that answers a next state has changed no register but gd, no register of the runtime on any core but gd where it names one, no vector or predicate register, no CSR and no byte of memory, of PCC its address alone, and nothing else of the device but the waiting mark; with d = 0 it has changed no register at all. A derivation (CINC, CINCI, CSETA, CPERM, CBND, CBNDX) that answers a next state has done the same, or has trapped. -/
def Obligations.RegisterFrame : Prop :=
  (∀ (s t : State) (d a b n : Nat) (i : Int) (x : Instr), d < 64 →
    x ∈ [Instr.add d a b, .sub d a b, .and d a b, .or d a b, .xor d a b, .andn d a b, .shl d a b, .shr d a b, .sar d a b, .rol d a b,
      .slt d a b, .sltn d a b, .min d a b, .max d a b, .minn d a b, .maxn d a b, .mul d a b, .mulh d a b, .mulhn d a b, .div d a b,
      .divn d a b, .rem d a b, .remn d a b, .addw d a b, .subw d a b, .mulw d a b, .seq d a b, .sne d a b, .clz d a, .ctz d a, .popc d a,
      .bswap d a, .addi d a i, .andi d a i, .ori d a n, .xori d a n, .shli d a n, .shri d a n, .sari d a n, .roli d a n, .slti d a i,
      .sltni d a i, .lui d i, .ctag d a, .ctest d a b, .cclr d a, .csub d a b, .cgeta d a, .cgetb d a, .cgetl d a, .cgetp d a, .cpc d i] →
    exec x s = .next t → KeepsButRegs s t (if d = 0 then [] else [d]) ∧ Retires s t) ∧
  (∀ (s t : State) (d a b : Nat) (i : Int) (x : Instr), d < 64 →
    x ∈ [Instr.cinc d a b, .cinci d a i, .cseta d a b, .cperm d a b, .cbnd d a b, .cbndx d a b] → exec x s = .next t →
    (KeepsButRegs s t (if d = 0 then [] else [d]) ∧ Retires s t) ∨ ∃ r : Trap, t = s.takeTrap r)

/-- Capability instructions derive and read capabilities (R74, R76, R79, R83, R84). On a CAP operand each derivation retires with the capability R84 gives, the bounds of CBND and CBNDX inside the parent's. The readers put the fields of a CAP operand, 0 for DATA, and copy a POISON operand whole; CTAG puts the tag whatever it is, CTEST containment of two CAPs and else 0, CCLR the payload as DATA but a POISON one as it is, CSUB the difference of ival(a) and ival(b) in 52 bits or the first POISON operand (which operand it copies is read from R80 and R84, log entry 21), CPC the capability of the PC. -/
def Obligations.CapabilityResults : Prop :=
  ∀ (s : State) (d a b : Nat) (i : Int),
    let g := s.getG a; let c := g.val; let B := (s.ival b).toNat
    let cap := fun x : Payload => (.next (s.setG d ⟨.cap, x⟩).advance : Res)
    let done := fun x : Nat => (.next (s.setG d (word (BitVec.ofNat 64 x))).advance : Res)
    (g.tag = .cap →
      s.ival a = BitVec.ofNat 64 (capAddr c) ∧
      (s.clean b → exec (.cinc d a b) s = cap (capSetAddr c ((capAddr c + B) % 2 ^ 52)) ∧
        exec (.cseta d a b) s = cap (capSetAddr c (B % 2 ^ 52)) ∧
        exec (.cperm d a b) s = cap (mkCap (Nat.land (capPerms c) (B % 64)) (capLe c) (capLm c) (capBase c) (capAddr c))) ∧
      exec (.cinci d a i) s = cap (capSetAddr c (((capAddr c : Int) + i) % 2 ^ 52).toNat) ∧
      (s.clean b → capBase c ≤ capAddr c → capAddr c + (reprLen B).1 * 2 ^ (reprLen B).2 ≤ capBase c + capLen c →
        exec (.cbnd d a b) s = cap (mkCap (capPerms c) (reprLen B).2 (reprLen B).1 (capAddr c) (capAddr c)) ∧
        ((reprLen B).1 * 2 ^ (reprLen B).2 = B →
          exec (.cbndx d a b) s = cap (mkCap (capPerms c) (reprLen B).2 (reprLen B).1 (capAddr c) (capAddr c)))) ∧
      exec (.cgeta d a) s = done (capAddr c) ∧ exec (.cgetb d a) s = done (capBase c) ∧ exec (.cgetl d a) s = done (capLen c) ∧
      exec (.cgetp d a) s = done (capPerms c)) ∧
    (∀ x ∈ [Instr.cgeta d a, .cgetb d a, .cgetl d a, .cgetp d a],
      (g.tag = .data → exec x s = done 0) ∧ (¬ s.clean a → exec x s = .next (s.setG d g).advance)) ∧
    exec (.ctag d a) s = done (match g.tag with
      | .data => 0
      | .cap => 1
      | .poison => 2) ∧
    exec (.ctest d a b) s = done (if g.tag = .cap ∧ (s.getG b).tag = .cap ∧ capWithin c (s.getG b).val = true then 1 else 0) ∧
    exec (.cclr d a) s = .next (s.setG d (if g.tag = .poison then g else ⟨.data, c⟩)).advance ∧
    (s.clean a → s.clean b →
      exec (.csub d a b) s = .next (s.setG d (word (BitVec.ofInt 64 (sext (mod52 (((s.ival a).toNat : Int) - B)) 52)))).advance) ∧
    (¬ s.clean a → exec (.csub d a b) s = .next (s.setG d g).advance) ∧
    (s.clean a → ¬ s.clean b → exec (.csub d a b) s = .next (s.setG d (s.getG b)).advance) ∧
    exec (.cpc d i) s = .next (s.setG d ⟨.cap, capSetAddr s.cpu.pcc (((s.pc : Int) + 4 * i) % 2 ^ 52).toNat⟩).advance

/-- A derivation that would pass its parent traps (R77, R79, R84). CBND and CBNDX from a CAP whose rounded bounds pass the parent's, and CBNDX of a length with no exact form, trap with cause 0x03 and the address in TVAL; each of the six derivations from DATA traps with cause 0x02, and copies a POISON operand whole, in order a, b. -/
def Obligations.CapabilityTraps : Prop :=
  ∀ (s : State) (d a b : Nat) (i : Int),
    ((s.getG a).tag = .data → exec (.cinci d a i) s = .next (s.takeTrap ⟨2, (s.getG a).val.toNat % 2 ^ 64, 0⟩)) ∧
    (¬ s.clean a → ∀ x ∈ [Instr.cinc d a b, .cinci d a i, .cseta d a b, .cperm d a b, .cbnd d a b, .cbndx d a b],
      exec x s = .next (s.setG d (s.getG a)).advance) ∧
    (s.clean a → ¬ s.clean b → ∀ x ∈ [Instr.cinc d a b, .cseta d a b, .cperm d a b, .cbnd d a b, .cbndx d a b],
      exec x s = .next (s.setG d (s.getG b)).advance) ∧ (s.clean b →
    let c := (s.getG a).val; let B := (s.ival b).toNat; let len := (reprLen B).1 * 2 ^ (reprLen B).2
    ((s.getG a).tag = .cap → (capAddr c < capBase c ∨ capBase c + capLen c < capAddr c + len) →
      exec (.cbnd d a b) s = .next (s.takeTrap ⟨3, capAddr c, 0⟩) ∧ exec (.cbndx d a b) s = .next (s.takeTrap ⟨3, capAddr c, 0⟩)) ∧
    ((s.getG a).tag = .cap → len ≠ B → exec (.cbndx d a b) s = .next (s.takeTrap ⟨3, capAddr c, 0⟩)) ∧
    ((s.getG a).tag = .data → ∀ x ∈ [Instr.cinc d a b, .cseta d a b, .cperm d a b, .cbnd d a b, .cbndx d a b],
      exec x s = .next (s.takeTrap ⟨2, c.toNat % 2 ^ 64, 0⟩)))

/-- Branches go to their target or on (R92). On operands that are not POISON each branch whose relation holds leaves the PC at PC + 4 × x when that lies inside PCC's bounds, and traps with cause 0x03 and that address in TVAL when it does not; one whose relation does not hold leaves the PC at PC + 4, wherever its target lies. Nothing else changes but the waiting mark. -/
def Obligations.BranchResults : Prop :=
  ∀ (s : State) (a b : Nat) (x : Int), s.clean a → s.clean b →
    let t := (((s.pc : Int) + 4 * x) % 2 ^ 52).toNat
    let inside := capBase s.cpu.pcc ≤ t ∧ t + 4 ≤ capBase s.cpu.pcc + capLen s.cpu.pcc
    let A := s.ival a; let B := s.ival b
    let run := fun u : State => (.next (u.modCpu fun u => { u with stalled := false }) : Res)
    let go := fun c : Prop => fun [Decidable c] =>
      if c then (if inside then run (s.setPc t) else .next (s.takeTrap ⟨3, t, 0⟩)) else run (s.setPc s.pc4)
    exec (.beq a b x) s = go (A = B) ∧ exec (.bne a b x) s = go (A ≠ B) ∧ exec (.blt a b x) s = go (A.toInt < B.toInt) ∧
    exec (.bge a b x) s = go (B.toInt ≤ A.toInt) ∧ exec (.bltn a b x) s = go (A.toNat < B.toNat) ∧ exec (.bgen a b x) s = go (B.toNat ≤ A.toNat) ∧
    exec (.beqz a x) s = go (A = 0) ∧ exec (.bnez a x) s = go (A ≠ 0) ∧ exec (.bltz a x) s = go (A.toInt < 0) ∧
    exec (.bgez a x) s = go (0 ≤ A.toInt) ∧ exec (.bgtz a x) s = go (0 < A.toInt) ∧ exec (.blez a x) s = go (A.toInt ≤ 0)

/-- Jumps and links (R74, R93, R94). J and JAL with a target inside PCC go to it, JAL with the link PCC at PC + 4 in g63; a target outside traps with cause 0x03 and leaves g63; JR and JALR take over an executable capability whose address is aligned and inside its bounds, JALR with the link in gd; any other register traps by the first of R94's checks that fails: POISON with cause 0x06 and its reason in TVAL, and with the address in TVAL DATA with 0x02, no X with 0x04, an address outside the bounds with 0x03, a misaligned one with 0x05. -/
def Obligations.JumpResults : Prop :=
  ∀ (s : State) (d a : Nat) (x : Int),
    let t := (((s.pc : Int) + 4 * x) % 2 ^ 52).toNat
    let run := fun u : State => (.next (u.modCpu fun c => { c with stalled := false }) : Res)
    let link : GReg := ⟨.cap, capSetAddr s.cpu.pcc s.pc4⟩
    (capBase s.cpu.pcc ≤ t → t + 4 ≤ capBase s.cpu.pcc + capLen s.cpu.pcc →
      exec (.j x) s = run (s.setPc t) ∧ exec (.jal x) s = run ((s.setG 63 link).setPc t)) ∧
    ((t < capBase s.cpu.pcc ∨ capBase s.cpu.pcc + capLen s.cpu.pcc < t + 4) →
      exec (.j x) s = .next (s.takeTrap ⟨3, t, 0⟩) ∧ exec (.jal x) s = .next (s.takeTrap ⟨3, t, 0⟩)) ∧
    ((s.getG a).tag = .cap → let c := (s.getG a).val
      capHas c .x = true → capBase c ≤ capAddr c → capAddr c + 4 ≤ capBase c + capLen c → capAddr c % 4 = 0 →
      exec (.jr a) s = run (s.setPcc c) ∧ exec (.jalr d a) s = run ((s.setG d link).setPcc c)) ∧
    (∀ y ∈ [Instr.jr a, .jalr d a], let g := s.getG a; let c := g.val; let e := capAddr c; let traps := fun q v : Nat => exec y s = .next (s.takeTrap ⟨q, v, 0⟩)
      (g.tag = .poison → traps 6 g.reason) ∧ (g.tag = .data → traps 2 e) ∧ (g.tag = .cap → (capHas c .x = false → traps 4 e) ∧ (capHas c .x = true →
        (e < capBase c ∨ capBase c + capLen c < e + 4 → traps 3 e) ∧ (capBase c ≤ e → e + 4 ≤ capBase c + capLen c → e % 4 ≠ 0 → traps 5 e))))

/-- Scalar floating point: rounded values, results, flags and draws (R28, R29, R30, R32, R33, R37, R39, R46, R96, R98). A value of n quanta and a remainder (quantum 2^(1 − B − M + j), n below 2^(M+1), normal unless j is 0) rounds in every format and mode to the code j × 2^M + n, one more when the mode rounds up, with NX and UF, or overflows; into an integer type it rounds by the same decision and then meets the range. A product, a quotient and a sum of finite values are such roundings of their exact values, an exact zero sum signed by R29. On source operands that are not POISON each scalar float instruction puts the code of its result, ORs its flags into FFLAGS, draws one output under stochastic rounding when it rounds, and retires; with a POISON source it copies the first one, in order a, b, and d for FMA, whole to gd, raises no flag, and draws all the same. -/
def Obligations.FloatResults : Prop :=
  (∀ (f : FF) (mode : RMode) (sat neg : Bool) (draw num den n r j k1 k2 : Nat),
    let d := den * 2 ^ k2
    let up := match mode with
      | .rne => if d < 2 * r ∨ (2 * r = d ∧ n % 2 = 1) then 1 else 0
      | .rna => if d ≤ 2 * r then 1 else 0
      | .rtz => 0
      | .rup => if 0 < r ∧ neg = false then 1 else 0
      | .rdn => if 0 < r ∧ neg = true then 1 else 0
      | .sr => if 2 ^ 16 ≤ r * 2 ^ 16 / d + draw then 1 else 0
    let nx : Flags := if 0 < r then flNX else 0
    0 < num → num * 2 ^ k1 = n * d + r → r < d → (k1 = 0 ∨ k2 = 0) →
    (n < 2 ^ (f.m + 1) → (j = 0 ∨ 2 ^ f.m ≤ n) →
      roundF f mode sat draw neg num den (1 - (f.bias : Int) - f.m + j + k1 - k2) =
        (if j * 2 ^ f.m + n + up ≤ f.top.1 * 2 ^ f.m + f.top.2
          then ⟨f.signBit neg + (j * 2 ^ f.m + n + up), nx ||| (if 0 < r ∧ j = 0 ∧ n < 2 ^ f.m then flUF else 0)⟩
          else ⟨(f.overflow neg mode sat).code, flOF ||| flNX⟩)) ∧
    ∀ (signed : Bool) (w : Nat), roundI signed w mode draw neg num den ((k1 : Int) - k2) = intRange signed w neg (n + up) nx) ∧
  (∀ (f : FF) (mode : RMode) (draw a1 a2 : Nat) (n1 n2 : Bool) (e1 e2 : Int),
    let x1 : Int := if n1 then -(a1 : Int) else a1
    let x2 : Int := if n2 then -(a2 : Int) else a2
    fmul f mode draw (.fin n1 a1 e1) (.fin n2 a2 e2) = roundF f mode false draw (n1 != n2) (a1 * a2) 1 (e1 + e2) ∧
    (a2 ≠ 0 → fdiv f mode draw (.fin n1 a1 e1) (.fin n2 a2 e2) = roundF f mode false draw (n1 != n2) a1 a2 (e1 - e2)) ∧
    (∀ k : Nat, fadd f mode draw (.fin n1 a1 (e1 + k)) (.fin n2 a2 e1) =
      (if x1 * 2 ^ k + x2 = 0 then ⟨f.signBit (if n1 = n2 then n1 else decide (mode = .rdn)), 0⟩
        else roundF f mode false draw (decide (x1 * 2 ^ k + x2 < 0)) (x1 * 2 ^ k + x2).natAbs 1 e1))) ∧
  (∀ (s : State) (d a b : Nat) (p : FFmt) (ty : CvtType) (dir : CvtDir), let f := ffOf p; let m := s.rm; let r := s.laneDraw m 0
    let A := s.fcode p a; let B := s.fcode p b; let D := s.fcode p d
    let put := fun x : FR => (s.setG d (word (BitVec.ofNat 64 x.code))).raiseFlags x.fl
    let rounds := fun x : FR => (.next ((put x).consume m 1).advance : Res)
    let exact := fun x : FR => (.next (put x).advance : Res)
    (s.clean a → s.clean b →
    exec (.fadd d a b p) s = rounds (fadd f m r (f.val A) (f.val B)) ∧ exec (.fsub d a b p) s = rounds (fsub f m r (f.val A) (f.val B)) ∧
    exec (.fmul d a b p) s = rounds (fmul f m r (f.val A) (f.val B)) ∧ exec (.fdiv d a b p) s = rounds (fdiv f m r (f.val A) (f.val B)) ∧
    (s.clean d → exec (.fma d a b p) s = rounds (ffma f m r false (f.val A) (f.val B) (f.val D))) ∧
    exec (.fsqrt d a p) s = rounds (fsqrt f m r (f.val A)) ∧
    exec (.fmin d a b p) s = exact (fminmax f false A B) ∧ exec (.fmax d a b p) s = exact (fminmax f true A B) ∧
    exec (.fcmp d a b p) s = exact ⟨(fcompare (f.val A) (f.val B)).1, (fcompare (f.val A) (f.val B)).2⟩ ∧
    exec (.fclass d a p) s = exact ⟨fclass f A, 0⟩ ∧
    (let num := cvtNum ty p
     let src := match dir with
       | .fromFmt => .flt f
       | .toFmt => num
     let dst := match dir with
       | .fromFmt => num
       | .toFmt => .flt f
     let x := convert src dst m false r ((s.ival a).toNat % 2 ^ src.width)
     exec (.fcvt d a ty dir p) s = rounds ⟨dst.place x.code, x.fl⟩)) ∧
    (let drawn := fun n : Nat => (.next ((s.setG d (s.getG n)).consume m 1).advance : Res); let copied := fun n : Nat => (.next (s.setG d (s.getG n)).advance : Res)
     (∀ x ∈ [Instr.fadd d a b p, .fsub d a b p, .fmul d a b p, .fdiv d a b p, .fma d a b p],
       (¬ s.clean a → exec x s = drawn a) ∧ (s.clean a → ¬ s.clean b → exec x s = drawn b)) ∧
     (s.clean a → s.clean b → ¬ s.clean d → exec (.fma d a b p) s = drawn d) ∧
     (¬ s.clean a → exec (.fsqrt d a p) s = drawn a ∧ exec (.fcvt d a ty dir p) s = drawn a ∧ exec (.fclass d a p) s = copied a) ∧
     (∀ x ∈ [Instr.fmin d a b p, .fmax d a b p, .fcmp d a b p],
       (¬ s.clean a → exec x s = copied a) ∧ (s.clean a → ¬ s.clean b → exec x s = copied b))))

/-- Loads write what they find (R85, R86, R87, R88, R90, R97). A load whose checks pass writes the value it reads, extended as its width says, and retires; LDS delivers absence and poison as POISON with reasons 2 and 1; from the core's own TCM, with nothing in flight, the value is the little-endian number that stands there. An access that R77's checks stop traps as the first of them says, in their order; one that passes them traps with cause 0x04 at an address in no window and with 0x08 where translation finds no page. -/
def Obligations.LoadResults : Prop :=
  (∀ (s t : State) (d a k x : Nat) (w : LWidth) (i : Int) (tag : Bool),
    (s.core s.cpu.core).meshBad = false → s.loadRead a (s.ea a (i * w.bytes)) w.bytes = .ok (k, t, .value x tag) →
    exec (.ld d a w i) s = .next (t.setG d (loadReg w (s.getG a).val x tag)).advance ∧
    exec (.lds d a w i) s = .next (t.setG d (loadReg w (s.getG a).val x tag)).advance) ∧
  (∀ (s t : State) (d a k x : Nat) (sc : Scope) (tag : Bool),
    (s.core s.cpu.core).meshBad = false → s.loadRead a (s.ea a 0) 8 = .ok (k, t, .value x tag) →
    exec (.lda d a sc) s = .next (t.setG d (word (BitVec.ofNat 64 x))).advance) ∧
  (∀ (s t : State) (d a k : Nat) (w : LWidth) (i : Int),
    (s.loadRead a (s.ea a (i * w.bytes)) w.bytes = .ok (k, t, .absent) → exec (.lds d a w i) s = .next (t.setG d (poisonOnes 2)).advance ∧
      exec (.ld d a w i) s = .next (t.takeTrap ⟨7, s.ea a (i * w.bytes), 0⟩)) ∧
    (s.loadRead a (s.ea a (i * w.bytes)) w.bytes = .ok (k, t, .poisoned) → exec (.lds d a w i) s = .next (t.setG d (poisonOnes 1)).advance ∧
      exec (.ld d a w i) s = .next (t.takeTrap ⟨6, s.ea a (i * w.bytes), 0⟩))) ∧
  (∀ (s : State) (d a : Nat) (w : LWidth) (i : Int), s.quiet → let ea := s.ea a (i * w.bytes); let k := tcmKey s.cpu.core ea
    s.grants a ea w.bytes .r → ea + w.bytes ≤ 0x20000 → s.mem.marked k w.bytes = false →
    exec (.ld d a w i) s = .next (s.setG d (loadReg w (s.getG a).val (leNat (s.mem.read k w.bytes)) (s.mem.tagged k))).advance) ∧
  (∀ (s : State) (d a : Nat) (w : LWidth) (i : Int) (sc : Scope) (x : Instr) (n ea : Nat),
    (x = .ld d a w i ∨ x = .lds d a w i) ∧ n = w.bytes ∧ ea = s.ea a (i * w.bytes) ∨ x = .lda d a sc ∧ n = 8 ∧ ea = s.ea a 0 →
    (∀ t, s.accessTraps a ea n .r t → exec x s = .next (s.takeTrap t)) ∧
    (s.grants a ea n .r → inHole ea → exec x s = .next (s.takeTrap ⟨4, ea, 0⟩)) ∧
    (s.grants a ea n .r → s.findsNoPage ea → exec x s = .next (s.takeTrap ⟨8, ea, 0⟩)))

/-- Stores write their bytes (R85, R89, R90, R108, R304). A store whose checks pass retires in the state that its write leaves; into the core's own TCM, with nothing in flight, it writes the low bytes of the register there, at once, with the capability tag and the poison mark that R89's table gives; STL does the same for 8 bytes once every earlier access is performed at its scope, from where on all of them count as performed there (R309; how the model counts, State.unackedAt and State.seenAt, is its own choice, log entry 78). A store that R77's checks stop traps as the first of them says, in their order; then ST.q128 of a capability traps with cause 0x04 where the store's own lacks SC, or the stored one lacks G and the address lies outside the TCM window; then a store at an address in no window traps with cause 0x04, and with 0x08 where translation finds no page. -/
def Obligations.StoreResults : Prop :=
  (∀ (s t : State) (v a : Nat) (w : SWidth) (i : Int),
    s.storeReg (s.getG v) a (s.ea a (i * w.bytes)) w.bytes = .ok t → exec (.st v a w i) s = .next t.advance) ∧
  (∀ (s t : State) (v a : Nat) (sc : Scope), s.unackedAt sc = false →
    (s.seenAt sc).storeReg (s.getG v) a (s.ea a 0) 8 = .ok t → exec (.stl v a sc) s = .next t.advance) ∧
  (∀ (s : State) (v a : Nat) (w : SWidth) (i : Int), s.quiet → let ea := s.ea a (i * w.bytes); let g := s.getG v
    s.grants a ea w.bytes .w → ea + w.bytes ≤ 0x20000 → (w = .q128 → g.tag = .cap → capHas (s.getG a).val .sc = true) →
    let bs := if g.tag = .cap ∧ w ≠ .q128 then leBytes w.bytes (capAddr g.val) else leBytes w.bytes g.val.toNat
    exec (.st v a w i) s =
      .next (s.writeMem (tcmKey s.cpu.core ea) bs (decide (g.tag = .cap ∧ w = .q128)) (decide (g.tag = .poison)) s.cpu.core).advance) ∧
  (∀ (s : State) (v a : Nat) (w : SWidth) (i : Int) (sc : Scope) (x : Instr) (n ea : Nat),
    x = .st v a w i ∧ n = w.bytes ∧ ea = s.ea a (i * w.bytes) ∨ x = .stl v a sc ∧ n = 8 ∧ ea = s.ea a 0 →
    let g := s.getG v; let barred := n = 16 ∧ g.tag = .cap ∧ (capHas (s.getG a).val .sc = false ∨ (capHas g.val .g = false ∧ 0x20000 ≤ ea))
    (∀ t, s.accessTraps a ea n .w t → exec x s = .next (s.takeTrap t)) ∧
    (s.grants a ea n .w → barred → exec x s = .next (s.takeTrap ⟨4, ea, 0⟩)) ∧
    (s.grants a ea n .w → ¬ barred → inHole ea → exec x s = .next (s.takeTrap ⟨4, ea, 0⟩)) ∧
    (s.grants a ea n .w → ¬ barred → s.findsNoPage ea → exec x s = .next (s.takeTrap ⟨8, ea, 0⟩)))

/-- What a store leaves alone (R77, R86, R89, R108). ST and STL that answer a next state, where a trap does not escalate, leave every register of the acting context as it was, and every byte of memory outside the bytes they store to: as many as their width, from the place that the address leads to. One whose address leads to no place, or whose checks trap, leaves all of memory. The checks of STL run where earlier accesses count as performed (the model's choice, log entry 78). -/
def Obligations.StoreFrame : Prop :=
  ∀ (s t u : State) (v a : Nat) (w : SWidth) (i : Int) (sc : Scope) (x : Instr) (n ea : Nat), s.takesTraps →
    (x = .st v a w i ∧ n = w.bytes ∧ ea = s.ea a (i * w.bytes) ∧ u = s ∨ x = .stl v a sc ∧ n = 8 ∧ ea = s.ea a 0 ∧ u = s.seenAt sc) →
    exec x s = .next t →
    t.cpu.regs = s.cpu.regs ∧ ((∀ loc, s.locate s.cpu.core s.cpu.launch (s.dataTlb s.cpu.core) ea ≠ .ok loc) → KeepsBytes s t) ∧
    (∀ r, u.storeReg (s.getG v) a ea n = .trap r → KeepsBytes s t) ∧
    ∀ loc, s.locate s.cpu.core s.cpu.launch (s.dataTlb s.cpu.core) ea = .ok loc → KeepsBytesBut s t loc.key n

/-- What a load leaves alone (R86, R87, R97, R298). LD, LDS and LDA that answer a next state, where a trap does not escalate, change no byte of memory, no vector or predicate register, and no general register but gd. -/
def Obligations.LoadFrame : Prop :=
  ∀ (s t : State) (d a : Nat) (w : LWidth) (i : Int) (sc : Scope) (x : Instr), d < 64 → s.takesTraps →
    x ∈ [Instr.ld d a w i, .lds d a w i, .lda d a sc] → exec x s = .next t →
    KeepsBytes s t ∧ t.cpu.regs.v = s.cpu.regs.v ∧ t.cpu.regs.p = s.cpu.regs.p ∧
    (∀ n, n ≠ d → vget GReg.zero t.cpu.regs.g n = vget GReg.zero s.cpu.regs.g n) ∧
    (∀ n, n + 48 ≠ d → vget GReg.zero t.cpu.regs.gh n = vget GReg.zero s.cpu.regs.gh n)

/-- An atomic sends its request and its register awaits the response (R103, R105, R106, R107, R386). An atomic whose checks pass, with fewer than 64 of its tile outstanding on its channel (and, with ord ar, nothing outstanding at its scope before it) sends one request of its operation, size, operand and expected value to the word's home, marks gd as pending on it and retires. One that lacks R or then W, lies outside the bounds or is misaligned traps as R77's checks say, R first; then a POISON gb, and a POISON gd of ACAS, traps with cause 0x06 and its reason; then an address in no window with 0x04, and one whose translation finds no page with 0x08. When an earlier access is outstanding at a scope is the model's choice (State.unackedAt and State.seenAt, log entry 78). -/
def Obligations.AtomicRequests : Prop :=
  ∀ (s : State) (d a b ea : Nat) (w : AWidth) (sc : Scope) (o : Ord) (loc : Loc) (x e : Word),
    ((o = .ar → s.unackedAt sc = false) → s.atomicsOut (s.cpu.core / 16) ((homeOf loc.key).code * 3) < 64 →
    let u := if o = .ar then s.seenAt sc else s
    let sent := fun (op : Nat) (e : Word) => (.next (((u.noteAccess s.cpu.core s.cpu.launch loc ea).awaitNext d (o == .ar)).post
      s.cpu.core s.cpu.launch (.atom loc.key op w.bytes x e) false none
      (if loc.recorded ea then some (s.cpu.core % 16) else none)).advance : Res)
    (s.atomCheck d a b w.bytes false = .ok (loc, ea, x, e) →
      exec (.aadd d a b w sc o) s = sent 0 e ∧ exec (.aand d a b w sc o) s = sent 1 e ∧ exec (.aor d a b w sc o) s = sent 2 e ∧
      exec (.axor d a b w sc o) s = sent 3 e ∧ exec (.amin d a b w sc o) s = sent 4 e ∧ exec (.amax d a b w sc o) s = sent 5 e ∧
      exec (.aminn d a b w sc o) s = sent 6 e ∧ exec (.amaxn d a b w sc o) s = sent 7 e ∧ exec (.aswap d a b w sc o) s = sent 8 e ∧
      exec (.afadd d a b w sc o) s = sent 10 e) ∧
    (s.atomCheck d a b w.bytes true = .ok (loc, ea, x, e) → exec (.acas d a b w sc o) s = sent 9 e)) ∧
    (∀ y ∈ [Instr.aadd d a b w sc o, .aand d a b w sc o, .aor d a b w sc o, .axor d a b w sc o, .amin d a b w sc o, .amax d a b w sc o,
      .aminn d a b w sc o, .amaxn d a b w sc o, .aswap d a b w sc o, .afadd d a b w sc o, .acas d a b w sc o],
      let at_ := (s.getG a).addr; let n := w.bytes; let traps := fun t : Trap => exec y s = .next (s.takeTrap t)
      let expects := y = .acas d a b w sc o → s.clean d
      (∀ t, s.accessTraps a at_ n .r t → traps t) ∧ (s.grants a at_ n .r → ∀ t, s.accessTraps a at_ n .w t → traps t) ∧
      (s.grants a at_ n .r → s.grants a at_ n .w →
        (¬ s.clean b → traps ⟨6, (s.getG b).reason, 0⟩) ∧
        (s.clean b → ¬ expects → traps ⟨6, (s.getG d).reason, 0⟩) ∧
        (s.clean b → expects → inHole at_ → traps ⟨4, at_, 0⟩) ∧ (s.clean b → expects → s.findsNoPage at_ → traps ⟨8, at_, 0⟩)))

/-- An atomic at its home reads and writes its word in one act (R105, R106). At its home, on a word without error or poison, an atomic answers the old value (zero-extended for the natural operations and AFADD, else sign-extended) and leaves the new one of R105's table, AFADD the sum rounded to nearest, ties to even; a compare and swap whose expected value differs leaves memory as it was; a poisoned word answers POISON with reason 1 and is left. -/
def Obligations.AtomicAtHome : Prop :=
  ∀ (s : State) (k size b : Nat) (x e : Word), (size = 4 ∨ size = 8) → s.mem.bad = [] → s.mem.soft = [] →
    let old := s.mem.nat k size; let m := 2 ^ (8 * size); let X := x.toNat % m
    let signed := word (BitVec.ofInt 64 (sext old (8 * size))); let f : FF := if size = 4 then .fp32 else .fp64
    let left := fun (op v : Nat) => (s.atomAt k op size x e b).2.mem = s.mem.write k (leBytes size v) false false
    (s.mem.marked k size = false →
      (s.atomAt k 0 size x e b).1 = signed ∧ left 0 ((old + X) % m) ∧ left 1 (Nat.land old X) ∧ left 2 (Nat.lor old X) ∧
      left 3 (Nat.xor old X) ∧ left 4 (if sext old (8 * size) ≤ sext X (8 * size) then old else X) ∧
      left 5 (if sext X (8 * size) ≤ sext old (8 * size) then old else X) ∧ left 6 (Nat.min old X) ∧ left 7 (Nat.max old X) ∧
      left 8 X ∧ left 10 (fadd f .rne 0 (f.val old) (f.val X)).code ∧ (∀ op ∈ [1, 2, 3, 4, 5, 8, 9], (s.atomAt k op size x e b).1 = signed) ∧
      (∀ op ∈ [6, 7, 10], (s.atomAt k op size x e b).1 = word (BitVec.ofNat 64 old)) ∧
      (old = e.toNat % m → left 9 X) ∧ (old ≠ e.toNat % m → (s.atomAt k 9 size x e b).2.mem = s.mem)) ∧
    (s.mem.marked k size = true → ∀ op, (s.atomAt k op size x e b).1 = poisonOnes 1 ∧ (s.atomAt k op size x e b).2.mem = s.mem)

/-- Fences wait for what they order; a lock is taken by LDLK and given back by STUL (R102, R108, R109, R110, R284). FENCE and FENCEL retire once no earlier access is outstanding at their scope, where all of them then count as performed, and wait until then; FENCEA waits for loads and atomics alone, PUTI among them; at dev and sys scope that is every acknowledgement and no other effect. LDLK of a scratchpad word whose bit no other core holds, and for which no other waits, takes the lock at this instant and loads the word; STUL under that lock stores the word, frees the lock and writes 0 to gs; without it STUL stores nothing and writes 1. What is outstanding at a scope, and what then counts as performed there, is the model's choice (State.unackedAt and State.seenAt, log entry 78). -/
def Obligations.FenceAndLockResults : Prop :=
  (∀ (s : State) (sc : Scope),
    (s.unackedAt sc = false → exec (.fence sc) s = .next (s.seenAt sc).advance ∧ exec (.fencel sc) s = .next (s.seenAt sc).advance) ∧
    (s.unackedAt sc = true → exec (.fence sc) s = .next s.stall ∧ exec (.fencel sc) s = .next s.stall) ∧
    (s.readsOut sc = false → exec (.fencea sc) s = .next (s.seenAt sc Msg.reads).advance) ∧
    (s.readsOut sc = true → exec (.fencea sc) s = .next s.stall) ∧
    (sc = .dev ∨ sc = .sys → s.unackedAt sc = s.unacked ∧ s.seenAt sc = s ∧ s.seenAt sc Msg.reads = s)) ∧
  (∀ (s : State) (d a : Nat), s.quiet → let ea := s.ea a 0; let o := ea - 0x10000000; let c := s.cpu.core; let k := spadKey (c / 16) o
    0x10000000 ≤ ea → ea < 0x10200000 →
    (s.grants a ea 8 .r → (s.updCore c fun u => { u with lock := none }).lockBlocked c c k = false → s.mem.marked k 8 = false →
      exec (.ldlk d a) s = .next (((((s.updCore c fun u => { u with lock := none }).unqueueLock (c / 16) c).updCore c fun u =>
        { u with lock := some (o, s.clk) }).setG d (word (BitVec.ofNat 64 (s.mem.nat k 8)))).advance)) ∧
    (s.grants a ea 8 .w → (∀ p, s.lockOf c = some p → sameLock o p = false) →
      exec (.stul d a) s = .next ((s.loseLock c).setG d (word 1)).advance) ∧
    (s.grants a ea 8 .w → (s.getG d).tag = .data → ∀ p, s.lockOf c = some p → sameLock o p = true →
      exec (.stul d a) s = .next (((s.writeMem k (leBytes 8 (s.getG d).val.toNat) false false c).loseLock c).setG d (word 0)).advance))

/-- Versioned memory (R111, R112, R113, R114, R115, R298, R385). On a checked place of a VER page that is reachable, with nothing of the core or the home in the way and no bad flit of the mesh, LDV of a version that any complete slot holds, the newest among them, meets the errors of its word and loads it, or traps with cause 0x06 where it is poisoned; below the floor, or passed by, it traps with 0x10, and else waits. STV writes into an open slot of its version or claims a free or superseded one, completing it when asked, and takes its channel's next number; by the other rows of R113 it traps with 0x10 or waits at the gate. VERQ reads both slots and floors. RECLAIM raises Fr at once and leaves a gate of its version, its cycle and every tile of the launch for Fe, which stays. -/
def Obligations.VersionedResults : Prop :=
  ∀ (s : State) (d a b page ea : Nat) (loc : Loc), s.clean b →
    let x := s.ival b; let v : BitVec 12 := x.truncate 12; let line := loc.key / 64 * 64; let l := s.verLine line
    let u := s.noteAccess s.cpu.core s.cpu.launch loc ea; let fr := (s.verPage page).fr
    let held := l.s0.holds v || l.s1.holds v
    let passed := (l.s0.done && newer l.s0.ver v) || (l.s1.done && newer l.s1.ver v)
    let found := [l.s0, l.s1].find? fun q => q.done && q.ver == v
    (s.verPlace a 8 .r = .ok (loc, page, ea) → s.verRead loc.key = .ok false →
      ((s.core s.cpu.core).meshBad = false → newer fr v = false → ∀ y, found = some y →
        let t := if l.newest = y then u.meetRead loc.key 8 s.cpu.core else if y.meet loc.key = y then u
          else (u.slotRecord y loc.key s.cpu.core).setVerLine line (l.upd (l.s0 != y) fun q => q.meet loc.key)
        (∀ z, (l.newest = y → t.mem.marked loc.key 8 = false) → (y.meet loc.key).word loc.key = some z →
          exec (.ldv d a b) s = .next (t.setG d (word z)).advance) ∧
        ((l.newest = y ∧ t.mem.marked loc.key 8 = true) ∨ (y.meet loc.key).word loc.key = none → exec (.ldv d a b) s = .next (t.takeTrap ⟨6, ea, 0⟩))) ∧
      (newer fr v = true ∨ (held = false ∧ passed = true) → exec (.ldv d a b) s = .next (u.takeTrap ⟨16, ea, 0⟩)) ∧
      (newer fr v = false → (held = true ∨ passed = false) → found = none → exec (.ldv d a b) s = .next (s.waitIn .version)) ∧
      ((s.core s.cpu.core).meshBad = false → exec (.verq d a) s = .next (u.setG d (word (BitVec.ofNat 64 (l.s0.ver.toNat + l.s0.st.code * 2 ^ 12 + l.s1.ver.toNat * 2 ^ 16 +
        l.s1.st.code * 2 ^ 28 + fr.toNat * 2 ^ 32 + (s.verPage page).fe.toNat * 2 ^ 44)))).advance)) ∧
    (s.verPlace a 8 .w = .ok (loc, page, ea) → s.verWrite loc.key 8 = .ok false → s.acked → (s.core s.cpu.core).meshBad = false →
      let put := fun y : VerSlot => let z := y.write loc.key (u.getG d); if x.getLsbD 12 then { z with st := .complete } else z
      let met := u.meetLine line s.cpu.core; let l := u.verLine line; let todo := l.stv v (u.verPage page).fe
      (∀ sec, todo = .into sec → exec (.stv d a b) s = .next (if x.getLsbD 12
        then ((met.1.numberHome loc.key).setVerLine line (met.2.upd sec put)).advance
        else ((u.numberHome loc.key).setVerLine line (l.upd sec put)).advance)) ∧
      (∀ sec, todo = .claim sec →
        exec (.stv d a b) s = .next ((met.1.numberHome loc.key).setVerLine line (met.2.upd sec fun _ => put (met.2.newest.claimed v))).advance) ∧
      (todo = .bad → exec (.stv d a b) s = .next (u.takeTrap ⟨16, ea, 0⟩)) ∧
      (todo = .blocked → exec (.stv d a b) s = .next (u.waitIn (.gate page)))) ∧
    (s.verPlace a 1 .w = .ok (loc, page, ea) → s.verWrite loc.key 1 = .ok false →
      let w := u.numberHome loc.key; let old := u.verPage page
      (newer v old.fr = false → exec (.reclaim a b) s = .next w.advance) ∧
      (newer v old.fr = true → ∃ t, exec (.reclaim a b) s = .next t ∧
        t.verPage page = { old with fr := v, gates := old.gates ++ [(v, s.clk, ((w.curLaunch.map (·.tiles)).getD []).map fun q => 4 * q + 3)] } ∧
        (∀ q, q ≠ page → t.verPage q = u.verPage q) ∧ t.verLines = u.verLines ∧ t.pc = s.pc4 ∧ t.mem = u.mem ∧ t.cpu.regs = s.cpu.regs))

/-- Taking a trap (R74, R110, R128, R137, R138, R139, R355, R362). A trap at application level, or at runtime level with IE = 1, saves PC, cause, value, element, level, IE and handler state in the trap CSRs, goes to runtime level with IE 0 outside handler state, with PCC the runtime's text capability at TVEC, whose low two bits are dropped (log entry 79); it seals the region, loses a held lock, forms no part of a gang that waits, and changes no register and no byte of memory. At firmware level, and at runtime level with IE = 0, it escalates: the context's launch ends by fault, code 0x03 with the core's name and the cause, its gang dissolved, and a context of no launch stops. -/
def Obligations.TrapEntry : Prop :=
  ∀ (s : State) (x : Trap), (s.takesTraps →
    let t := s.takeTrap x
    t.cpu.csrs.tcause = BitVec.ofNat 64 x.cause ∧ t.cpu.csrs.tval = BitVec.ofNat 64 x.tval ∧
    t.cpu.csrs.telem = BitVec.ofNat 64 (x.telem % 2 ^ 28) ∧ t.cpu.csrs.tpc = BitVec.ofNat 64 s.pc ∧
    tstatIE t.cpu.csrs.tstat = false ∧ t.cpu.csrs.tstat.getLsbD 1 = tstatIE s.cpu.csrs.tstat ∧
    bits t.cpu.csrs.tstat.toNat 3 2 = s.cpu.level.code ∧ t.cpu.csrs.tstat.getLsbD 4 = s.cpu.handler ∧
    t.cpu.level = .runtime ∧ t.cpu.handler = false ∧ t.cpu.stalled = false ∧
    t.cpu.pcc = capSetAddr runtimeText (s.cpu.csrs.tvec.toNat % 2 ^ 52 / 4 * 4) ∧ t.cpu.csrs.regpc.getLsbD 63 = false ∧
    (t.core s.cpu.core).lock = none ∧ t.cpu.regs = s.cpu.regs ∧ KeepsBytes s t ∧ t.net = s.net ∧
    (∀ g, t.cpu.gang = some g → g.formed = true) ∧ t.cpu.pair.waiting = none ∧ (x.cause ≠ 8 → t.mem = s.mem)) ∧
    ((s.cpu.level = .firmware ∨ (s.cpu.level = .runtime ∧ tstatIE s.cpu.csrs.tstat = false)) →
      let u := (if x.cause = 8 then s.meetWalk s.cpu.launch x.tval s.cpu.core else s).dissolveGang.abandon
      (s.cpu.launch = none → (s.takeTrap x).cpu.run = .ended ∧ (s.takeTrap x).cpu.regs = s.cpu.regs ∧ KeepsBytes s (s.takeTrap x)) ∧
      (∀ n, s.cpu.launch = some n → s.takeTrap x = u.endLaunch n 3 s.cpu.core (x.cause % 2 ^ 63)) ∧
      (∀ n l, s.cpu.launch = some n → s.launch? n = some l → l.live = true → (s.launches.map (·.1)).Pairwise (· < ·) →
        ∃ l', (s.takeTrap x).launch? n = some l' ∧ l'.st = .ended 3))

/-- ECALL, EBREAK and TRAP (R136, R141, R375). ECALL, TRAP and, without a debugger, EBREAK take their traps with causes 0x09, 0x0B and 0x0A and the code in TVAL; where a debugger is attached to the core, or to a core of its gang or pair, EBREAK requests the halt of all of them and retires, which is the model's choice (log entries 61 and 106); the illegal word traps with cause 0x01 and itself in TVAL. -/
def Obligations.CallsAndTraps : Prop :=
  ∀ (s : State) (c : Nat),
    exec (.ecall c) s = .next (s.takeTrap ⟨9, c, 0⟩) ∧ exec (.trap c) s = .next (s.takeTrap ⟨11, c, 0⟩) ∧
    exec (.illegalInstruction c) s = .next (s.takeTrap ⟨1, c, 0⟩) ∧
    ((∀ k ∈ s.together s.cpu.core, s.attachedAt k = false) → exec (.ebreak c) s = .next (s.takeTrap ⟨10, c, 0⟩)) ∧
    ((∃ k ∈ s.together s.cpu.core, s.attachedAt k = true) →
      ∃ t, exec (.ebreak c) s = .next t ∧ (∀ k ∈ s.together s.cpu.core, (t.core k).haltReq = true) ∧
        (∀ k, k ∉ s.together s.cpu.core → t.core k = s.core k) ∧ t.pc = s.pc4 ∧ t.cpu.regs = s.cpu.regs ∧ t.mem = s.mem)

/-- Returning from a trap (R41, R137, R138, R139, R272, R295). ERET from runtime level with PREV at most that level restores level, IE and handler state from TSTAT and goes to TPC, its low two bits dropped (log entry 79, the model's choice), in the text capability of that level: PCC has the bounds and permissions of the launch's text capability at application level, of the top 8 KiB of TCM at runtime level, and of what boot set at firmware level (the image's, log entry 118); from the handler of a walk failure it ends the launch, from that of the pre-emption interrupt it switches contexts; below runtime level, with PREV 3 or above the present level it is illegal; a trap taken at application level and returned from resumes at the PC it saved, at application level and in the handler state it left. -/
def Obligations.ReturnFromTrap : Prop :=
  (∀ s : State, s.cpu.level ≠ .app → let prev := bits s.cpu.csrs.tstat.toNat 3 2
    prev ≠ 3 → prev ≤ s.cpu.level.code → s.cpu.entered.head? ≠ some preemptCause → s.cpu.entered.head? ≠ some 8 →
    let cap := if prev = 0 then s.appText else if prev = 1 then runtimeText else s.dev.fwText
    capBase runtimeText = 0x1E000 ∧ capLen runtimeText = 0x2000 ∧ (∀ l, s.curLaunch = some l → s.appText = l.text) ∧
    ∃ t, exec .eret s = .next t ∧ t.cpu.pcc = capSetAddr cap (s.cpu.csrs.tpc.toNat % 2 ^ 52 / 4 * 4) ∧
      capBase t.cpu.pcc = capBase cap ∧ capLen t.cpu.pcc = capLen cap ∧ capPerms t.cpu.pcc = capPerms cap ∧ t.cpu.level = levelOf prev ∧ tstatIE t.cpu.csrs.tstat = s.cpu.csrs.tstat.getLsbD 1 ∧
      t.cpu.handler = s.cpu.csrs.tstat.getLsbD 4 ∧ t.pc = s.cpu.csrs.tpc.toNat % 2 ^ 52 / 4 * 4 ∧ t.cpu.regs = s.cpu.regs ∧ t.mem = s.mem) ∧
  (∀ s : State, s.cpu.level ≠ .app → bits s.cpu.csrs.tstat.toNat 3 2 ≠ 3 → bits s.cpu.csrs.tstat.toNat 3 2 ≤ s.cpu.level.code →
    (s.cpu.entered.head? = some 8 → exec .eret s = .next (s.escalate 8)) ∧
    (s.cpu.entered.head? = some preemptCause → s.cpu.launch.isSome = true → exec .eret s = .next s.eretTo.preempt)) ∧
  (∀ s : State, (s.cpu.level = .app ∨ bits s.cpu.csrs.tstat.toNat 3 2 = 3 ∨ s.cpu.level.code < bits s.cpu.csrs.tstat.toNat 3 2) →
    exec .eret s = .next (s.takeTrap (illegal (wordOfInstr .eret)))) ∧
  (∀ (s : State) (c : Nat), s.cpu.level = .app →
    ∃ t, exec .eret (s.takeTrap ⟨9, c, 0⟩) = .next t ∧ t.cpu.level = .app ∧ t.pc = s.pc / 4 * 4 ∧ t.cpu.pcc = capSetAddr s.appText (s.pc / 4 * 4) ∧ t.cpu.handler = s.cpu.handler ∧ t.cpu.regs = s.cpu.regs)

/-- CSRs are read and written within their level and their bits (R13, R14, R38, R48, R136, R140). A CSR that exists at the present level is read whole by CSRR, as a determinant where the program does not control its value; CSRW and CSRS write its writable bits alone, and trap on a reserved bit or an FRM.RM of 6 or 7; CSRC never traps on its value and writes no such FRM; any other CSR number is an illegal instruction. -/
def Obligations.CsrAccess : Prop :=
  ∀ (s : State) (n a : Nat),
    (s.csrOk n = false → exec (.csrr n a) s = .next (s.takeTrap (illegal (wordOfInstr (.csrr n a)))) ∧
      exec (.csrw n a) s = .next (s.takeTrap (illegal (wordOfInstr (.csrw n a)))) ∧
      exec (.csrs n a) s = .next (s.takeTrap (illegal (wordOfInstr (.csrs n a)))) ∧
      exec (.csrc n a) s = .next (s.takeTrap (illegal (wordOfInstr (.csrc n a))))) ∧
    (s.csrOk n = true → (n ≠ 0 ∨ s.nearReadInFlight = false) → exec (.csrr n a) s = .next ((s.noteCsr n).setG a (word (s.csrRead n))).advance) ∧
    (n ∉ [0, 3, 4] → s.noteCsr n = s) ∧
    (∀ rw rsv, csrMap n = some (rw, rsv) → s.csrOk n = true → s.clean a → let x := s.ival a; let y := s.csrRead n
      let ok := fun z : Word => z &&& BitVec.ofNat 64 rsv = 0 ∧ (n = 0x005 → bits z.toNat 2 0 < 6)
      let wrote := fun z : Word => (.next (if rw = 0 then s else s.csrStore n (s.csrWritten n rw z)).advance : Res)
      (ok x → exec (.csrw n a) s = wrote x) ∧ (¬ ok x → exec (.csrw n a) s = .next (s.takeTrap (illegal (wordOfInstr (.csrw n a))))) ∧
      (ok (y ||| x) → exec (.csrs n a) s = wrote (y ||| x)) ∧
      (¬ ok (y ||| x) → exec (.csrs n a) s = .next (s.takeTrap (illegal (wordOfInstr (.csrs n a))))) ∧
      ((n = 0x005 → bits (y &&& ~~~x).toNat 2 0 < 6) → exec (.csrc n a) s = wrote (y &&& ~~~x)) ∧
      ((n = 0x005 ∧ 6 ≤ bits (y &&& ~~~x).toNat 2 0) → exec (.csrc n a) s = .next s.advance))

/-- FRM never holds 6 or 7 (R38). A CSRW or CSRS that would leave FRM.RM at 6 or 7 leaves FRM as it was and traps with cause 0x01 and its encoding in TVAL; a CSRC that would do so changes nothing and retires; so no CSR instruction takes FRM.RM from below 6 to 6 or 7, where a trap does not escalate. -/
def Obligations.RoundingModeLegal : Prop :=
  (∀ (s : State) (a : Nat), s.clean a → s.takesTraps → let x := s.ival a; let y := s.csrRead 5; let bad := fun z : Word => 6 ≤ bits z.toNat 2 0
    let refused := fun i : Instr => ∃ t, exec i s = .next t ∧ t.cpu.csrs.frm = s.cpu.csrs.frm ∧ t.cpu.csrs.tcause = 1 ∧
      t.cpu.csrs.tval = BitVec.ofNat 64 (wordOfInstr i) ∧ t.cpu.csrs.tpc = BitVec.ofNat 64 s.pc ∧ t.cpu.regs = s.cpu.regs
    (bad x → refused (.csrw 5 a)) ∧ (bad (y ||| x) → refused (.csrs 5 a)) ∧ (bad (y &&& ~~~x) → exec (.csrc 5 a) s = .next s.advance)) ∧
  (∀ (s t : State) (n a : Nat) (x : Instr), s.takesTraps → bits s.cpu.csrs.frm.toNat 2 0 < 6 →
    x ∈ [Instr.csrr n a, .csrw n a, .csrs n a, .csrc n a] → exec x s = .next t → bits t.cpu.csrs.frm.toNat 2 0 < 6)

/-- WFI, HALT and TLBINV (R136, R294, R375). WFI retires at once when its condition holds; HALT at firmware level retires and halts the context, and is illegal below; TLBINV at runtime level removes the launch's entries for the page from the core's and the tile's levels and retires, and is illegal below. -/
def Obligations.SystemResults : Prop :=
  (∀ s : State, (s.cpu.inbox ≠ [] ∨ 0 < s.cpu.task.count ∨ s.interruptPending = true) → exec .wfi s = .next s.advance) ∧
  (∀ s : State, s.cpu.level = .firmware → exec .halt s = .next s.advance.haltHere ∧ s.advance.haltHere.cpu.run = .halted) ∧
  (∀ s : State, s.cpu.level ≠ .firmware → exec .halt s = .next (s.takeTrap (illegal (wordOfInstr .halt)))) ∧
  (∀ (s : State) (a : Nat), s.cpu.level ≠ .app → s.clean a →
    ∃ t, exec (.tlbinv a) s = .next t ∧ t.pc = s.pc4 ∧ t.mem = s.mem ∧
      (∀ e ∈ (t.core s.cpu.core).itlb ++ (t.core s.cpu.core).dtlb ++ (t.tile (s.cpu.core / 16)).tlb, some e.launch = s.cpu.launch →
        a ≠ 0 ∧ e.page ≠ (s.ival a).toNat % 2 ^ 52 / 2 ^ e.bits)) ∧
  (∀ (s : State) (a : Nat), s.cpu.level = .app → exec (.tlbinv a) s = .next (s.takeTrap (illegal (wordOfInstr (.tlbinv a)))))

/-- What a task starts with (R95, R116, R117). Starting a task sets PCC to the launch's text capability at ENTRY, its low two bits dropped (log entry 79), g1 to ARG, g2 and g3 to the descriptor's words for a plain task and to 0 for a range task, whose range becomes the current range, and g4 to g6 to DATA 0; with that address outside the text capability's bounds the next fetch traps with cause 0x03. -/
def Obligations.TaskStart : Prop :=
  ∀ (s : State) (x : Task),
    let t := s.startTask x; let g := fun n => vget GReg.zero t.cpu.regs.g n
    t.cpu.pcc = capSetAddr s.appText (x.entry % 2 ^ 52 / 4 * 4) ∧ g 1 = word x.arg ∧
    (∀ a2 a3, x.body = .plain a2 a3 → g 2 = word a2 ∧ g 3 = word a3) ∧
    (∀ lo hi c, x.body = .range lo hi c → g 2 = word 0 ∧ g 3 = word 0) ∧
    g 4 = ⟨.data, 0⟩ ∧ g 5 = ⟨.data, 0⟩ ∧ g 6 = ⟨.data, 0⟩ ∧ t.cpu.task.current = some x ∧ t.cpu.task.running = true ∧
    (let e := x.entry % 2 ^ 52 / 4 * 4; (e < capBase s.appText ∨ capBase s.appText + capLen s.appText < e + 4) →
      (t.fetchAt t.pc).2 = .trap ⟨3, e, 0⟩)

/-- Task instructions (R116, R118, R119, R210, R211, R212, R214, R217, R218, R219). Outside a gang, SPAWN and RANGE push the descriptor's task, with the spill that this takes, and on a FULL deque trap with cause 0x03 and the address of the next spill slot in TVAL, as does DONE with a range left; TAKE pops the bottom entry into g[a] and g[a+1] or answers 0; DONE pushes what is left of a range, starts the bottom entry, and without one waits for work, parked when the context is idle; YIELD retires; DEQN counts; CHUNK advances the current range and answers 0 and 0 in a plain task; TRIG takes a free entry, which one is open, fires at once where the word equals the threshold, answers 2^64 − 1 with the table full and traps with cause 0x04 outside the TCM window; UNTRIG frees an armed entry and answers 0 for a free or a firing one. In a gang every one of them but DEQN traps with cause 0x01, which dissolves the gang. The shares of a spread RANGE go to other dies, once the tile's determinants are acknowledged (R391). Where two registers named are one, the order in which TAKE and CHUNK write them is the model's choice (log entry 60). -/
def Obligations.TaskResults : Prop :=
  ∀ (s : State) (d a b : Nat),
    (∀ g : GangSt, s.cpu.gang = some g → ∀ x ∈ [Instr.spawn a, .range a, .take d a, .done, .yield, .trig d a b, .untrig d a, .chunk d a],
      exec x s = .next (s.takeTrap (illegal (wordOfInstr x))) ∧ (s.takesTraps → g.formed = true → 0 < g.size →
        let t := s.takeTrap (illegal (wordOfInstr x))
        t.cpu.gang = none ∧ ∀ c ∈ t.others, c.launch = s.cpu.launch → c.core / g.size = s.cpu.core / g.size → c.gang = none)) ∧
    exec (.deqn d) s = .next (s.setG d (word (BitVec.ofNat 64 (s.cpu.task.deque.length + s.cpu.task.spill.length)))).advance ∧ (s.cpu.gang = none →
    let slot := (s.curLaunch.map Launch.spillBase).getD 0 + 32 * ((s.cpu.task.spillTop + s.cpu.task.spill.length) % 192)
    (s.cpu.task.full = true → s.acked →
      (∀ x, s.descriptor a (wordOfInstr (.spawn a)) false = .ok (x, false) → exec (.spawn a) s = .next (s.takeTrap ⟨3, slot, 0⟩)) ∧
      (∀ x, s.descriptor a (wordOfInstr (.range a)) true = .ok (x, false) → exec (.range a) s = .next (s.takeTrap ⟨3, slot, 0⟩)) ∧
      (∀ x l, s.descriptor a (wordOfInstr (.range a)) true = .ok (x, true) → s.curLaunch = some l → s.detsOpen (s.cpu.core / 16) = false →
        (∃ p ∈ s.shares l x, p.1 = s.dieOf (s.cpu.core / 16)) → exec (.range a) s = .next (s.takeTrap ⟨3, slot, 0⟩))) ∧
    (∀ x, s.descriptor a (wordOfInstr (.spawn a)) false = .ok (x, false) → s.acked → s.cpu.task.full = false →
      exec (.spawn a) s = .next ((s.modTask fun q => q.push x).spillFor s.cpu).advance) ∧
    (∀ x, s.descriptor a (wordOfInstr (.range a)) true = .ok (x, false) → s.acked → s.cpu.task.full = false →
      exec (.range a) s = .next ((s.modTask fun q => q.push x).spillFor s.cpu).advance) ∧
    (∀ x n l, s.descriptor a (wordOfInstr (.range a)) true = .ok (x, true) → s.acked → s.cpu.task.full = false → s.cpu.launch = some n →
      s.detsOpen (s.cpu.core / 16) = false → s.launch? n = some l → ∃ t, exec (.range a) s = .next t ∧ t.pc = s.pc4 ∧
        t.launch? n = some { l with shares := l.shares ++ ((s.shares l x).filter fun p => p.1 != s.dieOf (s.cpu.core / 16)).map fun p => Share.mk (s.dieOf (s.cpu.core / 16)) p.1 p.2 }) ∧
    (∀ x q, s.cpu.task.pop = some (x, q) →
      exec (.take d a) s = .next ((((s.modTask fun _ => q).setG a x.regs.1).setG (a + 1) x.regs.2).setG d (word 1)).advance) ∧
    (s.cpu.task.pop = none → exec (.take d a) s = .next (s.setG d (word 0)).advance) ∧
    (∀ x y q, s.cpu.task.remainder = some x → s.cpu.task.full = false → (s.cpu.task.push x).pop = some (y, q) →
      exec .done s = .next (((s.modTask fun _ => q).spillFor s.cpu).startTask y)) ∧
    (∀ x q, s.cpu.task.remainder = none → s.cpu.task.pop = some (x, q) → exec .done s = .next ((s.modTask fun _ => q).startTask x)) ∧
    (s.cpu.task.remainder = none → s.cpu.task.pop = none →
      let u := s.modTask fun q => { q with running := false, current := none, idle := some (s.pc, s.cpu.handler, s.cpu.level) }
      exec .done s = .next (if u.quietCtx u.cpu = true then u.waitIn .done else u.stall)) ∧
    (∀ x, s.cpu.task.remainder = some x → s.cpu.task.full = true → exec .done s = .next (s.takeTrap ⟨3, slot, 0⟩)) ∧
    (s.yieldTo = none → exec .yield s = .next s.advance) ∧
    (∀ c, s.yieldTo = some c → ∃ t, exec .yield s = .next t ∧ t.cpu = { c with run := .running }) ∧
    ((∀ x lo hi c, s.cpu.task.current = some x → x.body ≠ .range lo hi c) → exec (.chunk d a) s = .next ((s.setG d (word 0)).setG a (word 0)).advance) ∧
    (∀ x lo hi c, s.cpu.task.current = some x → x.body = .range lo hi c →
      exec (.chunk d a) s = .next (((s.modTask fun q => { q with current := some { x with body := .range (Nat.min (lo + c) hi) hi c } }).setG d
        (word (BitVec.ofNat 64 lo))).setG a (word (BitVec.ofNat 64 (Nat.min (lo + c) hi)))).advance) ∧
    (∀ x, s.descriptor b (wordOfInstr (.trig d a b)) false = .ok (x, false) → s.clean d →
      s.grants a (s.ea a 0) 8 .r → s.ea a 0 + 8 ≤ 0x20000 → s.net = [] → let k0 := tcmKey s.cpu.core (s.ea a 0)
      (s.cpu.task.freeTrigs ≠ [] → ∃ k, k < 32 ∧ vget .free s.cpu.task.trig k = .free ∧ exec (.trig d a b) s = .next (((s.drawFree.2.modTask fun q =>
        { q with trig := vset q.trig k (if s.mem.nat k0 8 = (s.ival d).toNat then .firing x else .armed k0 (s.ival d) x) }).setG d (word (BitVec.ofNat 64 k))).advance)) ∧
      ((∀ k, k < 32 → vget .free s.cpu.task.trig k ≠ .free) → exec (.trig d a b) s = .next (s.setG d (word (BitVec.allOnes 64))).advance)) ∧
    (s.grants a (s.ea a 0) 8 .r → 0x20000 < s.ea a 0 + 8 → exec (.trig d a b) s = .next (s.takeTrap ⟨4, s.ea a 0, 0⟩)) ∧
    (s.clean a → (vget .free s.cpu.task.trig ((s.ival a).toNat % 32) = .free ∨ ∃ x, vget .free s.cpu.task.trig ((s.ival a).toNat % 32) = .firing x) →
      exec (.untrig d a) s = .next (s.setG d (word 0)).advance) ∧
    (s.clean a → ∀ k thr x, vget .free s.cpu.task.trig ((s.ival a).toNat % 32) = .armed k thr x →
      exec (.untrig d a) s = .next ((s.modTask fun q => { q with trig := vset q.trig ((s.ival a).toNat % 32) .free }).setG d (word 1)).advance))

/-- The deque is one stack for its owner, whatever it spills (R211, R212). With at most 64 entries in hardware, a push onto a deque that is not FULL followed by a pop gives back the task pushed and leaves the same entries, top to bottom, and a push adds one entry at the bottom; both keep at most 64 entries in hardware and no entry spilled behind an empty hardware part. -/
def Obligations.DequeOrder : Prop :=
  ∀ (q : TaskSt) (x : Task), q.full = false → q.deque.length ≤ 64 → (q.deque = [] → q.spill = []) →
    (q.push x).spill ++ (q.push x).deque = q.spill ++ q.deque ++ [x] ∧ (q.push x).count = q.count + 1 ∧
    (q.push x).deque ≠ [] ∧ (q.push x).deque.length ≤ 64 ∧
    ∃ r, (q.push x).pop = some (x, r) ∧ r.spill ++ r.deque = q.spill ++ q.deque ∧ r.deque.length ≤ 64 ∧ (r.deque = [] → r.spill = [])

/-- Message and inbox instructions (R102, R103, R120, R121, R122, R123, R124, R125). PUT, PUTI and GET on a checked place send their messages, GET marking gd pending; SEND to an enumerated tile of the partition sends its register, behind every earlier access; RECV takes the oldest entry, once no earlier near read is in flight; SENDH sends the record of R124's table to the queue of its launch, addressed by the queue's port and MSGA; INBOXN counts; UIEN exchanges the enable; IHRET leaves handler state through the handler's g55. Where RECV names one register twice the order of its writes is the model's choice (log entry 60). -/
def Obligations.MessageResults : Prop :=
  ∀ (s : State) (d a b : Nat),
    (∀ p u, s.msgPlace a .w = .ok p → s.writeAt p.1 p.2 (storeData (s.getG b) 8).1 (storeData (s.getG b) 8).2.1 (storeData (s.getG b) 8).2.2 true = .ok u →
      exec (.put a b) s = .next u.advance) ∧
    (∀ p, s.msgPlace a .w = .ok p → s.clean b →
      exec (.puti a b) s = .next (s.post s.cpu.core s.cpu.launch (.add p.1.key (s.ival b)) true none).advance) ∧
    (∀ p, s.msgPlace a .r = .ok p →
      exec (.get d a) s = .next (((s.noteAccess s.cpu.core s.cpu.launch p.1 p.2).awaitNext d false).post s.cpu.core s.cpu.launch
        (.get p.1.key) false none (if p.1.recorded p.2 then some (s.cpu.core % 16) else none)).advance) ∧
    (∀ l, s.clean a → s.curLaunch = some l → let n := (s.ival a).toNat % 2 ^ 20
      n / 16 ≠ 0xFFFF → s.enumerated (n / 16) = true → l.hasTile (n / 16) = true →
      ((s.getG b).tag = .cap → capHas (s.getG b).val .g = true) → s.acked →
      exec (.send a b) s = .next (s.post s.cpu.core s.cpu.launch (.send n (s.getG b)) true none).advance) ∧
    (∀ e rest, s.cpu.inbox = e :: rest → e.source < 2 ^ 20 → s.nearReadInFlight = false → ∃ u : State, exec (.recv d a) s = .next u.advance ∧ u.cpu.inbox = rest ∧
      u = ((s.modCpu fun c => c.takeInbox e).setG d e.val).setG a (word (BitVec.ofNat 64 (e.source + if e.done.isSome then 2 ^ 20 else 0)))) ∧
    (∀ l, s.clean a → s.curLaunch = some l → let q := s.queue l.pkt.queue; let g := s.getG b
      exec (.sendh a b) s = .next (s.post s.cpu.core s.cpu.launch (.record l.pkt.queue (qKey q.port q.msga)
        ([1, BitVec.ofNat 8 (s.ival a).toNat] ++ leBytes 2 l.pkt.pid ++ leBytes 4 s.cpu.core ++ leBytes 8 (s.ival b).toNat ++ leBytes 8 s.dtime ++
          [if g.tag = .poison then 1 else 0] ++ [0, 0, 0])) false none).advance) ∧
    exec (.inboxn d) s = .next (s.setG d (word (BitVec.ofNat 64 s.cpu.inbox.length))).advance ∧
    (s.clean a → exec (.uien d a) s = .next ((s.modCpu fun c => { c with uien := (s.ival a).getLsbD 0 }).setG d
      (word (if s.cpu.uien then 1 else 0))).advance) ∧
    (s.cpu.handler = true → ∀ c, jumpCheck (vget GReg.zero s.cpu.regs.gh 7) = .ok c →
      exec .ihret s = .next (((s.modCpu fun x => { x with handler := false }).setPcc c).modCpu fun x => { x with stalled := false })) ∧
    (s.cpu.handler = false → exec .ihret s = .next (s.takeTrap (illegal (wordOfInstr .ihret))))

/-- Barrier and domain instructions (R102, R126, R127, R221). BARA, once every earlier access is performed at the barrier scope, sends the arrival of the present phase and retires; BARW with no arrival outstanding, or a released one, retires; BAR, once its arrival is released, retires; DOMSET at runtime level stores a domain that fits its rectangle and holds the core's tile. When an earlier access is outstanding at a scope is the model's choice (State.unackedAt, log entry 78). -/
def Obligations.BarrierResults : Prop :=
  ∀ (s : State) (a : Nat),
    (s.unackedAt s.barScope = false → s.cpu.bar.arr ≠ .arrived → ∃ u : State, exec .bara s = .next u.advance ∧ u.cpu.bar = { s.cpu.bar with arr := .arrived, half := false } ∧
      u.cpu.regs = s.cpu.regs ∧ u.mem = s.mem) ∧
    (s.cpu.bar.arr ≠ .arrived → ∃ u : State, exec .barw s = .next u.advance ∧ u.cpu.bar = { s.cpu.bar with arr := .none, half := false } ∧
      u.cpu.regs = s.cpu.regs ∧ u.mem = s.mem) ∧
    (s.cpu.bar.half = true → s.cpu.bar.arr = .released → ∃ u : State, exec .bar s = .next u.advance ∧
      u.cpu.bar = { s.cpu.bar with arr := .none, half := false } ∧ u.cpu.regs = s.cpu.regs ∧ u.mem = s.mem) ∧
    (∀ r, s.cpu.level ≠ .app → s.cpu.bar.arr ≠ .arrived → s.clean a → let x := s.ival a
      bits x.toNat 63 29 = 0 → domValid x = true → inDomain x (s.cpu.core / 16) = true → s.rectOf (domOrigin x) = some r → domFits r x = true →
      exec (.domset a) s = .next (s.modCsr fun c => { c with domain := x }).advance)

/-- Gangs and pairs (R128, R129, R220). The last member to execute GANG forms the gang, and every member goes on behind its own GANG, in the gang, with its registers as they were; SPLIT retires and dissolves the gang of every member, and outside a gang does nothing else; PAIR with the partner waiting, at either core, joins the pair: the lower core goes on behind its PAIR with 0 in its register, the higher core runs a copy of it, and its own context is saved with 1 in its register; UNPAIR ends the pair, and the higher core's saved context comes back in the pair's barrier phase. PAIR within a pair writes 0, UNPAIR outside one retires alone, and GANG within its gang retires alone: these are the model's choice (log entry 23), as is that UNPAIR clears MISMATCH (log entry 104). -/
def Obligations.GangAndPairResults : Prop :=
  (∀ (s : State) (a : Nat), s.clean a → let n := (s.ival a).toNat
    (n = 2 ∨ n = 4 ∨ n = 8 ∨ n = 16) → s.cpu.gang = none → s.gangClash n = false →
    let w := s.modCpu fun c => { c with gang := some ⟨n, false, false⟩ }
    ((w.group n).filter fun c => c.gang == some ⟨n, false, false⟩ && c.run == .running).length = n →
    let on := fun c : Ctx => { c with gang := some ⟨n, true, false⟩, stalled := false, pcc := capSetAddr c.pcc ((capAddr c.pcc + 4) % 2 ^ 52) }
    ∃ t, exec (.gang a) s = .next t ∧ t.cpu = on s.cpu ∧ t.pc = s.pc4 ∧ t.mem = s.mem ∧
      t.others = s.others.map fun c => if c.launch = s.cpu.launch ∧ c.core / n = s.cpu.core / n then on c else c) ∧
  (∀ (s : State) (a : Nat) (g : GangSt), s.clean a → s.cpu.gang = some g → g.bad = false → g.formed = true → g.size = (s.ival a).toNat →
    (g.size = 2 ∨ g.size = 4 ∨ g.size = 8 ∨ g.size = 16) → exec (.gang a) s = .next s.advance) ∧
  (∀ s : State, exec .split s = .next s.dissolveGang.advance ∧ s.dissolveGang.advance.pc = s.pc4 ∧
    s.dissolveGang.cpu.regs = s.cpu.regs ∧ s.dissolveGang.mem = s.mem ∧ (s.cpu.gang = none → s.dissolveGang = s)) ∧
  (∀ (s : State) (g : GangSt), s.cpu.gang = some g → g.formed = true → 0 < g.size → s.dissolveGang.cpu.gang = none ∧
    ∀ c ∈ s.dissolveGang.others, c.launch = s.cpu.launch → c.core / g.size = s.cpu.core / g.size → c.gang = none) ∧
  (∀ s : State, s.cpu.paired = false → exec .unpair s = .next s.advance) ∧
  (∀ s : State, s.cpu.paired = true → let hi := partner s.cpu.core
    ∃ t, exec .unpair s = .next t ∧ t.cpu.csrs.pairctl = 0 ∧ t.cpu.regs = s.cpu.regs ∧ t.pc = s.pc4 ∧ t.mem = s.mem ∧
      (∀ c ∈ t.others, ¬ (c.core = hi ∧ c.csrs.pairctl = pairHigh)) ∧
      ∀ c ∈ s.others, c.core = hi → c.launch = s.cpu.launch → c.run = .pairSaved → c.csrs.pairctl ≠ pairHigh →
        { c with run := .running, bar := { c.bar with phase := s.cpu.bar.phase } } ∈ t.others) ∧
  (∀ (s : State) (d : Nat), s.cpu.paired = true → exec (.pair d) s = .next (s.setG d (word 0)).advance) ∧
  (∀ (s : State) (d : Nat) (p : Ctx), s.cpu.paired = false → d < 64 →
    (s.others.find? fun c => c.core == partner s.cpu.core && c.launch == s.cpu.launch && c.run == .running && c.pair.waiting.isSome) = some p →
    p.bar.arr ≠ .arrived → s.cpu.bar.arr ≠ .arrived →
    ∃ t, exec (.pair d) s = .next t ∧ t.mem = s.mem ∧
      (s.cpu.core % 2 = 0 → t.cpu.csrs.pairctl = 1 ∧ t.cpu.launch = s.cpu.launch ∧ t.pc = s.pc4 ∧
        (∀ n, n < 64 → t.getG n = if n = d ∧ d ≠ 0 then word 0 else s.getG n) ∧
        (∃ h ∈ t.others, h.core = p.core ∧ h.launch = p.launch ∧ h.run = .pairSaved ∧ h.pcc = capSetAddr p.pcc ((capAddr p.pcc + 4) % 2 ^ 52) ∧
          (∀ w, p.pair.waiting = some w → p.level = .app → p.handler = false → 0 < w → w < 64 → vget GReg.zero h.regs.g w = word 1)) ∧
        { t.cpu with core := p.core, launch := none, csrs := { t.cpu.csrs with pairctl := 3 } } ∈ t.others) ∧
      (s.cpu.core % 2 = 1 → t.cpu.csrs.pairctl = 3 ∧ t.cpu.core = s.cpu.core ∧ t.cpu.launch = none ∧
        (∃ l ∈ t.others, l.core = p.core ∧ l.launch = p.launch ∧ l.csrs.pairctl = 1 ∧ l.pcc = capSetAddr p.pcc ((capAddr p.pcc + 4) % 2 ^ 52) ∧
          t.cpu = { l with core := s.cpu.core, launch := none, csrs := { l.csrs with pairctl := 3 } } ∧
          (∀ w, p.pair.waiting = some w → p.level = .app → p.handler = false → 0 < w → w < 64 → vget GReg.zero l.regs.g w = word 0)) ∧
        (∃ h ∈ t.others, h.core = s.cpu.core ∧ h.launch = s.cpu.launch ∧ h.run = .pairSaved)))

/-- Names, neighbours and classes (R130, R289). TNAME names a core of the own tile, TNBR the tile at an offset or 0xFFFF where there is none, TDIST an enumerated tile's guarantee class or all ones. -/
def Obligations.NameResults : Prop :=
  ∀ (s : State) (d a b : Nat), s.clean a → s.clean b →
    exec (.tname d a) s = .next (s.setG d (word (BitVec.ofNat 64 (s.cpu.core / 16 * 16 + (s.ival a).toNat % 16)))).advance ∧
    exec (.tnbr d a b) s = .next (s.setG d (word (BitVec.ofNat 64 (s.neighbour ((s.ival a).toNat % 2 ^ 16) (sext (s.ival b).toNat 8)
      (sext ((s.ival b).toNat / 256) 8))))).advance ∧
    exec (.tdist d a) s = .next (s.setG d (word (if s.enumerated ((s.ival a).toNat % 2 ^ 16) then
      BitVec.ofNat 64 (s.tile ((s.ival a).toNat % 2 ^ 16)).cls else BitVec.allOnes 64))).advance

/-- A generator's output and its counter (R31). RNG op 0 puts gen_next of the generator that gb names, computed from its key and counter, advances that counter by one modulo 2^64 and leaves every other generator and every key as it was. Ops 1 and 2 put the generator's key and counter and change neither; ops 3 and 4 put them and replace them by ival(a), and nothing else; ops 5 to 7 trap with cause 0x01 (R131). -/
def Obligations.GeneratorStep : Prop :=
  ∀ (s : State) (d a b k : Nat), s.clean b → k < 4 → (s.ival b).toNat % 4 = k → let op := bits (s.ival b).toNat 4 2; let g := s.cpu.gens
    let puts := fun (u : State) (v : Word) => exec (.rng d a b) s = .next (u.setG d (word v)).advance
    (op = 1 → puts s (vget 0 g.key k)) ∧ (op = 2 → puts s (vget 0 g.ctr k)) ∧
    (s.clean a → op = 3 → puts (s.modCpu fun c => { c with gens := { g with key := vset g.key k (s.ival a) } }) (vget 0 g.key k)) ∧
    (s.clean a → op = 4 → puts (s.modCpu fun c => { c with gens := { g with ctr := vset g.ctr k (s.ival a) } }) (vget 0 g.ctr k)) ∧
    (5 ≤ op → exec (.rng d a b) s = .next (s.takeTrap (illegal (wordOfInstr (.rng d a b))))) ∧ (op = 0 →
    let z0 : Word := (vget 0 s.cpu.gens.key k ^^^ vget 0 s.cpu.gens.ctr k) + 0x5BD1E9953C6EF372
    let z1 : Word := (z0 ^^^ (z0 >>> (30 : Nat))) * 0xA3B195F42C67D10B
    let z2 : Word := (z1 ^^^ (z1 >>> (27 : Nat))) * 0x6F2D8E19C4A57B35
    ∃ t : State, exec (.rng d a b) s = .next (t.setG d (word (z2 ^^^ (z2 >>> (31 : Nat))))).advance ∧
      t = (s.modCpu fun c => { c with gens := t.cpu.gens }) ∧ t.cpu.gens.key = s.cpu.gens.key ∧
      vget 0 t.cpu.gens.ctr k = vget 0 s.cpu.gens.ctr k + 1 ∧ ∀ j, j ≠ k → vget 0 t.cpu.gens.ctr j = vget 0 s.cpu.gens.ctr j)

/-- Regions, generators and launch links (R131, R132, R133, R325, R359, R360, R381). REGION opens a region at the PC and records the generators; CHKP and CKPT retire, CKPT asking for the interval's end; RNGSNAP writes the 64 entries of R132's table, a core without a context of the launch with VALID 0 and a key and a counter that are open; RNGREST with every valid entry in place restores the generators; WAITPRED answers for a predecessor that ended or published; PUBLISH marks the launch once every earlier access is performed and the tile's determinants are acknowledged (R391). WAITPRED of a predecessor that published and then ended is the model's choice (log entry 62). -/
def Obligations.RegionResults : Prop :=
  (∀ s : State, ∃ t, exec .region s = .next t ∧ t.cpu.csrs.regpc = BitVec.ofNat 64 (2 ^ 63 + s.pc) ∧ t.cpu.region.mask = 0 ∧
    t.cpu.region.written = 0 ∧ t.cpu.gens.savedKey = s.cpu.gens.key ∧ t.cpu.gens.savedCtr = s.cpu.gens.ctr ∧ t.pc = s.pc4 ∧
    t.cpu.regs = s.cpu.regs ∧ t.mem = s.mem) ∧
  (∀ (s : State) (a : Nat), s.clean a → exec (.chkp a) s = .next s.advance) ∧
  (∀ s : State, exec .ckpt s = .next (s.updTile (s.cpu.core / 16) fun t => { t with endDue := true }).advance) ∧
  (∀ (s : State) (a ea : Nat) (loc : Loc), s.genArea a .w = .ok (loc, ea) → s.writeHeld loc.key 2048 = false →
    ∃ bs : List Byte, bs.length = 2048 ∧ exec (.rngsnap a) s = .next (s.drawFree.2.writeMem loc.key bs false false s.cpu.core).advance ∧
      ∀ c k, c < 16 → k < 4 → let name := s.cpu.core / 16 * 16 + c
        let at_ := fun x : Ctx => x.core = name ∧ x.launch = s.cpu.launch ∧ x.run ≠ .pairSaved
        ∃ key ctr : Word, ∃ valid : Nat, (bs.drop (32 * (4 * c + k))).take 32 =
            leBytes 8 key.toNat ++ leBytes 8 ctr.toNat ++ leBytes 4 name ++ leBytes 1 k ++ leBytes 1 valid ++ List.replicate 10 0 ∧
          ((∀ x ∈ s.ctxs, ¬ at_ x) → valid = 0) ∧
          (∀ x ∈ s.ctxs, at_ x → (∀ y ∈ s.ctxs, at_ y → y = x) → valid = 1 ∧ key = vget 0 x.gens.key k ∧ ctr = vget 0 x.gens.ctr k)) ∧
  (∀ (s : State) (a ea : Nat) (loc : Loc), s.quiet → s.genArea a .r = .ok (loc, ea) → s.mem.marked loc.key 2048 = false →
    (∀ j, j < 64 → s.genBad s.mem loc.key j = false) →
    ∃ t, exec (.rngrest a) s = .next t ∧ t.pc = s.pc4 ∧ t.mem = s.mem ∧ t.cpu.regs = s.cpu.regs ∧
      ∀ k, k < 4 → let e := loc.key + 32 * (4 * (s.cpu.core % 16) + k)
        s.mem.nat (e + 21) 1 = 1 → vget 0 t.cpu.gens.key k = BitVec.ofNat 64 (s.mem.nat e 8) ∧ vget 0 t.cpu.gens.ctr k = BitVec.ofNat 64 (s.mem.nat (e + 8) 8)) ∧
  (∀ (s : State) (d : Nat), let pred := (s.curLaunch.bind fun l => l.pkt.pred).bind s.launch?
    (pred = none → exec (.waitpred d) s = .next (s.setG d (word 1)).advance) ∧
    (∀ p, pred = some p → p.st = .ended 0 → exec (.waitpred d) s = .next (s.setG d (word 1)).advance) ∧
    (∀ p c, pred = some p → p.st = .ended (c + 1) → exec (.waitpred d) s = .next (s.setG d (word 2)).advance) ∧
    (∀ p, pred = some p → p.st = .running → p.published = true → exec (.waitpred d) s = .next (s.setG d (word 0)).advance)) ∧
  (∀ (s : State) (n : Nat), s.cpu.launch = some n → s.acked → s.detsOpen (s.cpu.core / 16) = false →
    exec .publish s = .next (s.updLaunch n fun l => { l with published := true }).advance)

/-- SUCCHINT acts in a launch with HINT alone (R229). A launch's HINT is bit 3 of its packet's flags byte; in a launch without HINT, SUCCHINT retires and changes nothing else; with HINT its first one, once the tile's determinants are acknowledged, marks the launch and starts its held successors. -/
def Obligations.SuccHint : Prop :=
  (∀ (q : Nat) (bs : List Byte) (pred : Option Nat) (w : WSet) (args : List Word), (launchPkt q bs pred w args).hint = bit (pkt bs 1 1) 3) ∧
  ∀ (s : State) (n : Nat) (l : Launch), s.cpu.launch = some n → s.launch? n = some l →
    (l.pkt.hint = false → exec .succhint s = .next s.advance) ∧
    (l.pkt.hint = true → l.hinted = false → s.detsOpen (s.cpu.core / 16) = false →
      exec .succhint s = .next ((s.advance.updLaunch n fun l => { l with hinted := true }).startSuccessors n))

/-- Engine control instructions (R59, R60, R134, R135, R171, R177, R188, R324). A PUSH whose checks pass queues the command with room and retires; the .try form answers 0, or 1 when the queue is full; EPROG reads the progress; ECANCEL cancels every command of the engine that has an element left to perform; SPECOMMIT and SPECDROP act on the banks and commands of their key. -/
def Obligations.EngineControl : Prop :=
  ∀ (s : State) (d a : Nat) (e : Eng) (sel : EProgSel),
    (s.pushCheck a (wordOfInstr (.push a e)) e = .ok () → (s.cpu.eng.get e).full = false → exec (.push a e) s = .next (s.enqueue a e).advance) ∧
    (s.pushCheck a (wordOfInstr (.pushTry d a e)) e = .ok () →
      ((s.cpu.eng.get e).full = true → exec (.pushTry d a e) s = .next (s.setG d (word 1)).advance) ∧
      ((s.cpu.eng.get e).full = false → exec (.pushTry d a e) s = .next ((s.enqueue a e).setG d (word 0)).advance)) ∧
    exec (.eprog d sel) s = .next (s.setG d (word (s.cpu.progress sel))).advance ∧
    (∃ t, exec (.ecancel e) s = .next t ∧ t.pc = s.pc4 ∧ t.mem = s.mem ∧ ∀ c ∈ (t.cpu.eng.get e).cmds, c.over = true ∨ (c.started = true ∧ c.total ≤ c.unperformed)) ∧
    (s.clean a → let k : BitVec 16 := (s.ival a).truncate 16
      (k = 0 → exec (.specommit a) s = .next s.advance ∧ exec (.specdrop a) s = .next s.advance) ∧
      (k ≠ 0 → (s.cpu.eng.anyCmd fun c => c.key == k) = false → exec (.specommit a) s = .next (s.modEng fun x => x.commit k).advance) ∧
      (k ≠ 0 → ∃ t, exec (.specdrop a) s = .next t ∧ t.pc = s.pc4 ∧ t.mem = s.mem ∧ (∀ j, j < 8 → vget none t.cpu.eng.hold j ≠ some k) ∧
        ∀ c ∈ t.cpu.eng.me.cmds ++ t.cpu.eng.ce.cmds ++ t.cpu.eng.ca.cmds, c.key = k → c.over = true ∨ (c.started = true ∧ c.total ≤ c.unperformed)))

/-- Lane-by-lane arithmetic (R18, R33, R37, R142, R143, R149, R152). With its sources at hand, each VARITH instruction of R152 puts its result in the active lanes of vd, floats rounded with FRM.RM and integers modulo 2^w or saturated, and leaves the inactive lanes, every other register and memory as they were. FFLAGS takes the active lanes' flags, a stream source gives up one entry, and an addition, a subtraction or a product of floats under stochastic rounding draws eight outputs, four for f64. VSAR of a natural type copies bit w − 1, the model's choice (log entry 75). -/
def Obligations.VectorArithmetic : Prop :=
  ∀ (s : State) (d a b p : Nat) (t : VType) (v : BitVec 1024 × BitVec 1024), d < 32 →
    let X := fun i => laneGet t v.1 i; let Y := fun i => laneGet t v.2 i; let m := s.rm; let W := 2 ^ t.width
    let fx := fun i => t.ff.val (X i); let fy := fun i => t.ff.val (Y i)
    let gives := fun (x : Instr) (rounds : Bool) (f : Nat → FR) => s.src2 a b (wordOfInstr x) = .ok v →
      ∃ u, exec x s = .next (State.advance u) ∧ TakesLanes s u d p t (fun i => (f i).code) ∧ LaneEffects s u p t [a, b] rounds f
    let float := t.isFloat
    gives (.vadd d a b p t) float (fun i => if float then fadd t.ff m (s.laneDraw m i) (fx i) (fy i) else ⟨X i + Y i, 0⟩) ∧
    gives (.vsub d a b p t) float (fun i => if float then fsub t.ff m (s.laneDraw m i) (fx i) (fy i) else ⟨X i + (W - Y i), 0⟩) ∧
    gives (.vmul d a b p t) float (fun i => if float then fmul t.ff m (s.laneDraw m i) (fx i) (fy i) else ⟨X i * Y i, 0⟩) ∧
    gives (.vmin d a b p t) false (fun i => if float then fminmax t.ff false (X i) (Y i) else ⟨if laneInt t (X i) ≤ laneInt t (Y i) then X i else Y i, 0⟩) ∧
    gives (.vmax d a b p t) false (fun i => if float then fminmax t.ff true (X i) (Y i) else ⟨if laneInt t (Y i) ≤ laneInt t (X i) then X i else Y i, 0⟩) ∧
    (t.isInt = true → let ints := fun (x : Instr) (f : Nat → Nat) => gives x false fun i => ⟨f i, 0⟩
      ints (.vand d a b p t) (fun i => Nat.land (X i) (Y i)) ∧ ints (.vor d a b p t) (fun i => Nat.lor (X i) (Y i)) ∧
      ints (.vxor d a b p t) (fun i => Nat.xor (X i) (Y i)) ∧
      ints (.vshl d a b p t) (fun i => if t.width ≤ Y i then 0 else X i * 2 ^ Y i) ∧
      ints (.vshr d a b p t) (fun i => if t.width ≤ Y i then 0 else X i / 2 ^ Y i) ∧
      ints (.vsar d a b p t) (fun i => codeOf t.width (sext (X i) t.width / 2 ^ Nat.min (Y i) t.width)) ∧
      ints (.vmulh d a b p t) (fun i => codeOf t.width (laneInt t (X i) * laneInt t (Y i) / 2 ^ t.width)) ∧
      ints (.vadds d a b p t) (fun i => laneSat t (laneInt t (X i) + laneInt t (Y i))) ∧
      ints (.vsubs d a b p t) (fun i => laneSat t (laneInt t (X i) - laneInt t (Y i))))

/-- One-source lanes, fused operations and special functions (R33, R37, R142, R143, R149, R152, R153, R154). VABS, VNEG, VSQRT and the four special functions put their results lane by lane; VFMA, VFMS, VFNMA and VFNMS put their fused results of x, y and the old lane of vd, and VDIV the quotient, each in the active lanes alone. FFLAGS takes the active lanes' flags, a stream source gives up one entry, and the operations of VFMA and VSQRT under stochastic rounding draw eight outputs, four for f64; the others draw none. -/
def Obligations.VectorOneSource : Prop :=
  ∀ (s : State) (d a b p : Nat) (t : VType) (x1 : BitVec 1024) (v : BitVec 1024 × BitVec 1024), d < 32 →
    let m := s.rm
    let gives := fun (t : VType) (x : Instr) (fs : List Nat) (rounds : Bool) (f : Nat → FR) =>
      ∃ u, exec x s = .next (State.advance u) ∧ TakesLanes s u d p t (fun i => (f i).code) ∧ LaneEffects s u p t fs rounds f
    let gives1 := fun (t : VType) (x : Instr) (rounds : Bool) (f : Nat → FR) => s.src1 a (wordOfInstr x) = .ok x1 → gives t x [a] rounds f
    let gives2 := fun (x : Instr) (f : Nat → FR) => s.src2 a b (wordOfInstr x) = .ok v → gives t x [a, b] true f
    let X := fun i => laneGet t x1 i; let Z := fun i => t.ff.val (laneGet t (s.getV d) i)
    let A := fun i => t.ff.val (laneGet t v.1 i); let B := fun i => t.ff.val (laneGet t v.2 i)
    gives1 t (.vabs d a p t) false (fun i => ⟨if t.isFloat then X i % 2 ^ (t.width - 1) else codeOf t.width (laneInt t (X i)).natAbs, 0⟩) ∧
    gives1 t (.vneg d a p t) false (fun i => ⟨if t.isFloat then Nat.xor (X i) (2 ^ (t.width - 1)) else codeOf t.width (-(laneInt t (X i))), 0⟩) ∧
    gives1 .f32 (.vexp2 d a p) false (fun i => vexp2 (laneGet .f32 x1 i)) ∧ gives1 .f32 (.vlog2 d a p) false (fun i => vlog2 (laneGet .f32 x1 i)) ∧
    gives1 .f32 (.vrcp d a p) false (fun i => vrcp (laneGet .f32 x1 i)) ∧ gives1 .f32 (.vrsq d a p) false (fun i => vrsq (laneGet .f32 x1 i)) ∧
    (t.isFloat = true →
      gives1 t (.vsqrt d a p t) true (fun i => fsqrt t.ff m (s.laneDraw m i) (t.ff.val (X i))) ∧
      gives2 (.vfma d a b p t) (fun i => ffma t.ff m (s.laneDraw m i) false (A i) (B i) (Z i)) ∧
      gives2 (.vfms d a b p t) (fun i => ffma t.ff m (s.laneDraw m i) false (A i) (B i) (Z i).negate) ∧
      gives2 (.vfnma d a b p t) (fun i => ffma t.ff m (s.laneDraw m i) true (A i) (B i) (Z i).negate) ∧
      gives2 (.vfnms d a b p t) (fun i => ffma t.ff m (s.laneDraw m i) true (A i) (B i) (Z i)) ∧
      gives2 (.vdiv d a b p t) (fun i => fdiv t.ff m (s.laneDraw m i) (A i) (B i)))

/-- Comparisons write a predicate (R143, R155). Each VCMP instruction leaves in bit i of pd whether lane i is active and its relation holds, and 0 in every other bit; no vector register, general register or byte of memory changes. -/
def Obligations.VectorCompare : Prop :=
  ∀ (s : State) (d a b p : Nat) (t : VType) (v : BitVec 1024 × BitVec 1024), d < 8 → d ≠ 0 →
    let r := fun i => (laneCompare t (laneGet t v.1 i) (laneGet t v.2 i)).1
    let gives := fun (x : Instr) (want : Nat) => s.src2 a b (wordOfInstr x) = .ok v → ∃ u : State, exec x s = .next u.advance ∧
      (∀ i, i < 32 → (u.getP d).getLsbD i = (decide (i < t.lanes) && active (s.getP p) i && Nat.land (r i) want != 0)) ∧
      (∀ n, n ≠ d → u.getP n = s.getP n) ∧ (∀ n, u.getV n = s.getV n) ∧ (∀ n, u.getG n = s.getG n) ∧ u.mem = s.mem
    gives (.vceq d a b p t) 2 ∧ gives (.vcne d a b p t) 13 ∧ gives (.vclt d a b p t) 1 ∧ gives (.vcle d a b p t) 3 ∧
    gives (.vcgt d a b p t) 4 ∧ gives (.vcge d a b p t) 6 ∧ gives (.vcun d a b p t) 8

/-- Conversions, permutations and moves (R35, R142, R143, R156, R157, R158, R159, R169). VCVT converts the lanes that both types have, and a float into its own type is the source, a signaling NaN alone made quiet; VSHUF, VROT, VBCAST, VCOMPRESS and VEXPAND move lanes bit for bit; VXLANE reads through the predicate and clears the bits of lanes whose source was inactive; VMOVGV, VMOVVG and VSPLAT move elements between the register files. -/
def Obligations.VectorMoves : Prop :=
  ∀ (s : State) (d a b n p : Nat) (t u0 : VType) (sat : Bool) (m : RMode) (x1 : BitVec 1024) (v : BitVec 1024 × BitVec 1024), d < 32 →
    let q := s.getP p
    let raw := fun (u : State) (i : Nat) => laneRaw t (u.getV d) i
    let one := fun (x : Instr) (P : State → Prop) => s.src1 a (wordOfInstr x) = .ok x1 → ∃ u : State, exec x s = .next u.advance ∧ u.mem = s.mem ∧
      (∀ k, k ≠ d → u.getV k = s.getV k) ∧ P u
    let two := fun (x : Instr) (P : State → Prop) => s.src2 a b (wordOfInstr x) = .ok v → ∃ u : State, exec x s = .next u.advance ∧ u.mem = s.mem ∧
      (∀ k, k ≠ d → u.getV k = s.getV k) ∧ P u
    let k := fun i => laneIndex t v.2 i
    let ls := (List.range t.lanes).filter (active q)
    one (.vcvt d a u0 sat p t m) (fun u => ∀ i, i < t.lanes → raw u i = if i < u0.lanes ∧ active q i = true then
      laneBitsOf t (if u0 = t ∧ t.isFloat = true ∧ (t.ff.val (laneGet u0 x1 i)).isNan = false then laneGet u0 x1 i
        else (convert (numTy u0) (numTy t) m sat (s.laneDraw m i) (laneGet u0 x1 i)).code) else raw s i) ∧
    two (.vshuf d a b p t) (fun u => ∀ i, i < t.lanes → raw u i = if active q i then laneRaw t v.1 (k i) else raw s i) ∧
    one (.vrot d a n p t) (fun u => ∀ i, i < t.lanes → raw u i = if active q i then laneRaw t x1 ((i + n) % t.lanes) else raw s i) ∧
    (n < t.lanes → one (.vbcast d a n p t) (fun u => ∀ i, i < t.lanes → raw u i = if active q i then laneRaw t x1 n else raw s i)) ∧
    two (.vxlane d a b p t) (fun u => (∀ i, i < t.lanes → raw u i = if active q i then laneRaw t v.1 (if active q (k i) then k i else i) else raw s i) ∧
      (p ≠ 0 → p < 8 → ∀ i, i < t.lanes → (u.getP p).getLsbD i = (active q i && active q (k i)))) ∧
    one (.vcompress d a p t) (fun u => ∀ i, i < t.lanes → raw u i = if i < ls.length then laneRaw t x1 (ls.getD i 0) else raw s i) ∧
    one (.vexpand d a p t) (fun u => ∀ i, i < t.lanes → raw u i = if active q i then laneRaw t x1 ((List.range i).filter (active q)).length else raw s i) ∧
    (s.clean a → n < t.lanes → ∃ u : State, exec (.vmovgv d a n p t) s = .next u.advance ∧ u.mem = s.mem ∧ (∀ k, k ≠ d → u.getV k = s.getV k) ∧
      ∀ i, i < t.lanes → raw u i = if i = n ∧ active q i = true then laneBitsOf t ((s.ival a).toNat % 2 ^ t.width) else raw s i) ∧
    (s.clean a → ∃ u : State, exec (.vsplat d a p t) s = .next u.advance ∧ TakesLanes s u d p t fun _ => (s.ival a).toNat % 2 ^ t.width) ∧
    (∀ g, g < 64 → g ≠ 0 → s.src1 a (wordOfInstr (.vmovvg g a n t)) = .ok x1 → ∃ u : State, exec (.vmovvg g a n t) s = .next u.advance ∧
      u.getG g = word (if t.signed then BitVec.ofInt 64 (sext (laneGet t x1 n) t.width) else BitVec.ofNat 64 (laneGet t x1 n)) ∧
      (∀ k, u.getV k = s.getV k) ∧ u.mem = s.mem)

/-- Reductions leave their result in lane 0 (R142, R160, R161). Each reduction leaves in lane 0 of vd, whatever the predicate, the value of its tree or sequence over the active lanes, or the value R160 gives for none, and every other lane and register as it was. -/
def Obligations.VectorReductions : Prop :=
  ∀ (s : State) (d a p : Nat) (t : VType) (x1 : BitVec 1024), d < 32 →
    let gives := fun (x : Instr) (r : Option Nat) (empty : Nat) => s.src1 a (wordOfInstr x) = .ok x1 → ∃ u : State, exec x s = .next u.advance ∧
      laneRaw t (u.getV d) 0 = laneBitsOf t (r.getD empty) ∧ (∀ i, 0 < i → i < t.lanes → laneRaw t (u.getV d) i = laneRaw t (s.getV d) i) ∧
      (∀ k, k ≠ d → u.getV k = s.getV k) ∧ (∀ n, u.getP n = s.getP n) ∧ u.mem = s.mem
    gives (.vrsum d a p t) (redTree (s.redSum t) t.levels 0 (redLanes t (s.getP p) x1 true)).1 0 ∧
    gives (.vrsumo d a p t) (redSeq (s.redSum t) 0 none (redLanes t (s.getP p) x1 true)).1 0 ∧
    gives (.vrmax d a p t) (redTree (redPick t true) t.levels 0 (redLanes t (s.getP p) x1 false)).1 (redEmpty t true) ∧
    gives (.vrmin d a p t) (redTree (redPick t false) t.levels 0 (redLanes t (s.getP p) x1 false)).1 (redEmpty t false)

/-- Predicate operations, and stream registers bound and dropped (R143, R144, R147, R149, R151, R170). The predicate operations combine all 32 bits under the governing predicate: AND, OR, XOR, NOT, the count to gd, the value of a general register, and the lowest one bit alone. VQBIND with a tag of eight bits that no other register holds sets BOUND and the tag of an unbound register with an empty queue and retires; VQDROP of an unbound register has no effect, and of a bound one leaves it unbound with its queue empty. -/
def Obligations.PredicateAndStreamResults : Prop :=
  (∀ (s : State) (d a b p : Nat), let P := s.getP p; let A := s.getP a; let B := s.getP b
    exec (.vpand d a b p) s = .next (s.setP d (A &&& B &&& P)).advance ∧ exec (.vpor d a b p) s = .next (s.setP d ((A ||| B) &&& P)).advance ∧
    exec (.vpxor d a b p) s = .next (s.setP d ((A ^^^ B) &&& P)).advance ∧ exec (.vpnot d a p) s = .next (s.setP d (~~~A &&& P)).advance ∧
    exec (.vpcnt d a p) s = .next (s.setG d (word (BitVec.ofNat 64 ((List.range 32).filter fun i => (A &&& P).getLsbD i).length))).advance ∧
    (s.clean a → exec (.vpset d a p) s = .next (s.setP d ((s.ival a).truncate 32 &&& P)).advance) ∧
    ∃ q : BitVec 32, exec (.vpfirst d a p) s = .next (s.setP d q).advance ∧
      ∀ i, i < 32 → (q.getLsbD i = true ↔ (A &&& P).getLsbD i = true ∧ ∀ j, j < i → (A &&& P).getLsbD j = false)) ∧
  (∀ (s : State) (k a : Nat), k < 4 →
    (s.clean a → (s.ival a).toNat < 256 → boundTo s.cpu.csrs.vqmap ((s.ival a).truncate 8) = none → s.bound k = false →
      exec (.vqbind k a) s = .next (s.modCsr fun c => { c with
        vqmap := c.vqmap ||| BitVec.ofNat 64 (2 ^ (4 + k) + (s.ival a).toNat * 2 ^ (8 + 8 * k)) }).advance) ∧
    (s.bound k = false → exec (.vqdrop k) s = .next s.advance) ∧
    (s.bound k = true → ∃ t, exec (.vqdrop k) s = .next t ∧ t.bound k = false ∧ vget [] t.cpu.streams k = [] ∧ t.pc = s.pc4))

/-- Vector loads and stores run lane by lane (R144, R162, R163, R164, R165, R166, R167, R168). A VMEM instruction performs one lane a step: an active lane that is not done, that no lower lane left overlaps and that completes when it is tried, marked in VPROG, which one is open (log entry 7); where every ready lane waits, and none asks to turn back, it waits. Where R77's checks stop every lane that is left, the lowest of them traps with its cause, the lane's address in TVAL, or the reason of a POISON ga, and its number in TELEM, and VPROG stays as it is. With no lane left it retires with VPROG 0. The address of lane i is ADDR plus i times the width, i times the stride of gb, or the index lane of vb times the width. -/
def Obligations.VectorMemory : Prop :=
  ∀ (s : State) (d a b p : Nat) (t : VType) (x1 : BitVec 1024),
    let w : Int := laneBytes t; let B := (s.ival b).toInt
    let runs := fun (x : Instr) (fs : List Nat) (off : Nat → Int) (need : Perm) (lane : Nat → Nat → State → State × Out Unit) =>
      let ea := fun i => s.laneEa a (off i)
      (∀ j rest r, s.lanesLeft p t = j :: rest → (∀ i ∈ s.lanesLeft p t, ∃ y, s.accessTraps a (ea i) (laneBytes t) need y) →
        s.accessTraps a (ea j) (laneBytes t) need r → let u := s.takeTrap ⟨r.cause, if r.cause = 6 then r.tval else ea j, j⟩
        exec x s = .next u ∧ (s.takesTraps → u.cpu.csrs.vprog = s.cpu.csrs.vprog ∧ u.cpu.csrs.vprogH = s.cpu.csrs.vprogH ∧ u.cpu.regs = s.cpu.regs)) ∧
      (s.lanesLeft p t = [] → exec x s = .next ((s.popStreams fs).setVprog 0).advance) ∧
      (s.lanesReady p t ea ≠ [] → (∀ i ∈ s.lanesReady p t ea, ∃ u, lane (ea i) i s.drawFree.2 = (u, .ok ())) →
        ∃ i u, i ∈ s.lanesReady p t ea ∧ lane (ea i) i s.drawFree.2 = (u, .ok ()) ∧
          exec x s = .next ((u.setVprog (u.vprog ||| BitVec.ofNat 64 (2 ^ i))).modCpu fun c => { c with stalled := false })) ∧
      (s.lanesLeft p t ≠ [] → (∀ i ∈ s.lanesReady p t ea, (lane (ea i) i s.drawFree.2).2 = .wait ∧ (lane (ea i) i s.drawFree.2).1.turnsBack = false) → exec x s = .next s.stall)
    let load := fun (e i : Nat) (v : State) => v.loadLane d a t e i
    let store := fun (e i : Nat) (v : State) => v.storeLane d a t e i
    runs (.vld d a p t) [] (fun i => i * w) .r load ∧ runs (.vst d a p t) [] (fun i => i * w) .w store ∧
    (s.clean b → runs (.vlds d a b p t) [] (fun i => i * B) .r load ∧ runs (.vsts d a b p t) [] (fun i => i * B) .w store) ∧
    (d ≠ b → s.src1 b (wordOfInstr (.vgather d a b p t)) = .ok x1 → runs (.vgather d a b p t) [b] (fun i => indexOf x1 i * w) .r load) ∧
    (s.src1 b (wordOfInstr (.vscatter d a b p t)) = .ok x1 → runs (.vscatter d a b p t) [b] (fun i => indexOf x1 i * w) .w store)

/-- What vector loads and stores leave alone (R89, R162, R163, R164, R165). Where a trap does not escalate, VLD, VLDS and VGATHER change no byte of memory, no general or predicate register and no vector register but vd; and VST, VSTS and VSCATTER no register, whether they retire, wait or trap at a lane, and no byte of memory outside the places of the active lanes not yet done. A step that marks lane i done changes none outside the bytes of lane i. -/
def Obligations.VectorMemoryFrame : Prop :=
  ∀ (s t : State) (d a b p : Nat) (ty : VType) (x : Instr), s.takesTraps → exec x s = .next t →
    (x ∈ [Instr.vld d a p ty, .vlds d a b p ty, .vgather d a b p ty] →
      KeepsBytes s t ∧ t.cpu.regs.g = s.cpu.regs.g ∧ t.cpu.regs.p = s.cpu.regs.p ∧ ∀ n, n ≠ d → t.getV n = s.getV n) ∧
    (x ∈ [Instr.vst d a p ty, .vsts d a b p ty, .vscatter d a b p ty] → t.cpu.regs = s.cpu.regs) ∧
    ∀ off : Nat → Int,
      (x = .vst d a p ty ∧ off = (fun i : Nat => (i : Int) * laneBytes ty) ∨ x = .vsts d a b p ty ∧ off = (fun i : Nat => (i : Int) * (s.ival b).toInt) ∨
        x = .vscatter d a b p ty ∧ ∀ x1, s.src1 b (wordOfInstr x) = .ok x1 → off = fun i => indexOf x1 i * laneBytes ty) →
      let place := fun i => s.locate s.cpu.core s.cpu.launch (s.dataTlb s.cpu.core) (s.laneEa a (off i))
      (∀ k, (∀ i ∈ s.lanesLeft p ty, ∀ loc, place i = .ok loc → k < loc.key ∨ loc.key + laneBytes ty ≤ k) → t.mem.byte k = s.mem.byte k) ∧
      (∀ i ∈ s.lanesLeft p ty, t.vprog = s.vprog ||| BitVec.ofNat 64 (2 ^ i) → ∀ loc, place i = .ok loc → KeepsBytesBut s t loc.key (laneBytes ty))

/-- One step of a repeat frame is one element (R53, R54, R55, R56, R99). With its words captured, now or at its start, a frame performs the element that REPPROG names, captured word j stepped for iteration k, and leaves REPPROG at the next one and the words as captured; after the last element it retires past its captured words with REPPROG 0. -/
def Obligations.RepeatFrames : Prop :=
  ∀ (s u t : State) (c n x y z k j w : Nat) (ws : List Nat) (i : Instr) (f : State → Out State),
    s.repPos = (k, j) → k < n → j < c → s.frameWords c = (u, .ok ws) → ws[j]? = some w → stepWord k x y z w = some i →
    effOf i = some f → f ((u.setRepprog (repAt k j)).modCpu fun q => { q with frame := some ws }) = .ok t →
    let go := t.modCpu fun q => { q with stalled := false }
    (j + 1 < c → exec (.rep c n x y z) s = .next (go.setRepprog (repAt k (j + 1)))) ∧
    (j + 1 = c → k + 1 < n → exec (.rep c n x y z) s = .next (go.setRepprog (repAt (k + 1) 0))) ∧
    (j + 1 = c → k + 1 = n → exec (.rep c n x y z) s =
      .next (((go.modCpu fun q => { q with frame := none }).setRepprog 0).setPc ((s.pc + 4 * (c + 1)) % 2 ^ 52)))

/-- Fetching, interrupts, waking, switching, budgets, deadlines and the lull (R95, R110, R125, R137, R140, R210, R225, R265, R269, R271, R272, R356). A fetch that finds its word changes no register; a due timer or pre-emption interrupt and a due user-level handler are entered, on a context that issues instructions, when nothing that comes first is pending, the handler's address with its low two bits dropped (log entry 79, the model's choice); a lock held for 4,096 cycles is lost; a parked context whose wait's event has come becomes ready; a request is served at an application boundary; the budget, deadline, reserve and lull events do what their rules say. That a launch's end removes all its contexts in one step is the model's choice (log entry 39). -/
def Obligations.SchedulingEvents : Prop :=
  (∀ (s t : State) (w : Nat), s.fetchAt s.pc = (t, .ok w) → exec .instructionFetch s = .next t ∧ t.cpu = s.cpu) ∧
  (∀ s : State, s.cpu.csrs.tcmp ≠ BitVec.allOnes 64 → s.cpu.csrs.tcmp.toNat ≤ s.dtime → s.live = true → s.takesTraps → s.beforeTimer = true →
    ∃ t, exec .timerInterrupt s = .next t ∧ t.cpu.csrs.tcause = BitVec.ofNat 64 (2 ^ 63 + 2) ∧ t.cpu.csrs.tpc = BitVec.ofNat 64 s.pc ∧
      t.cpu.level = .runtime ∧ t.cpu.regs = s.cpu.regs ∧ t.mem = s.mem) ∧
  (∀ s : State, s.live = true → s.asks CoreSt.preReq = true → s.cpu.level = .runtime → tstatIE s.cpu.csrs.tstat = true → s.firstInLine s.cpu = true →
    ∃ t, exec .preemptInterrupt s = .next t ∧ t.cpu.csrs.tcause = BitVec.ofNat 64 (2 ^ 63 + 1) ∧ t.cpu.csrs.tpc = BitVec.ofNat 64 s.pc ∧
      t.cpu.level = .runtime ∧ (t.core s.cpu.core).preReq = false ∧ t.cpu.regs = s.cpu.regs ∧ t.mem = s.mem) ∧
  (∀ s : State, s.live = true → s.cpu.level = .app → s.cpu.uien = true → s.cpu.inbox ≠ [] → s.cpu.handler = false → s.beforeTimer = true → s.timerDue = false →
    ∃ t, exec .uiEntry s = .next t ∧ t.cpu.handler = true ∧ t.pc = s.cpu.csrs.uivec.toNat % 2 ^ 52 / 4 * 4 ∧
      vget GReg.zero t.cpu.regs.gh 7 = s.pccAt s.pc ∧ t.cpu.regs.g = s.cpu.regs.g ∧ t.cpu.inbox = s.cpu.inbox ∧ t.mem = s.mem) ∧
  (∀ (s : State) (core o since : Nat), (s.core core).lock = some (o, since) → since + 40960 ≤ s.clk →
    ∃ t, exec (.lockLoss core) s = .next t ∧ (t.core core).lock = none ∧ t.cpu = s.cpu ∧ t.mem = s.mem) ∧
  (∀ (s : State) (core launch : Nat) (c : Ctx) (w : WaitIn), s.ctxOf core launch = some c → c.run = .parked w →
    (s.focus c).awake.wakeDue w = true → exec (.contextWake core launch) s = .next (s.makeReady core launch)) ∧
  (∀ (s : State) (core : Nat) (c : Ctx), (s.ctxs.find? fun c => c.core == core && c.run == .running && c.launch.isSome) = some c →
    (s.core core).preReq = true → c.level = .app → c.pair.held = [] → c.pair.count = 0 → s.firstInLine c = true → (s.tile (core / 16)).st.refuses = false →
    exec (.contextSwitch core) s = .next (s.asCtx c State.preempt)) ∧
  (∀ (s : State) (core n : Nat) (c : Ctx) (l : Launch), (s.ctxs.find? fun c => c.core == core && c.launch.isSome && c.lease == 0 && (c.run.onCore || c.atGate)) = some c →
    c.launch = some n → s.launch? n = some l → l.pool = 0 → l.unlimited = false → l.live = true → (c.due.any fun d => d.1 == 14) = false → (s.tile (core / 16)).st.refuses = false →
    let u := s.updCtx core n fun c => { c with due := c.due ++ [(14, 0, 0)] };
    (l.pkt.ovr = 0 → exec (.budgetExhausted core) s = .next (u.endLaunch n 1 0 0)) ∧
    (l.pkt.ovr = 1 → exec (.budgetExhausted core) s = .next (u.overDemote n l)) ∧
    (l.pkt.ovr = 2 → l.pkt.budget ≠ 0 → 0 < s.reserveLeft l.pkt.handle →
      ∃ t, exec (.budgetExhausted core) s = .next t ∧
        t.launch? n = some { l with pool := Nat.min (l.pkt.budget * 1024) (s.reserveLeft l.pkt.handle) } ∧
        t.reserveLeft l.pkt.handle = s.reserveLeft l.pkt.handle - Nat.min (l.pkt.budget * 1024) (s.reserveLeft l.pkt.handle))) ∧
  (∀ (s : State) (n : Nat) (l : Launch), s.launch? n = some l → l.live = true → l.missed = false → l.demoted = false → l.deadline < s.dtime →
    (l.tiles.any fun t => (s.tile t).st.refuses) = false →
    let u := (s.updLaunch n fun l => { l with missed := true }).frontRecord l.pkt.queue 4 4 l.pkt.pid 0 0 (if l.recovered then 1 else 0);
    (l.pkt.dlab = true → exec (.deadlineMiss n) s = .next (u.endLaunch n 2 0 0)) ∧
    (l.pkt.dlab = false → exec (.deadlineMiss n) s = .next ((u.demote n).trapLaunch n 15))) ∧
  (∀ s : State, s.dtime % 2 ^ 20 = 0 → ∃ t, exec .reserveRefill s = .next t ∧ t.cpu = s.cpu ∧ t.mem = s.mem ∧
    t.front.parts = s.front.parts.map fun p => (p.1, { p.2 with left := p.2.reserve.toNat * 1024 })) ∧
  (∀ (s : State) (n : Nat) (l : Launch), s.launch? n = some l → l.st = .running → (∀ t ∈ l.tiles, (s.tile t).st.refuses = false ∧ (s.tile t).owed.elem n = false) →
    let cs := s.ctxs.filter fun c => c.launch == some n;
    ((∀ c ∈ cs, c.idleSince = true ∧ s.idle c = true) → l.shares = [] → (cs.map Ctx.sent).sum = (cs.map Ctx.rcvd).sum →
      l.wave = some ((cs.map Ctx.sent).sum, (cs.map Ctx.rcvd).sum) → exec (.lullWave n) s = .next (s.endLaunch n 0 0 0)) ∧
    (l.wave = none → ∃ t, exec (.lullWave n) s = .next t ∧
      t.launch? n = some { l with wave := some ((cs.map Ctx.sent).sum, (cs.map Ctx.rcvd).sum) } ∧ t.mem = s.mem))

/-- Firing, stealing, sharing and the sweep of a barrier (R211, R212, R213, R214, R215, R216, R217, R218, R221, R222, R339, R340). A firing entry is pushed and freed; a probe of the victim that is next in the round grants what R212 takes to the thief, and the grant is pushed on arrival; a die agent moves an entry to an idle die whose contexts are all there; a waiting share is pushed into the lowest-named context of its die once that is there and the links between the agents are UP, and one for a die that no UP link leads to is dropped and counted; a tile's node forwards toward its corner what it has gathered, or drops and counts it at such a seam; a release reaches a tile over the tiles before it on the way from the corner, and raises the phase. The determinants and the numbering of steals and barriers, and that they happen in one step, are the model's choice (log entries 77 and 96), as are the victim that an agent takes among equals (log entry 29). -/
def Obligations.TaskEvents : Prop :=
  ∀ (s : State) (launch : Nat),
    (∀ (core n : Nat) (c : Ctx) (x : Task), s.ctxOf core launch = some c → vget .free c.task.trig n = .firing x → c.task.full = false →
      (s.tile (core / 16)).st.refuses = false → exec (.firingPush core launch n) s =
        .next ((s.updTask core launch fun t => { (t.push x) with trig := vset t.trig n .free }).spillFor c)) ∧
    (∀ (thief victim : Nat) (a b : Ctx) (x : Task) (q : TaskSt), s.ctxOf thief launch = some a → s.ctxOf victim launch = some b → a.thief = true →
      (s.ctxs.any fun c => c.core == thief && c.launch != some launch && c.run.onCore) = false → s.mayTrade thief victim = true →
      s.probeNext launch a victim = true → b.task.steal = some (x, q) →
      let u := s.updTask thief launch fun t => if victim / 16 = thief / 16 then { t with probed := victim } else { t with probedFar := victim }
      exec (.stealProbe thief victim launch) s =
        .next (((u.stealFrom launch b q).updTask thief launch fun t => { t with grant := some x }).noteSteal launch thief victim x)) ∧
    (∀ (core : Nat) (c : Ctx) (x : Task), s.ctxOf core launch = some c → c.task.grant = some x → c.task.full = false →
      (s.tile (core / 16)).st.refuses = false →
      exec (.stealGrant core launch) s = .next ((s.updTask core launch fun t => { (t.push x) with grant := none }).spillFor c)) ∧
    (∀ (die : Nat) (c : Ctx) (rest : List Ctx) (l : Launch), s.launch? launch = some l → (s.dieTiles l die).all (s.tileWhole launch) = true →
      s.dieCtxs launch die = c :: rest →
      (∀ y ∈ c :: rest, y.thief = true ∧ s.atRest y = true ∧ y.task.steal = none) → s.agentVictims launch die ≠ [] →
      (∀ v ∈ s.agentVictims launch die, v.task.steal.isSome = true ∧ s.mayTrade c.core v.core = true) →
      ∃ v ∈ s.agentVictims launch die, ∃ x q, v.task.steal = some (x, q) ∧ exec (.dieAgentSteal launch die) s =
        .next (((s.drawFree.2.stealFrom launch v q).updTask c.core launch fun t => t.push x).noteSteal launch c.core v.core x)) ∧
    (∀ (n : Nat) (l : Launch) (x : Share), s.launch? launch = some l → l.shares[n]? = some x →
      (s.cut x.src x.die = true → exec (.sharePush launch n) s =
        .next ((s.count 2).updLaunch launch fun l => { l with shares := l.shares.eraseIdx n })) ∧
      (∀ c rest, s.cut x.src x.die = false → s.dieCtxs launch x.die = c :: rest → c.task.full = false → s.lowestThere launch x.die = true →
        s.linksBusy (s.agentLinks x.src x.die) 0 = false →
        exec (.sharePush launch n) s = .next ((((s.updTask c.core launch fun t => t.push x.task).spillFor c).noteDet (c.core / 16)
          (.value (c.core % 16) x.task.bytes)).updLaunch launch fun l => { l with shares := l.shares.eraseIdx n }))) ∧
    (∀ (tile : Nat) (l : Launch), s.launch? launch = some l →
      let is := (s.instances launch).filter fun i => s.gathered launch l tile i.1 i.2
      ∃ t k, exec (.barrierArrival launch tile) s = .next t ∧ t.cpu = s.cpu ∧ t.mem = s.mem ∧ t.launch? launch = some k ∧
        (is = [] → k.sweep = l.sweep) ∧ (∀ m ∈ l.sweep, m ∈ k.sweep) ∧
        (∀ i ∈ is, towardCorner (BitVec.ofNat 64 i.1) tile = none → (⟨i.1, i.2, tile, .forwarded⟩ : SweepMark) ∈ k.sweep) ∧
        (∀ i u, is = [i] → towardCorner (BitVec.ofNat 64 i.1) tile = some u → k.sweep = l.sweep ++
          (if s.cutTiles tile u = true then [⟨i.1, i.2, tile, .dropped⟩] else if s.wayClear tile u 0 = true then [⟨i.1, i.2, tile, .forwarded⟩] else []))) ∧
    (∀ (core : Nat) (c : Ctx) (l : Launch), s.ctxOf core launch = some c → s.launch? launch = some l → c.bar.arr = .arrived →
      let d := c.csrs.domain; let phase := c.bar.phase.toNat; let path := releasePath d (core / 16); let way := s.releaseTo launch d.toNat phase (core / 16)
      (core / 16 = domOrigin d → way.2 = true) ∧
      (path = [core / 16] → s.cutTiles (domOrigin d) (core / 16) = false → s.wayClear (domOrigin d) (core / 16) 0 = true → l.sweep = [] → way.2 = true) ∧
      (l.swept d.toNat phase (core / 16) .released = false → way.2 = true → ∀ v ∈ path, ∃ k, way.1.launch? launch = some k ∧ k.swept d.toNat phase v .released = true) ∧
      (l.swept d.toNat phase (domOrigin d) .forwarded = true → s.refusing (domOrigin d) = false → s.refusing (core / 16) = false → way.2 = true →
        ∃ t, exec (.barrierRelease core launch) s = .next t ∧ t.mem = s.mem ∧
          t.ctxs = (s.updCtx core launch fun c => { c with bar := { c.bar with phase := c.bar.phase + 1, arr := .released } }).ctxs))

/-- Messages arrive, and links carry their flits (R103, R108, R120, R148, R186, R337, R338, R339, R341, R343, R386, R388). A message that has crossed its links is performed at its home; a response is written and an acknowledgement received; a message that was refused, turned away or lost is sent again; links accept, refuse, acknowledge and resend flits, spare a lane, train and go DOWN; pairings are made and end; a bad mesh word poisons what it carries. The link that takes the flits of one that goes DOWN and what counter 8 counts (log entry 40), the resend of a message lost on the mesh (log entry 41) and what a bad word makes of each kind of message (log entry 26) are the model's choice. -/
def Obligations.NetworkEvents : Prop :=
  ∀ (s : State) (n : Nat),
    (∀ m : Msg, s.msg? n = some m → s.crossing n = false →
      ((∀ c g e a b i, m.kind ≠ .stream c g e a b i) → (∀ c h, m.kind ≠ .chunk c h) → exec (.messageArrival n) s = .next (s.reach n)) ∧
      (∀ c g e a b i, m.kind = .stream c g e a b i → exec (.streamEntryArrival n) s = .next (s.reach n)) ∧
      (m.st ≠ .performed → m.st ≠ .lost → m.st ≠ .held → s.senderStopped m = false → ∀ c v, m.kind = .send c v → s.heldUp m (.tile (c / 16)) = false →
        s.absent m.core m.launch (.tile (c / 16)) = false → s.refusing (c / 16) = false →
        m.seq = (s.channel (m.core / 16) m.chan).accepted + 1 → ∀ u, (s.notePort m (.tile (c / 16))).placeSend c m.launch v m.core = some u →
        ∃ t, exec (.messageArrival n) s = .next t ∧ (t.channel (m.core / 16) m.chan).accepted = m.seq ∧ ∀ y, t.msg? n = some y → y.st = .performed)) ∧
    (∀ (m : Msg) (v : GReg), s.msg? n = some m → m.kind = .resp v → m.st = .sent → s.crossing n = false → s.senderStopped m = false → s.cpu.core = m.core → s.cpu.launch = m.launch →
      s.cpu.csrs.pairctl = 0 → ∀ d, d < 64 → d ≠ 0 → s.cpu.regs.pend.find? (fun p => p.2 == n) = some (d, n) →
      ∃ t, exec (.responseArrival n) s = .next t ∧ vget GReg.zero t.cpu.regs.g d = v ∧ t.msg? n = none ∧ t.mem = s.mem ∧
        (∀ k, k ≠ d → vget GReg.zero t.cpu.regs.g k = vget GReg.zero s.cpu.regs.g k) ∧ t.cpu.regs.pend = s.cpu.regs.pend.filter fun q => q.2 != n) ∧
    (∀ m : Msg, s.msg? n = some m → m.st = .performed → s.senderStopped m = false →
      ∃ t, exec (.writeAcknowledgement n) s = .next t ∧ t.msg? n = none ∧ t.cpu = s.cpu ∧ t.mem = s.mem) ∧
    (∀ m : Msg, s.msg? n = some m → (m.st = .refused ∨ m.st = .turned ∨ m.st = .lost) → ∃ t, exec (.refusedMessageResend n) s = .next t ∧ t.msg? n = some { m with st := .sent } ∧
      t.cpu = s.cpu ∧ t.mem = s.mem) ∧
    (∀ (c : Nat) (m : Msg), (s.net.find? fun m => m.waiting && match m.kind with | .chunk k _ => k == c | _ => false) = some m →
      exec (.latchChunkArrival c) s = .next (s.arrive m.id)) ∧
    (let l := s.link n; let st := s.linkSt n; let u := s.setLink { l with nack := false }; let b := u.link (linkBase n)
      (∀ f, (l.buffer.take replaySize)[l.arrived]? = some f → (st = .up ∨ st = .replay) → l.nack = false →
        exec (.flitArrival n true) s = .next ((s.setLink { l with expect := l.expect + 1, fails := 0 }).forward f) ∧
        exec (.flitArrival n false) s = .next ((s.setLink { l with nack := true, fails := l.fails + 1 }).setLinkSt n .replay)) ∧
      (∀ k, 0 < k → k ≤ l.arrived → st = .up → exec (.flitAcknowledgement n k) s = .next (s.setLink { l with buffer := l.buffer.drop k })) ∧
      (∀ one, st = .replay → l.nack = true →
        (l.fails < 8 → exec (.negativeAcknowledgement n one) s = .next u) ∧
        (8 ≤ l.fails → one = true → b.spareUsed = false →
          exec (.negativeAcknowledgement n one) s = .next (u.setLink { b with st := .spare, spareUsed := true })) ∧
        (8 ≤ l.fails → (one = false ∨ b.spareUsed = true) → exec (.negativeAcknowledgement n one) s = .next (u.train (linkBase n)))) ∧
      (l.st = .spare → exec (.laneSparingDone n) s = .next (((s.setLink { l with st := .up, fails := 0 }).resetFails n).count 8)) ∧
      (∀ k, l.st = .retrain → 4 ≤ k → (504 ≤ n → ∃ key, l.farId = some key ∧ s.identityOk (n - 504) key = true) →
        ∃ t, exec (.linkTrained n k) s = .next t ∧ t.link n = { l with st := .up, lanes := Nat.min k 8, fails := 0 } ∧ t.mem = s.mem ∧ t.cpu = s.cpu) ∧
      (l.st = .retrain → exec (.trainingTimeout n) s = .next ((s.count 8).train n))) ∧
    (n < 32 → let l := s.link (504 + n); let w := s.peerOf n;
      (l.st ≠ .down → exec (.lossOfSignal n) s = .next (s.linkDown (504 + n))) ∧
      (∀ key, s.portTrains n = true → (s.recentAttempts l).length < 2 → afind s.dev.cfg.peerid w = some key →
        ∃ t, exec (.galePortTrained n key) s = .next t ∧ (t.link (504 + n)).st = .up ∧ (t.link (504 + n)).buffer = [] ∧ t.mem = s.mem) ∧
      (∀ key, l.st = .retrain → exec (.galePortTrained n key) s = .next (s.setLink { l with farId := some key }))) ∧
    (∀ (w : Nat) (ts : List Nat) (l : Launch), s.launch? n = some l →
      (l.live = true → l.pairing w = none → w ∉ l.unpaired → s.peerPresent w = true →
        ∃ t, exec (.pairingExchange n w ts) s = .next t ∧ t.mem = s.mem ∧ t.launch? n = some { l with paired := l.paired ++
          [⟨w, (s.bundle w).filter fun p => (s.link (504 + p)).st != .down, ts⟩] }) ∧
      ((l.pairing w).isSome = true → exec (.pairedLaunchEnd n w) s = .next (s.landed.updLaunch n fun l =>
        { l with paired := l.paired.filter fun p => p.wafer != w, unpaired := l.unpaired ++ [w] }))) ∧
    (∀ k, exec (.meshFlitArrival (.message n k) .badWord) s = .next (s.poisonWord n k)) ∧
    exec (.meshFlitArrival (.reply n) .badWord) s = .next (s.updCore n fun c => { c with meshBad := true }) ∧
    (∀ f, exec (.meshFlitArrival f .correctable) s = .next s) ∧
    (∀ m k, s.msg? n = some m → m.st ≠ .performed → m.st ≠ .held → exec (.meshFlitArrival (.message n k) .badHeader) s =
      .next ((s.updMsg n fun y => { y with st := .lost }).badHeader m.toTile))

/-- Engine commands start, run element by element and complete (R171, R172, R173, R174, R175, R176, R183, R185, R187, R189, R197, R198). At the head of its engine's queue a command whose checks pass, behind no access that precedes its PUSH, starts at element 0, with what its checks read; each element leaves what its command's rule says and counts; an active command that is over, with its writes performed, leaves its engine and enters its completion message; a pending write-back writes one of its rows that is left, which one is open (log entry 13, the model's choice), and the last row ends it; ACCZ with a well-formed header starts and its element zeroes an accumulator. -/
def Obligations.EngineEvents : Prop :=
  (∀ (s u : State) (core : Nat) (c : Ctx) (cmd x : Cmd) (rest : List Cmd), s.engCtx core = some c → cmd.started = false → cmd.ended = none → s.beforePush c cmd = false →
    let starts := fun (i : Instr) (e : Eng) (opc : Nat) (chk : State → Ctx → Cmd → State × EOut Cmd) =>
      (c.eng.get e).cmds = cmd :: rest → cmd.opc = opc → chk s c cmd = (u, .ok x) →
        exec i s = .next (u.updHead c e fun _ => { x with started := true, elem := 0, ahead := [] })
    starts (.mma core) .me 1 startMma ∧ starts (.mmr core) .me 2 startMmr ∧ starts (.accz core) .me 3 startAccz ∧
    starts (.accld core) .me 4 startAccld ∧ starts (.accst core) .me 5 startAccst ∧ starts (.cpy core) .ce 1 startCpy ∧
    starts (.cpy2 core) .ce 2 startCpy2 ∧ starts (.deal core) .ce 3 startDeal ∧ starts (.xpose core) .ce 4 startXpose ∧
    starts (.agset core) .ca 1 startAgset ∧ starts (.mldred core) .ca 2 startMldred ∧ starts (.mstore core) .ca 3 startMstore ∧
    starts (.agstat core) .ca 4 startAgstat) ∧
  (∀ (s u : State) (core : Nat) (e : Eng) (c : Ctx) (cmd x : Cmd) (rest : List Cmd), s.engCtx core = some c → (c.eng.get e).cmds = cmd :: rest →
    cmd.started = true → cmd.over = false → cmd.out = [] →
    let after := fun v : State => (.next (if e = .me then v.bufferNext core else v) : Res)
    (elementOf e cmd.opc s c cmd = (u, .ok x) → exec (.engineElement core e) s = after ((u.updHead c e fun _ => x).readAhead c e)) ∧
    (∀ st info addr off, elementOf e cmd.opc s c cmd = (u, .stop st info addr off) →
      exec (.engineElement core e) s = after ((u.engWalked c st info addr).updHead c e fun y => { y with ended := some ⟨st, y.elem + off, info, addr⟩ }))) ∧
  (∀ (s : State) (core : Nat) (e : Eng) (cmd : Cmd) (rest : List Cmd), s.engCtx core = some s.cpu → (s.cpu.eng.get e).cmds = cmd :: rest →
    cmd.over = true → cmd.wb = [] → cmd.out = [] → s.net = [] →
    ∃ t, exec (.completionMessage core e) s = .next t ∧ (t.cpu.eng.get e).cmds = rest ∧ t.mem = s.mem ∧ t.cpu.regs = s.cpu.regs ∧
      t.cpu.inbox = s.cpu.inbox ++ [{ val := cmd.message e, source := core, done := some e, cmd := cmd.num }]) ∧
  (∀ (s : State) (core : Nat) (x : Ctx) (c : Cmd) (rest : List Cmd) (w : Nat × List Nat) (wb : List (Nat × List Nat)), s.engCtx core = some x →
    x.eng.me.cmds = c :: rest → c.wb = w :: wb → c.rowsLeft w ≠ [] → let row := fun r => s.drawFree.2.writeBackRow core x c w.1 r
    (∀ r ∈ c.rowsLeft w, ∃ v fl, row r = (v, .ok fl)) →
    ∃ r ∈ c.rowsLeft w, ∃ v fl, row r = (v, .ok fl) ∧ exec (.mmrWriteBack core) s = .next (v.updHead x .me fun y =>
      { y with flags := y.flags ||| fl, wb := if (c.rowsLeft w).length ≤ 1 then wb else (w.1, r :: w.2) :: wb })) ∧
  (∀ (s : State) (core : Nat) (c : Ctx) (cmd : Cmd) (rest : List Cmd), s.engCtx core = some c → c.eng.me.cmds = cmd :: rest → cmd.opc = 3 →
    (cmd.started = false → cmd.ended = none → cmd.rmCode = 0 → cmd.sat = false → cmd.accb = 0 → cmd.spec = false → cmd.shapeBits 47 3 = 0 →
      cmd.acca + cmd.accs ≤ (s.accn c).1 → (s.accn c).1 ≤ 8 → cmd.slot1 = GReg.zero → cmd.slot2 = GReg.zero → cmd.par = 0 → s.beforePush c cmd = false →
      exec (.accz core) s = .next (s.updHead c .me fun _ => { cmd with total := cmd.accs, started := true, elem := 0, ahead := [] })) ∧
    (cmd.started = true → cmd.over = false → cmd.out = [] → c = s.cpu → ∃ t, exec (.engineElement core .me) s = .next t ∧ t.mem = s.mem ∧ t.cpu.regs = s.cpu.regs ∧
      t.cpu.eng.me.cmds.head? = some { cmd with elem := cmd.elem + 1 } ∧ (rest = [] → t.cpu.eng.me.cmds.length = 1) ∧
      (cmd.acca + cmd.elem < 8 → cmd.spec = false → ∀ row, row < 32 → t.cpu.eng.accRow 0 (cmd.acca + cmd.elem) row = 0)))

/-- Intervals, detection and the steps of a recovery (R363, R366, R377, R381, R384, R394, R396, R397, R398, R399, R400, R403). A due interval ends and its generation commits; the watchdog, a snapshot that takes too long and a hot tile are detected, and a hot physical tile that serves none stays out of service; a tile that fails unprotected is lost; the steps of a recovery follow one another from fence to run; a rollback goes back to its region's start; a pair's matching fingerprints release its stores; a planned migration takes the tile's snapshot and reserves its spare, commits, and flips to it, its memory restored there from the store. That the restore puts the committed generation in force and the replay the state at the fence (log entry 10), is the model's choice. -/
def Obligations.RecoveryEvents : Prop :=
  ∀ (s : State) (tile : Nat), let x := s.tile tile;
    (x.st = .run → x.committing = none → s.intervalDue tile = true → s.stopWaits tile = false → s.pairOpen tile = none → exec (.intervalEnd tile) s = .next (s.endInterval tile)) ∧
    (∀ g, x.st = .run → x.committing = some g → exec (.checkpointCommit tile) s = .next (s.commitTile tile g)) ∧
    (∀ d, x.st = .run → x.committing = none → s.intervalDue tile = true → x.dueSince = some d → d + 10240 ≤ s.clk → ∃ t, exec (.snapshotTimeout tile) s = .next t ∧ (t.tile tile).st = .fence ∧ t.mem = s.mem) ∧
    (x.st = .run → 2 ^ 24 ≤ x.watchdog → (∀ d, x.lastWatch = some d → d + 1000000000 ≤ s.dtime) →
      ∃ t, exec (.watchdogFire tile) s = .next t ∧ (t.tile tile).st = .fence ∧ (t.tile tile).lastWatch = some s.dtime ∧ t.mem = s.mem) ∧
    (∀ p since, (p, since) ∈ s.fabric.hot → since + 1000000 ≤ s.dtime → (∀ h ∈ s.fabric.hot, h.1 ≠ p → s.dtime < h.2 + 1000000) → p ∉ s.fabric.retired →
      (x.st = .run → p = x.phys → ∃ t, exec (.overtemperature tile) s = .next t ∧ (t.tile tile).st = .fence ∧ p ∈ t.fabric.retired ∧ t.mem = s.mem) ∧
      (p ≠ x.phys → s.boundAt p = none → (∀ y ∈ s.tiles, ∀ c, y.2.chosen = some c → c.1 ≠ p) →
        ∃ t, exec (.overtemperature tile) s = .next t ∧ t.tiles = s.tiles ∧ p ∈ t.fabric.retired ∧ t.mem = s.mem)) ∧
    (x.st = .fence → x.safe = false → x.fenced = none → ∃ t, exec (.lehrFence tile) s = .next t ∧ (t.tile tile).st = .lost) ∧
    (x.st = .fence → x.safe = true → x.store ≠ x.phys → s.rawLosses tile = [] → (∀ y ∈ s.tiles, if y.1 = tile then y.2 = x else y.2.st.refuses = false) → ∃ t, exec (.lehrFence tile) s = .next t ∧ (t.tile tile).st = .choose ∧ (t.tile tile).committing = none ∧
      (t.tile tile).fenced.isSome = true ∧ t.mem = s.mem ∧ ∀ i, i < 16 → (t.core (tile * 16 + i)).lock = none) ∧
    (∀ c, x.st = .choose → s.spareFor tile = some c →
      exec (.lehrChoose tile) s = .next (s.updTile tile fun x => { x with chosen := some c, st := .restore })) ∧
    (∀ c, x.st = .choose → s.spareFor tile = none → s.hostFor tile = some c →
      exec (.lehrChoose tile) s = .next (s.updTile tile fun x => { x with chosen := some c, st := .restore })) ∧
    (x.st = .restore → ∃ t, exec (.lehrRestore tile) s = .next t ∧ (t.tile tile).st = .flip ∧ tile ∈ t.fabric.flips ∧
      t.mem = s.mem.restoreTile tile (x.committed.getD Snap.boot)) ∧
    (∀ c, x.st = .flip → s.fabric.flips.head? = some tile → x.chosen = some c →
      ∃ t, exec (.rebindingFlip tile) s = .next t ∧ (t.tile tile).st = .replay ∧ (t.tile tile).phys = c.1 ∧ (t.tile tile).cls = c.2.1 ∧ (x.cls ≠ 3 → c.2.1 ≠ 3 → t.mem = s.mem)) ∧
    (∀ g, x.st = .replay → x.fenced = some g → ∃ t, exec (.lehrReplay tile) s = .next t ∧ (t.tile tile).st = .resume ∧ (t.tile tile).watchdog = 0 ∧
      t.mem = s.mem.restoreTile tile g) ∧
    (x.st = .resume → x.owed = [] → s.mem.bad = [] → s.mem.soft = [] → s.pairOpen tile = none →
      (∀ c ∈ s.ctxs, (s.tile (c.core / 16)).phys = x.phys → c.run ≠ .ready) → ∃ t, exec (.lehrResume tile) s = .next t ∧ (t.tile tile).st = .run ∧ (t.tile tile).fenced = none ∧
      t.mem = s.mem) ∧
    (∀ c, x.st = .run → x.committing = none → (s.twoEvents x.phys || s.longWarm x.phys) = true → s.responsesPending tile = false →
      s.stopWaits tile = false → s.pairOpen tile = none → s.spareFor tile = some c → x.seeks = false → s.mem.bad = [] → s.mem.soft = [] → ∃ t, exec (.plannedMigration tile) s = .next t ∧ (t.tile tile).chosen = some c ∧ (t.tile tile).st = .migrate ∧
        (t.tile tile).committing.isSome = true ∧ t.mem = s.mem) ∧
    (∀ g, x.st = .migrate → x.committing = some g → exec (.checkpointCommit tile) s = .next ((s.commitTile tile g).queueFlip tile)) ∧
    (∀ c, x.st = .migrate → s.fabric.flips.head? = some tile → x.chosen = some c → x.owed = [] → s.physLost x.phys = false →
      ∃ t, exec (.rebindingFlip tile) s = .next t ∧ (t.tile tile).st = .run ∧ (t.tile tile).phys = c.1 ∧ (t.tile tile).cls = c.2.1 ∧
        (∀ g, x.cls ≠ 3 → x.committed = some g → t.mem = s.mem.restoreTile tile g)) ∧
    ((s.core s.cpu.core).rollReq = true → s.asks CoreSt.haltReq = false → s.live = true → s.regionOpen = true → s.cpu.regs.pend = [] → ∃ t, exec .rollback s = .next t ∧
      t.pc = s.cpu.csrs.regpc.toNat % 2 ^ 52 / 4 * 4 ∧ (t.core s.cpu.core).rollReq = false) ∧
    (∀ (core : Nat) (a b : Ctx), s.pairCtx core = some a → s.checkerOf (core / 2 * 2) = some b → a.pair.count ≠ 0 → a.pair.crc = b.pair.crc →
      a.pair.count = b.pair.count → (s.tile (core / 16)).st.refuses = false → exec (.pairExchange core) s =
        .next ((a.pair.held.foldl (fun s h => s.releaseHeld a.core a.launch h) s).mapCtx fun c =>
          if c.core = a.core ∧ c.launch = a.launch ∨ c.core = b.core ∧ c.csrs.pairctl.getLsbD 1 = true ∧ c.launch = none
          then c.afterExchange false else c))

/-- Queues, packets and host ports (R241, R243, R246, R248, R249, R253, R260, R263, R276, R349). A packet at RIDX that passes R246 is served as its opcode says, and one that does not puts its queue in ERROR; a WAITPKT that waits keeps the packet it waits for; a COPY takes a number by which its id is kept, and one that RESUME reads again keeps its own; a packet in hand that waited goes on; QKICK takes an index in range; the QCTL commands act in the states that list them; a partition entry is written; a host port goes down and comes back. -/
def Obligations.FrontEvents : Prop :=
  ∀ (s u : State) (q : Nat) (bs : List Byte),
    ((s.queue q).reads = true → s.packetAt q = (u, 0, 0, some bs) →
      (pkt bs 0 1 = 1 → exec (.launch q) s = .next (u.serveLaunch q bs)) ∧
      (pkt bs 0 1 = 2 → u.waitCase q bs = .ended → exec (.waitpkt q) s = .next (u.consumePacket q)) ∧
      (pkt bs 0 1 = 2 → u.waitCase q bs = .wait → exec (.waitpkt q) s = .next ((u.hold q bs).updQueue q fun x => { x with awaits := x.awaits.or (u.keptFor bs) })) ∧
      (pkt bs 0 1 = 2 → u.waitCase q bs = .reject → exec (.waitpkt q) s = .next ((u.frontRecord q 3 6 (pkt bs 2 2) 0 0 0).consumePacket q)) ∧
      (pkt bs 0 1 = 3 → bit (pkt bs 1 1) 0 = false → bit (pkt bs 1 1) 1 = false →
        exec (.signal q) s = .next ((u.signalWrite (u.queue q).port (BitVec.ofNat 64 (pkt bs 8 8)) (pkt bs 16 8)).consumePacket q)) ∧
      (pkt bs 0 1 = 4 → exec (.pin q) s = .next (u.servePin q bs)) ∧
      (pkt bs 0 1 = 5 → exec (.unpin q) s = .next (u.serveUnpin q bs)) ∧
      (∀ n, pkt bs 0 1 = 6 → bit (pkt bs 1 1) 0 = false → (u.queue q).keptAgain (pkt bs 2 2) = some n → exec (.copy q) s =
        .next ((u.updQueue q fun x => { x with copies := x.copies ++ [⟨pkt bs 2 2, n, pkt bs 8 8, pkt bs 16 8, pkt bs 24 8⟩] }).consumePacket q)) ∧
      (pkt bs 0 1 = 6 → bit (pkt bs 1 1) 0 = false → (u.queue q).keptAgain (pkt bs 2 2) = none → exec (.copy q) s =
        .next (((({ u with nextId := u.nextId + 1 } : State).keep q (pkt bs 2 2) false none (some u.nextId)).updQueue q fun x =>
          { x with copies := x.copies ++ [⟨pkt bs 2 2, u.nextId, pkt bs 8 8, pkt bs 16 8, pkt bs 24 8⟩] }).consumePacket q)) ∧
      (pkt bs 0 1 = 7 → exec (.nop q) s = .next (u.consumePacket q))) ∧
    (∀ code off ob, (s.queue q).reads = true → s.packetAt q = (u, code, off, ob) → code ≠ 0 →
      ∃ t, exec (.malformedPacket q) s = .next t ∧ (t.queue q).st = .error ∧ (t.queue q).err = BitVec.ofNat 8 code ∧ (t.queue q).ridx = (u.queue q).ridx) ∧
    ((s.queue q).hand = some bs → (s.queue q).st = .running →
      (pkt bs 0 1 = 2 → exec (.packetWaitEnd q) s = .next (s.serveWait q bs)) ∧ (pkt bs 0 1 = 3 → exec (.packetWaitEnd q) s = .next (s.serveSignal q bs)) ∧
      (pkt bs 0 1 = 6 → exec (.packetWaitEnd q) s = .next (s.serveCopy q bs))) ∧
    (∀ (n : Nat) (j : CopyJob), (s.queue q).copies[n]? = some j →
      exec (.copyDone q n) s = .next ((s.updQueue q fun x => { x with copies := x.copies.eraseIdx n }).finishCopy q j)) ∧
    (q < 256 → s.dev.state = .ready → let x := s.queue q;
      (∀ k, x.st ≠ .disabled → k ≠ x.widx → (k - x.widx).toNat ≤ x.size → (k - x.ridx).toNat ≤ x.size →
        exec (.qkick q k) s = .next (s.updQueue q fun x => { x with widx := k })) ∧
      (∀ k, x.st = .disabled → x.stale ≠ 0xFFFF → exec (.qkick q k) s = .next (s.updQueue q fun x => { x with stale := x.stale + 1 })) ∧
      (x.st = .disabled → exec (.enable q) s = .next (s.updQueue q fun x =>
        { x with st := .running, widx := 0, ridx := 0, msgw := 0, msgh := 0, stale := 0, err := 0, hand := none, awaits := none, again := none })) ∧
      (x.st = .running ∨ x.st = .error → exec (.disable q) s = .next (s.updQueue q fun x => { x with st := .disabled, err := 0, hand := none, awaits := none, again := none })) ∧
      (x.st = .error → exec (.qctlResume q) s = .next (s.updQueue q fun x => { x with st := .running, err := 0, hand := none, awaits := none, again := x.copyAgain })) ∧
      (x.st = .error → exec (.skip q) s = .next (s.updQueue q fun x => { x with st := .running, err := 0, ridx := x.ridx + 1, hand := none, awaits := none, again := none })) ∧
      exec (.clrstale q) s = .next (s.updQueue q fun x => { x with stale := 0 })) ∧
    (∀ h i v, 1 ≤ h → h ≤ 127 → i < 4 → (∀ p ∈ s.launches, p.2.live = true → p.2.pkt.handle ≠ h) → bits v 63 29 = 0 → v % 4 = 0 → v < 2 ^ 64 →
      ∃ t, exec (.partitionTableWrite (64 * h + 8 * i) v) s = .next t ∧ t.part h = { s.part h with
        dom := vset (s.part h).dom i (BitVec.ofNat 64 v), left := (s.part h).reserve.toNat * 1024 } ∧ t.cpu = s.cpu ∧ t.mem = s.mem) ∧
    ((∀ p ∈ s.front.queues, p.2.st = .running → p.2.port ≠ 0) → s.dev.resync.busy = false → ∃ t, exec (.hostPortDown 0) s = .next t ∧ t.fabric.hostUp0 = false ∧ t.mem = s.mem) ∧
    (∃ t, exec (.hostPortUp 0) s = .next t ∧ t.fabric.hostUp0 = true ∧ t.front = s.front ∧ t.mem = s.mem)

/-- Registers, BAR2, boot, sensors, debugging, I3C and boundary scan (R14, R285, R374, R375, R404, R405, R408, R410, R411, R413, R414, R416). A host write to RESYNCA or ADMFRAC takes its value, a reserved bit is discarded and counted; BAR2 reads and writes the device's memory, but not after a failed boot; a request makes a summary; the debug commands attach, halt, read, write and resume; I3C and scan reads answer; a boot with four images that verify and well-formed tables, a flawless rectangle and its firmware tiles ends READY with them in force, and fails with the code of the step that does not; a sensor sets its tile's throttling; a role's restart moves every role of a core that has it to another firmware core. The model's own choices here are that which core failed and which takes its roles are open (log entry 97), that the firmware's text capability is the image's (118), the layout of the summary, the report and the power reply (28), the summary's port (31), the code when an image is missing (43), that a partly refused access is refused whole (48), the units of a sample (42), that images carry whether they verify (71) and which bank a debugger's g56 to g59 are (105). -/
def Obligations.DeviceEvents : Prop :=
  ∀ s : State,
    (∀ v, v % 64 = 0 → v < 2 ^ 64 → ∃ t, exec (.registerWrite 0x400 v) s = .next t ∧ t.dev.resync.addr.toNat = v ∧ t.mem = s.mem ∧ t.cpu = s.cpu) ∧
    (∀ v, v < 2 ^ 16 → ∃ t, exec (.registerWrite 0x1000 v) s = .next t ∧ t.front.admfrac.toNat = v ∧ t.mem = s.mem) ∧
    (∀ v, bits v 63 16 ≠ 0 → exec (.registerWrite 0x1000 v) s = .next (s.count 0)) ∧
    (s.dev.state = .fail → ∀ a n bs, exec (.bar2Write a bs) s = .next s ∧ ∀ port, exec (.bar2Read ⟨port, a⟩ n) s = .next s) ∧
    (∀ a bs, s.dev.state ≠ .fail → bar2Refused a bs.length = false → (∀ i, i < bs.length → s.framePinned (a + i) = false) →
      exec (.bar2Write a bs) s = .next (s.writeMem (devKey a) bs false false noName)) ∧
    (∀ a bs, s.dev.state ≠ .fail → bar2Refused a bs.length = true → exec (.bar2Write a bs) s = .next (s.count 1)) ∧
    (∀ port a n, s.hostUp port = false → exec (.bar2Read ⟨port, a⟩ n) s = .next s) ∧
    (∀ port a n, s.dev.state ≠ .fail → s.hostUp port = true → bar2Refused a n = true →
      exec (.bar2Read ⟨port, a⟩ n) s = .next ((s.count 1).answer (List.replicate n 0xFF) false)) ∧
    (∀ port a n, s.dev.state ≠ .fail → s.hostUp port = true → bar2Refused a n = false → s.mem.bad = [] → s.mem.soft = [] → s.mem.badCheck = [] →
      exec (.bar2Read ⟨port, a⟩ n) s = .next (s.answer (s.mem.read (devKey a) n) (s.mem.marked (devKey a) n))) ∧
    (s.dev.resync.busy = false → ∃ t, exec (.resyncRequest 1) s = .next t ∧ t.dev.resync.busy = true ∧ t.dev.resync.done = false ∧ t.mem = s.mem) ∧
    (s.dev.resync.busy = true → exec (.resyncRequest 1) s = .next (s.count 0)) ∧
    (let r := s.dev.resync; let sum := s.summary.1 ++ s.summary.2;
      r.busy = true → s.dev.state = .ready → 64 + s.summary.2.length ≤ r.len.toNat → s.qSpan 0 r.addr sum.length = true →
      exec .resyncComplete s = .next (((s.writeMem (qKey 0 r.addr) sum false false noName).modDev fun d =>
        { d with resync := { r with busy := false, done := true, err := false } }).raise 0 (bits r.vec.toNat 10 0))) ∧
    (s.dev.cfg.debug = false → ∀ x ∈ [Instr.attach, .detach, .dbgHalt, .dbgResume, .dbgRead, .dbgWrite], exec x s = .next (s.count 0)) ∧
    (∀ core, s.dev.cfg.debug = true → s.dbgCore s.dev.dbg.sel = some core → (s.tile (core / 16)).st = .run → s.dev.dbg.waiting = [] →
      let e := s.dbgErr 0;
      (s.attachedAt core = false → exec .attach s = .next (e.updCore core fun k => { k with attached := true })) ∧
      (∃ t, exec .detach s = .next t ∧ (∀ n ∈ s.namesOf core, (t.core n).attached = false) ∧ (∀ n ∈ s.debugGroup core, (t.core n).haltReq = false) ∧
        t.dev.dbg.err = 0 ∧ t.mem = s.mem) ∧
      (s.attachedAt core = true → ∃ t, exec .dbgHalt s = .next t ∧ (∀ n ∈ s.debugGroup core, (t.core n).haltReq = true) ∧
        (∀ n, n ∉ s.debugGroup core → t.core n = s.core n) ∧ t.dev.dbg.err = 0 ∧ t.mem = s.mem) ∧
      (s.haltedOn core = true → exec .dbgResume s = .next (e.resumeCores (s.debugGroup core))) ∧
      (∀ c, s.haltedCtx core = some c → exec .dbgRead s = .next (e.modDev fun d => { d with dbg := { d.dbg with
        data := (s.dbgValue c s.dev.dbg.reg).1, tag := BitVec.ofNat 64 (s.dbgValue c s.dev.dbg.reg).2 } })) ∧
      (∀ n v, s.cpu.core = core → s.cpu.run = .halted → s.haltedCtx core = some s.cpu → n < 64 → n ≠ 0 → (s.cpu.level = .runtime → n < 56 ∨ 59 < n) →
        s.dev.dbg.reg = BitVec.ofNat 64 (8 * n) → s.dev.dbg.tag = 0 → s.dev.dbg.data.toNat = v → v < 2 ^ 64 → ∃ t, exec .dbgWrite s = .next t ∧ t.dev.dbg.err = 0 ∧
          vget GReg.zero t.cpu.regs.g n = word (BitVec.ofNat 64 v) ∧ t.mem = s.mem ∧ t.cpu.run = .halted)) ∧
    exec .i3cReadDevstat s = .next (s.answer (leBytes 8 s.devstat) false) ∧
    (∃ t, exec .i3cReadPower s = .next t ∧ t.dev.reply.bytes.length = 520 ∧ t.dev.reply.bad = false ∧ t.mem = s.mem ∧ t.cpu = s.cpu) ∧
    (∀ nonce, ∃ t, exec (.attestationReport nonce) s = .next t ∧ t.dev.reply.bad = false ∧ t.dev.reply.bytes.take 8 = leBytes 8 0x0016 ∧ t.mem = s.mem ∧ t.cpu = s.cpu) ∧
    (∀ img, ∃ t, exec (.bootStoreWrite img) s = .next t ∧ findImage t.dev.store (tableKind img.table) = some img ∧
      (∀ k, k ≠ tableKind img.table → findImage t.dev.store k = findImage s.dev.store k) ∧ t.dev.cfg = s.dev.cfg) ∧
    (∀ k f, ∃ t, exec (.versionFloorRaise k f true) s = .next t ∧ (vget 0 t.dev.floors (kindIdx k)).toNat = Nat.max (vget 0 s.dev.floors (kindIdx k)).toNat f.toNat) ∧
    (∀ k f, exec (.versionFloorRaise k f false) s = .next s) ∧
    (∀ off w, s.dev.cfg.debug = false → exec (.debugWindowAccess off w) s = .next (s.answer [] true)) ∧
    (∀ off, s.dev.cfg.debug = true → exec (.debugWindowAccess off none) s = .next (s.answer (leBytes 8 (s.dbgRead off)) false)) ∧
    (∃ t, exec .bypass s = .next t ∧ t.dev.scan = 0) ∧ (∃ t, exec .idcode s = .next t ∧ t.dev.scan = 1 ∧ t.dev.reply.bytes = [0x9B, 0xA1, 0x2E, 0x0F]) ∧
    (∃ t, exec .samplePreload s = .next t ∧ t.dev.scan = 2) ∧ (∃ t, exec .extest s = .next t ∧ t.dev.scan = if s.dev.strap then 3 else 0) ∧
    (s.dev.store = [] → ∃ t, exec .powerOnReset s = .next t ∧ t.dev.state = .fail ∧ t.dev.code = 1) ∧
    (∀ a b c d k ls, findImage s.dev.store .firmware = some a → findImage s.dev.store .config = some b → findImage s.dev.store .links = some c →
      findImage s.dev.store .lost = some d → b.table = .config k → c.table = .links ls →
      let code := verifyAll s.dev.floors [a, b, c, d]
      let u : State := { s.powerCycle with dev := { s.powerCycle.dev with cfg := loadTables [a, b, c, d] s.fabric.lost } }
      let rects := u.numberRects u.bindings 63 []
      let fails := fun n : Nat => ∃ t, exec .powerOnReset s = .next t ∧ t.dev.state = .fail ∧ t.dev.code = BitVec.ofNat 8 n
      (code ≠ 0 → fails code) ∧ (code = 0 → (configOk k = false ∨ linkTableOk ls = false) → fails 4) ∧
      (code = 0 → configOk k = true → linkTableOk ls = true → (rects = [] → fails 5) ∧ (rects ≠ [] → u.placeFirmware = none → fails 6) ∧
        ∀ roles, rects ≠ [] → u.placeFirmware = some roles → ∃ t, exec .powerOnReset s = .next t ∧ t.dev.state = .ready ∧ t.dev.code = 0 ∧
          t.fabric.rects = rects ∧ t.dev.roles = roles ∧ t.launches = [] ∧ t.net = [] ∧ t.dev.cfg = u.dev.cfg ∧ t.dev.fwText = Config.firmwareText a.digest)) ∧
    (∀ p temp current, ∃ t, exec (.sensorSample (.tile p) temp current) s = .next t ∧ t.mem = s.mem ∧ t.cpu = s.cpu ∧
      aget 0 t.fabric.throttle p = if 1050 < temp ∨ 40000 ≤ current then 2 else if 950 ≤ temp then 1 else 0) ∧
    (∀ role, (∃ r ∈ s.dev.roles, r.1 = role) → ∃ r ∈ s.dev.roles, r.1 = role ∧ ∃ t, exec (.roleRestart role) s = .next t ∧ t.mem = s.mem ∧ t.cpu = s.cpu ∧
      let rest := s.dev.roles.filter fun x => !(x.2 == r.2)
      (rest = [] → t.dev = s.dev) ∧ (rest ≠ [] → ∃ y ∈ rest,
        t.dev.roles = rest ++ (s.dev.roles.filter fun x => x.2 == r.2).map fun x => (x.1, y.2)))
end

