-- ==== Sys2Proof/Laws/State.lean ====
section
/-! SUPPORT. What every update of the state leaves alone, field by field: each lemma holds by definition, so that no later proof
unfolds a record update. -/

namespace Sys2Proof.Machine

/-! ## Updates of the acting context leave the rest of the machine alone -/

@[simp] theorem State.modCpu_cpu (s : State) (f : Ctx → Ctx) : (s.modCpu f).cpu = f s.cpu := rfl
@[simp] theorem State.modCpu_others (s : State) (f : Ctx → Ctx) : (s.modCpu f).others = s.others := rfl
@[simp] theorem State.modCpu_cores (s : State) (f : Ctx → Ctx) : (s.modCpu f).cores = s.cores := rfl
@[simp] theorem State.modCpu_mem (s : State) (f : Ctx → Ctx) : (s.modCpu f).mem = s.mem := rfl
@[simp] theorem State.modCpu_verLines (s : State) (f : Ctx → Ctx) : (s.modCpu f).verLines = s.verLines := rfl
@[simp] theorem State.modCpu_verPages (s : State) (f : Ctx → Ctx) : (s.modCpu f).verPages = s.verPages := rfl
@[simp] theorem State.modCpu_net (s : State) (f : Ctx → Ctx) : (s.modCpu f).net = s.net := rfl
@[simp] theorem State.modCpu_nextId (s : State) (f : Ctx → Ctx) : (s.modCpu f).nextId = s.nextId := rfl
@[simp] theorem State.modCpu_launches (s : State) (f : Ctx → Ctx) : (s.modCpu f).launches = s.launches := rfl
@[simp] theorem State.modCpu_nextLaunch (s : State) (f : Ctx → Ctx) : (s.modCpu f).nextLaunch = s.nextLaunch := rfl
@[simp] theorem State.modCpu_front (s : State) (f : Ctx → Ctx) : (s.modCpu f).front = s.front := rfl
@[simp] theorem State.modCpu_tiles (s : State) (f : Ctx → Ctx) : (s.modCpu f).tiles = s.tiles := rfl
@[simp] theorem State.modCpu_fabric (s : State) (f : Ctx → Ctx) : (s.modCpu f).fabric = s.fabric := rfl
@[simp] theorem State.modCpu_dev (s : State) (f : Ctx → Ctx) : (s.modCpu f).dev = s.dev := rfl
@[simp] theorem State.modCpu_clk (s : State) (f : Ctx → Ctx) : (s.modCpu f).clk = s.clk := rfl
@[simp] theorem State.modCpu_agenda (s : State) (f : Ctx → Ctx) : (s.modCpu f).agenda = s.agenda := rfl
@[simp] theorem State.modCpu_free (s : State) (f : Ctx → Ctx) : (s.modCpu f).free = s.free := rfl
@[simp] theorem State.modRegs_others (s : State) (f : Regs → Regs) : (s.modRegs f).others = s.others := rfl
@[simp] theorem State.modRegs_cores (s : State) (f : Regs → Regs) : (s.modRegs f).cores = s.cores := rfl
@[simp] theorem State.modRegs_mem (s : State) (f : Regs → Regs) : (s.modRegs f).mem = s.mem := rfl
@[simp] theorem State.modRegs_verLines (s : State) (f : Regs → Regs) : (s.modRegs f).verLines = s.verLines := rfl
@[simp] theorem State.modRegs_verPages (s : State) (f : Regs → Regs) : (s.modRegs f).verPages = s.verPages := rfl
@[simp] theorem State.modRegs_net (s : State) (f : Regs → Regs) : (s.modRegs f).net = s.net := rfl
@[simp] theorem State.modRegs_nextId (s : State) (f : Regs → Regs) : (s.modRegs f).nextId = s.nextId := rfl
@[simp] theorem State.modRegs_launches (s : State) (f : Regs → Regs) : (s.modRegs f).launches = s.launches := rfl
@[simp] theorem State.modRegs_nextLaunch (s : State) (f : Regs → Regs) : (s.modRegs f).nextLaunch = s.nextLaunch := rfl
@[simp] theorem State.modRegs_front (s : State) (f : Regs → Regs) : (s.modRegs f).front = s.front := rfl
@[simp] theorem State.modRegs_tiles (s : State) (f : Regs → Regs) : (s.modRegs f).tiles = s.tiles := rfl
@[simp] theorem State.modRegs_fabric (s : State) (f : Regs → Regs) : (s.modRegs f).fabric = s.fabric := rfl
@[simp] theorem State.modRegs_dev (s : State) (f : Regs → Regs) : (s.modRegs f).dev = s.dev := rfl
@[simp] theorem State.modRegs_clk (s : State) (f : Regs → Regs) : (s.modRegs f).clk = s.clk := rfl
@[simp] theorem State.modRegs_agenda (s : State) (f : Regs → Regs) : (s.modRegs f).agenda = s.agenda := rfl
@[simp] theorem State.modRegs_free (s : State) (f : Regs → Regs) : (s.modRegs f).free = s.free := rfl
@[simp] theorem State.modRegs_cpu_core (s : State) (f : Regs → Regs) : (s.modRegs f).cpu.core = s.cpu.core := rfl
@[simp] theorem State.modRegs_cpu_launch (s : State) (f : Regs → Regs) : (s.modRegs f).cpu.launch = s.cpu.launch := rfl
@[simp] theorem State.modRegs_cpu_run (s : State) (f : Regs → Regs) : (s.modRegs f).cpu.run = s.cpu.run := rfl
@[simp] theorem State.modRegs_cpu_regs (s : State) (f : Regs → Regs) : (s.modRegs f).cpu.regs = f s.cpu.regs := rfl
@[simp] theorem State.modRegs_cpu_csrs (s : State) (f : Regs → Regs) : (s.modRegs f).cpu.csrs = s.cpu.csrs := rfl
@[simp] theorem State.modRegs_cpu_gens (s : State) (f : Regs → Regs) : (s.modRegs f).cpu.gens = s.cpu.gens := rfl
@[simp] theorem State.modRegs_cpu_region (s : State) (f : Regs → Regs) : (s.modRegs f).cpu.region = s.cpu.region := rfl
@[simp] theorem State.modRegs_cpu_pcc (s : State) (f : Regs → Regs) : (s.modRegs f).cpu.pcc = s.cpu.pcc := rfl
@[simp] theorem State.modRegs_cpu_level (s : State) (f : Regs → Regs) : (s.modRegs f).cpu.level = s.cpu.level := rfl
@[simp] theorem State.modRegs_cpu_handler (s : State) (f : Regs → Regs) : (s.modRegs f).cpu.handler = s.cpu.handler := rfl
@[simp] theorem State.modRegs_cpu_uien (s : State) (f : Regs → Regs) : (s.modRegs f).cpu.uien = s.cpu.uien := rfl
@[simp] theorem State.modRegs_cpu_stalled (s : State) (f : Regs → Regs) : (s.modRegs f).cpu.stalled = s.cpu.stalled := rfl
@[simp] theorem State.modRegs_cpu_task (s : State) (f : Regs → Regs) : (s.modRegs f).cpu.task = s.cpu.task := rfl
@[simp] theorem State.modRegs_cpu_bar (s : State) (f : Regs → Regs) : (s.modRegs f).cpu.bar = s.cpu.bar := rfl
@[simp] theorem State.modRegs_cpu_inbox (s : State) (f : Regs → Regs) : (s.modRegs f).cpu.inbox = s.cpu.inbox := rfl
@[simp] theorem State.modRegs_cpu_streams (s : State) (f : Regs → Regs) : (s.modRegs f).cpu.streams = s.cpu.streams := rfl
@[simp] theorem State.modRegs_cpu_popped (s : State) (f : Regs → Regs) : (s.modRegs f).cpu.popped = s.cpu.popped := rfl
@[simp] theorem State.modRegs_cpu_sent (s : State) (f : Regs → Regs) : (s.modRegs f).cpu.sent = s.cpu.sent := rfl
@[simp] theorem State.modRegs_cpu_rcvd (s : State) (f : Regs → Regs) : (s.modRegs f).cpu.rcvd = s.cpu.rcvd := rfl
@[simp] theorem State.modRegs_cpu_eng (s : State) (f : Regs → Regs) : (s.modRegs f).cpu.eng = s.cpu.eng := rfl
@[simp] theorem State.modRegs_cpu_lease (s : State) (f : Regs → Regs) : (s.modRegs f).cpu.lease = s.cpu.lease := rfl
@[simp] theorem State.modRegs_cpu_poolSeen (s : State) (f : Regs → Regs) : (s.modRegs f).cpu.poolSeen = s.cpu.poolSeen := rfl
@[simp] theorem State.modRegs_cpu_gang (s : State) (f : Regs → Regs) : (s.modRegs f).cpu.gang = s.cpu.gang := rfl
@[simp] theorem State.modRegs_cpu_pair (s : State) (f : Regs → Regs) : (s.modRegs f).cpu.pair = s.cpu.pair := rfl
@[simp] theorem State.modRegs_cpu_due (s : State) (f : Regs → Regs) : (s.modRegs f).cpu.due = s.cpu.due := rfl
@[simp] theorem State.modRegs_cpu_entered (s : State) (f : Regs → Regs) : (s.modRegs f).cpu.entered = s.cpu.entered := rfl
@[simp] theorem State.modRegs_cpu_frame (s : State) (f : Regs → Regs) : (s.modRegs f).cpu.frame = s.cpu.frame := rfl
@[simp] theorem State.modRegs_cpu_idleSince (s : State) (f : Regs → Regs) : (s.modRegs f).cpu.idleSince = s.cpu.idleSince := rfl
@[simp] theorem State.modCsr_others (s : State) (f : Csrs → Csrs) : (s.modCsr f).others = s.others := rfl
@[simp] theorem State.modCsr_cores (s : State) (f : Csrs → Csrs) : (s.modCsr f).cores = s.cores := rfl
@[simp] theorem State.modCsr_mem (s : State) (f : Csrs → Csrs) : (s.modCsr f).mem = s.mem := rfl
@[simp] theorem State.modCsr_verLines (s : State) (f : Csrs → Csrs) : (s.modCsr f).verLines = s.verLines := rfl
@[simp] theorem State.modCsr_verPages (s : State) (f : Csrs → Csrs) : (s.modCsr f).verPages = s.verPages := rfl
@[simp] theorem State.modCsr_net (s : State) (f : Csrs → Csrs) : (s.modCsr f).net = s.net := rfl
@[simp] theorem State.modCsr_nextId (s : State) (f : Csrs → Csrs) : (s.modCsr f).nextId = s.nextId := rfl
@[simp] theorem State.modCsr_launches (s : State) (f : Csrs → Csrs) : (s.modCsr f).launches = s.launches := rfl
@[simp] theorem State.modCsr_nextLaunch (s : State) (f : Csrs → Csrs) : (s.modCsr f).nextLaunch = s.nextLaunch := rfl
@[simp] theorem State.modCsr_front (s : State) (f : Csrs → Csrs) : (s.modCsr f).front = s.front := rfl
@[simp] theorem State.modCsr_tiles (s : State) (f : Csrs → Csrs) : (s.modCsr f).tiles = s.tiles := rfl
@[simp] theorem State.modCsr_fabric (s : State) (f : Csrs → Csrs) : (s.modCsr f).fabric = s.fabric := rfl
@[simp] theorem State.modCsr_dev (s : State) (f : Csrs → Csrs) : (s.modCsr f).dev = s.dev := rfl
@[simp] theorem State.modCsr_clk (s : State) (f : Csrs → Csrs) : (s.modCsr f).clk = s.clk := rfl
@[simp] theorem State.modCsr_agenda (s : State) (f : Csrs → Csrs) : (s.modCsr f).agenda = s.agenda := rfl
@[simp] theorem State.modCsr_free (s : State) (f : Csrs → Csrs) : (s.modCsr f).free = s.free := rfl
@[simp] theorem State.modCsr_cpu_core (s : State) (f : Csrs → Csrs) : (s.modCsr f).cpu.core = s.cpu.core := rfl
@[simp] theorem State.modCsr_cpu_launch (s : State) (f : Csrs → Csrs) : (s.modCsr f).cpu.launch = s.cpu.launch := rfl
@[simp] theorem State.modCsr_cpu_run (s : State) (f : Csrs → Csrs) : (s.modCsr f).cpu.run = s.cpu.run := rfl
@[simp] theorem State.modCsr_cpu_regs (s : State) (f : Csrs → Csrs) : (s.modCsr f).cpu.regs = s.cpu.regs := rfl
@[simp] theorem State.modCsr_cpu_csrs (s : State) (f : Csrs → Csrs) : (s.modCsr f).cpu.csrs = f s.cpu.csrs := rfl
@[simp] theorem State.modCsr_cpu_gens (s : State) (f : Csrs → Csrs) : (s.modCsr f).cpu.gens = s.cpu.gens := rfl
@[simp] theorem State.modCsr_cpu_region (s : State) (f : Csrs → Csrs) : (s.modCsr f).cpu.region = s.cpu.region := rfl
@[simp] theorem State.modCsr_cpu_pcc (s : State) (f : Csrs → Csrs) : (s.modCsr f).cpu.pcc = s.cpu.pcc := rfl
@[simp] theorem State.modCsr_cpu_level (s : State) (f : Csrs → Csrs) : (s.modCsr f).cpu.level = s.cpu.level := rfl
@[simp] theorem State.modCsr_cpu_handler (s : State) (f : Csrs → Csrs) : (s.modCsr f).cpu.handler = s.cpu.handler := rfl
@[simp] theorem State.modCsr_cpu_uien (s : State) (f : Csrs → Csrs) : (s.modCsr f).cpu.uien = s.cpu.uien := rfl
@[simp] theorem State.modCsr_cpu_stalled (s : State) (f : Csrs → Csrs) : (s.modCsr f).cpu.stalled = s.cpu.stalled := rfl
@[simp] theorem State.modCsr_cpu_task (s : State) (f : Csrs → Csrs) : (s.modCsr f).cpu.task = s.cpu.task := rfl
@[simp] theorem State.modCsr_cpu_bar (s : State) (f : Csrs → Csrs) : (s.modCsr f).cpu.bar = s.cpu.bar := rfl
@[simp] theorem State.modCsr_cpu_inbox (s : State) (f : Csrs → Csrs) : (s.modCsr f).cpu.inbox = s.cpu.inbox := rfl
@[simp] theorem State.modCsr_cpu_streams (s : State) (f : Csrs → Csrs) : (s.modCsr f).cpu.streams = s.cpu.streams := rfl
@[simp] theorem State.modCsr_cpu_popped (s : State) (f : Csrs → Csrs) : (s.modCsr f).cpu.popped = s.cpu.popped := rfl
@[simp] theorem State.modCsr_cpu_sent (s : State) (f : Csrs → Csrs) : (s.modCsr f).cpu.sent = s.cpu.sent := rfl
@[simp] theorem State.modCsr_cpu_rcvd (s : State) (f : Csrs → Csrs) : (s.modCsr f).cpu.rcvd = s.cpu.rcvd := rfl
@[simp] theorem State.modCsr_cpu_eng (s : State) (f : Csrs → Csrs) : (s.modCsr f).cpu.eng = s.cpu.eng := rfl
@[simp] theorem State.modCsr_cpu_lease (s : State) (f : Csrs → Csrs) : (s.modCsr f).cpu.lease = s.cpu.lease := rfl
@[simp] theorem State.modCsr_cpu_poolSeen (s : State) (f : Csrs → Csrs) : (s.modCsr f).cpu.poolSeen = s.cpu.poolSeen := rfl
@[simp] theorem State.modCsr_cpu_gang (s : State) (f : Csrs → Csrs) : (s.modCsr f).cpu.gang = s.cpu.gang := rfl
@[simp] theorem State.modCsr_cpu_pair (s : State) (f : Csrs → Csrs) : (s.modCsr f).cpu.pair = s.cpu.pair := rfl
@[simp] theorem State.modCsr_cpu_due (s : State) (f : Csrs → Csrs) : (s.modCsr f).cpu.due = s.cpu.due := rfl
@[simp] theorem State.modCsr_cpu_entered (s : State) (f : Csrs → Csrs) : (s.modCsr f).cpu.entered = s.cpu.entered := rfl
@[simp] theorem State.modCsr_cpu_frame (s : State) (f : Csrs → Csrs) : (s.modCsr f).cpu.frame = s.cpu.frame := rfl
@[simp] theorem State.modCsr_cpu_idleSince (s : State) (f : Csrs → Csrs) : (s.modCsr f).cpu.idleSince = s.cpu.idleSince := rfl
@[simp] theorem State.setPcc_others (s : State) (c : Payload) : (s.setPcc c).others = s.others := rfl
@[simp] theorem State.setPcc_cores (s : State) (c : Payload) : (s.setPcc c).cores = s.cores := rfl
@[simp] theorem State.setPcc_mem (s : State) (c : Payload) : (s.setPcc c).mem = s.mem := rfl
@[simp] theorem State.setPcc_verLines (s : State) (c : Payload) : (s.setPcc c).verLines = s.verLines := rfl
@[simp] theorem State.setPcc_verPages (s : State) (c : Payload) : (s.setPcc c).verPages = s.verPages := rfl
@[simp] theorem State.setPcc_net (s : State) (c : Payload) : (s.setPcc c).net = s.net := rfl
@[simp] theorem State.setPcc_nextId (s : State) (c : Payload) : (s.setPcc c).nextId = s.nextId := rfl
@[simp] theorem State.setPcc_launches (s : State) (c : Payload) : (s.setPcc c).launches = s.launches := rfl
@[simp] theorem State.setPcc_nextLaunch (s : State) (c : Payload) : (s.setPcc c).nextLaunch = s.nextLaunch := rfl
@[simp] theorem State.setPcc_front (s : State) (c : Payload) : (s.setPcc c).front = s.front := rfl
@[simp] theorem State.setPcc_tiles (s : State) (c : Payload) : (s.setPcc c).tiles = s.tiles := rfl
@[simp] theorem State.setPcc_fabric (s : State) (c : Payload) : (s.setPcc c).fabric = s.fabric := rfl
@[simp] theorem State.setPcc_dev (s : State) (c : Payload) : (s.setPcc c).dev = s.dev := rfl
@[simp] theorem State.setPcc_clk (s : State) (c : Payload) : (s.setPcc c).clk = s.clk := rfl
@[simp] theorem State.setPcc_agenda (s : State) (c : Payload) : (s.setPcc c).agenda = s.agenda := rfl
@[simp] theorem State.setPcc_free (s : State) (c : Payload) : (s.setPcc c).free = s.free := rfl
@[simp] theorem State.setPcc_cpu_core (s : State) (c : Payload) : (s.setPcc c).cpu.core = s.cpu.core := rfl
@[simp] theorem State.setPcc_cpu_launch (s : State) (c : Payload) : (s.setPcc c).cpu.launch = s.cpu.launch := rfl
@[simp] theorem State.setPcc_cpu_run (s : State) (c : Payload) : (s.setPcc c).cpu.run = s.cpu.run := rfl
@[simp] theorem State.setPcc_cpu_regs (s : State) (c : Payload) : (s.setPcc c).cpu.regs = s.cpu.regs := rfl
@[simp] theorem State.setPcc_cpu_csrs (s : State) (c : Payload) : (s.setPcc c).cpu.csrs = s.cpu.csrs := rfl
@[simp] theorem State.setPcc_cpu_gens (s : State) (c : Payload) : (s.setPcc c).cpu.gens = s.cpu.gens := rfl
@[simp] theorem State.setPcc_cpu_region (s : State) (c : Payload) : (s.setPcc c).cpu.region = s.cpu.region := rfl
@[simp] theorem State.setPcc_cpu_pcc (s : State) (c : Payload) : (s.setPcc c).cpu.pcc = c := rfl
@[simp] theorem State.setPcc_cpu_level (s : State) (c : Payload) : (s.setPcc c).cpu.level = s.cpu.level := rfl
@[simp] theorem State.setPcc_cpu_handler (s : State) (c : Payload) : (s.setPcc c).cpu.handler = s.cpu.handler := rfl
@[simp] theorem State.setPcc_cpu_uien (s : State) (c : Payload) : (s.setPcc c).cpu.uien = s.cpu.uien := rfl
@[simp] theorem State.setPcc_cpu_stalled (s : State) (c : Payload) : (s.setPcc c).cpu.stalled = s.cpu.stalled := rfl
@[simp] theorem State.setPcc_cpu_task (s : State) (c : Payload) : (s.setPcc c).cpu.task = s.cpu.task := rfl
@[simp] theorem State.setPcc_cpu_bar (s : State) (c : Payload) : (s.setPcc c).cpu.bar = s.cpu.bar := rfl
@[simp] theorem State.setPcc_cpu_inbox (s : State) (c : Payload) : (s.setPcc c).cpu.inbox = s.cpu.inbox := rfl
@[simp] theorem State.setPcc_cpu_streams (s : State) (c : Payload) : (s.setPcc c).cpu.streams = s.cpu.streams := rfl
@[simp] theorem State.setPcc_cpu_popped (s : State) (c : Payload) : (s.setPcc c).cpu.popped = s.cpu.popped := rfl
@[simp] theorem State.setPcc_cpu_sent (s : State) (c : Payload) : (s.setPcc c).cpu.sent = s.cpu.sent := rfl
@[simp] theorem State.setPcc_cpu_rcvd (s : State) (c : Payload) : (s.setPcc c).cpu.rcvd = s.cpu.rcvd := rfl
@[simp] theorem State.setPcc_cpu_eng (s : State) (c : Payload) : (s.setPcc c).cpu.eng = s.cpu.eng := rfl
@[simp] theorem State.setPcc_cpu_lease (s : State) (c : Payload) : (s.setPcc c).cpu.lease = s.cpu.lease := rfl
@[simp] theorem State.setPcc_cpu_poolSeen (s : State) (c : Payload) : (s.setPcc c).cpu.poolSeen = s.cpu.poolSeen := rfl
@[simp] theorem State.setPcc_cpu_gang (s : State) (c : Payload) : (s.setPcc c).cpu.gang = s.cpu.gang := rfl
@[simp] theorem State.setPcc_cpu_pair (s : State) (c : Payload) : (s.setPcc c).cpu.pair = s.cpu.pair := rfl
@[simp] theorem State.setPcc_cpu_due (s : State) (c : Payload) : (s.setPcc c).cpu.due = s.cpu.due := rfl
@[simp] theorem State.setPcc_cpu_entered (s : State) (c : Payload) : (s.setPcc c).cpu.entered = s.cpu.entered := rfl
@[simp] theorem State.setPcc_cpu_frame (s : State) (c : Payload) : (s.setPcc c).cpu.frame = s.cpu.frame := rfl
@[simp] theorem State.setPcc_cpu_idleSince (s : State) (c : Payload) : (s.setPcc c).cpu.idleSince = s.cpu.idleSince := rfl
@[simp] theorem State.setPc_others (s : State) (a : Nat) : (s.setPc a).others = s.others := State.setPcc_others s _
@[simp] theorem State.setPc_cores (s : State) (a : Nat) : (s.setPc a).cores = s.cores := State.setPcc_cores s _
@[simp] theorem State.setPc_mem (s : State) (a : Nat) : (s.setPc a).mem = s.mem := State.setPcc_mem s _
@[simp] theorem State.setPc_verLines (s : State) (a : Nat) : (s.setPc a).verLines = s.verLines := State.setPcc_verLines s _
@[simp] theorem State.setPc_verPages (s : State) (a : Nat) : (s.setPc a).verPages = s.verPages := State.setPcc_verPages s _
@[simp] theorem State.setPc_net (s : State) (a : Nat) : (s.setPc a).net = s.net := State.setPcc_net s _
@[simp] theorem State.setPc_nextId (s : State) (a : Nat) : (s.setPc a).nextId = s.nextId := State.setPcc_nextId s _
@[simp] theorem State.setPc_launches (s : State) (a : Nat) : (s.setPc a).launches = s.launches := State.setPcc_launches s _
@[simp] theorem State.setPc_nextLaunch (s : State) (a : Nat) : (s.setPc a).nextLaunch = s.nextLaunch := State.setPcc_nextLaunch s _
@[simp] theorem State.setPc_front (s : State) (a : Nat) : (s.setPc a).front = s.front := State.setPcc_front s _
@[simp] theorem State.setPc_tiles (s : State) (a : Nat) : (s.setPc a).tiles = s.tiles := State.setPcc_tiles s _
@[simp] theorem State.setPc_fabric (s : State) (a : Nat) : (s.setPc a).fabric = s.fabric := State.setPcc_fabric s _
@[simp] theorem State.setPc_dev (s : State) (a : Nat) : (s.setPc a).dev = s.dev := State.setPcc_dev s _
@[simp] theorem State.setPc_clk (s : State) (a : Nat) : (s.setPc a).clk = s.clk := State.setPcc_clk s _
@[simp] theorem State.setPc_agenda (s : State) (a : Nat) : (s.setPc a).agenda = s.agenda := State.setPcc_agenda s _
@[simp] theorem State.setPc_free (s : State) (a : Nat) : (s.setPc a).free = s.free := State.setPcc_free s _
@[simp] theorem State.setPc_cpu_core (s : State) (a : Nat) : (s.setPc a).cpu.core = s.cpu.core := State.setPcc_cpu_core s _
@[simp] theorem State.setPc_cpu_launch (s : State) (a : Nat) : (s.setPc a).cpu.launch = s.cpu.launch := State.setPcc_cpu_launch s _
@[simp] theorem State.setPc_cpu_run (s : State) (a : Nat) : (s.setPc a).cpu.run = s.cpu.run := State.setPcc_cpu_run s _
@[simp] theorem State.setPc_cpu_regs (s : State) (a : Nat) : (s.setPc a).cpu.regs = s.cpu.regs := State.setPcc_cpu_regs s _
@[simp] theorem State.setPc_cpu_csrs (s : State) (a : Nat) : (s.setPc a).cpu.csrs = s.cpu.csrs := State.setPcc_cpu_csrs s _
@[simp] theorem State.setPc_cpu_gens (s : State) (a : Nat) : (s.setPc a).cpu.gens = s.cpu.gens := State.setPcc_cpu_gens s _
@[simp] theorem State.setPc_cpu_region (s : State) (a : Nat) : (s.setPc a).cpu.region = s.cpu.region := State.setPcc_cpu_region s _
@[simp] theorem State.setPc_cpu_pcc (s : State) (a : Nat) : (s.setPc a).cpu.pcc = capSetAddr s.cpu.pcc a := State.setPcc_cpu_pcc s _
@[simp] theorem State.setPc_cpu_level (s : State) (a : Nat) : (s.setPc a).cpu.level = s.cpu.level := State.setPcc_cpu_level s _
@[simp] theorem State.setPc_cpu_handler (s : State) (a : Nat) : (s.setPc a).cpu.handler = s.cpu.handler := State.setPcc_cpu_handler s _
@[simp] theorem State.setPc_cpu_uien (s : State) (a : Nat) : (s.setPc a).cpu.uien = s.cpu.uien := State.setPcc_cpu_uien s _
@[simp] theorem State.setPc_cpu_stalled (s : State) (a : Nat) : (s.setPc a).cpu.stalled = s.cpu.stalled := State.setPcc_cpu_stalled s _
@[simp] theorem State.setPc_cpu_task (s : State) (a : Nat) : (s.setPc a).cpu.task = s.cpu.task := State.setPcc_cpu_task s _
@[simp] theorem State.setPc_cpu_bar (s : State) (a : Nat) : (s.setPc a).cpu.bar = s.cpu.bar := State.setPcc_cpu_bar s _
@[simp] theorem State.setPc_cpu_inbox (s : State) (a : Nat) : (s.setPc a).cpu.inbox = s.cpu.inbox := State.setPcc_cpu_inbox s _
@[simp] theorem State.setPc_cpu_streams (s : State) (a : Nat) : (s.setPc a).cpu.streams = s.cpu.streams := State.setPcc_cpu_streams s _
@[simp] theorem State.setPc_cpu_popped (s : State) (a : Nat) : (s.setPc a).cpu.popped = s.cpu.popped := State.setPcc_cpu_popped s _
@[simp] theorem State.setPc_cpu_sent (s : State) (a : Nat) : (s.setPc a).cpu.sent = s.cpu.sent := State.setPcc_cpu_sent s _
@[simp] theorem State.setPc_cpu_rcvd (s : State) (a : Nat) : (s.setPc a).cpu.rcvd = s.cpu.rcvd := State.setPcc_cpu_rcvd s _
@[simp] theorem State.setPc_cpu_eng (s : State) (a : Nat) : (s.setPc a).cpu.eng = s.cpu.eng := State.setPcc_cpu_eng s _
@[simp] theorem State.setPc_cpu_lease (s : State) (a : Nat) : (s.setPc a).cpu.lease = s.cpu.lease := State.setPcc_cpu_lease s _
@[simp] theorem State.setPc_cpu_poolSeen (s : State) (a : Nat) : (s.setPc a).cpu.poolSeen = s.cpu.poolSeen := State.setPcc_cpu_poolSeen s _
@[simp] theorem State.setPc_cpu_gang (s : State) (a : Nat) : (s.setPc a).cpu.gang = s.cpu.gang := State.setPcc_cpu_gang s _
@[simp] theorem State.setPc_cpu_pair (s : State) (a : Nat) : (s.setPc a).cpu.pair = s.cpu.pair := State.setPcc_cpu_pair s _
@[simp] theorem State.setPc_cpu_due (s : State) (a : Nat) : (s.setPc a).cpu.due = s.cpu.due := State.setPcc_cpu_due s _
@[simp] theorem State.setPc_cpu_entered (s : State) (a : Nat) : (s.setPc a).cpu.entered = s.cpu.entered := State.setPcc_cpu_entered s _
@[simp] theorem State.setPc_cpu_frame (s : State) (a : Nat) : (s.setPc a).cpu.frame = s.cpu.frame := State.setPcc_cpu_frame s _
@[simp] theorem State.setPc_cpu_idleSince (s : State) (a : Nat) : (s.setPc a).cpu.idleSince = s.cpu.idleSince := State.setPcc_cpu_idleSince s _
@[simp] theorem State.advance_others (s : State) : (s.advance).others = s.others := (State.setPc_others _ _).trans rfl
@[simp] theorem State.advance_cores (s : State) : (s.advance).cores = s.cores := (State.setPc_cores _ _).trans rfl
@[simp] theorem State.advance_mem (s : State) : (s.advance).mem = s.mem := (State.setPc_mem _ _).trans rfl
@[simp] theorem State.advance_verLines (s : State) : (s.advance).verLines = s.verLines := (State.setPc_verLines _ _).trans rfl
@[simp] theorem State.advance_verPages (s : State) : (s.advance).verPages = s.verPages := (State.setPc_verPages _ _).trans rfl
@[simp] theorem State.advance_net (s : State) : (s.advance).net = s.net := (State.setPc_net _ _).trans rfl
@[simp] theorem State.advance_nextId (s : State) : (s.advance).nextId = s.nextId := (State.setPc_nextId _ _).trans rfl
@[simp] theorem State.advance_launches (s : State) : (s.advance).launches = s.launches := (State.setPc_launches _ _).trans rfl
@[simp] theorem State.advance_nextLaunch (s : State) : (s.advance).nextLaunch = s.nextLaunch := (State.setPc_nextLaunch _ _).trans rfl
@[simp] theorem State.advance_front (s : State) : (s.advance).front = s.front := (State.setPc_front _ _).trans rfl
@[simp] theorem State.advance_tiles (s : State) : (s.advance).tiles = s.tiles := (State.setPc_tiles _ _).trans rfl
@[simp] theorem State.advance_fabric (s : State) : (s.advance).fabric = s.fabric := (State.setPc_fabric _ _).trans rfl
@[simp] theorem State.advance_dev (s : State) : (s.advance).dev = s.dev := (State.setPc_dev _ _).trans rfl
@[simp] theorem State.advance_clk (s : State) : (s.advance).clk = s.clk := (State.setPc_clk _ _).trans rfl
@[simp] theorem State.advance_agenda (s : State) : (s.advance).agenda = s.agenda := (State.setPc_agenda _ _).trans rfl
@[simp] theorem State.advance_free (s : State) : (s.advance).free = s.free := (State.setPc_free _ _).trans rfl
@[simp] theorem State.advance_cpu_core (s : State) : (s.advance).cpu.core = s.cpu.core := (State.setPc_cpu_core _ _).trans rfl
@[simp] theorem State.advance_cpu_launch (s : State) : (s.advance).cpu.launch = s.cpu.launch := (State.setPc_cpu_launch _ _).trans rfl
@[simp] theorem State.advance_cpu_run (s : State) : (s.advance).cpu.run = s.cpu.run := (State.setPc_cpu_run _ _).trans rfl
@[simp] theorem State.advance_cpu_regs (s : State) : (s.advance).cpu.regs = s.cpu.regs := (State.setPc_cpu_regs _ _).trans rfl
@[simp] theorem State.advance_cpu_csrs (s : State) : (s.advance).cpu.csrs = s.cpu.csrs := (State.setPc_cpu_csrs _ _).trans rfl
@[simp] theorem State.advance_cpu_gens (s : State) : (s.advance).cpu.gens = s.cpu.gens := (State.setPc_cpu_gens _ _).trans rfl
@[simp] theorem State.advance_cpu_region (s : State) : (s.advance).cpu.region = s.cpu.region := (State.setPc_cpu_region _ _).trans rfl
@[simp] theorem State.advance_cpu_pcc (s : State) : (s.advance).cpu.pcc = capSetAddr s.cpu.pcc s.pc4 := State.setPc_cpu_pcc _ _
@[simp] theorem State.advance_cpu_level (s : State) : (s.advance).cpu.level = s.cpu.level := (State.setPc_cpu_level _ _).trans rfl
@[simp] theorem State.advance_cpu_handler (s : State) : (s.advance).cpu.handler = s.cpu.handler := (State.setPc_cpu_handler _ _).trans rfl
@[simp] theorem State.advance_cpu_uien (s : State) : (s.advance).cpu.uien = s.cpu.uien := (State.setPc_cpu_uien _ _).trans rfl
@[simp] theorem State.advance_cpu_stalled (s : State) : (s.advance).cpu.stalled = false := (State.setPc_cpu_stalled _ _).trans rfl
@[simp] theorem State.advance_cpu_task (s : State) : (s.advance).cpu.task = s.cpu.task := (State.setPc_cpu_task _ _).trans rfl
@[simp] theorem State.advance_cpu_bar (s : State) : (s.advance).cpu.bar = s.cpu.bar := (State.setPc_cpu_bar _ _).trans rfl
@[simp] theorem State.advance_cpu_inbox (s : State) : (s.advance).cpu.inbox = s.cpu.inbox := (State.setPc_cpu_inbox _ _).trans rfl
@[simp] theorem State.advance_cpu_streams (s : State) : (s.advance).cpu.streams = s.cpu.streams := (State.setPc_cpu_streams _ _).trans rfl
@[simp] theorem State.advance_cpu_popped (s : State) : (s.advance).cpu.popped = s.cpu.popped := (State.setPc_cpu_popped _ _).trans rfl
@[simp] theorem State.advance_cpu_sent (s : State) : (s.advance).cpu.sent = s.cpu.sent := (State.setPc_cpu_sent _ _).trans rfl
@[simp] theorem State.advance_cpu_rcvd (s : State) : (s.advance).cpu.rcvd = s.cpu.rcvd := (State.setPc_cpu_rcvd _ _).trans rfl
@[simp] theorem State.advance_cpu_eng (s : State) : (s.advance).cpu.eng = s.cpu.eng := (State.setPc_cpu_eng _ _).trans rfl
@[simp] theorem State.advance_cpu_lease (s : State) : (s.advance).cpu.lease = s.cpu.lease := (State.setPc_cpu_lease _ _).trans rfl
@[simp] theorem State.advance_cpu_poolSeen (s : State) : (s.advance).cpu.poolSeen = s.cpu.poolSeen := (State.setPc_cpu_poolSeen _ _).trans rfl
@[simp] theorem State.advance_cpu_gang (s : State) : (s.advance).cpu.gang = s.cpu.gang := (State.setPc_cpu_gang _ _).trans rfl
@[simp] theorem State.advance_cpu_pair (s : State) : (s.advance).cpu.pair = s.cpu.pair := (State.setPc_cpu_pair _ _).trans rfl
@[simp] theorem State.advance_cpu_due (s : State) : (s.advance).cpu.due = s.cpu.due := (State.setPc_cpu_due _ _).trans rfl
@[simp] theorem State.advance_cpu_entered (s : State) : (s.advance).cpu.entered = s.cpu.entered := (State.setPc_cpu_entered _ _).trans rfl
@[simp] theorem State.advance_cpu_frame (s : State) : (s.advance).cpu.frame = s.cpu.frame := (State.setPc_cpu_frame _ _).trans rfl
@[simp] theorem State.advance_cpu_idleSince (s : State) : (s.advance).cpu.idleSince = s.cpu.idleSince := (State.setPc_cpu_idleSince _ _).trans rfl
@[simp] theorem State.stall_others (s : State) : (s.stall).others = s.others := rfl
@[simp] theorem State.stall_cores (s : State) : (s.stall).cores = s.cores := rfl
@[simp] theorem State.stall_mem (s : State) : (s.stall).mem = s.mem := rfl
@[simp] theorem State.stall_verLines (s : State) : (s.stall).verLines = s.verLines := rfl
@[simp] theorem State.stall_verPages (s : State) : (s.stall).verPages = s.verPages := rfl
@[simp] theorem State.stall_net (s : State) : (s.stall).net = s.net := rfl
@[simp] theorem State.stall_nextId (s : State) : (s.stall).nextId = s.nextId := rfl
@[simp] theorem State.stall_launches (s : State) : (s.stall).launches = s.launches := rfl
@[simp] theorem State.stall_nextLaunch (s : State) : (s.stall).nextLaunch = s.nextLaunch := rfl
@[simp] theorem State.stall_front (s : State) : (s.stall).front = s.front := rfl
@[simp] theorem State.stall_tiles (s : State) : (s.stall).tiles = s.tiles := rfl
@[simp] theorem State.stall_fabric (s : State) : (s.stall).fabric = s.fabric := rfl
@[simp] theorem State.stall_dev (s : State) : (s.stall).dev = s.dev := rfl
@[simp] theorem State.stall_clk (s : State) : (s.stall).clk = s.clk := rfl
@[simp] theorem State.stall_agenda (s : State) : (s.stall).agenda = s.agenda := rfl
@[simp] theorem State.stall_free (s : State) : (s.stall).free = s.free := rfl
@[simp] theorem State.stall_cpu_core (s : State) : (s.stall).cpu.core = s.cpu.core := rfl
@[simp] theorem State.stall_cpu_launch (s : State) : (s.stall).cpu.launch = s.cpu.launch := rfl
@[simp] theorem State.stall_cpu_run (s : State) : (s.stall).cpu.run = s.cpu.run := rfl
@[simp] theorem State.stall_cpu_regs (s : State) : (s.stall).cpu.regs = s.cpu.regs := rfl
@[simp] theorem State.stall_cpu_csrs (s : State) : (s.stall).cpu.csrs = s.cpu.csrs := rfl
@[simp] theorem State.stall_cpu_gens (s : State) : (s.stall).cpu.gens = s.cpu.gens := rfl
@[simp] theorem State.stall_cpu_region (s : State) : (s.stall).cpu.region = s.cpu.region := rfl
@[simp] theorem State.stall_cpu_pcc (s : State) : (s.stall).cpu.pcc = s.cpu.pcc := rfl
@[simp] theorem State.stall_cpu_level (s : State) : (s.stall).cpu.level = s.cpu.level := rfl
@[simp] theorem State.stall_cpu_handler (s : State) : (s.stall).cpu.handler = s.cpu.handler := rfl
@[simp] theorem State.stall_cpu_uien (s : State) : (s.stall).cpu.uien = s.cpu.uien := rfl
@[simp] theorem State.stall_cpu_stalled (s : State) : (s.stall).cpu.stalled = true := rfl
@[simp] theorem State.stall_cpu_task (s : State) : (s.stall).cpu.task = s.cpu.task := rfl
@[simp] theorem State.stall_cpu_bar (s : State) : (s.stall).cpu.bar = s.cpu.bar := rfl
@[simp] theorem State.stall_cpu_inbox (s : State) : (s.stall).cpu.inbox = s.cpu.inbox := rfl
@[simp] theorem State.stall_cpu_streams (s : State) : (s.stall).cpu.streams = s.cpu.streams := rfl
@[simp] theorem State.stall_cpu_popped (s : State) : (s.stall).cpu.popped = s.cpu.popped := rfl
@[simp] theorem State.stall_cpu_sent (s : State) : (s.stall).cpu.sent = s.cpu.sent := rfl
@[simp] theorem State.stall_cpu_rcvd (s : State) : (s.stall).cpu.rcvd = s.cpu.rcvd := rfl
@[simp] theorem State.stall_cpu_eng (s : State) : (s.stall).cpu.eng = s.cpu.eng := rfl
@[simp] theorem State.stall_cpu_lease (s : State) : (s.stall).cpu.lease = s.cpu.lease := rfl
@[simp] theorem State.stall_cpu_poolSeen (s : State) : (s.stall).cpu.poolSeen = s.cpu.poolSeen := rfl
@[simp] theorem State.stall_cpu_gang (s : State) : (s.stall).cpu.gang = s.cpu.gang := rfl
@[simp] theorem State.stall_cpu_pair (s : State) : (s.stall).cpu.pair = s.cpu.pair := rfl
@[simp] theorem State.stall_cpu_due (s : State) : (s.stall).cpu.due = s.cpu.due := rfl
@[simp] theorem State.stall_cpu_entered (s : State) : (s.stall).cpu.entered = s.cpu.entered := rfl
@[simp] theorem State.stall_cpu_frame (s : State) : (s.stall).cpu.frame = s.cpu.frame := rfl
@[simp] theorem State.stall_cpu_idleSince (s : State) : (s.stall).cpu.idleSince = s.cpu.idleSince := rfl

/-! ## Updates of one table leave the others alone -/

@[simp] theorem State.updCore_cpu (s : State) (n : Nat) (f : CoreSt → CoreSt) : (s.updCore n f).cpu = s.cpu := by unfold State.updCore; rfl
@[simp] theorem State.updCore_others (s : State) (n : Nat) (f : CoreSt → CoreSt) : (s.updCore n f).others = s.others := by unfold State.updCore; rfl
@[simp] theorem State.updCore_mem (s : State) (n : Nat) (f : CoreSt → CoreSt) : (s.updCore n f).mem = s.mem := by unfold State.updCore; rfl
@[simp] theorem State.updCore_verLines (s : State) (n : Nat) (f : CoreSt → CoreSt) : (s.updCore n f).verLines = s.verLines := by unfold State.updCore; rfl
@[simp] theorem State.updCore_verPages (s : State) (n : Nat) (f : CoreSt → CoreSt) : (s.updCore n f).verPages = s.verPages := by unfold State.updCore; rfl
@[simp] theorem State.updCore_net (s : State) (n : Nat) (f : CoreSt → CoreSt) : (s.updCore n f).net = s.net := by unfold State.updCore; rfl
@[simp] theorem State.updCore_nextId (s : State) (n : Nat) (f : CoreSt → CoreSt) : (s.updCore n f).nextId = s.nextId := by unfold State.updCore; rfl
@[simp] theorem State.updCore_launches (s : State) (n : Nat) (f : CoreSt → CoreSt) : (s.updCore n f).launches = s.launches := by unfold State.updCore; rfl
@[simp] theorem State.updCore_nextLaunch (s : State) (n : Nat) (f : CoreSt → CoreSt) : (s.updCore n f).nextLaunch = s.nextLaunch := by unfold State.updCore; rfl
@[simp] theorem State.updCore_front (s : State) (n : Nat) (f : CoreSt → CoreSt) : (s.updCore n f).front = s.front := by unfold State.updCore; rfl
@[simp] theorem State.updCore_tiles (s : State) (n : Nat) (f : CoreSt → CoreSt) : (s.updCore n f).tiles = s.tiles := by unfold State.updCore; rfl
@[simp] theorem State.updCore_fabric (s : State) (n : Nat) (f : CoreSt → CoreSt) : (s.updCore n f).fabric = s.fabric := by unfold State.updCore; rfl
@[simp] theorem State.updCore_dev (s : State) (n : Nat) (f : CoreSt → CoreSt) : (s.updCore n f).dev = s.dev := by unfold State.updCore; rfl
@[simp] theorem State.updCore_clk (s : State) (n : Nat) (f : CoreSt → CoreSt) : (s.updCore n f).clk = s.clk := by unfold State.updCore; rfl
@[simp] theorem State.updCore_agenda (s : State) (n : Nat) (f : CoreSt → CoreSt) : (s.updCore n f).agenda = s.agenda := by unfold State.updCore; rfl
@[simp] theorem State.updCore_free (s : State) (n : Nat) (f : CoreSt → CoreSt) : (s.updCore n f).free = s.free := by unfold State.updCore; rfl
@[simp] theorem State.updCore_cores (s : State) (n : Nat) (f : CoreSt → CoreSt) : (s.updCore n f).cores = aput CoreSt.reset s.cores n (f (s.core n)) := rfl
@[simp] theorem State.updTile_cpu (s : State) (t : Nat) (f : TileSt → TileSt) : (s.updTile t f).cpu = s.cpu := by unfold State.updTile; rfl
@[simp] theorem State.updTile_others (s : State) (t : Nat) (f : TileSt → TileSt) : (s.updTile t f).others = s.others := by unfold State.updTile; rfl
@[simp] theorem State.updTile_cores (s : State) (t : Nat) (f : TileSt → TileSt) : (s.updTile t f).cores = s.cores := by unfold State.updTile; rfl
@[simp] theorem State.updTile_mem (s : State) (t : Nat) (f : TileSt → TileSt) : (s.updTile t f).mem = s.mem := by unfold State.updTile; rfl
@[simp] theorem State.updTile_verLines (s : State) (t : Nat) (f : TileSt → TileSt) : (s.updTile t f).verLines = s.verLines := by unfold State.updTile; rfl
@[simp] theorem State.updTile_verPages (s : State) (t : Nat) (f : TileSt → TileSt) : (s.updTile t f).verPages = s.verPages := by unfold State.updTile; rfl
@[simp] theorem State.updTile_net (s : State) (t : Nat) (f : TileSt → TileSt) : (s.updTile t f).net = s.net := by unfold State.updTile; rfl
@[simp] theorem State.updTile_nextId (s : State) (t : Nat) (f : TileSt → TileSt) : (s.updTile t f).nextId = s.nextId := by unfold State.updTile; rfl
@[simp] theorem State.updTile_launches (s : State) (t : Nat) (f : TileSt → TileSt) : (s.updTile t f).launches = s.launches := by unfold State.updTile; rfl
@[simp] theorem State.updTile_nextLaunch (s : State) (t : Nat) (f : TileSt → TileSt) : (s.updTile t f).nextLaunch = s.nextLaunch := by unfold State.updTile; rfl
@[simp] theorem State.updTile_front (s : State) (t : Nat) (f : TileSt → TileSt) : (s.updTile t f).front = s.front := by unfold State.updTile; rfl
@[simp] theorem State.updTile_fabric (s : State) (t : Nat) (f : TileSt → TileSt) : (s.updTile t f).fabric = s.fabric := by unfold State.updTile; rfl
@[simp] theorem State.updTile_dev (s : State) (t : Nat) (f : TileSt → TileSt) : (s.updTile t f).dev = s.dev := by unfold State.updTile; rfl
@[simp] theorem State.updTile_clk (s : State) (t : Nat) (f : TileSt → TileSt) : (s.updTile t f).clk = s.clk := by unfold State.updTile; rfl
@[simp] theorem State.updTile_agenda (s : State) (t : Nat) (f : TileSt → TileSt) : (s.updTile t f).agenda = s.agenda := by unfold State.updTile; rfl
@[simp] theorem State.updTile_free (s : State) (t : Nat) (f : TileSt → TileSt) : (s.updTile t f).free = s.free := by unfold State.updTile; rfl
@[simp] theorem State.updTile_tiles (s : State) (t : Nat) (f : TileSt → TileSt) : (s.updTile t f).tiles = ains s.tiles t (f (s.tile t)) := rfl
@[simp] theorem State.updMsg_cpu (s : State) (i : Nat) (f : Msg → Msg) : (s.updMsg i f).cpu = s.cpu := by unfold State.updMsg; rfl
@[simp] theorem State.updMsg_others (s : State) (i : Nat) (f : Msg → Msg) : (s.updMsg i f).others = s.others := by unfold State.updMsg; rfl
@[simp] theorem State.updMsg_cores (s : State) (i : Nat) (f : Msg → Msg) : (s.updMsg i f).cores = s.cores := by unfold State.updMsg; rfl
@[simp] theorem State.updMsg_mem (s : State) (i : Nat) (f : Msg → Msg) : (s.updMsg i f).mem = s.mem := by unfold State.updMsg; rfl
@[simp] theorem State.updMsg_verLines (s : State) (i : Nat) (f : Msg → Msg) : (s.updMsg i f).verLines = s.verLines := by unfold State.updMsg; rfl
@[simp] theorem State.updMsg_verPages (s : State) (i : Nat) (f : Msg → Msg) : (s.updMsg i f).verPages = s.verPages := by unfold State.updMsg; rfl
@[simp] theorem State.updMsg_nextId (s : State) (i : Nat) (f : Msg → Msg) : (s.updMsg i f).nextId = s.nextId := by unfold State.updMsg; rfl
@[simp] theorem State.updMsg_launches (s : State) (i : Nat) (f : Msg → Msg) : (s.updMsg i f).launches = s.launches := by unfold State.updMsg; rfl
@[simp] theorem State.updMsg_nextLaunch (s : State) (i : Nat) (f : Msg → Msg) : (s.updMsg i f).nextLaunch = s.nextLaunch := by unfold State.updMsg; rfl
@[simp] theorem State.updMsg_front (s : State) (i : Nat) (f : Msg → Msg) : (s.updMsg i f).front = s.front := by unfold State.updMsg; rfl
@[simp] theorem State.updMsg_tiles (s : State) (i : Nat) (f : Msg → Msg) : (s.updMsg i f).tiles = s.tiles := by unfold State.updMsg; rfl
@[simp] theorem State.updMsg_fabric (s : State) (i : Nat) (f : Msg → Msg) : (s.updMsg i f).fabric = s.fabric := by unfold State.updMsg; rfl
@[simp] theorem State.updMsg_dev (s : State) (i : Nat) (f : Msg → Msg) : (s.updMsg i f).dev = s.dev := by unfold State.updMsg; rfl
@[simp] theorem State.updMsg_clk (s : State) (i : Nat) (f : Msg → Msg) : (s.updMsg i f).clk = s.clk := by unfold State.updMsg; rfl
@[simp] theorem State.updMsg_agenda (s : State) (i : Nat) (f : Msg → Msg) : (s.updMsg i f).agenda = s.agenda := by unfold State.updMsg; rfl
@[simp] theorem State.updMsg_free (s : State) (i : Nat) (f : Msg → Msg) : (s.updMsg i f).free = s.free := by unfold State.updMsg; rfl
@[simp] theorem State.dropMsg_cpu (s : State) (i : Nat) : (s.dropMsg i).cpu = s.cpu := by unfold State.dropMsg; rfl
@[simp] theorem State.dropMsg_others (s : State) (i : Nat) : (s.dropMsg i).others = s.others := by unfold State.dropMsg; rfl
@[simp] theorem State.dropMsg_cores (s : State) (i : Nat) : (s.dropMsg i).cores = s.cores := by unfold State.dropMsg; rfl
@[simp] theorem State.dropMsg_mem (s : State) (i : Nat) : (s.dropMsg i).mem = s.mem := by unfold State.dropMsg; rfl
@[simp] theorem State.dropMsg_verLines (s : State) (i : Nat) : (s.dropMsg i).verLines = s.verLines := by unfold State.dropMsg; rfl
@[simp] theorem State.dropMsg_verPages (s : State) (i : Nat) : (s.dropMsg i).verPages = s.verPages := by unfold State.dropMsg; rfl
@[simp] theorem State.dropMsg_nextId (s : State) (i : Nat) : (s.dropMsg i).nextId = s.nextId := by unfold State.dropMsg; rfl
@[simp] theorem State.dropMsg_launches (s : State) (i : Nat) : (s.dropMsg i).launches = s.launches := by unfold State.dropMsg; rfl
@[simp] theorem State.dropMsg_nextLaunch (s : State) (i : Nat) : (s.dropMsg i).nextLaunch = s.nextLaunch := by unfold State.dropMsg; rfl
@[simp] theorem State.dropMsg_front (s : State) (i : Nat) : (s.dropMsg i).front = s.front := by unfold State.dropMsg; rfl
@[simp] theorem State.dropMsg_tiles (s : State) (i : Nat) : (s.dropMsg i).tiles = s.tiles := by unfold State.dropMsg; rfl
@[simp] theorem State.dropMsg_fabric (s : State) (i : Nat) : (s.dropMsg i).fabric = s.fabric := by unfold State.dropMsg; rfl
@[simp] theorem State.dropMsg_dev (s : State) (i : Nat) : (s.dropMsg i).dev = s.dev := by unfold State.dropMsg; rfl
@[simp] theorem State.dropMsg_clk (s : State) (i : Nat) : (s.dropMsg i).clk = s.clk := by unfold State.dropMsg; rfl
@[simp] theorem State.dropMsg_agenda (s : State) (i : Nat) : (s.dropMsg i).agenda = s.agenda := by unfold State.dropMsg; rfl
@[simp] theorem State.dropMsg_free (s : State) (i : Nat) : (s.dropMsg i).free = s.free := by unfold State.dropMsg; rfl
@[simp] theorem State.updQueue_cpu (s : State) (q : Nat) (f : Queue → Queue) : (s.updQueue q f).cpu = s.cpu := by unfold State.updQueue; rfl
@[simp] theorem State.updQueue_others (s : State) (q : Nat) (f : Queue → Queue) : (s.updQueue q f).others = s.others := by unfold State.updQueue; rfl
@[simp] theorem State.updQueue_cores (s : State) (q : Nat) (f : Queue → Queue) : (s.updQueue q f).cores = s.cores := by unfold State.updQueue; rfl
@[simp] theorem State.updQueue_mem (s : State) (q : Nat) (f : Queue → Queue) : (s.updQueue q f).mem = s.mem := by unfold State.updQueue; rfl
@[simp] theorem State.updQueue_verLines (s : State) (q : Nat) (f : Queue → Queue) : (s.updQueue q f).verLines = s.verLines := by unfold State.updQueue; rfl
@[simp] theorem State.updQueue_verPages (s : State) (q : Nat) (f : Queue → Queue) : (s.updQueue q f).verPages = s.verPages := by unfold State.updQueue; rfl
@[simp] theorem State.updQueue_net (s : State) (q : Nat) (f : Queue → Queue) : (s.updQueue q f).net = s.net := by unfold State.updQueue; rfl
@[simp] theorem State.updQueue_nextId (s : State) (q : Nat) (f : Queue → Queue) : (s.updQueue q f).nextId = s.nextId := by unfold State.updQueue; rfl
@[simp] theorem State.updQueue_launches (s : State) (q : Nat) (f : Queue → Queue) : (s.updQueue q f).launches = s.launches := by unfold State.updQueue; rfl
@[simp] theorem State.updQueue_nextLaunch (s : State) (q : Nat) (f : Queue → Queue) : (s.updQueue q f).nextLaunch = s.nextLaunch := by unfold State.updQueue; rfl
@[simp] theorem State.updQueue_tiles (s : State) (q : Nat) (f : Queue → Queue) : (s.updQueue q f).tiles = s.tiles := by unfold State.updQueue; rfl
@[simp] theorem State.updQueue_fabric (s : State) (q : Nat) (f : Queue → Queue) : (s.updQueue q f).fabric = s.fabric := by unfold State.updQueue; rfl
@[simp] theorem State.updQueue_dev (s : State) (q : Nat) (f : Queue → Queue) : (s.updQueue q f).dev = s.dev := by unfold State.updQueue; rfl
@[simp] theorem State.updQueue_clk (s : State) (q : Nat) (f : Queue → Queue) : (s.updQueue q f).clk = s.clk := by unfold State.updQueue; rfl
@[simp] theorem State.updQueue_agenda (s : State) (q : Nat) (f : Queue → Queue) : (s.updQueue q f).agenda = s.agenda := by unfold State.updQueue; rfl
@[simp] theorem State.updQueue_free (s : State) (q : Nat) (f : Queue → Queue) : (s.updQueue q f).free = s.free := by unfold State.updQueue; rfl
@[simp] theorem State.count_cpu (s : State) (i n : Nat) : (s.count i n).cpu = s.cpu := by unfold State.count; rfl
@[simp] theorem State.count_others (s : State) (i n : Nat) : (s.count i n).others = s.others := by unfold State.count; rfl
@[simp] theorem State.count_cores (s : State) (i n : Nat) : (s.count i n).cores = s.cores := by unfold State.count; rfl
@[simp] theorem State.count_mem (s : State) (i n : Nat) : (s.count i n).mem = s.mem := by unfold State.count; rfl
@[simp] theorem State.count_verLines (s : State) (i n : Nat) : (s.count i n).verLines = s.verLines := by unfold State.count; rfl
@[simp] theorem State.count_verPages (s : State) (i n : Nat) : (s.count i n).verPages = s.verPages := by unfold State.count; rfl
@[simp] theorem State.count_net (s : State) (i n : Nat) : (s.count i n).net = s.net := by unfold State.count; rfl
@[simp] theorem State.count_nextId (s : State) (i n : Nat) : (s.count i n).nextId = s.nextId := by unfold State.count; rfl
@[simp] theorem State.count_launches (s : State) (i n : Nat) : (s.count i n).launches = s.launches := by unfold State.count; rfl
@[simp] theorem State.count_nextLaunch (s : State) (i n : Nat) : (s.count i n).nextLaunch = s.nextLaunch := by unfold State.count; rfl
@[simp] theorem State.count_front (s : State) (i n : Nat) : (s.count i n).front = s.front := by unfold State.count; rfl
@[simp] theorem State.count_tiles (s : State) (i n : Nat) : (s.count i n).tiles = s.tiles := by unfold State.count; rfl
@[simp] theorem State.count_fabric (s : State) (i n : Nat) : (s.count i n).fabric = s.fabric := by unfold State.count; rfl
@[simp] theorem State.count_clk (s : State) (i n : Nat) : (s.count i n).clk = s.clk := by unfold State.count; rfl
@[simp] theorem State.count_agenda (s : State) (i n : Nat) : (s.count i n).agenda = s.agenda := by unfold State.count; rfl
@[simp] theorem State.count_free (s : State) (i n : Nat) : (s.count i n).free = s.free := by unfold State.count; rfl
@[simp] theorem State.setLink_cpu (s : State) (l : Link) : (s.setLink l).cpu = s.cpu := by unfold State.setLink; rfl
@[simp] theorem State.setLink_others (s : State) (l : Link) : (s.setLink l).others = s.others := by unfold State.setLink; rfl
@[simp] theorem State.setLink_cores (s : State) (l : Link) : (s.setLink l).cores = s.cores := by unfold State.setLink; rfl
@[simp] theorem State.setLink_mem (s : State) (l : Link) : (s.setLink l).mem = s.mem := by unfold State.setLink; rfl
@[simp] theorem State.setLink_verLines (s : State) (l : Link) : (s.setLink l).verLines = s.verLines := by unfold State.setLink; rfl
@[simp] theorem State.setLink_verPages (s : State) (l : Link) : (s.setLink l).verPages = s.verPages := by unfold State.setLink; rfl
@[simp] theorem State.setLink_net (s : State) (l : Link) : (s.setLink l).net = s.net := by unfold State.setLink; rfl
@[simp] theorem State.setLink_nextId (s : State) (l : Link) : (s.setLink l).nextId = s.nextId := by unfold State.setLink; rfl
@[simp] theorem State.setLink_launches (s : State) (l : Link) : (s.setLink l).launches = s.launches := by unfold State.setLink; rfl
@[simp] theorem State.setLink_nextLaunch (s : State) (l : Link) : (s.setLink l).nextLaunch = s.nextLaunch := by unfold State.setLink; rfl
@[simp] theorem State.setLink_front (s : State) (l : Link) : (s.setLink l).front = s.front := by unfold State.setLink; rfl
@[simp] theorem State.setLink_tiles (s : State) (l : Link) : (s.setLink l).tiles = s.tiles := by unfold State.setLink; rfl
@[simp] theorem State.setLink_dev (s : State) (l : Link) : (s.setLink l).dev = s.dev := by unfold State.setLink; rfl
@[simp] theorem State.setLink_clk (s : State) (l : Link) : (s.setLink l).clk = s.clk := by unfold State.setLink; rfl
@[simp] theorem State.setLink_agenda (s : State) (l : Link) : (s.setLink l).agenda = s.agenda := by unfold State.setLink; rfl
@[simp] theorem State.setLink_free (s : State) (l : Link) : (s.setLink l).free = s.free := by unfold State.setLink; rfl
@[simp] theorem State.setChannel_cpu (s : State) (c : Channel) : (s.setChannel c).cpu = s.cpu := by unfold State.setChannel; rfl
@[simp] theorem State.setChannel_others (s : State) (c : Channel) : (s.setChannel c).others = s.others := by unfold State.setChannel; rfl
@[simp] theorem State.setChannel_cores (s : State) (c : Channel) : (s.setChannel c).cores = s.cores := by unfold State.setChannel; rfl
@[simp] theorem State.setChannel_mem (s : State) (c : Channel) : (s.setChannel c).mem = s.mem := by unfold State.setChannel; rfl
@[simp] theorem State.setChannel_verLines (s : State) (c : Channel) : (s.setChannel c).verLines = s.verLines := by unfold State.setChannel; rfl
@[simp] theorem State.setChannel_verPages (s : State) (c : Channel) : (s.setChannel c).verPages = s.verPages := by unfold State.setChannel; rfl
@[simp] theorem State.setChannel_net (s : State) (c : Channel) : (s.setChannel c).net = s.net := by unfold State.setChannel; rfl
@[simp] theorem State.setChannel_nextId (s : State) (c : Channel) : (s.setChannel c).nextId = s.nextId := by unfold State.setChannel; rfl
@[simp] theorem State.setChannel_launches (s : State) (c : Channel) : (s.setChannel c).launches = s.launches := by unfold State.setChannel; rfl
@[simp] theorem State.setChannel_nextLaunch (s : State) (c : Channel) : (s.setChannel c).nextLaunch = s.nextLaunch := by unfold State.setChannel; rfl
@[simp] theorem State.setChannel_front (s : State) (c : Channel) : (s.setChannel c).front = s.front := by unfold State.setChannel; rfl
@[simp] theorem State.setChannel_tiles (s : State) (c : Channel) : (s.setChannel c).tiles = s.tiles := by unfold State.setChannel; rfl
@[simp] theorem State.setChannel_dev (s : State) (c : Channel) : (s.setChannel c).dev = s.dev := by unfold State.setChannel; rfl
@[simp] theorem State.setChannel_clk (s : State) (c : Channel) : (s.setChannel c).clk = s.clk := by unfold State.setChannel; rfl
@[simp] theorem State.setChannel_agenda (s : State) (c : Channel) : (s.setChannel c).agenda = s.agenda := by unfold State.setChannel; rfl
@[simp] theorem State.setChannel_free (s : State) (c : Channel) : (s.setChannel c).free = s.free := by unfold State.setChannel; rfl
@[simp] theorem State.loseLock_cpu (s : State) (n : Nat) : (s.loseLock n).cpu = s.cpu := by
  unfold State.loseLock State.unqueueLock; split <;> rfl
@[simp] theorem State.loseLock_others (s : State) (n : Nat) : (s.loseLock n).others = s.others := by
  unfold State.loseLock State.unqueueLock; split <;> rfl
@[simp] theorem State.loseLock_mem (s : State) (n : Nat) : (s.loseLock n).mem = s.mem := by
  unfold State.loseLock State.unqueueLock; split <;> rfl
@[simp] theorem State.loseLock_verLines (s : State) (n : Nat) : (s.loseLock n).verLines = s.verLines := by
  unfold State.loseLock State.unqueueLock; split <;> rfl
@[simp] theorem State.loseLock_verPages (s : State) (n : Nat) : (s.loseLock n).verPages = s.verPages := by
  unfold State.loseLock State.unqueueLock; split <;> rfl
@[simp] theorem State.loseLock_net (s : State) (n : Nat) : (s.loseLock n).net = s.net := by
  unfold State.loseLock State.unqueueLock; split <;> rfl
@[simp] theorem State.loseLock_nextId (s : State) (n : Nat) : (s.loseLock n).nextId = s.nextId := by
  unfold State.loseLock State.unqueueLock; split <;> rfl
@[simp] theorem State.loseLock_launches (s : State) (n : Nat) : (s.loseLock n).launches = s.launches := by
  unfold State.loseLock State.unqueueLock; split <;> rfl
@[simp] theorem State.loseLock_nextLaunch (s : State) (n : Nat) : (s.loseLock n).nextLaunch = s.nextLaunch := by
  unfold State.loseLock State.unqueueLock; split <;> rfl
@[simp] theorem State.loseLock_front (s : State) (n : Nat) : (s.loseLock n).front = s.front := by
  unfold State.loseLock State.unqueueLock; split <;> rfl
@[simp] theorem State.loseLock_fabric (s : State) (n : Nat) : (s.loseLock n).fabric = s.fabric := by
  unfold State.loseLock State.unqueueLock; split <;> rfl
@[simp] theorem State.loseLock_dev (s : State) (n : Nat) : (s.loseLock n).dev = s.dev := by
  unfold State.loseLock State.unqueueLock; split <;> rfl
@[simp] theorem State.loseLock_clk (s : State) (n : Nat) : (s.loseLock n).clk = s.clk := by
  unfold State.loseLock State.unqueueLock; split <;> rfl
@[simp] theorem State.loseLock_agenda (s : State) (n : Nat) : (s.loseLock n).agenda = s.agenda := by
  unfold State.loseLock State.unqueueLock; split <;> rfl
@[simp] theorem State.loseLock_free (s : State) (n : Nat) : (s.loseLock n).free = s.free := by
  unfold State.loseLock State.unqueueLock; split <;> rfl
@[simp] theorem State.mapCtx_cores (s : State) (f : Ctx → Ctx) : (s.mapCtx f).cores = s.cores := rfl
@[simp] theorem State.mapCtx_mem (s : State) (f : Ctx → Ctx) : (s.mapCtx f).mem = s.mem := rfl
@[simp] theorem State.mapCtx_verLines (s : State) (f : Ctx → Ctx) : (s.mapCtx f).verLines = s.verLines := rfl
@[simp] theorem State.mapCtx_verPages (s : State) (f : Ctx → Ctx) : (s.mapCtx f).verPages = s.verPages := rfl
@[simp] theorem State.mapCtx_net (s : State) (f : Ctx → Ctx) : (s.mapCtx f).net = s.net := rfl
@[simp] theorem State.mapCtx_nextId (s : State) (f : Ctx → Ctx) : (s.mapCtx f).nextId = s.nextId := rfl
@[simp] theorem State.mapCtx_launches (s : State) (f : Ctx → Ctx) : (s.mapCtx f).launches = s.launches := rfl
@[simp] theorem State.mapCtx_nextLaunch (s : State) (f : Ctx → Ctx) : (s.mapCtx f).nextLaunch = s.nextLaunch := rfl
@[simp] theorem State.mapCtx_front (s : State) (f : Ctx → Ctx) : (s.mapCtx f).front = s.front := rfl
@[simp] theorem State.mapCtx_tiles (s : State) (f : Ctx → Ctx) : (s.mapCtx f).tiles = s.tiles := rfl
@[simp] theorem State.mapCtx_fabric (s : State) (f : Ctx → Ctx) : (s.mapCtx f).fabric = s.fabric := rfl
@[simp] theorem State.mapCtx_dev (s : State) (f : Ctx → Ctx) : (s.mapCtx f).dev = s.dev := rfl
@[simp] theorem State.mapCtx_clk (s : State) (f : Ctx → Ctx) : (s.mapCtx f).clk = s.clk := rfl
@[simp] theorem State.mapCtx_agenda (s : State) (f : Ctx → Ctx) : (s.mapCtx f).agenda = s.agenda := rfl
@[simp] theorem State.mapCtx_free (s : State) (f : Ctx → Ctx) : (s.mapCtx f).free = s.free := rfl
@[simp] theorem State.mapCtx_cpu (s : State) (f : Ctx → Ctx) : (s.mapCtx f).cpu = f s.cpu := rfl
@[simp] theorem State.mapCtx_others (s : State) (f : Ctx → Ctx) : (s.mapCtx f).others = s.others.map f := rfl
@[simp] theorem State.popTurn_agenda (s : State) : s.popTurn.agenda = s.agenda.tail := rfl
@[simp] theorem State.popTurn_cpu (s : State) : s.popTurn.cpu = s.cpu := rfl
@[simp] theorem State.popTurn_others (s : State) : s.popTurn.others = s.others := rfl
@[simp] theorem State.popTurn_cores (s : State) : s.popTurn.cores = s.cores := rfl
@[simp] theorem State.popTurn_mem (s : State) : s.popTurn.mem = s.mem := rfl
@[simp] theorem State.popTurn_verLines (s : State) : s.popTurn.verLines = s.verLines := rfl
@[simp] theorem State.popTurn_verPages (s : State) : s.popTurn.verPages = s.verPages := rfl
@[simp] theorem State.popTurn_net (s : State) : s.popTurn.net = s.net := rfl
@[simp] theorem State.popTurn_nextId (s : State) : s.popTurn.nextId = s.nextId := rfl
@[simp] theorem State.popTurn_launches (s : State) : s.popTurn.launches = s.launches := rfl
@[simp] theorem State.popTurn_nextLaunch (s : State) : s.popTurn.nextLaunch = s.nextLaunch := rfl
@[simp] theorem State.popTurn_front (s : State) : s.popTurn.front = s.front := rfl
@[simp] theorem State.popTurn_tiles (s : State) : s.popTurn.tiles = s.tiles := rfl
@[simp] theorem State.popTurn_fabric (s : State) : s.popTurn.fabric = s.fabric := rfl
@[simp] theorem State.popTurn_dev (s : State) : s.popTurn.dev = s.dev := rfl
@[simp] theorem State.popTurn_clk (s : State) : s.popTurn.clk = s.clk := rfl
@[simp] theorem State.popTurn_free (s : State) : s.popTurn.free = s.free := rfl

@[simp] theorem State.unqueueLock_cores (s : State) (t n : Nat) : (s.unqueueLock t n).cores = s.cores := by
  unfold State.unqueueLock; split <;> rfl

/-! ## Determinants change tiles only (R389 to R391) -/

@[simp] theorem State.noteDet_cpu (s : State) (t : Nat) (d : Det) : (s.noteDet t d).cpu = s.cpu := by unfold State.noteDet; simp
@[simp] theorem State.noteDet_others (s : State) (t : Nat) (d : Det) : (s.noteDet t d).others = s.others := by unfold State.noteDet; simp
@[simp] theorem State.noteDet_cores (s : State) (t : Nat) (d : Det) : (s.noteDet t d).cores = s.cores := by unfold State.noteDet; simp
@[simp] theorem State.noteDet_mem (s : State) (t : Nat) (d : Det) : (s.noteDet t d).mem = s.mem := by unfold State.noteDet; simp
@[simp] theorem State.noteDet_verLines (s : State) (t : Nat) (d : Det) : (s.noteDet t d).verLines = s.verLines := by unfold State.noteDet; simp
@[simp] theorem State.noteDet_verPages (s : State) (t : Nat) (d : Det) : (s.noteDet t d).verPages = s.verPages := by unfold State.noteDet; simp
@[simp] theorem State.noteDet_net (s : State) (t : Nat) (d : Det) : (s.noteDet t d).net = s.net := by unfold State.noteDet; simp
@[simp] theorem State.noteDet_nextId (s : State) (t : Nat) (d : Det) : (s.noteDet t d).nextId = s.nextId := by unfold State.noteDet; simp
@[simp] theorem State.noteDet_launches (s : State) (t : Nat) (d : Det) : (s.noteDet t d).launches = s.launches := by unfold State.noteDet; simp
@[simp] theorem State.noteDet_nextLaunch (s : State) (t : Nat) (d : Det) : (s.noteDet t d).nextLaunch = s.nextLaunch := by unfold State.noteDet; simp
@[simp] theorem State.noteDet_front (s : State) (t : Nat) (d : Det) : (s.noteDet t d).front = s.front := by unfold State.noteDet; simp
@[simp] theorem State.noteDet_fabric (s : State) (t : Nat) (d : Det) : (s.noteDet t d).fabric = s.fabric := by unfold State.noteDet; simp
@[simp] theorem State.noteDet_dev (s : State) (t : Nat) (d : Det) : (s.noteDet t d).dev = s.dev := by unfold State.noteDet; simp
@[simp] theorem State.noteDet_clk (s : State) (t : Nat) (d : Det) : (s.noteDet t d).clk = s.clk := by unfold State.noteDet; simp
@[simp] theorem State.noteDet_agenda (s : State) (t : Nat) (d : Det) : (s.noteDet t d).agenda = s.agenda := by unfold State.noteDet; simp
@[simp] theorem State.noteDet_free (s : State) (t : Nat) (d : Det) : (s.noteDet t d).free = s.free := by unfold State.noteDet; simp
@[simp] theorem State.noteSwitch_cpu (s : State) (c e x : Nat) : (s.noteSwitch c e x).cpu = s.cpu := by
  unfold State.noteSwitch; split <;> simp
@[simp] theorem State.noteSwitch_others (s : State) (c e x : Nat) : (s.noteSwitch c e x).others = s.others := by
  unfold State.noteSwitch; split <;> simp
@[simp] theorem State.noteSwitch_cores (s : State) (c e x : Nat) : (s.noteSwitch c e x).cores = s.cores := by
  unfold State.noteSwitch; split <;> simp
@[simp] theorem State.noteSwitch_mem (s : State) (c e x : Nat) : (s.noteSwitch c e x).mem = s.mem := by
  unfold State.noteSwitch; split <;> simp
@[simp] theorem State.noteSwitch_verLines (s : State) (c e x : Nat) : (s.noteSwitch c e x).verLines = s.verLines := by
  unfold State.noteSwitch; split <;> simp
@[simp] theorem State.noteSwitch_verPages (s : State) (c e x : Nat) : (s.noteSwitch c e x).verPages = s.verPages := by
  unfold State.noteSwitch; split <;> simp
@[simp] theorem State.noteSwitch_net (s : State) (c e x : Nat) : (s.noteSwitch c e x).net = s.net := by
  unfold State.noteSwitch; split <;> simp
@[simp] theorem State.noteSwitch_nextId (s : State) (c e x : Nat) : (s.noteSwitch c e x).nextId = s.nextId := by
  unfold State.noteSwitch; split <;> simp
@[simp] theorem State.noteSwitch_launches (s : State) (c e x : Nat) : (s.noteSwitch c e x).launches = s.launches := by
  unfold State.noteSwitch; split <;> simp
@[simp] theorem State.noteSwitch_nextLaunch (s : State) (c e x : Nat) : (s.noteSwitch c e x).nextLaunch = s.nextLaunch := by
  unfold State.noteSwitch; split <;> simp
@[simp] theorem State.noteSwitch_front (s : State) (c e x : Nat) : (s.noteSwitch c e x).front = s.front := by
  unfold State.noteSwitch; split <;> simp
@[simp] theorem State.noteSwitch_fabric (s : State) (c e x : Nat) : (s.noteSwitch c e x).fabric = s.fabric := by
  unfold State.noteSwitch; split <;> simp
@[simp] theorem State.noteSwitch_dev (s : State) (c e x : Nat) : (s.noteSwitch c e x).dev = s.dev := by
  unfold State.noteSwitch; split <;> simp
@[simp] theorem State.noteSwitch_clk (s : State) (c e x : Nat) : (s.noteSwitch c e x).clk = s.clk := by
  unfold State.noteSwitch; split <;> simp
@[simp] theorem State.noteSwitch_agenda (s : State) (c e x : Nat) : (s.noteSwitch c e x).agenda = s.agenda := by
  unfold State.noteSwitch; split <;> simp
@[simp] theorem State.noteSwitch_free (s : State) (c e x : Nat) : (s.noteSwitch c e x).free = s.free := by
  unfold State.noteSwitch; split <;> simp
@[simp] theorem State.closeEpisode_cpu (s : State) (t : Nat) : (s.closeEpisode t).cpu = s.cpu := by
  unfold State.closeEpisode; split <;> simp
@[simp] theorem State.closeEpisode_others (s : State) (t : Nat) : (s.closeEpisode t).others = s.others := by
  unfold State.closeEpisode; split <;> simp
@[simp] theorem State.closeEpisode_cores (s : State) (t : Nat) : (s.closeEpisode t).cores = s.cores := by
  unfold State.closeEpisode; split <;> simp
@[simp] theorem State.closeEpisode_mem (s : State) (t : Nat) : (s.closeEpisode t).mem = s.mem := by
  unfold State.closeEpisode; split <;> simp
@[simp] theorem State.closeEpisode_verLines (s : State) (t : Nat) : (s.closeEpisode t).verLines = s.verLines := by
  unfold State.closeEpisode; split <;> simp
@[simp] theorem State.closeEpisode_verPages (s : State) (t : Nat) : (s.closeEpisode t).verPages = s.verPages := by
  unfold State.closeEpisode; split <;> simp
@[simp] theorem State.closeEpisode_net (s : State) (t : Nat) : (s.closeEpisode t).net = s.net := by
  unfold State.closeEpisode; split <;> simp
@[simp] theorem State.closeEpisode_nextId (s : State) (t : Nat) : (s.closeEpisode t).nextId = s.nextId := by
  unfold State.closeEpisode; split <;> simp
@[simp] theorem State.closeEpisode_launches (s : State) (t : Nat) : (s.closeEpisode t).launches = s.launches := by
  unfold State.closeEpisode; split <;> simp
@[simp] theorem State.closeEpisode_nextLaunch (s : State) (t : Nat) : (s.closeEpisode t).nextLaunch = s.nextLaunch := by
  unfold State.closeEpisode; split <;> simp
@[simp] theorem State.closeEpisode_front (s : State) (t : Nat) : (s.closeEpisode t).front = s.front := by
  unfold State.closeEpisode; split <;> simp
@[simp] theorem State.closeEpisode_fabric (s : State) (t : Nat) : (s.closeEpisode t).fabric = s.fabric := by
  unfold State.closeEpisode; split <;> simp
@[simp] theorem State.closeEpisode_dev (s : State) (t : Nat) : (s.closeEpisode t).dev = s.dev := by
  unfold State.closeEpisode; split <;> simp
@[simp] theorem State.closeEpisode_clk (s : State) (t : Nat) : (s.closeEpisode t).clk = s.clk := by
  unfold State.closeEpisode; split <;> simp
@[simp] theorem State.closeEpisode_agenda (s : State) (t : Nat) : (s.closeEpisode t).agenda = s.agenda := by
  unfold State.closeEpisode; split <;> simp
@[simp] theorem State.closeEpisode_free (s : State) (t : Nat) : (s.closeEpisode t).free = s.free := by
  unfold State.closeEpisode; split <;> simp
@[simp] theorem State.noteStep_cpu (s : State) (t a : Nat) : (s.noteStep t a).cpu = s.cpu := by
  unfold State.noteStep; split; (split <;> simp); simp
@[simp] theorem State.noteStep_others (s : State) (t a : Nat) : (s.noteStep t a).others = s.others := by
  unfold State.noteStep; split; (split <;> simp); simp
@[simp] theorem State.noteStep_cores (s : State) (t a : Nat) : (s.noteStep t a).cores = s.cores := by
  unfold State.noteStep; split; (split <;> simp); simp
@[simp] theorem State.noteStep_mem (s : State) (t a : Nat) : (s.noteStep t a).mem = s.mem := by
  unfold State.noteStep; split; (split <;> simp); simp
@[simp] theorem State.noteStep_verLines (s : State) (t a : Nat) : (s.noteStep t a).verLines = s.verLines := by
  unfold State.noteStep; split; (split <;> simp); simp
@[simp] theorem State.noteStep_verPages (s : State) (t a : Nat) : (s.noteStep t a).verPages = s.verPages := by
  unfold State.noteStep; split; (split <;> simp); simp
@[simp] theorem State.noteStep_net (s : State) (t a : Nat) : (s.noteStep t a).net = s.net := by
  unfold State.noteStep; split; (split <;> simp); simp
@[simp] theorem State.noteStep_nextId (s : State) (t a : Nat) : (s.noteStep t a).nextId = s.nextId := by
  unfold State.noteStep; split; (split <;> simp); simp
@[simp] theorem State.noteStep_launches (s : State) (t a : Nat) : (s.noteStep t a).launches = s.launches := by
  unfold State.noteStep; split; (split <;> simp); simp
@[simp] theorem State.noteStep_nextLaunch (s : State) (t a : Nat) : (s.noteStep t a).nextLaunch = s.nextLaunch := by
  unfold State.noteStep; split; (split <;> simp); simp
@[simp] theorem State.noteStep_front (s : State) (t a : Nat) : (s.noteStep t a).front = s.front := by
  unfold State.noteStep; split; (split <;> simp); simp
@[simp] theorem State.noteStep_fabric (s : State) (t a : Nat) : (s.noteStep t a).fabric = s.fabric := by
  unfold State.noteStep; split; (split <;> simp); simp
@[simp] theorem State.noteStep_dev (s : State) (t a : Nat) : (s.noteStep t a).dev = s.dev := by
  unfold State.noteStep; split; (split <;> simp); simp
@[simp] theorem State.noteStep_clk (s : State) (t a : Nat) : (s.noteStep t a).clk = s.clk := by
  unfold State.noteStep; split; (split <;> simp); simp
@[simp] theorem State.noteStep_agenda (s : State) (t a : Nat) : (s.noteStep t a).agenda = s.agenda := by
  unfold State.noteStep; split; (split <;> simp); simp
@[simp] theorem State.noteStep_free (s : State) (t a : Nat) : (s.noteStep t a).free = s.free := by
  unfold State.noteStep; split; (split <;> simp); simp
@[simp] theorem State.ackDets_cpu (s : State) (t : Nat) : (s.ackDets t).cpu = s.cpu := by
  unfold State.ackDets; split <;> simp
@[simp] theorem State.ackDets_others (s : State) (t : Nat) : (s.ackDets t).others = s.others := by
  unfold State.ackDets; split <;> simp
@[simp] theorem State.ackDets_cores (s : State) (t : Nat) : (s.ackDets t).cores = s.cores := by
  unfold State.ackDets; split <;> simp
@[simp] theorem State.ackDets_mem (s : State) (t : Nat) : (s.ackDets t).mem = s.mem := by
  unfold State.ackDets; split <;> simp
@[simp] theorem State.ackDets_verLines (s : State) (t : Nat) : (s.ackDets t).verLines = s.verLines := by
  unfold State.ackDets; split <;> simp
@[simp] theorem State.ackDets_verPages (s : State) (t : Nat) : (s.ackDets t).verPages = s.verPages := by
  unfold State.ackDets; split <;> simp
@[simp] theorem State.ackDets_net (s : State) (t : Nat) : (s.ackDets t).net = s.net := by
  unfold State.ackDets; split <;> simp
@[simp] theorem State.ackDets_nextId (s : State) (t : Nat) : (s.ackDets t).nextId = s.nextId := by
  unfold State.ackDets; split <;> simp
@[simp] theorem State.ackDets_launches (s : State) (t : Nat) : (s.ackDets t).launches = s.launches := by
  unfold State.ackDets; split <;> simp
@[simp] theorem State.ackDets_nextLaunch (s : State) (t : Nat) : (s.ackDets t).nextLaunch = s.nextLaunch := by
  unfold State.ackDets; split <;> simp
@[simp] theorem State.ackDets_front (s : State) (t : Nat) : (s.ackDets t).front = s.front := by
  unfold State.ackDets; split <;> simp
@[simp] theorem State.ackDets_fabric (s : State) (t : Nat) : (s.ackDets t).fabric = s.fabric := by
  unfold State.ackDets; split <;> simp
@[simp] theorem State.ackDets_dev (s : State) (t : Nat) : (s.ackDets t).dev = s.dev := by
  unfold State.ackDets; split <;> simp
@[simp] theorem State.ackDets_clk (s : State) (t : Nat) : (s.ackDets t).clk = s.clk := by
  unfold State.ackDets; split <;> simp
@[simp] theorem State.ackDets_agenda (s : State) (t : Nat) : (s.ackDets t).agenda = s.agenda := by
  unfold State.ackDets; split <;> simp
@[simp] theorem State.ackDets_free (s : State) (t : Nat) : (s.ackDets t).free = s.free := by
  unfold State.ackDets; split <;> simp

end Sys2Proof.Machine
end

