-- ==== Sys2Proof/Laws/Tables.lean ====
section
/-! SUPPORT. Association lists and key sets: read after write, and that every change keeps the keys strictly rising. -/

namespace Sys2Proof.Machine

theorem afind_ains {α : Type} (m : List (Nat × α)) (a b : Nat) (v : α) :
    afind (ains m a v) b = if b = a then some v else afind m b := by
  induction m with
  | nil => by_cases h : b = a <;> simp [ains, afind, h]
  | cons x m ih =>
    obtain ⟨k, x⟩ := x
    simp only [ains]
    split
    · by_cases h : b = a <;> simp [afind, h]
    · split
      · subst_vars; by_cases h : b = k <;> simp [afind, h]
      · by_cases hb : b = a
        · subst hb; simp [afind, ih]; intro h; exact absurd h ‹_›
        · simp [afind, ih, hb]

theorem aget_ains {α : Type} (d : α) (m : List (Nat × α)) (a b : Nat) (v : α) :
    aget d (ains m a v) b = if b = a then v else aget d m b := by
  induction m with
  | nil => by_cases h : b = a <;> simp [ains, aget, h]
  | cons x m ih =>
    obtain ⟨k, x⟩ := x
    simp only [ains]
    split
    · by_cases h : b = a <;> simp [aget, h]
    · split
      · subst_vars; by_cases h : b = k <;> simp [aget, h]
      · by_cases hb : b = a
        · subst hb; simp [aget, ih]; intro h; exact absurd h ‹_›
        · simp [aget, ih, hb]

theorem aget_drop {α : Type} (d : α) (m : List (Nat × α)) (a b : Nat) :
    aget d (m.filter fun e => e.1 != a) b = if b = a then d else aget d m b := by
  induction m with
  | nil => simp [aget]
  | cons x m ih =>
    obtain ⟨k, x⟩ := x
    by_cases hk : k = a
    · subst hk; by_cases hb : b = k <;> simp_all [aget]
    · by_cases hb : b = k
      · subst hb; simp [hk, aget]
      · simp [hk, aget, hb, ih]

/-- Read after write in a table with a default. -/
theorem aget_aput {α : Type} [DecidableEq α] (d : α) (m : List (Nat × α)) (a b : Nat) (v : α) :
    aget d (aput d m a v) b = if b = a then v else aget d m b := by
  unfold aput
  split
  · subst_vars; exact aget_drop _ m a b
  · exact aget_ains d m a b v

theorem nmem_nadd (m : List Nat) (a b : Nat) : nmem (nadd m a) b = (b == a || nmem m b) := by
  induction m with
  | nil => simp [nadd, nmem]
  | cons k m ih =>
    simp only [nadd]
    split
    · simp [nmem]
    · split
      · subst_vars; simp [nmem]
      · simp [nmem, ih, Bool.or_left_comm]

theorem nmem_ndel (m : List Nat) (a b : Nat) : nmem (ndel m a) b = (b != a && nmem m b) := by
  induction m with
  | nil => simp [ndel, nmem]
  | cons k m ih =>
    simp only [ndel] at ih ⊢
    by_cases hk : k = a
    · subst hk; by_cases hb : b = k 
      · subst hb; simp_all
      · have : (b == k) = false := by simpa using hb
        simp [nmem, ih, this]
    · by_cases hb : b = k
      · subst hb; simp [hk, nmem]
      · have : (b == k) = false := by simpa using hb
        simp [hk, nmem, ih, this]

/-! ## Strictly rising keys -/

theorem rising_iff (l : List Nat) : rising l = true ↔ l.Pairwise (· < ·) := by
  induction l with
  | nil => simp [rising]
  | cons a l ih =>
    cases l with
    | nil => simp [rising]
    | cons b l =>
      simp only [rising, Bool.and_eq_true, decide_eq_true_eq, ih, List.pairwise_cons, List.mem_cons, forall_eq_or_imp]
      constructor
      · rintro ⟨h, h2, h3⟩; exact ⟨⟨h, fun x hx => Nat.lt_trans h (h2 x hx)⟩, h2, h3⟩
      · rintro ⟨⟨h, _⟩, h2, h3⟩; exact ⟨h, h2, h3⟩

theorem mem_keys_ains {α : Type} (m : List (Nat × α)) (a : Nat) (v : α) (k : Nat) :
    k ∈ (ains m a v).map Prod.fst → k = a ∨ k ∈ m.map Prod.fst := by
  induction m with
  | nil => simp [ains]
  | cons x m ih =>
    obtain ⟨j, x⟩ := x
    simp only [ains]
    split
    · simp
    · split
      · subst_vars; simp only [List.map_cons, List.mem_cons]; exact fun h => h.elim .inl fun h => .inr (.inr h)
      · simp only [List.map_cons, List.mem_cons]
        rintro (h | h)
        · exact .inr (.inl h)
        · exact (ih h).elim .inl fun h => .inr (.inr h)

theorem rising_ains {α : Type} (m : List (Nat × α)) (a : Nat) (v : α) (h : rising (m.map Prod.fst) = true) :
    rising ((ains m a v).map Prod.fst) = true := by
  rw [rising_iff] at h ⊢
  induction m with
  | nil => simp [ains]
  | cons x m ih =>
    obtain ⟨k, x⟩ := x
    simp only [List.map_cons, List.pairwise_cons] at h
    simp only [ains]
    split
    · rename_i hlt
      simp only [List.map_cons, List.pairwise_cons, List.mem_cons]
      refine ⟨?_, h⟩
      rintro y (rfl | hy)
      · exact hlt
      · exact Nat.lt_trans hlt (h.1 y hy)
    · split
      · subst_vars; simpa using h
      · simp only [List.map_cons, List.pairwise_cons]
        refine ⟨fun y hy => ?_, ih h.2⟩
        rcases mem_keys_ains m a v y hy with rfl | hy
        · omega
        · exact h.1 y hy

theorem rising_filter {α : Type} (m : List (Nat × α)) (p : Nat × α → Bool) (h : rising (m.map Prod.fst) = true) :
    rising ((m.filter p).map Prod.fst) = true := by
  rw [rising_iff] at h ⊢
  exact h.sublist (List.filter_sublist.map _)

theorem rising_aput {α : Type} [DecidableEq α] (d : α) (m : List (Nat × α)) (a : Nat) (v : α)
    (h : rising (m.map Prod.fst) = true) : rising ((aput d m a v).map Prod.fst) = true := by
  unfold aput
  split
  · exact rising_filter m _ h
  · exact rising_ains m a v h

theorem rising_ndel (m : List Nat) (a : Nat) (h : rising m = true) : rising (ndel m a) = true := by
  rw [rising_iff] at h ⊢
  exact h.sublist List.filter_sublist

theorem mem_nadd (m : List Nat) (a k : Nat) : k ∈ nadd m a → k = a ∨ k ∈ m := by
  induction m with
  | nil => simp [nadd]
  | cons j m ih =>
    simp only [nadd]
    split
    · simp
    · split
      · subst_vars; simp
      · simp only [List.mem_cons]
        rintro (h | h)
        · exact .inr (.inl h)
        · exact (ih h).elim .inl fun h => .inr (.inr h)

theorem rising_nadd (m : List Nat) (a : Nat) (h : rising m = true) : rising (nadd m a) = true := by
  rw [rising_iff] at h ⊢
  induction m with
  | nil => simp [nadd]
  | cons k m ih =>
    simp only [List.pairwise_cons] at h
    simp only [nadd]
    split
    · rename_i hlt
      simp only [List.pairwise_cons, List.mem_cons]
      refine ⟨?_, h⟩
      rintro y (rfl | hy)
      · exact hlt
      · exact Nat.lt_trans hlt (h.1 y hy)
    · split
      · subst_vars; simpa using h
      · simp only [List.pairwise_cons]
        refine ⟨fun y hy => ?_, ih h.2⟩
        rcases mem_nadd m a y hy with rfl | hy
        · omega
        · exact h.1 y hy

theorem rising_fold (f : List Nat → Nat → List Nat) (hf : ∀ m a, rising m = true → rising (f m a) = true) (ks m : List Nat)
    (h : rising m = true) : rising (ks.foldl f m) = true := by
  induction ks generalizing m with
  | nil => exact h
  | cons k ks ih => exact ih _ (hf m k h)

/-- Every change of a table with a default keeps its other entries unlike the default. -/
theorem aput_nodefault {α : Type} [DecidableEq α] (d : α) (m : List (Nat × α)) (a : Nat) (v : α)
    (h : ∀ e ∈ m, e.2 ≠ d) : ∀ e ∈ aput d m a v, e.2 ≠ d := by
  unfold aput
  split
  · intro e he; exact h e (List.mem_filter.1 he).1
  · rename_i hv
    induction m with
    | nil => simpa [ains] using hv
    | cons x m ih =>
      obtain ⟨k, x⟩ := x
      simp only [ains]
      split
      · intro e he
        rcases List.mem_cons.1 he with rfl | he
        · exact hv
        · exact h e he
      · split
        · intro e he
          rcases List.mem_cons.1 he with rfl | he
          · exact hv
          · exact h e (List.mem_cons_of_mem _ he)
        · intro e he
          rcases List.mem_cons.1 he with rfl | he
          · exact h _ List.mem_cons_self
          · exact ih (fun e he => h e (List.mem_cons_of_mem _ he)) e he

end Sys2Proof.Machine
end

