-- ==== Sys2Proof/Laws/Registers.lean ====
section
/-! SUPPORT. Registers read after a write, and what finishing an instruction does:
one lemma per shared operation. -/

namespace Sys2Proof.Machine

theorem vget_vset {α : Type} {n : Nat} (d : α) (v : Vector α n) (i j : Nat) (x : α) :
    vget d (vset v i x) j = if j = i ∧ i < n then x else vget d v j := by
  simp only [vget, vset, Vector.getElem?_setIfInBounds]
  by_cases h : i = j
  · subst h
    by_cases hn : i < n
    · simp [hn]
    · simp [hn]
  · have : ¬ j = i := fun e => h e.symm
    simp [h, this]

@[simp] theorem State.core_updCore (s : State) (a b : Nat) (f : CoreSt → CoreSt) :
    (s.updCore a f).core b = if b = a then f (s.core a) else s.core b := aget_aput CoreSt.reset s.cores a b _

@[simp] theorem State.core_modCpu (s : State) (f : Ctx → Ctx) (n : Nat) : (s.modCpu f).core n = s.core n := rfl
@[simp] theorem State.core_modCsr (s : State) (f : Csrs → Csrs) (n : Nat) : (s.modCsr f).core n = s.core n := rfl
@[simp] theorem State.core_modRegs (s : State) (f : Regs → Regs) (n : Nat) : (s.modRegs f).core n = s.core n := rfl
@[simp] theorem State.core_setPcc (s : State) (c : Payload) (n : Nat) : (s.setPcc c).core n = s.core n := rfl
@[simp] theorem State.core_setPc (s : State) (a n : Nat) : (s.setPc a).core n = s.core n := State.core_setPcc s _ n
@[simp] theorem State.core_updTile (s : State) (t : Nat) (f : TileSt → TileSt) (n : Nat) : (s.updTile t f).core n = s.core n := by
  unfold State.core; simp

/-- What a write of a general register leaves in it and in the others (R71, R72, R139). -/
theorem State.getG_setG (s : State) (d n : Nat) (v : GReg) (hd : d < 64) :
    (s.setG d v).getG n = if n = d ∧ d ≠ 0 then v else s.getG n := by
  unfold State.setG
  by_cases h0 : d = 0
  · simp [h0]
  · rw [if_neg h0]
    split
    · rename_i h
      simp only [State.getG, State.updCore_cpu, State.core_updCore, if_true, vget_vset]
      grind
    · split
      · rename_i h1 h2
        simp only [State.getG, State.modRegs_cpu_level, State.modRegs_cpu_handler, State.modRegs_cpu_core, State.modRegs_cpu_regs, vget_vset]
        have : (s.modRegs fun r => { r with gh := vset r.gh (d - 48) v }).core s.cpu.core = s.core s.cpu.core := rfl
        rw [this]
        grind
      · rename_i h1 h2
        simp only [State.getG, State.modRegs_cpu_level, State.modRegs_cpu_handler, State.modRegs_cpu_core, State.modRegs_cpu_regs, vget_vset]
        have : (s.modRegs fun r => { r with g := vset r.g d v }).core s.cpu.core = s.core s.cpu.core := rfl
        rw [this]
        grind

@[simp] theorem State.getG_zero (s : State) : s.getG 0 = GReg.zero := rfl
@[simp] theorem State.setG_zero (s : State) (v : GReg) : s.setG 0 v = s := rfl
@[simp] theorem State.getP_zero (s : State) : s.getP 0 = 0xFFFFFFFF := rfl
@[simp] theorem State.setP_zero (s : State) (x : BitVec 32) : s.setP 0 x = s := rfl

theorem State.getV_setV (s : State) (d n : Nat) (x : BitVec 1024) (hd : d < 32) :
    (s.setV d x).getV n = if n = d then x else s.getV n := by
  simp [State.getV, State.setV, vget_vset, hd]

theorem State.getP_setP (s : State) (d n : Nat) (x : BitVec 32) (hd : d < 8) :
    (s.setP d x).getP n = if n = d ∧ d ≠ 0 then x else s.getP n := by
  unfold State.setP
  by_cases h : d = 0
  · simp [h]
  · simp only [h, if_false, State.getP, State.modRegs_cpu_regs, vget_vset]
    grind

/-- Retiring and waiting read no register differently. -/
@[simp] theorem State.getG_advance (s : State) (n : Nat) : s.advance.getG n = s.getG n := by
  have h : s.advance.core s.cpu.core = s.core s.cpu.core := congrArg (fun m => aget CoreSt.reset m s.cpu.core) (State.advance_cores s)
  simp [State.getG, h]

/-- The three ways in which a write of a general register can go (R71, R72, R139). -/
theorem State.setG_cases (s : State) (d : Nat) (v : GReg) :
    s.setG d v = s ∨ (∃ f : CoreSt → CoreSt, s.setG d v = s.updCore s.cpu.core f ∧ ∀ c, f c = { c with rt := (f c).rt }) ∨
      ∃ f : Regs → Regs, s.setG d v = s.modRegs f ∧ ∀ r, f r = { r with g := (f r).g, gh := (f r).gh } := by
  unfold State.setG
  split
  · exact .inl rfl
  · split
    · exact .inr (.inl ⟨_, rfl, fun _ => rfl⟩)
    · split
      · exact .inr (.inr ⟨_, rfl, fun _ => rfl⟩)
      · exact .inr (.inr ⟨_, rfl, fun _ => rfl⟩)

/-- Everything a write of a general register leaves alone. -/
theorem State.setG_keeps (s : State) (d : Nat) (v : GReg) :
    (s.setG d v).mem = s.mem ∧ (s.setG d v).net = s.net ∧ (s.setG d v).others = s.others ∧ (s.setG d v).cpu.csrs = s.cpu.csrs ∧
      (s.setG d v).cpu.pcc = s.cpu.pcc ∧ (s.setG d v).cpu.level = s.cpu.level ∧ (s.setG d v).cpu.regs.v = s.cpu.regs.v ∧
      (s.setG d v).cpu.regs.p = s.cpu.regs.p := by
  obtain h | ⟨f, h, _⟩ | ⟨f, h, hf⟩ := s.setG_cases d v
  · simp [h]
  · simp [h]
  · rw [h]; simp only [State.modRegs_mem, State.modRegs_net, State.modRegs_others, State.modRegs_cpu_csrs, State.modRegs_cpu_pcc,
      State.modRegs_cpu_level, State.modRegs_cpu_regs, true_and]
    rw [hf]; exact ⟨rfl, rfl⟩

@[simp] theorem State.pc_setG (s : State) (d : Nat) (v : GReg) : (s.setG d v).pc = s.pc := by
  unfold State.pc; rw [(s.setG_keeps d v).2.2.2.2.1]

/-! ## Finishing -/

theorem State.finish_ok (s t : State) : s.finish (.ok t) = .next t.advance := rfl
theorem State.finish_trap (s : State) (t : Trap) : s.finish (.trap t) = .next (s.takeTrap t) := rfl
theorem State.finish_wait (s : State) : s.finish .wait = .next s.stall := rfl

/-- Finishing an instruction always answers a next state. -/
theorem State.finish_next (s : State) (o : Out State) : ∃ t, s.finish o = .next t := by cases o <;> exact ⟨_, rfl⟩
theorem State.finishJump_next (s : State) (o : Out State) : ∃ t, s.finishJump o = .next t := by cases o <;> exact ⟨_, rfl⟩

end Sys2Proof.Machine
end

