-- ==== Sys2Proof/Laws/Caps.lean ====
section
/-! SUPPORT. The fields of a capability that has been put together or moved (R75), and the PC that a jump leaves (R74). -/

namespace Sys2Proof.Machine

theorem mkCap_toNat (p e m b a : Nat) :
    (mkCap p e m b a).toNat =
      p % 64 * 2 ^ 122 + e % 64 * 2 ^ 116 + m % 4096 * 2 ^ 104 + b % 2 ^ 52 * 2 ^ 52 + a % 2 ^ 52 := by
  unfold mkCap; rw [BitVec.toNat_ofNat]; omega

@[simp] theorem capAddr_mkCap (p e m b a : Nat) : capAddr (mkCap p e m b a) = a % 2 ^ 52 := by
  unfold capAddr bits; rw [mkCap_toNat]; omega
@[simp] theorem capBase_mkCap (p e m b a : Nat) : capBase (mkCap p e m b a) = b % 2 ^ 52 := by
  unfold capBase bits; rw [mkCap_toNat]; omega
@[simp] theorem capLm_mkCap (p e m b a : Nat) : capLm (mkCap p e m b a) = m % 4096 := by
  unfold capLm bits; rw [mkCap_toNat]; omega
@[simp] theorem capLe_mkCap (p e m b a : Nat) : capLe (mkCap p e m b a) = e % 64 := by
  unfold capLe bits; rw [mkCap_toNat]; omega
@[simp] theorem capPerms_mkCap (p e m b a : Nat) : capPerms (mkCap p e m b a) = p % 64 := by
  unfold capPerms bits; rw [mkCap_toNat]; omega

theorem capBase_lt (c : Payload) : capBase c < 2 ^ 52 := by unfold capBase bits; omega
theorem capAddr_lt (c : Payload) : capAddr c < 2 ^ 52 := by unfold capAddr bits; omega
theorem capLm_lt (c : Payload) : capLm c < 4096 := by unfold capLm bits; omega
theorem capLe_lt (c : Payload) : capLe c < 64 := by unfold capLe bits; omega
theorem capPerms_lt (c : Payload) : capPerms c < 64 := by unfold capPerms bits; omega

/-- Moving ADDR leaves the bounds and the permissions. -/
@[simp] theorem capAddr_setAddr (c : Payload) (a : Nat) : capAddr (capSetAddr c a) = a % 2 ^ 52 := by simp [capSetAddr]
@[simp] theorem capBase_setAddr (c : Payload) (a : Nat) : capBase (capSetAddr c a) = capBase c := by
  simp [capSetAddr]; exact capBase_lt c
@[simp] theorem capLm_setAddr (c : Payload) (a : Nat) : capLm (capSetAddr c a) = capLm c := by
  simp [capSetAddr]; exact capLm_lt c
@[simp] theorem capLe_setAddr (c : Payload) (a : Nat) : capLe (capSetAddr c a) = capLe c := by
  simp [capSetAddr]; exact capLe_lt c
@[simp] theorem capPerms_setAddr (c : Payload) (a : Nat) : capPerms (capSetAddr c a) = capPerms c := by
  simp [capSetAddr]; exact capPerms_lt c
@[simp] theorem capLen_setAddr (c : Payload) (a : Nat) : capLen (capSetAddr c a) = capLen c := by simp [capLen]
@[simp] theorem capHas_setAddr (c : Payload) (a : Nat) (p : Perm) : capHas (capSetAddr c a) p = capHas c p := by simp [capHas]

/-- The PC after it has been set. -/
@[simp] theorem State.pc_setPc (s : State) (a : Nat) : (s.setPc a).pc = a % 2 ^ 52 := by simp [State.pc, State.setPc]
@[simp] theorem State.pc_setPcc (s : State) (c : Payload) : (s.setPcc c).pc = capAddr c := rfl

theorem State.pc_lt (s : State) : s.pc < 2 ^ 52 := capAddr_lt _

/-- An instruction that retires leaves the PC four bytes on. -/
@[simp] theorem State.pc_advance (s : State) : s.advance.pc = s.pc4 := by
  unfold State.advance
  simp [State.pc4, State.pc]

end Sys2Proof.Machine
end

