-- ==== Sys2Proof/Laws/Float.lean ====
section
/-! SUPPORT. What the binary logarithm of a ratio is, by which `roundF` finds the quantum of R28. -/

namespace Sys2Proof.Machine

/-- num / den lies in the binade that `floorLog2` names (R28). -/
theorem floorLog2_bounds {num den : Nat} (hn : 0 < num) (hd : 0 < den) :
    (2 : ℚ) ^ floorLog2 num den 0 * den ≤ num ∧ (num : ℚ) < 2 ^ (floorLog2 num den 0 + 1) * den := by
  have n1 : (2 : ℚ) ^ (Nat.log2 num : Int) ≤ num := by exact_mod_cast Nat.log2_self_le hn.ne'
  have n2 : (num : ℚ) < 2 ^ ((Nat.log2 num : Int) + 1) := by exact_mod_cast Nat.lt_log2_self (n := num)
  have d1 : (2 : ℚ) ^ (Nat.log2 den : Int) ≤ den := by exact_mod_cast Nat.log2_self_le hd.ne'
  have d2 : (den : ℚ) < 2 ^ ((Nat.log2 den : Int) + 1) := by exact_mod_cast Nat.lt_log2_self (n := den)
  generalize hk : (Nat.log2 num : Int) - Nat.log2 den = k
  have hbig : (if k ≥ 0 then decide (num ≥ den * 2 ^ k.toNat) else decide (num * 2 ^ (-k).toNat ≥ den)) =
      decide ((2 : ℚ) ^ k * den ≤ num) := by
    split
    · rename_i h
      obtain ⟨j, rfl⟩ := Int.eq_ofNat_of_zero_le h
      simp only [Int.toNat_natCast, zpow_natCast, ge_iff_le, decide_eq_decide]
      rw [mul_comm ((2 : ℚ) ^ j)]
      exact_mod_cast Iff.rfl
    · rename_i h
      obtain ⟨j, hj⟩ := Int.eq_ofNat_of_zero_le (show 0 ≤ -k by omega)
      have hk' : k = -(j : Int) := by omega
      subst hk'
      simp only [neg_neg, Int.toNat_natCast, zpow_neg, zpow_natCast, ge_iff_le, decide_eq_decide]
      rw [inv_mul_le_iff₀ (by positivity), mul_comm ((2 : ℚ) ^ j)]
      exact_mod_cast Iff.rfl
  have hF : floorLog2 num den 0 = if (2 : ℚ) ^ k * den ≤ num then k else k - 1 := by
    simp only [floorLog2, hk, hbig, decide_eq_true_eq, add_zero]
  rw [hF]
  split
  · rename_i h
    refine ⟨h, n2.trans_le ?_⟩
    rw [show (Nat.log2 num : Int) + 1 = k + 1 + Nat.log2 den by omega, zpow_add₀ (by norm_num)]
    exact mul_le_mul_of_nonneg_left d1 (by positivity)
  · rename_i h
    refine ⟨?_, by simpa using h⟩
    refine le_trans (mul_le_mul_of_nonneg_left d2.le (by positivity)) ?_
    rw [← zpow_add₀ (by norm_num), show k - 1 + ((Nat.log2 den : Int) + 1) = Nat.log2 num by omega]
    exact n1

/-- A ratio whose integer part, scaled by 2^(k1 − k2), has m + 1 bits lies in binade m − k1 + k2 (R28). -/
theorem floorLog2_of_digits {num den n r m k1 k2 : Nat} (exp : Int) (hd : 0 < den) (h : num * 2 ^ k1 = n * (den * 2 ^ k2) + r)
    (hr : r < den * 2 ^ k2) (hlo : 2 ^ m ≤ n) (hhi : n < 2 ^ (m + 1)) : floorLog2 num den exp = (m : Int) - k1 + k2 + exp := by
  have hnum : 0 < num := by
    rcases Nat.eq_zero_or_pos num with rfl | h0
    · have : 0 < n * (den * 2 ^ k2) := by have := Nat.two_pow_pos m; have : 0 < n := by omega
                                          positivity
      omega
    · exact h0
  have hz : floorLog2 num den exp = floorLog2 num den 0 + exp := by simp [floorLog2]
  obtain ⟨b1, b2⟩ := floorLog2_bounds hnum hd
  have lo : (2 : ℚ) ^ ((m : Int) - k1 + k2) * den ≤ num := by
    have : (2 : Nat) ^ m * (den * 2 ^ k2) ≤ num * 2 ^ k1 := by rw [h]; exact (Nat.mul_le_mul_right _ hlo).trans (Nat.le_add_right _ _)
    have q : (2 : ℚ) ^ m * (den * 2 ^ k2) ≤ num * 2 ^ k1 := by exact_mod_cast this
    rw [zpow_add₀ (by norm_num), zpow_sub₀ (by norm_num), zpow_natCast, zpow_natCast, zpow_natCast, div_mul_eq_mul_div, div_mul_eq_mul_div,
      div_le_iff₀ (by positivity)]
    linarith
  have hi : (num : ℚ) < 2 ^ ((m : Int) - k1 + k2 + 1) * den := by
    have : num * 2 ^ k1 < 2 ^ (m + 1) * (den * 2 ^ k2) := by
      rw [h]
      calc n * (den * 2 ^ k2) + r < (n + 1) * (den * 2 ^ k2) := by rw [Nat.succ_mul]; omega
        _ ≤ _ := Nat.mul_le_mul_right _ hhi
    have q : (num : ℚ) * 2 ^ k1 < 2 ^ (m + 1) * (den * 2 ^ k2) := by exact_mod_cast this
    rw [show (m : Int) - k1 + k2 + 1 = ((m + 1 : Nat) : Int) - k1 + k2 by push_cast; ring, zpow_add₀ (by norm_num), zpow_sub₀ (by norm_num),
      zpow_natCast, zpow_natCast, zpow_natCast, div_mul_eq_mul_div, div_mul_eq_mul_div, lt_div_iff₀ (by positivity)]
    linarith
  have dp : (0 : ℚ) < den := by exact_mod_cast hd
  have e1 : (2 : ℚ) ^ floorLog2 num den 0 < 2 ^ ((m : Int) - k1 + k2 + 1) := lt_of_mul_lt_mul_right (b1.trans_lt hi) dp.le
  have e2 : (2 : ℚ) ^ ((m : Int) - k1 + k2) < 2 ^ (floorLog2 num den 0 + 1) := lt_of_mul_lt_mul_right (lo.trans_lt b2) dp.le
  rw [zpow_lt_zpow_iff_right₀ (by norm_num)] at e1 e2
  omega

end Sys2Proof.Machine
end

