-- ==== Sys2Proof/Laws/Memory.lean ====
section
/-! SUPPORT. Memory: the byte read after a write, and that every operation keeps the canonical form `Memory.wf`. -/

namespace Sys2Proof.Machine

theorem putBytes_byte (bs : List Byte) : ∀ (l : List Host.Cell) (k a : Nat),
    aget 0 (putBytes l k bs) a = if k ≤ a ∧ a < k + bs.length then bs.getD (a - k) 0 else aget 0 l a := by
  induction bs with
  | nil => intro l k a; simp only [putBytes, List.length_nil]; rw [if_neg]; omega
  | cons b bs ih =>
    intro l k a
    simp only [putBytes, ih, aget_aput, List.length_cons]
    by_cases h : a = k
    · subst h; rw [if_neg (by omega), if_pos rfl, if_pos (by omega)]; simp
    · by_cases h2 : k + 1 ≤ a ∧ a < k + 1 + bs.length
      · rw [if_pos h2, if_pos (by omega)]
        obtain ⟨n, rfl⟩ : ∃ n, a = k + 1 + n := ⟨a - (k + 1), by omega⟩
        have : k + 1 + n - k = n + 1 := by omega
        simp [this]
      · rw [if_neg h2, if_neg h, if_neg (by omega)]

/-- The byte a write leaves at a key: what it wrote there, and elsewhere what was there. -/
theorem byte_write (m : Mem) (k : Nat) (bs : List Byte) (t p : Bool) (a : Nat) :
    (m.write k bs t p).byte a = if k ≤ a ∧ a < k + bs.length then bs.getD (a - k) 0 else m.byte a := putBytes_byte bs m.bytes k a

theorem byte_write_out (m : Mem) (k : Nat) (bs : List Byte) (t p : Bool) (a : Nat) (h : a < k ∨ k + bs.length ≤ a) :
    (m.write k bs t p).byte a = m.byte a := by rw [byte_write, if_neg (by omega)]

theorem rising_putBytes (bs : List Byte) : ∀ (l : List Host.Cell) (k : Nat), rising (l.map Prod.fst) = true →
    rising ((putBytes l k bs).map Prod.fst) = true := by
  induction bs with
  | nil => intro l k h; exact h
  | cons b bs ih => intro l k h; exact ih _ _ (rising_aput 0 l k b h)

theorem nonzero_putBytes (bs : List Byte) : ∀ (l : List Host.Cell) (k : Nat), (∀ e ∈ l, e.2 ≠ 0) →
    ∀ e ∈ putBytes l k bs, e.2 ≠ 0 := by
  induction bs with
  | nil => intro l k h; exact h
  | cons b bs ih => intro l k h; exact ih _ _ (aput_nodefault 0 l k b h)

/-- The canonical form, as its parts. -/
theorem wf_iff (m : Mem) : Memory.wf m = true ↔
    rising (m.bytes.map Prod.fst) = true ∧ (∀ c ∈ m.bytes, c.2 ≠ 0) ∧ rising m.tags = true ∧ rising m.marks = true ∧
      rising m.bad = true ∧ rising m.soft = true ∧ rising (m.badCheck.map Prod.fst) = true := by
  simp [Memory.wf, and_assoc]

theorem wf_reset : Memory.wf State.reset.mem = true := by decide

/-- A write keeps the canonical form. -/
theorem wf_write (m : Mem) (k : Nat) (bs : List Byte) (t p : Bool) (h : Memory.wf m = true) :
    Memory.wf (m.write k bs t p) = true := by
  rw [wf_iff] at h ⊢
  obtain ⟨h1, h2, h3, h4, h5, h6, h7⟩ := h
  refine ⟨rising_putBytes bs _ k h1, nonzero_putBytes bs _ k h2, ?_, ?_, ?_, ?_, ?_⟩
  · refine rising_fold _ (fun ms a h => ?_) _ _ h3
    cases t
    · exact rising_ndel ms a h
    · exact rising_nadd ms a h
  · refine rising_fold _ (fun ms a h => ?_) _ _ h4
    split
    · exact rising_nadd ms a h
    · split
      · exact rising_ndel ms a h
      · split
        · exact rising_nadd ms a h
        · exact h
  · exact rising_fold _ rising_ndel _ _ h5
  · exact rising_fold _ rising_ndel _ _ h6
  · exact rising_filter _ _ h7

/-- Setting or clearing one poison mark, tag, error or check keeps it. -/
theorem wf_marks (m : Mem) (ms : List Nat) (h : Memory.wf m = true) (hm : rising ms = true) :
    Memory.wf { m with marks := ms } = true := by rw [wf_iff] at *; exact ⟨h.1, h.2.1, h.2.2.1, hm, h.2.2.2.2⟩

theorem wf_tags (m : Mem) (ts : List Nat) (h : Memory.wf m = true) (ht : rising ts = true) :
    Memory.wf { m with tags := ts } = true := by rw [wf_iff] at *; exact ⟨h.1, h.2.1, ht, h.2.2.2⟩

theorem wf_carryCheck (s : State) (k : Nat) (c : Option Nat) (h : Memory.wf s.mem = true) :
    Memory.wf (s.carryCheck k c).mem = true := by
  cases c with
  | none => exact h
  | some v => rw [wf_iff] at *; exact ⟨h.1, h.2.1, h.2.2.1, h.2.2.2.1, h.2.2.2.2.1, h.2.2.2.2.2.1, rising_ains _ _ _ h.2.2.2.2.2.2⟩

/-! ## What a write meets changes no byte of memory -/

@[simp] theorem State.memRecord_mem (s : State) (c k b : Nat) : (s.memRecord c k b).mem = s.mem := by
  unfold State.memRecord; split <;> rfl

@[simp] theorem State.unitEvent_mem (s : State) (u : Nat) : (s.unitEvent u).2.mem = s.mem := rfl

theorem foldl_keeps {α β : Type} (f : State → α → State) (p : State → β) (h : ∀ s x, p (f s x) = p s) (xs : List α) (s : State) :
    p (xs.foldl f s) = p s := by
  induction xs generalizing s with
  | nil => rfl
  | cons x xs ih => rw [List.foldl_cons, ih, h]

@[simp] theorem State.fenceOne_mem (s : State) (p t : Nat) : (s.fenceOne p t).mem = s.mem := by
  unfold State.fenceOne; simp only; split <;> first | rfl | (split <;> rfl)

/-- Detection changes no memory (R394). -/
@[simp] theorem State.detect_mem (s : State) (t : Nat) : (s.detect t).mem = s.mem :=
  foldl_keeps _ State.mem (fun s u => s.fenceOne_mem _ u) _ _

@[simp] theorem State.uncorrectable_mem (s : State) (w : Nat) : (s.uncorrectable w).mem = s.mem := by
  unfold State.uncorrectable
  split
  · simp only
    split <;> simp
  · rfl

@[simp] theorem State.meetWrite_mem (s : State) (k n b : Nat) : (s.meetWrite k n b).mem = s.mem := by
  unfold State.meetWrite
  refine foldl_keeps _ State.mem (fun s w => ?_) _ _
  split
  · rfl
  · split
    · simp
    · split
      · simp
      · split <;> simp

@[simp] theorem State.markDirty_mem (s : State) (k n : Nat) : (s.markDirty k n).mem = s.mem := by
  unfold State.markDirty
  split
  · rfl
  · split <;> simp

/-- A write performed at its home leaves in memory what `Mem.write` does (R78, R89). -/
@[simp] theorem State.writeMem_mem (s : State) (k : Nat) (bs : List Byte) (t p : Bool) (b : Nat) :
    (s.writeMem k bs t p b).mem = s.mem.write k bs t p := by
  simp [State.writeMem]

/-- A read changes no byte: it may set a mark, clear an error and write a record (R298). -/
theorem State.meetRead_byte (s : State) (k n b a : Nat) : (s.meetRead k n b).mem.byte a = s.mem.byte a := by
  unfold State.meetRead
  refine foldl_keeps _ (fun s => s.mem.byte a) (fun s w => ?_) _ _
  split
  · simp [Mem.byte]
  · split <;> simp [Mem.byte]

theorem State.meetRead_wf (s : State) (k n b : Nat) (h : Memory.wf s.mem = true) : Memory.wf (s.meetRead k n b).mem = true := by
  unfold State.meetRead
  generalize wordsIn k n = ws
  induction ws generalizing s with
  | nil => exact h
  | cons w ws ih =>
    rw [List.foldl_cons]
    refine ih _ ?_
    rw [wf_iff] at h
    split
    · simp only [State.uncorrectable_mem, State.memRecord_mem]
      rw [wf_iff]
      exact ⟨h.1, h.2.1, h.2.2.1, rising_nadd _ _ h.2.2.2.1, rising_ndel _ _ h.2.2.2.2.1, h.2.2.2.2.2⟩
    · split
      · simp only [State.memRecord_mem]
        rw [wf_iff]
        exact ⟨h.1, h.2.1, h.2.2.1, h.2.2.2.1, h.2.2.2.2.1, rising_ndel _ _ h.2.2.2.2.2.1, h.2.2.2.2.2.2⟩
      · rw [wf_iff]; exact h

theorem State.writeMem_wf (s : State) (k : Nat) (bs : List Byte) (t p : Bool) (b : Nat) (h : Memory.wf s.mem = true) :
    Memory.wf (s.writeMem k bs t p b).mem = true := by simpa using wf_write s.mem k bs t p h

end Sys2Proof.Machine
end

