-- ==== Sys2Proof/Laws/PerInstr.lean ====
section
/-! SUPPORT. What holds of every instruction as syntax, one lemma per constructor: the word of a well-formed instruction is a 32-bit
word (R41). -/

namespace Sys2Proof.Laws

set_option Elab.async false
set_option linter.unusedSimpArgs false

/-- The word of a well-formed instruction has 32 bits (R41). -/
def Encoding.Statement (i : Instr) : Prop := wf i = true → ∀ w, encode i = some w → w < 2 ^ 32

theorem noWord {i : Instr} (h : encode i = none) : Encoding.Statement i := fun _ w hw => by rw [h] at hw; exact absurd hw (by simp)

theorem LWidth.code_lt (x : LWidth) : x.code < 8 := by cases x <;> decide
theorem SWidth.code_lt (x : SWidth) : x.code < 8 := by cases x <;> decide
theorem AWidth.code_lt (x : AWidth) : x.code < 2 := by cases x <;> decide
theorem Scope.code_lt (x : Scope) : x.code < 4 := by cases x <;> decide
theorem Ord.code_lt (x : Ord) : x.code < 2 := by cases x <;> decide
theorem FFmt.code_lt (x : FFmt) : x.code < 2 := by cases x <;> decide
theorem CvtType.code_lt (x : CvtType) : x.code < 8 := by cases x <;> decide
theorem CvtDir.code_lt (x : CvtDir) : x.code < 2 := by cases x <;> decide
theorem VType.code_lt (x : VType) : x.code < 16 := by cases x <;> decide
theorem RMode.code_lt (x : RMode) : x.code < 8 := by cases x <;> decide
theorem Eng.code_lt (x : Eng) : x.code < 4 := by cases x <;> decide
theorem EProgSel.code_lt (x : EProgSel) : x.code < 4 := by cases x <;> decide
theorem ux_lt (n : Nat) (x : Int) : ux n x < 2 ^ n := by
  unfold ux
  have h : (0 : Int) < 2 ^ n := Int.pow_pos (by decide)
  have := Int.emod_lt_of_pos x h
  have := Int.emod_nonneg x (Int.ne_of_gt h)
  have : (((2 ^ n : Nat) : Int)) = 2 ^ n := by simp
  omega

theorem Encoding.add (d : Nat) (a : Nat) (b : Nat) : Encoding.Statement (.add d a b) := by
  intro h word hw
  have h : ((d < 64 && a < 64 && b < 64 : Bool)) = true := h
  simp only [Bool.and_eq_true, decide_eq_true_eq, cmdOk, pairOk] at h
  injection hw with hw
  omega
theorem Encoding.sub (d : Nat) (a : Nat) (b : Nat) : Encoding.Statement (.sub d a b) := by
  intro h word hw
  have h : ((d < 64 && a < 64 && b < 64 : Bool)) = true := h
  simp only [Bool.and_eq_true, decide_eq_true_eq, cmdOk, pairOk] at h
  injection hw with hw
  omega
theorem Encoding.and (d : Nat) (a : Nat) (b : Nat) : Encoding.Statement (.and d a b) := by
  intro h word hw
  have h : ((d < 64 && a < 64 && b < 64 : Bool)) = true := h
  simp only [Bool.and_eq_true, decide_eq_true_eq, cmdOk, pairOk] at h
  injection hw with hw
  omega
theorem Encoding.or (d : Nat) (a : Nat) (b : Nat) : Encoding.Statement (.or d a b) := by
  intro h word hw
  have h : ((d < 64 && a < 64 && b < 64 : Bool)) = true := h
  simp only [Bool.and_eq_true, decide_eq_true_eq, cmdOk, pairOk] at h
  injection hw with hw
  omega
theorem Encoding.xor (d : Nat) (a : Nat) (b : Nat) : Encoding.Statement (.xor d a b) := by
  intro h word hw
  have h : ((d < 64 && a < 64 && b < 64 : Bool)) = true := h
  simp only [Bool.and_eq_true, decide_eq_true_eq, cmdOk, pairOk] at h
  injection hw with hw
  omega
theorem Encoding.andn (d : Nat) (a : Nat) (b : Nat) : Encoding.Statement (.andn d a b) := by
  intro h word hw
  have h : ((d < 64 && a < 64 && b < 64 : Bool)) = true := h
  simp only [Bool.and_eq_true, decide_eq_true_eq, cmdOk, pairOk] at h
  injection hw with hw
  omega
theorem Encoding.shl (d : Nat) (a : Nat) (b : Nat) : Encoding.Statement (.shl d a b) := by
  intro h word hw
  have h : ((d < 64 && a < 64 && b < 64 : Bool)) = true := h
  simp only [Bool.and_eq_true, decide_eq_true_eq, cmdOk, pairOk] at h
  injection hw with hw
  omega
theorem Encoding.shr (d : Nat) (a : Nat) (b : Nat) : Encoding.Statement (.shr d a b) := by
  intro h word hw
  have h : ((d < 64 && a < 64 && b < 64 : Bool)) = true := h
  simp only [Bool.and_eq_true, decide_eq_true_eq, cmdOk, pairOk] at h
  injection hw with hw
  omega
theorem Encoding.sar (d : Nat) (a : Nat) (b : Nat) : Encoding.Statement (.sar d a b) := by
  intro h word hw
  have h : ((d < 64 && a < 64 && b < 64 : Bool)) = true := h
  simp only [Bool.and_eq_true, decide_eq_true_eq, cmdOk, pairOk] at h
  injection hw with hw
  omega
theorem Encoding.rol (d : Nat) (a : Nat) (b : Nat) : Encoding.Statement (.rol d a b) := by
  intro h word hw
  have h : ((d < 64 && a < 64 && b < 64 : Bool)) = true := h
  simp only [Bool.and_eq_true, decide_eq_true_eq, cmdOk, pairOk] at h
  injection hw with hw
  omega
theorem Encoding.slt (d : Nat) (a : Nat) (b : Nat) : Encoding.Statement (.slt d a b) := by
  intro h word hw
  have h : ((d < 64 && a < 64 && b < 64 : Bool)) = true := h
  simp only [Bool.and_eq_true, decide_eq_true_eq, cmdOk, pairOk] at h
  injection hw with hw
  omega
theorem Encoding.sltn (d : Nat) (a : Nat) (b : Nat) : Encoding.Statement (.sltn d a b) := by
  intro h word hw
  have h : ((d < 64 && a < 64 && b < 64 : Bool)) = true := h
  simp only [Bool.and_eq_true, decide_eq_true_eq, cmdOk, pairOk] at h
  injection hw with hw
  omega
theorem Encoding.min (d : Nat) (a : Nat) (b : Nat) : Encoding.Statement (.min d a b) := by
  intro h word hw
  have h : ((d < 64 && a < 64 && b < 64 : Bool)) = true := h
  simp only [Bool.and_eq_true, decide_eq_true_eq, cmdOk, pairOk] at h
  injection hw with hw
  omega
theorem Encoding.max (d : Nat) (a : Nat) (b : Nat) : Encoding.Statement (.max d a b) := by
  intro h word hw
  have h : ((d < 64 && a < 64 && b < 64 : Bool)) = true := h
  simp only [Bool.and_eq_true, decide_eq_true_eq, cmdOk, pairOk] at h
  injection hw with hw
  omega
theorem Encoding.minn (d : Nat) (a : Nat) (b : Nat) : Encoding.Statement (.minn d a b) := by
  intro h word hw
  have h : ((d < 64 && a < 64 && b < 64 : Bool)) = true := h
  simp only [Bool.and_eq_true, decide_eq_true_eq, cmdOk, pairOk] at h
  injection hw with hw
  omega
theorem Encoding.maxn (d : Nat) (a : Nat) (b : Nat) : Encoding.Statement (.maxn d a b) := by
  intro h word hw
  have h : ((d < 64 && a < 64 && b < 64 : Bool)) = true := h
  simp only [Bool.and_eq_true, decide_eq_true_eq, cmdOk, pairOk] at h
  injection hw with hw
  omega
theorem Encoding.mul (d : Nat) (a : Nat) (b : Nat) : Encoding.Statement (.mul d a b) := by
  intro h word hw
  have h : ((d < 64 && a < 64 && b < 64 : Bool)) = true := h
  simp only [Bool.and_eq_true, decide_eq_true_eq, cmdOk, pairOk] at h
  injection hw with hw
  omega
theorem Encoding.mulh (d : Nat) (a : Nat) (b : Nat) : Encoding.Statement (.mulh d a b) := by
  intro h word hw
  have h : ((d < 64 && a < 64 && b < 64 : Bool)) = true := h
  simp only [Bool.and_eq_true, decide_eq_true_eq, cmdOk, pairOk] at h
  injection hw with hw
  omega
theorem Encoding.mulhn (d : Nat) (a : Nat) (b : Nat) : Encoding.Statement (.mulhn d a b) := by
  intro h word hw
  have h : ((d < 64 && a < 64 && b < 64 : Bool)) = true := h
  simp only [Bool.and_eq_true, decide_eq_true_eq, cmdOk, pairOk] at h
  injection hw with hw
  omega
theorem Encoding.div (d : Nat) (a : Nat) (b : Nat) : Encoding.Statement (.div d a b) := by
  intro h word hw
  have h : ((d < 64 && a < 64 && b < 64 : Bool)) = true := h
  simp only [Bool.and_eq_true, decide_eq_true_eq, cmdOk, pairOk] at h
  injection hw with hw
  omega
theorem Encoding.divn (d : Nat) (a : Nat) (b : Nat) : Encoding.Statement (.divn d a b) := by
  intro h word hw
  have h : ((d < 64 && a < 64 && b < 64 : Bool)) = true := h
  simp only [Bool.and_eq_true, decide_eq_true_eq, cmdOk, pairOk] at h
  injection hw with hw
  omega
theorem Encoding.rem (d : Nat) (a : Nat) (b : Nat) : Encoding.Statement (.rem d a b) := by
  intro h word hw
  have h : ((d < 64 && a < 64 && b < 64 : Bool)) = true := h
  simp only [Bool.and_eq_true, decide_eq_true_eq, cmdOk, pairOk] at h
  injection hw with hw
  omega
theorem Encoding.remn (d : Nat) (a : Nat) (b : Nat) : Encoding.Statement (.remn d a b) := by
  intro h word hw
  have h : ((d < 64 && a < 64 && b < 64 : Bool)) = true := h
  simp only [Bool.and_eq_true, decide_eq_true_eq, cmdOk, pairOk] at h
  injection hw with hw
  omega
theorem Encoding.clz (d : Nat) (a : Nat) : Encoding.Statement (.clz d a) := by
  intro h word hw
  have h : ((d < 64 && a < 64 : Bool)) = true := h
  simp only [Bool.and_eq_true, decide_eq_true_eq, cmdOk, pairOk] at h
  injection hw with hw
  omega
theorem Encoding.ctz (d : Nat) (a : Nat) : Encoding.Statement (.ctz d a) := by
  intro h word hw
  have h : ((d < 64 && a < 64 : Bool)) = true := h
  simp only [Bool.and_eq_true, decide_eq_true_eq, cmdOk, pairOk] at h
  injection hw with hw
  omega
theorem Encoding.popc (d : Nat) (a : Nat) : Encoding.Statement (.popc d a) := by
  intro h word hw
  have h : ((d < 64 && a < 64 : Bool)) = true := h
  simp only [Bool.and_eq_true, decide_eq_true_eq, cmdOk, pairOk] at h
  injection hw with hw
  omega
theorem Encoding.bswap (d : Nat) (a : Nat) : Encoding.Statement (.bswap d a) := by
  intro h word hw
  have h : ((d < 64 && a < 64 : Bool)) = true := h
  simp only [Bool.and_eq_true, decide_eq_true_eq, cmdOk, pairOk] at h
  injection hw with hw
  omega
theorem Encoding.addw (d : Nat) (a : Nat) (b : Nat) : Encoding.Statement (.addw d a b) := by
  intro h word hw
  have h : ((d < 64 && a < 64 && b < 64 : Bool)) = true := h
  simp only [Bool.and_eq_true, decide_eq_true_eq, cmdOk, pairOk] at h
  injection hw with hw
  omega
theorem Encoding.subw (d : Nat) (a : Nat) (b : Nat) : Encoding.Statement (.subw d a b) := by
  intro h word hw
  have h : ((d < 64 && a < 64 && b < 64 : Bool)) = true := h
  simp only [Bool.and_eq_true, decide_eq_true_eq, cmdOk, pairOk] at h
  injection hw with hw
  omega
theorem Encoding.mulw (d : Nat) (a : Nat) (b : Nat) : Encoding.Statement (.mulw d a b) := by
  intro h word hw
  have h : ((d < 64 && a < 64 && b < 64 : Bool)) = true := h
  simp only [Bool.and_eq_true, decide_eq_true_eq, cmdOk, pairOk] at h
  injection hw with hw
  omega
theorem Encoding.seq (d : Nat) (a : Nat) (b : Nat) : Encoding.Statement (.seq d a b) := by
  intro h word hw
  have h : ((d < 64 && a < 64 && b < 64 : Bool)) = true := h
  simp only [Bool.and_eq_true, decide_eq_true_eq, cmdOk, pairOk] at h
  injection hw with hw
  omega
theorem Encoding.sne (d : Nat) (a : Nat) (b : Nat) : Encoding.Statement (.sne d a b) := by
  intro h word hw
  have h : ((d < 64 && a < 64 && b < 64 : Bool)) = true := h
  simp only [Bool.and_eq_true, decide_eq_true_eq, cmdOk, pairOk] at h
  injection hw with hw
  omega
theorem Encoding.addi (d : Nat) (a : Nat) (i : Int) : Encoding.Statement (.addi d a i) := by
  intro h word hw
  have h : ((d < 64 && a < 64 && inS 14 i : Bool)) = true := h
  simp only [Bool.and_eq_true, decide_eq_true_eq, cmdOk, pairOk] at h
  have := ux_lt 14 i
  injection hw with hw
  omega
theorem Encoding.andi (d : Nat) (a : Nat) (i : Int) : Encoding.Statement (.andi d a i) := by
  intro h word hw
  have h : ((d < 64 && a < 64 && inS 14 i : Bool)) = true := h
  simp only [Bool.and_eq_true, decide_eq_true_eq, cmdOk, pairOk] at h
  have := ux_lt 14 i
  injection hw with hw
  omega
theorem Encoding.ori (d : Nat) (a : Nat) (i : Nat) : Encoding.Statement (.ori d a i) := by
  intro h word hw
  have h : ((d < 64 && a < 64 && i < 16384 : Bool)) = true := h
  simp only [Bool.and_eq_true, decide_eq_true_eq, cmdOk, pairOk] at h
  injection hw with hw
  omega
theorem Encoding.xori (d : Nat) (a : Nat) (i : Nat) : Encoding.Statement (.xori d a i) := by
  intro h word hw
  have h : ((d < 64 && a < 64 && i < 16384 : Bool)) = true := h
  simp only [Bool.and_eq_true, decide_eq_true_eq, cmdOk, pairOk] at h
  injection hw with hw
  omega
theorem Encoding.shli (d : Nat) (a : Nat) (n : Nat) : Encoding.Statement (.shli d a n) := by
  intro h word hw
  have h : ((d < 64 && a < 64 && n < 64 : Bool)) = true := h
  simp only [Bool.and_eq_true, decide_eq_true_eq, cmdOk, pairOk] at h
  injection hw with hw
  omega
theorem Encoding.shri (d : Nat) (a : Nat) (n : Nat) : Encoding.Statement (.shri d a n) := by
  intro h word hw
  have h : ((d < 64 && a < 64 && n < 64 : Bool)) = true := h
  simp only [Bool.and_eq_true, decide_eq_true_eq, cmdOk, pairOk] at h
  injection hw with hw
  omega
theorem Encoding.sari (d : Nat) (a : Nat) (n : Nat) : Encoding.Statement (.sari d a n) := by
  intro h word hw
  have h : ((d < 64 && a < 64 && n < 64 : Bool)) = true := h
  simp only [Bool.and_eq_true, decide_eq_true_eq, cmdOk, pairOk] at h
  injection hw with hw
  omega
theorem Encoding.roli (d : Nat) (a : Nat) (n : Nat) : Encoding.Statement (.roli d a n) := by
  intro h word hw
  have h : ((d < 64 && a < 64 && n < 64 : Bool)) = true := h
  simp only [Bool.and_eq_true, decide_eq_true_eq, cmdOk, pairOk] at h
  injection hw with hw
  omega
theorem Encoding.slti (d : Nat) (a : Nat) (i : Int) : Encoding.Statement (.slti d a i) := by
  intro h word hw
  have h : ((d < 64 && a < 64 && inS 13 i : Bool)) = true := h
  simp only [Bool.and_eq_true, decide_eq_true_eq, cmdOk, pairOk] at h
  have := ux_lt 13 i
  injection hw with hw
  omega
theorem Encoding.sltni (d : Nat) (a : Nat) (i : Int) : Encoding.Statement (.sltni d a i) := by
  intro h word hw
  have h : ((d < 64 && a < 64 && inS 13 i : Bool)) = true := h
  simp only [Bool.and_eq_true, decide_eq_true_eq, cmdOk, pairOk] at h
  have := ux_lt 13 i
  injection hw with hw
  omega
theorem Encoding.lui (d : Nat) (i : Int) : Encoding.Statement (.lui d i) := by
  intro h word hw
  have h : ((d < 64 && inS 20 i : Bool)) = true := h
  simp only [Bool.and_eq_true, decide_eq_true_eq, cmdOk, pairOk] at h
  have := ux_lt 20 i
  injection hw with hw
  omega
theorem Encoding.cpc (d : Nat) (i : Int) : Encoding.Statement (.cpc d i) := by
  intro h word hw
  have h : ((d < 64 && inS 20 i : Bool)) = true := h
  simp only [Bool.and_eq_true, decide_eq_true_eq, cmdOk, pairOk] at h
  have := ux_lt 20 i
  injection hw with hw
  omega
theorem Encoding.cinc (d : Nat) (a : Nat) (b : Nat) : Encoding.Statement (.cinc d a b) := by
  intro h word hw
  have h : ((d < 64 && a < 64 && b < 64 : Bool)) = true := h
  simp only [Bool.and_eq_true, decide_eq_true_eq, cmdOk, pairOk] at h
  injection hw with hw
  omega
theorem Encoding.cbnd (d : Nat) (a : Nat) (b : Nat) : Encoding.Statement (.cbnd d a b) := by
  intro h word hw
  have h : ((d < 64 && a < 64 && b < 64 : Bool)) = true := h
  simp only [Bool.and_eq_true, decide_eq_true_eq, cmdOk, pairOk] at h
  injection hw with hw
  omega
theorem Encoding.cbndx (d : Nat) (a : Nat) (b : Nat) : Encoding.Statement (.cbndx d a b) := by
  intro h word hw
  have h : ((d < 64 && a < 64 && b < 64 : Bool)) = true := h
  simp only [Bool.and_eq_true, decide_eq_true_eq, cmdOk, pairOk] at h
  injection hw with hw
  omega
theorem Encoding.cperm (d : Nat) (a : Nat) (b : Nat) : Encoding.Statement (.cperm d a b) := by
  intro h word hw
  have h : ((d < 64 && a < 64 && b < 64 : Bool)) = true := h
  simp only [Bool.and_eq_true, decide_eq_true_eq, cmdOk, pairOk] at h
  injection hw with hw
  omega
theorem Encoding.cgeta (d : Nat) (a : Nat) : Encoding.Statement (.cgeta d a) := by
  intro h word hw
  have h : ((d < 64 && a < 64 : Bool)) = true := h
  simp only [Bool.and_eq_true, decide_eq_true_eq, cmdOk, pairOk] at h
  injection hw with hw
  omega
theorem Encoding.cgetb (d : Nat) (a : Nat) : Encoding.Statement (.cgetb d a) := by
  intro h word hw
  have h : ((d < 64 && a < 64 : Bool)) = true := h
  simp only [Bool.and_eq_true, decide_eq_true_eq, cmdOk, pairOk] at h
  injection hw with hw
  omega
theorem Encoding.cgetl (d : Nat) (a : Nat) : Encoding.Statement (.cgetl d a) := by
  intro h word hw
  have h : ((d < 64 && a < 64 : Bool)) = true := h
  simp only [Bool.and_eq_true, decide_eq_true_eq, cmdOk, pairOk] at h
  injection hw with hw
  omega
theorem Encoding.cgetp (d : Nat) (a : Nat) : Encoding.Statement (.cgetp d a) := by
  intro h word hw
  have h : ((d < 64 && a < 64 : Bool)) = true := h
  simp only [Bool.and_eq_true, decide_eq_true_eq, cmdOk, pairOk] at h
  injection hw with hw
  omega
theorem Encoding.cseta (d : Nat) (a : Nat) (b : Nat) : Encoding.Statement (.cseta d a b) := by
  intro h word hw
  have h : ((d < 64 && a < 64 && b < 64 : Bool)) = true := h
  simp only [Bool.and_eq_true, decide_eq_true_eq, cmdOk, pairOk] at h
  injection hw with hw
  omega
theorem Encoding.ctag (d : Nat) (a : Nat) : Encoding.Statement (.ctag d a) := by
  intro h word hw
  have h : ((d < 64 && a < 64 : Bool)) = true := h
  simp only [Bool.and_eq_true, decide_eq_true_eq, cmdOk, pairOk] at h
  injection hw with hw
  omega
theorem Encoding.csub (d : Nat) (a : Nat) (b : Nat) : Encoding.Statement (.csub d a b) := by
  intro h word hw
  have h : ((d < 64 && a < 64 && b < 64 : Bool)) = true := h
  simp only [Bool.and_eq_true, decide_eq_true_eq, cmdOk, pairOk] at h
  injection hw with hw
  omega
theorem Encoding.ctest (d : Nat) (a : Nat) (b : Nat) : Encoding.Statement (.ctest d a b) := by
  intro h word hw
  have h : ((d < 64 && a < 64 && b < 64 : Bool)) = true := h
  simp only [Bool.and_eq_true, decide_eq_true_eq, cmdOk, pairOk] at h
  injection hw with hw
  omega
theorem Encoding.cclr (d : Nat) (a : Nat) : Encoding.Statement (.cclr d a) := by
  intro h word hw
  have h : ((d < 64 && a < 64 : Bool)) = true := h
  simp only [Bool.and_eq_true, decide_eq_true_eq, cmdOk, pairOk] at h
  injection hw with hw
  omega
theorem Encoding.cinci (d : Nat) (a : Nat) (i : Int) : Encoding.Statement (.cinci d a i) := by
  intro h word hw
  have h : ((d < 64 && a < 64 && inS 14 i : Bool)) = true := h
  simp only [Bool.and_eq_true, decide_eq_true_eq, cmdOk, pairOk] at h
  have := ux_lt 14 i
  injection hw with hw
  omega
theorem Encoding.ld (d : Nat) (a : Nat) (w : LWidth) (i : Int) : Encoding.Statement (.ld d a w i) := by
  intro h word hw
  have h : ((d < 64 && a < 64 && inS 11 i : Bool)) = true := h
  simp only [Bool.and_eq_true, decide_eq_true_eq, cmdOk, pairOk] at h
  have := LWidth.code_lt w
  have := ux_lt 11 i
  injection hw with hw
  omega
theorem Encoding.lds (d : Nat) (a : Nat) (w : LWidth) (i : Int) : Encoding.Statement (.lds d a w i) := by
  intro h word hw
  have h : ((d < 64 && a < 64 && inS 11 i : Bool)) = true := h
  simp only [Bool.and_eq_true, decide_eq_true_eq, cmdOk, pairOk] at h
  have := LWidth.code_lt w
  have := ux_lt 11 i
  injection hw with hw
  omega
theorem Encoding.st (s : Nat) (a : Nat) (w : SWidth) (i : Int) : Encoding.Statement (.st s a w i) := by
  intro h word hw
  have h : ((s < 64 && a < 64 && inS 11 i : Bool)) = true := h
  simp only [Bool.and_eq_true, decide_eq_true_eq, cmdOk, pairOk] at h
  have := SWidth.code_lt w
  have := ux_lt 11 i
  injection hw with hw
  omega
theorem Encoding.aadd (d : Nat) (a : Nat) (b : Nat) (w : AWidth) (s : Scope) (o : Ord) : Encoding.Statement (.aadd d a b w s o) := by
  intro h word hw
  have h : ((d < 64 && a < 64 && b < 64 : Bool)) = true := h
  simp only [Bool.and_eq_true, decide_eq_true_eq, cmdOk, pairOk] at h
  have := AWidth.code_lt w
  have := Scope.code_lt s
  have := Ord.code_lt o
  injection hw with hw
  omega
theorem Encoding.aand (d : Nat) (a : Nat) (b : Nat) (w : AWidth) (s : Scope) (o : Ord) : Encoding.Statement (.aand d a b w s o) := by
  intro h word hw
  have h : ((d < 64 && a < 64 && b < 64 : Bool)) = true := h
  simp only [Bool.and_eq_true, decide_eq_true_eq, cmdOk, pairOk] at h
  have := AWidth.code_lt w
  have := Scope.code_lt s
  have := Ord.code_lt o
  injection hw with hw
  omega
theorem Encoding.aor (d : Nat) (a : Nat) (b : Nat) (w : AWidth) (s : Scope) (o : Ord) : Encoding.Statement (.aor d a b w s o) := by
  intro h word hw
  have h : ((d < 64 && a < 64 && b < 64 : Bool)) = true := h
  simp only [Bool.and_eq_true, decide_eq_true_eq, cmdOk, pairOk] at h
  have := AWidth.code_lt w
  have := Scope.code_lt s
  have := Ord.code_lt o
  injection hw with hw
  omega
theorem Encoding.axor (d : Nat) (a : Nat) (b : Nat) (w : AWidth) (s : Scope) (o : Ord) : Encoding.Statement (.axor d a b w s o) := by
  intro h word hw
  have h : ((d < 64 && a < 64 && b < 64 : Bool)) = true := h
  simp only [Bool.and_eq_true, decide_eq_true_eq, cmdOk, pairOk] at h
  have := AWidth.code_lt w
  have := Scope.code_lt s
  have := Ord.code_lt o
  injection hw with hw
  omega
theorem Encoding.amin (d : Nat) (a : Nat) (b : Nat) (w : AWidth) (s : Scope) (o : Ord) : Encoding.Statement (.amin d a b w s o) := by
  intro h word hw
  have h : ((d < 64 && a < 64 && b < 64 : Bool)) = true := h
  simp only [Bool.and_eq_true, decide_eq_true_eq, cmdOk, pairOk] at h
  have := AWidth.code_lt w
  have := Scope.code_lt s
  have := Ord.code_lt o
  injection hw with hw
  omega
theorem Encoding.amax (d : Nat) (a : Nat) (b : Nat) (w : AWidth) (s : Scope) (o : Ord) : Encoding.Statement (.amax d a b w s o) := by
  intro h word hw
  have h : ((d < 64 && a < 64 && b < 64 : Bool)) = true := h
  simp only [Bool.and_eq_true, decide_eq_true_eq, cmdOk, pairOk] at h
  have := AWidth.code_lt w
  have := Scope.code_lt s
  have := Ord.code_lt o
  injection hw with hw
  omega
theorem Encoding.aminn (d : Nat) (a : Nat) (b : Nat) (w : AWidth) (s : Scope) (o : Ord) : Encoding.Statement (.aminn d a b w s o) := by
  intro h word hw
  have h : ((d < 64 && a < 64 && b < 64 : Bool)) = true := h
  simp only [Bool.and_eq_true, decide_eq_true_eq, cmdOk, pairOk] at h
  have := AWidth.code_lt w
  have := Scope.code_lt s
  have := Ord.code_lt o
  injection hw with hw
  omega
theorem Encoding.amaxn (d : Nat) (a : Nat) (b : Nat) (w : AWidth) (s : Scope) (o : Ord) : Encoding.Statement (.amaxn d a b w s o) := by
  intro h word hw
  have h : ((d < 64 && a < 64 && b < 64 : Bool)) = true := h
  simp only [Bool.and_eq_true, decide_eq_true_eq, cmdOk, pairOk] at h
  have := AWidth.code_lt w
  have := Scope.code_lt s
  have := Ord.code_lt o
  injection hw with hw
  omega
theorem Encoding.aswap (d : Nat) (a : Nat) (b : Nat) (w : AWidth) (s : Scope) (o : Ord) : Encoding.Statement (.aswap d a b w s o) := by
  intro h word hw
  have h : ((d < 64 && a < 64 && b < 64 : Bool)) = true := h
  simp only [Bool.and_eq_true, decide_eq_true_eq, cmdOk, pairOk] at h
  have := AWidth.code_lt w
  have := Scope.code_lt s
  have := Ord.code_lt o
  injection hw with hw
  omega
theorem Encoding.acas (d : Nat) (a : Nat) (b : Nat) (w : AWidth) (s : Scope) (o : Ord) : Encoding.Statement (.acas d a b w s o) := by
  intro h word hw
  have h : ((d < 64 && a < 64 && b < 64 : Bool)) = true := h
  simp only [Bool.and_eq_true, decide_eq_true_eq, cmdOk, pairOk] at h
  have := AWidth.code_lt w
  have := Scope.code_lt s
  have := Ord.code_lt o
  injection hw with hw
  omega
theorem Encoding.afadd (d : Nat) (a : Nat) (b : Nat) (w : AWidth) (s : Scope) (o : Ord) : Encoding.Statement (.afadd d a b w s o) := by
  intro h word hw
  have h : ((d < 64 && a < 64 && b < 64 : Bool)) = true := h
  simp only [Bool.and_eq_true, decide_eq_true_eq, cmdOk, pairOk] at h
  have := AWidth.code_lt w
  have := Scope.code_lt s
  have := Ord.code_lt o
  injection hw with hw
  omega
theorem Encoding.fence (s : Scope) : Encoding.Statement (.fence s) := by
  intro h word hw
  have := Scope.code_lt s
  injection hw with hw
  omega
theorem Encoding.fencea (s : Scope) : Encoding.Statement (.fencea s) := by
  intro h word hw
  have := Scope.code_lt s
  injection hw with hw
  omega
theorem Encoding.fencel (s : Scope) : Encoding.Statement (.fencel s) := by
  intro h word hw
  have := Scope.code_lt s
  injection hw with hw
  omega
theorem Encoding.lda (d : Nat) (a : Nat) (s : Scope) : Encoding.Statement (.lda d a s) := by
  intro h word hw
  have h : ((d < 64 && a < 64 : Bool)) = true := h
  simp only [Bool.and_eq_true, decide_eq_true_eq, cmdOk, pairOk] at h
  have := Scope.code_lt s
  injection hw with hw
  omega
theorem Encoding.stl (d : Nat) (a : Nat) (s : Scope) : Encoding.Statement (.stl d a s) := by
  intro h word hw
  have h : ((d < 64 && a < 64 : Bool)) = true := h
  simp only [Bool.and_eq_true, decide_eq_true_eq, cmdOk, pairOk] at h
  have := Scope.code_lt s
  injection hw with hw
  omega
theorem Encoding.ldlk (d : Nat) (a : Nat) : Encoding.Statement (.ldlk d a) := by
  intro h word hw
  have h : ((d < 64 && a < 64 : Bool)) = true := h
  simp only [Bool.and_eq_true, decide_eq_true_eq, cmdOk, pairOk] at h
  injection hw with hw
  omega
theorem Encoding.stul (d : Nat) (a : Nat) : Encoding.Statement (.stul d a) := by
  intro h word hw
  have h : ((d < 64 && a < 64 : Bool)) = true := h
  simp only [Bool.and_eq_true, decide_eq_true_eq, cmdOk, pairOk] at h
  injection hw with hw
  omega
theorem Encoding.ldv (d : Nat) (a : Nat) (b : Nat) : Encoding.Statement (.ldv d a b) := by
  intro h word hw
  have h : ((d < 64 && a < 64 && b < 64 : Bool)) = true := h
  simp only [Bool.and_eq_true, decide_eq_true_eq, cmdOk, pairOk] at h
  injection hw with hw
  omega
theorem Encoding.stv (d : Nat) (a : Nat) (b : Nat) : Encoding.Statement (.stv d a b) := by
  intro h word hw
  have h : ((d < 64 && a < 64 && b < 64 : Bool)) = true := h
  simp only [Bool.and_eq_true, decide_eq_true_eq, cmdOk, pairOk] at h
  injection hw with hw
  omega
theorem Encoding.verq (d : Nat) (a : Nat) : Encoding.Statement (.verq d a) := by
  intro h word hw
  have h : ((d < 64 && a < 64 : Bool)) = true := h
  simp only [Bool.and_eq_true, decide_eq_true_eq, cmdOk, pairOk] at h
  injection hw with hw
  omega
theorem Encoding.reclaim (a : Nat) (b : Nat) : Encoding.Statement (.reclaim a b) := by
  intro h word hw
  have h : ((a < 64 && b < 64 : Bool)) = true := h
  simp only [Bool.and_eq_true, decide_eq_true_eq, cmdOk, pairOk] at h
  injection hw with hw
  omega
theorem Encoding.beq (a : Nat) (b : Nat) (x : Int) : Encoding.Statement (.beq a b x) := by
  intro h word hw
  have h : ((a < 64 && b < 64 && inS 11 x : Bool)) = true := h
  simp only [Bool.and_eq_true, decide_eq_true_eq, cmdOk, pairOk] at h
  have := ux_lt 11 x
  injection hw with hw
  omega
theorem Encoding.bne (a : Nat) (b : Nat) (x : Int) : Encoding.Statement (.bne a b x) := by
  intro h word hw
  have h : ((a < 64 && b < 64 && inS 11 x : Bool)) = true := h
  simp only [Bool.and_eq_true, decide_eq_true_eq, cmdOk, pairOk] at h
  have := ux_lt 11 x
  injection hw with hw
  omega
theorem Encoding.blt (a : Nat) (b : Nat) (x : Int) : Encoding.Statement (.blt a b x) := by
  intro h word hw
  have h : ((a < 64 && b < 64 && inS 11 x : Bool)) = true := h
  simp only [Bool.and_eq_true, decide_eq_true_eq, cmdOk, pairOk] at h
  have := ux_lt 11 x
  injection hw with hw
  omega
theorem Encoding.bge (a : Nat) (b : Nat) (x : Int) : Encoding.Statement (.bge a b x) := by
  intro h word hw
  have h : ((a < 64 && b < 64 && inS 11 x : Bool)) = true := h
  simp only [Bool.and_eq_true, decide_eq_true_eq, cmdOk, pairOk] at h
  have := ux_lt 11 x
  injection hw with hw
  omega
theorem Encoding.bltn (a : Nat) (b : Nat) (x : Int) : Encoding.Statement (.bltn a b x) := by
  intro h word hw
  have h : ((a < 64 && b < 64 && inS 11 x : Bool)) = true := h
  simp only [Bool.and_eq_true, decide_eq_true_eq, cmdOk, pairOk] at h
  have := ux_lt 11 x
  injection hw with hw
  omega
theorem Encoding.bgen (a : Nat) (b : Nat) (x : Int) : Encoding.Statement (.bgen a b x) := by
  intro h word hw
  have h : ((a < 64 && b < 64 && inS 11 x : Bool)) = true := h
  simp only [Bool.and_eq_true, decide_eq_true_eq, cmdOk, pairOk] at h
  have := ux_lt 11 x
  injection hw with hw
  omega
theorem Encoding.beqz (a : Nat) (x : Int) : Encoding.Statement (.beqz a x) := by
  intro h word hw
  have h : ((a < 64 && inS 17 x : Bool)) = true := h
  simp only [Bool.and_eq_true, decide_eq_true_eq, cmdOk, pairOk] at h
  have := ux_lt 17 x
  injection hw with hw
  omega
theorem Encoding.bnez (a : Nat) (x : Int) : Encoding.Statement (.bnez a x) := by
  intro h word hw
  have h : ((a < 64 && inS 17 x : Bool)) = true := h
  simp only [Bool.and_eq_true, decide_eq_true_eq, cmdOk, pairOk] at h
  have := ux_lt 17 x
  injection hw with hw
  omega
theorem Encoding.bltz (a : Nat) (x : Int) : Encoding.Statement (.bltz a x) := by
  intro h word hw
  have h : ((a < 64 && inS 17 x : Bool)) = true := h
  simp only [Bool.and_eq_true, decide_eq_true_eq, cmdOk, pairOk] at h
  have := ux_lt 17 x
  injection hw with hw
  omega
theorem Encoding.bgez (a : Nat) (x : Int) : Encoding.Statement (.bgez a x) := by
  intro h word hw
  have h : ((a < 64 && inS 17 x : Bool)) = true := h
  simp only [Bool.and_eq_true, decide_eq_true_eq, cmdOk, pairOk] at h
  have := ux_lt 17 x
  injection hw with hw
  omega
theorem Encoding.bgtz (a : Nat) (x : Int) : Encoding.Statement (.bgtz a x) := by
  intro h word hw
  have h : ((a < 64 && inS 17 x : Bool)) = true := h
  simp only [Bool.and_eq_true, decide_eq_true_eq, cmdOk, pairOk] at h
  have := ux_lt 17 x
  injection hw with hw
  omega
theorem Encoding.blez (a : Nat) (x : Int) : Encoding.Statement (.blez a x) := by
  intro h word hw
  have h : ((a < 64 && inS 17 x : Bool)) = true := h
  simp only [Bool.and_eq_true, decide_eq_true_eq, cmdOk, pairOk] at h
  have := ux_lt 17 x
  injection hw with hw
  omega
theorem Encoding.j (x : Int) : Encoding.Statement (.j x) := by
  intro h word hw
  have := ux_lt 26 x
  injection hw with hw
  omega
theorem Encoding.jal (x : Int) : Encoding.Statement (.jal x) := by
  intro h word hw
  have := ux_lt 26 x
  injection hw with hw
  omega
theorem Encoding.jr (a : Nat) : Encoding.Statement (.jr a) := by
  intro h word hw
  have h : ((a < 64 : Bool)) = true := h
  simp only [Bool.and_eq_true, decide_eq_true_eq, cmdOk, pairOk] at h
  injection hw with hw
  omega
theorem Encoding.jalr (d : Nat) (a : Nat) : Encoding.Statement (.jalr d a) := by
  intro h word hw
  have h : ((d < 64 && a < 64 : Bool)) = true := h
  simp only [Bool.and_eq_true, decide_eq_true_eq, cmdOk, pairOk] at h
  injection hw with hw
  omega
theorem Encoding.rep (c : Nat) (n : Nat) (x : Nat) (y : Nat) (z : Nat) : Encoding.Statement (.rep c n x y z) := by
  intro h word hw
  have h : (((1 ≤ c && c ≤ 16) && (1 ≤ n && n ≤ 256) && x < 4 && y < 4 && z < 4 : Bool)) = true := h
  simp only [Bool.and_eq_true, decide_eq_true_eq, cmdOk, pairOk] at h
  injection hw with hw
  omega
theorem Encoding.fadd (d : Nat) (a : Nat) (b : Nat) (p : FFmt) : Encoding.Statement (.fadd d a b p) := by
  intro h word hw
  have h : ((d < 64 && a < 64 && b < 64 : Bool)) = true := h
  simp only [Bool.and_eq_true, decide_eq_true_eq, cmdOk, pairOk] at h
  have := FFmt.code_lt p
  injection hw with hw
  omega
theorem Encoding.fsub (d : Nat) (a : Nat) (b : Nat) (p : FFmt) : Encoding.Statement (.fsub d a b p) := by
  intro h word hw
  have h : ((d < 64 && a < 64 && b < 64 : Bool)) = true := h
  simp only [Bool.and_eq_true, decide_eq_true_eq, cmdOk, pairOk] at h
  have := FFmt.code_lt p
  injection hw with hw
  omega
theorem Encoding.fmul (d : Nat) (a : Nat) (b : Nat) (p : FFmt) : Encoding.Statement (.fmul d a b p) := by
  intro h word hw
  have h : ((d < 64 && a < 64 && b < 64 : Bool)) = true := h
  simp only [Bool.and_eq_true, decide_eq_true_eq, cmdOk, pairOk] at h
  have := FFmt.code_lt p
  injection hw with hw
  omega
theorem Encoding.fdiv (d : Nat) (a : Nat) (b : Nat) (p : FFmt) : Encoding.Statement (.fdiv d a b p) := by
  intro h word hw
  have h : ((d < 64 && a < 64 && b < 64 : Bool)) = true := h
  simp only [Bool.and_eq_true, decide_eq_true_eq, cmdOk, pairOk] at h
  have := FFmt.code_lt p
  injection hw with hw
  omega
theorem Encoding.fma (d : Nat) (a : Nat) (b : Nat) (p : FFmt) : Encoding.Statement (.fma d a b p) := by
  intro h word hw
  have h : ((d < 64 && a < 64 && b < 64 : Bool)) = true := h
  simp only [Bool.and_eq_true, decide_eq_true_eq, cmdOk, pairOk] at h
  have := FFmt.code_lt p
  injection hw with hw
  omega
theorem Encoding.fsqrt (d : Nat) (a : Nat) (p : FFmt) : Encoding.Statement (.fsqrt d a p) := by
  intro h word hw
  have h : ((d < 64 && a < 64 : Bool)) = true := h
  simp only [Bool.and_eq_true, decide_eq_true_eq, cmdOk, pairOk] at h
  have := FFmt.code_lt p
  injection hw with hw
  omega
theorem Encoding.fmin (d : Nat) (a : Nat) (b : Nat) (p : FFmt) : Encoding.Statement (.fmin d a b p) := by
  intro h word hw
  have h : ((d < 64 && a < 64 && b < 64 : Bool)) = true := h
  simp only [Bool.and_eq_true, decide_eq_true_eq, cmdOk, pairOk] at h
  have := FFmt.code_lt p
  injection hw with hw
  omega
theorem Encoding.fmax (d : Nat) (a : Nat) (b : Nat) (p : FFmt) : Encoding.Statement (.fmax d a b p) := by
  intro h word hw
  have h : ((d < 64 && a < 64 && b < 64 : Bool)) = true := h
  simp only [Bool.and_eq_true, decide_eq_true_eq, cmdOk, pairOk] at h
  have := FFmt.code_lt p
  injection hw with hw
  omega
theorem Encoding.fcmp (d : Nat) (a : Nat) (b : Nat) (p : FFmt) : Encoding.Statement (.fcmp d a b p) := by
  intro h word hw
  have h : ((d < 64 && a < 64 && b < 64 : Bool)) = true := h
  simp only [Bool.and_eq_true, decide_eq_true_eq, cmdOk, pairOk] at h
  have := FFmt.code_lt p
  injection hw with hw
  omega
theorem Encoding.fcvt (d : Nat) (a : Nat) (t : CvtType) (r : CvtDir) (p : FFmt) : Encoding.Statement (.fcvt d a t r p) := by
  intro h word hw
  have h : ((d < 64 && a < 64 && !(t == .other && r == .toFmt) : Bool)) = true := h
  simp only [Bool.and_eq_true, decide_eq_true_eq, cmdOk, pairOk] at h
  have := CvtType.code_lt t
  have := CvtDir.code_lt r
  have := FFmt.code_lt p
  injection hw with hw
  omega
theorem Encoding.fclass (d : Nat) (a : Nat) (p : FFmt) : Encoding.Statement (.fclass d a p) := by
  intro h word hw
  have h : ((d < 64 && a < 64 : Bool)) = true := h
  simp only [Bool.and_eq_true, decide_eq_true_eq, cmdOk, pairOk] at h
  have := FFmt.code_lt p
  injection hw with hw
  omega
theorem Encoding.spawn (a : Nat) : Encoding.Statement (.spawn a) := by
  intro h word hw
  have h : ((a < 64 && pairOk a : Bool)) = true := h
  simp only [Bool.and_eq_true, decide_eq_true_eq, cmdOk, pairOk] at h
  injection hw with hw
  omega
theorem Encoding.range (a : Nat) : Encoding.Statement (.range a) := by
  intro h word hw
  have h : ((a < 64 && pairOk a : Bool)) = true := h
  simp only [Bool.and_eq_true, decide_eq_true_eq, cmdOk, pairOk] at h
  injection hw with hw
  omega
theorem Encoding.take (d : Nat) (a : Nat) : Encoding.Statement (.take d a) := by
  intro h word hw
  have h : ((d < 64 && a < 64 && pairOk a : Bool)) = true := h
  simp only [Bool.and_eq_true, decide_eq_true_eq, cmdOk, pairOk] at h
  injection hw with hw
  omega
theorem Encoding.done : Encoding.Statement (.done) := by
  intro h word hw
  injection hw with hw
  omega
theorem Encoding.yield : Encoding.Statement (.yield) := by
  intro h word hw
  injection hw with hw
  omega
theorem Encoding.trig (d : Nat) (a : Nat) (b : Nat) : Encoding.Statement (.trig d a b) := by
  intro h word hw
  have h : ((d < 64 && a < 64 && b < 64 && pairOk b : Bool)) = true := h
  simp only [Bool.and_eq_true, decide_eq_true_eq, cmdOk, pairOk] at h
  injection hw with hw
  omega
theorem Encoding.untrig (d : Nat) (a : Nat) : Encoding.Statement (.untrig d a) := by
  intro h word hw
  have h : ((d < 64 && a < 64 : Bool)) = true := h
  simp only [Bool.and_eq_true, decide_eq_true_eq, cmdOk, pairOk] at h
  injection hw with hw
  omega
theorem Encoding.deqn (d : Nat) : Encoding.Statement (.deqn d) := by
  intro h word hw
  have h : ((d < 64 : Bool)) = true := h
  simp only [Bool.and_eq_true, decide_eq_true_eq, cmdOk, pairOk] at h
  injection hw with hw
  omega
theorem Encoding.chunk (d : Nat) (a : Nat) : Encoding.Statement (.chunk d a) := by
  intro h word hw
  have h : ((d < 64 && a < 64 : Bool)) = true := h
  simp only [Bool.and_eq_true, decide_eq_true_eq, cmdOk, pairOk] at h
  injection hw with hw
  omega
theorem Encoding.put (a : Nat) (b : Nat) : Encoding.Statement (.put a b) := by
  intro h word hw
  have h : ((a < 64 && b < 64 : Bool)) = true := h
  simp only [Bool.and_eq_true, decide_eq_true_eq, cmdOk, pairOk] at h
  injection hw with hw
  omega
theorem Encoding.puti (a : Nat) (b : Nat) : Encoding.Statement (.puti a b) := by
  intro h word hw
  have h : ((a < 64 && b < 64 : Bool)) = true := h
  simp only [Bool.and_eq_true, decide_eq_true_eq, cmdOk, pairOk] at h
  injection hw with hw
  omega
theorem Encoding.get (d : Nat) (a : Nat) : Encoding.Statement (.get d a) := by
  intro h word hw
  have h : ((d < 64 && a < 64 : Bool)) = true := h
  simp only [Bool.and_eq_true, decide_eq_true_eq, cmdOk, pairOk] at h
  injection hw with hw
  omega
theorem Encoding.send (a : Nat) (b : Nat) : Encoding.Statement (.send a b) := by
  intro h word hw
  have h : ((a < 64 && b < 64 : Bool)) = true := h
  simp only [Bool.and_eq_true, decide_eq_true_eq, cmdOk, pairOk] at h
  injection hw with hw
  omega
theorem Encoding.recv (d : Nat) (a : Nat) : Encoding.Statement (.recv d a) := by
  intro h word hw
  have h : ((d < 64 && a < 64 : Bool)) = true := h
  simp only [Bool.and_eq_true, decide_eq_true_eq, cmdOk, pairOk] at h
  injection hw with hw
  omega
theorem Encoding.sendh (a : Nat) (b : Nat) : Encoding.Statement (.sendh a b) := by
  intro h word hw
  have h : ((a < 64 && b < 64 : Bool)) = true := h
  simp only [Bool.and_eq_true, decide_eq_true_eq, cmdOk, pairOk] at h
  injection hw with hw
  omega
theorem Encoding.inboxn (d : Nat) : Encoding.Statement (.inboxn d) := by
  intro h word hw
  have h : ((d < 64 : Bool)) = true := h
  simp only [Bool.and_eq_true, decide_eq_true_eq, cmdOk, pairOk] at h
  injection hw with hw
  omega
theorem Encoding.uien (d : Nat) (a : Nat) : Encoding.Statement (.uien d a) := by
  intro h word hw
  have h : ((d < 64 && a < 64 : Bool)) = true := h
  simp only [Bool.and_eq_true, decide_eq_true_eq, cmdOk, pairOk] at h
  injection hw with hw
  omega
theorem Encoding.ihret : Encoding.Statement (.ihret) := by
  intro h word hw
  injection hw with hw
  omega
theorem Encoding.bar : Encoding.Statement (.bar) := by
  intro h word hw
  injection hw with hw
  omega
theorem Encoding.bara : Encoding.Statement (.bara) := by
  intro h word hw
  injection hw with hw
  omega
theorem Encoding.barw : Encoding.Statement (.barw) := by
  intro h word hw
  injection hw with hw
  omega
theorem Encoding.domset (a : Nat) : Encoding.Statement (.domset a) := by
  intro h word hw
  have h : ((a < 64 : Bool)) = true := h
  simp only [Bool.and_eq_true, decide_eq_true_eq, cmdOk, pairOk] at h
  injection hw with hw
  omega
theorem Encoding.gang (a : Nat) : Encoding.Statement (.gang a) := by
  intro h word hw
  have h : ((a < 64 : Bool)) = true := h
  simp only [Bool.and_eq_true, decide_eq_true_eq, cmdOk, pairOk] at h
  injection hw with hw
  omega
theorem Encoding.split : Encoding.Statement (.split) := by
  intro h word hw
  injection hw with hw
  omega
theorem Encoding.pair (d : Nat) : Encoding.Statement (.pair d) := by
  intro h word hw
  have h : ((d < 64 : Bool)) = true := h
  simp only [Bool.and_eq_true, decide_eq_true_eq, cmdOk, pairOk] at h
  injection hw with hw
  omega
theorem Encoding.unpair : Encoding.Statement (.unpair) := by
  intro h word hw
  injection hw with hw
  omega
theorem Encoding.tname (d : Nat) (a : Nat) : Encoding.Statement (.tname d a) := by
  intro h word hw
  have h : ((d < 64 && a < 64 : Bool)) = true := h
  simp only [Bool.and_eq_true, decide_eq_true_eq, cmdOk, pairOk] at h
  injection hw with hw
  omega
theorem Encoding.tnbr (d : Nat) (a : Nat) (b : Nat) : Encoding.Statement (.tnbr d a b) := by
  intro h word hw
  have h : ((d < 64 && a < 64 && b < 64 : Bool)) = true := h
  simp only [Bool.and_eq_true, decide_eq_true_eq, cmdOk, pairOk] at h
  injection hw with hw
  omega
theorem Encoding.tdist (d : Nat) (a : Nat) : Encoding.Statement (.tdist d a) := by
  intro h word hw
  have h : ((d < 64 && a < 64 : Bool)) = true := h
  simp only [Bool.and_eq_true, decide_eq_true_eq, cmdOk, pairOk] at h
  injection hw with hw
  omega
theorem Encoding.region : Encoding.Statement (.region) := by
  intro h word hw
  injection hw with hw
  omega
theorem Encoding.chkp (a : Nat) : Encoding.Statement (.chkp a) := by
  intro h word hw
  have h : ((a < 64 : Bool)) = true := h
  simp only [Bool.and_eq_true, decide_eq_true_eq, cmdOk, pairOk] at h
  injection hw with hw
  omega
theorem Encoding.ckpt : Encoding.Statement (.ckpt) := by
  intro h word hw
  injection hw with hw
  omega
theorem Encoding.rngsnap (a : Nat) : Encoding.Statement (.rngsnap a) := by
  intro h word hw
  have h : ((a < 64 : Bool)) = true := h
  simp only [Bool.and_eq_true, decide_eq_true_eq, cmdOk, pairOk] at h
  injection hw with hw
  omega
theorem Encoding.rngrest (a : Nat) : Encoding.Statement (.rngrest a) := by
  intro h word hw
  have h : ((a < 64 : Bool)) = true := h
  simp only [Bool.and_eq_true, decide_eq_true_eq, cmdOk, pairOk] at h
  injection hw with hw
  omega
theorem Encoding.rng (d : Nat) (a : Nat) (b : Nat) : Encoding.Statement (.rng d a b) := by
  intro h word hw
  have h : ((d < 64 && a < 64 && b < 64 : Bool)) = true := h
  simp only [Bool.and_eq_true, decide_eq_true_eq, cmdOk, pairOk] at h
  injection hw with hw
  omega
theorem Encoding.succhint : Encoding.Statement (.succhint) := by
  intro h word hw
  injection hw with hw
  omega
theorem Encoding.waitpred (d : Nat) : Encoding.Statement (.waitpred d) := by
  intro h word hw
  have h : ((d < 64 : Bool)) = true := h
  simp only [Bool.and_eq_true, decide_eq_true_eq, cmdOk, pairOk] at h
  injection hw with hw
  omega
theorem Encoding.publish : Encoding.Statement (.publish) := by
  intro h word hw
  injection hw with hw
  omega
theorem Encoding.push (a : Nat) (e : Eng) : Encoding.Statement (.push a e) := by
  intro h word hw
  have h : ((a < 64 && cmdOk a : Bool)) = true := h
  simp only [Bool.and_eq_true, decide_eq_true_eq, cmdOk, pairOk] at h
  have := Eng.code_lt e
  injection hw with hw
  omega
theorem Encoding.pushTry (d : Nat) (a : Nat) (e : Eng) : Encoding.Statement (.pushTry d a e) := by
  intro h word hw
  have h : ((d < 64 && a < 64 && cmdOk a : Bool)) = true := h
  simp only [Bool.and_eq_true, decide_eq_true_eq, cmdOk, pairOk] at h
  have := Eng.code_lt e
  injection hw with hw
  omega
theorem Encoding.eprog (d : Nat) (e : EProgSel) : Encoding.Statement (.eprog d e) := by
  intro h word hw
  have h : ((d < 64 : Bool)) = true := h
  simp only [Bool.and_eq_true, decide_eq_true_eq, cmdOk, pairOk] at h
  have := EProgSel.code_lt e
  injection hw with hw
  omega
theorem Encoding.ecancel (e : Eng) : Encoding.Statement (.ecancel e) := by
  intro h word hw
  have := Eng.code_lt e
  injection hw with hw
  omega
theorem Encoding.specommit (a : Nat) : Encoding.Statement (.specommit a) := by
  intro h word hw
  have h : ((a < 64 : Bool)) = true := h
  simp only [Bool.and_eq_true, decide_eq_true_eq, cmdOk, pairOk] at h
  injection hw with hw
  omega
theorem Encoding.specdrop (a : Nat) : Encoding.Statement (.specdrop a) := by
  intro h word hw
  have h : ((a < 64 : Bool)) = true := h
  simp only [Bool.and_eq_true, decide_eq_true_eq, cmdOk, pairOk] at h
  injection hw with hw
  omega
theorem Encoding.ecall (c : Nat) : Encoding.Statement (.ecall c) := by
  intro h word hw
  have h : ((c < 1024 : Bool)) = true := h
  simp only [Bool.and_eq_true, decide_eq_true_eq, cmdOk, pairOk] at h
  injection hw with hw
  omega
theorem Encoding.ebreak (c : Nat) : Encoding.Statement (.ebreak c) := by
  intro h word hw
  have h : ((c < 1024 : Bool)) = true := h
  simp only [Bool.and_eq_true, decide_eq_true_eq, cmdOk, pairOk] at h
  injection hw with hw
  omega
theorem Encoding.eret : Encoding.Statement (.eret) := by
  intro h word hw
  injection hw with hw
  omega
theorem Encoding.wfi : Encoding.Statement (.wfi) := by
  intro h word hw
  injection hw with hw
  omega
theorem Encoding.halt : Encoding.Statement (.halt) := by
  intro h word hw
  injection hw with hw
  omega
theorem Encoding.trap (c : Nat) : Encoding.Statement (.trap c) := by
  intro h word hw
  have h : ((c < 1024 : Bool)) = true := h
  simp only [Bool.and_eq_true, decide_eq_true_eq, cmdOk, pairOk] at h
  injection hw with hw
  omega
theorem Encoding.csrr (n : Nat) (a : Nat) : Encoding.Statement (.csrr n a) := by
  intro h word hw
  have h : ((n < 16384 && a < 64 : Bool)) = true := h
  simp only [Bool.and_eq_true, decide_eq_true_eq, cmdOk, pairOk] at h
  injection hw with hw
  omega
theorem Encoding.csrw (n : Nat) (a : Nat) : Encoding.Statement (.csrw n a) := by
  intro h word hw
  have h : ((n < 16384 && a < 64 : Bool)) = true := h
  simp only [Bool.and_eq_true, decide_eq_true_eq, cmdOk, pairOk] at h
  injection hw with hw
  omega
theorem Encoding.csrs (n : Nat) (a : Nat) : Encoding.Statement (.csrs n a) := by
  intro h word hw
  have h : ((n < 16384 && a < 64 : Bool)) = true := h
  simp only [Bool.and_eq_true, decide_eq_true_eq, cmdOk, pairOk] at h
  injection hw with hw
  omega
theorem Encoding.csrc (n : Nat) (a : Nat) : Encoding.Statement (.csrc n a) := by
  intro h word hw
  have h : ((n < 16384 && a < 64 : Bool)) = true := h
  simp only [Bool.and_eq_true, decide_eq_true_eq, cmdOk, pairOk] at h
  injection hw with hw
  omega
theorem Encoding.tlbinv (a : Nat) : Encoding.Statement (.tlbinv a) := by
  intro h word hw
  have h : ((a < 64 : Bool)) = true := h
  simp only [Bool.and_eq_true, decide_eq_true_eq, cmdOk, pairOk] at h
  injection hw with hw
  omega
theorem Encoding.vadd (d : Nat) (a : Nat) (b : Nat) (p : Nat) (t : VType) : Encoding.Statement (.vadd d a b p t) := by
  intro h word hw
  have h : ((d < 32 && a < 32 && b < 32 && p < 8 : Bool)) = true := h
  simp only [Bool.and_eq_true, decide_eq_true_eq, cmdOk, pairOk] at h
  have := VType.code_lt t
  injection hw with hw
  omega
theorem Encoding.vsub (d : Nat) (a : Nat) (b : Nat) (p : Nat) (t : VType) : Encoding.Statement (.vsub d a b p t) := by
  intro h word hw
  have h : ((d < 32 && a < 32 && b < 32 && p < 8 : Bool)) = true := h
  simp only [Bool.and_eq_true, decide_eq_true_eq, cmdOk, pairOk] at h
  have := VType.code_lt t
  injection hw with hw
  omega
theorem Encoding.vmul (d : Nat) (a : Nat) (b : Nat) (p : Nat) (t : VType) : Encoding.Statement (.vmul d a b p t) := by
  intro h word hw
  have h : ((d < 32 && a < 32 && b < 32 && p < 8 : Bool)) = true := h
  simp only [Bool.and_eq_true, decide_eq_true_eq, cmdOk, pairOk] at h
  have := VType.code_lt t
  injection hw with hw
  omega
theorem Encoding.vmin (d : Nat) (a : Nat) (b : Nat) (p : Nat) (t : VType) : Encoding.Statement (.vmin d a b p t) := by
  intro h word hw
  have h : ((d < 32 && a < 32 && b < 32 && p < 8 : Bool)) = true := h
  simp only [Bool.and_eq_true, decide_eq_true_eq, cmdOk, pairOk] at h
  have := VType.code_lt t
  injection hw with hw
  omega
theorem Encoding.vmax (d : Nat) (a : Nat) (b : Nat) (p : Nat) (t : VType) : Encoding.Statement (.vmax d a b p t) := by
  intro h word hw
  have h : ((d < 32 && a < 32 && b < 32 && p < 8 : Bool)) = true := h
  simp only [Bool.and_eq_true, decide_eq_true_eq, cmdOk, pairOk] at h
  have := VType.code_lt t
  injection hw with hw
  omega
theorem Encoding.vabs (d : Nat) (a : Nat) (p : Nat) (t : VType) : Encoding.Statement (.vabs d a p t) := by
  intro h word hw
  have h : ((d < 32 && a < 32 && p < 8 : Bool)) = true := h
  simp only [Bool.and_eq_true, decide_eq_true_eq, cmdOk, pairOk] at h
  have := VType.code_lt t
  injection hw with hw
  omega
theorem Encoding.vneg (d : Nat) (a : Nat) (p : Nat) (t : VType) : Encoding.Statement (.vneg d a p t) := by
  intro h word hw
  have h : ((d < 32 && a < 32 && p < 8 : Bool)) = true := h
  simp only [Bool.and_eq_true, decide_eq_true_eq, cmdOk, pairOk] at h
  have := VType.code_lt t
  injection hw with hw
  omega
theorem Encoding.vand (d : Nat) (a : Nat) (b : Nat) (p : Nat) (t : VType) : Encoding.Statement (.vand d a b p t) := by
  intro h word hw
  have h : ((d < 32 && a < 32 && b < 32 && p < 8 && t.isInt : Bool)) = true := h
  simp only [Bool.and_eq_true, decide_eq_true_eq, cmdOk, pairOk] at h
  have := VType.code_lt t
  injection hw with hw
  omega
theorem Encoding.vor (d : Nat) (a : Nat) (b : Nat) (p : Nat) (t : VType) : Encoding.Statement (.vor d a b p t) := by
  intro h word hw
  have h : ((d < 32 && a < 32 && b < 32 && p < 8 && t.isInt : Bool)) = true := h
  simp only [Bool.and_eq_true, decide_eq_true_eq, cmdOk, pairOk] at h
  have := VType.code_lt t
  injection hw with hw
  omega
theorem Encoding.vxor (d : Nat) (a : Nat) (b : Nat) (p : Nat) (t : VType) : Encoding.Statement (.vxor d a b p t) := by
  intro h word hw
  have h : ((d < 32 && a < 32 && b < 32 && p < 8 && t.isInt : Bool)) = true := h
  simp only [Bool.and_eq_true, decide_eq_true_eq, cmdOk, pairOk] at h
  have := VType.code_lt t
  injection hw with hw
  omega
theorem Encoding.vshl (d : Nat) (a : Nat) (b : Nat) (p : Nat) (t : VType) : Encoding.Statement (.vshl d a b p t) := by
  intro h word hw
  have h : ((d < 32 && a < 32 && b < 32 && p < 8 && t.isInt : Bool)) = true := h
  simp only [Bool.and_eq_true, decide_eq_true_eq, cmdOk, pairOk] at h
  have := VType.code_lt t
  injection hw with hw
  omega
theorem Encoding.vshr (d : Nat) (a : Nat) (b : Nat) (p : Nat) (t : VType) : Encoding.Statement (.vshr d a b p t) := by
  intro h word hw
  have h : ((d < 32 && a < 32 && b < 32 && p < 8 && t.isInt : Bool)) = true := h
  simp only [Bool.and_eq_true, decide_eq_true_eq, cmdOk, pairOk] at h
  have := VType.code_lt t
  injection hw with hw
  omega
theorem Encoding.vsar (d : Nat) (a : Nat) (b : Nat) (p : Nat) (t : VType) : Encoding.Statement (.vsar d a b p t) := by
  intro h word hw
  have h : ((d < 32 && a < 32 && b < 32 && p < 8 && t.isInt : Bool)) = true := h
  simp only [Bool.and_eq_true, decide_eq_true_eq, cmdOk, pairOk] at h
  have := VType.code_lt t
  injection hw with hw
  omega
theorem Encoding.vmulh (d : Nat) (a : Nat) (b : Nat) (p : Nat) (t : VType) : Encoding.Statement (.vmulh d a b p t) := by
  intro h word hw
  have h : ((d < 32 && a < 32 && b < 32 && p < 8 && t.isInt : Bool)) = true := h
  simp only [Bool.and_eq_true, decide_eq_true_eq, cmdOk, pairOk] at h
  have := VType.code_lt t
  injection hw with hw
  omega
theorem Encoding.vadds (d : Nat) (a : Nat) (b : Nat) (p : Nat) (t : VType) : Encoding.Statement (.vadds d a b p t) := by
  intro h word hw
  have h : ((d < 32 && a < 32 && b < 32 && p < 8 && t.isInt : Bool)) = true := h
  simp only [Bool.and_eq_true, decide_eq_true_eq, cmdOk, pairOk] at h
  have := VType.code_lt t
  injection hw with hw
  omega
theorem Encoding.vsubs (d : Nat) (a : Nat) (b : Nat) (p : Nat) (t : VType) : Encoding.Statement (.vsubs d a b p t) := by
  intro h word hw
  have h : ((d < 32 && a < 32 && b < 32 && p < 8 && t.isInt : Bool)) = true := h
  simp only [Bool.and_eq_true, decide_eq_true_eq, cmdOk, pairOk] at h
  have := VType.code_lt t
  injection hw with hw
  omega
theorem Encoding.vfma (d : Nat) (a : Nat) (b : Nat) (p : Nat) (t : VType) : Encoding.Statement (.vfma d a b p t) := by
  intro h word hw
  have h : ((d < 32 && a < 32 && b < 32 && p < 8 && t.isFloat : Bool)) = true := h
  simp only [Bool.and_eq_true, decide_eq_true_eq, cmdOk, pairOk] at h
  have := VType.code_lt t
  injection hw with hw
  omega
theorem Encoding.vfms (d : Nat) (a : Nat) (b : Nat) (p : Nat) (t : VType) : Encoding.Statement (.vfms d a b p t) := by
  intro h word hw
  have h : ((d < 32 && a < 32 && b < 32 && p < 8 && t.isFloat : Bool)) = true := h
  simp only [Bool.and_eq_true, decide_eq_true_eq, cmdOk, pairOk] at h
  have := VType.code_lt t
  injection hw with hw
  omega
theorem Encoding.vfnma (d : Nat) (a : Nat) (b : Nat) (p : Nat) (t : VType) : Encoding.Statement (.vfnma d a b p t) := by
  intro h word hw
  have h : ((d < 32 && a < 32 && b < 32 && p < 8 && t.isFloat : Bool)) = true := h
  simp only [Bool.and_eq_true, decide_eq_true_eq, cmdOk, pairOk] at h
  have := VType.code_lt t
  injection hw with hw
  omega
theorem Encoding.vfnms (d : Nat) (a : Nat) (b : Nat) (p : Nat) (t : VType) : Encoding.Statement (.vfnms d a b p t) := by
  intro h word hw
  have h : ((d < 32 && a < 32 && b < 32 && p < 8 && t.isFloat : Bool)) = true := h
  simp only [Bool.and_eq_true, decide_eq_true_eq, cmdOk, pairOk] at h
  have := VType.code_lt t
  injection hw with hw
  omega
theorem Encoding.vdiv (d : Nat) (a : Nat) (b : Nat) (p : Nat) (t : VType) : Encoding.Statement (.vdiv d a b p t) := by
  intro h word hw
  have h : ((d < 32 && a < 32 && b < 32 && p < 8 && t.isFloat : Bool)) = true := h
  simp only [Bool.and_eq_true, decide_eq_true_eq, cmdOk, pairOk] at h
  have := VType.code_lt t
  injection hw with hw
  omega
theorem Encoding.vsqrt (d : Nat) (a : Nat) (p : Nat) (t : VType) : Encoding.Statement (.vsqrt d a p t) := by
  intro h word hw
  have h : ((d < 32 && a < 32 && p < 8 && t.isFloat : Bool)) = true := h
  simp only [Bool.and_eq_true, decide_eq_true_eq, cmdOk, pairOk] at h
  have := VType.code_lt t
  injection hw with hw
  omega
theorem Encoding.vexp2 (d : Nat) (a : Nat) (p : Nat) : Encoding.Statement (.vexp2 d a p) := by
  intro h word hw
  have h : ((d < 32 && a < 32 && p < 8 : Bool)) = true := h
  simp only [Bool.and_eq_true, decide_eq_true_eq, cmdOk, pairOk] at h
  injection hw with hw
  omega
theorem Encoding.vlog2 (d : Nat) (a : Nat) (p : Nat) : Encoding.Statement (.vlog2 d a p) := by
  intro h word hw
  have h : ((d < 32 && a < 32 && p < 8 : Bool)) = true := h
  simp only [Bool.and_eq_true, decide_eq_true_eq, cmdOk, pairOk] at h
  injection hw with hw
  omega
theorem Encoding.vrcp (d : Nat) (a : Nat) (p : Nat) : Encoding.Statement (.vrcp d a p) := by
  intro h word hw
  have h : ((d < 32 && a < 32 && p < 8 : Bool)) = true := h
  simp only [Bool.and_eq_true, decide_eq_true_eq, cmdOk, pairOk] at h
  injection hw with hw
  omega
theorem Encoding.vrsq (d : Nat) (a : Nat) (p : Nat) : Encoding.Statement (.vrsq d a p) := by
  intro h word hw
  have h : ((d < 32 && a < 32 && p < 8 : Bool)) = true := h
  simp only [Bool.and_eq_true, decide_eq_true_eq, cmdOk, pairOk] at h
  injection hw with hw
  omega
theorem Encoding.vceq (d : Nat) (a : Nat) (b : Nat) (p : Nat) (t : VType) : Encoding.Statement (.vceq d a b p t) := by
  intro h word hw
  have h : ((d < 8 && a < 32 && b < 32 && p < 8 : Bool)) = true := h
  simp only [Bool.and_eq_true, decide_eq_true_eq, cmdOk, pairOk] at h
  have := VType.code_lt t
  injection hw with hw
  omega
theorem Encoding.vcne (d : Nat) (a : Nat) (b : Nat) (p : Nat) (t : VType) : Encoding.Statement (.vcne d a b p t) := by
  intro h word hw
  have h : ((d < 8 && a < 32 && b < 32 && p < 8 : Bool)) = true := h
  simp only [Bool.and_eq_true, decide_eq_true_eq, cmdOk, pairOk] at h
  have := VType.code_lt t
  injection hw with hw
  omega
theorem Encoding.vclt (d : Nat) (a : Nat) (b : Nat) (p : Nat) (t : VType) : Encoding.Statement (.vclt d a b p t) := by
  intro h word hw
  have h : ((d < 8 && a < 32 && b < 32 && p < 8 : Bool)) = true := h
  simp only [Bool.and_eq_true, decide_eq_true_eq, cmdOk, pairOk] at h
  have := VType.code_lt t
  injection hw with hw
  omega
theorem Encoding.vcle (d : Nat) (a : Nat) (b : Nat) (p : Nat) (t : VType) : Encoding.Statement (.vcle d a b p t) := by
  intro h word hw
  have h : ((d < 8 && a < 32 && b < 32 && p < 8 : Bool)) = true := h
  simp only [Bool.and_eq_true, decide_eq_true_eq, cmdOk, pairOk] at h
  have := VType.code_lt t
  injection hw with hw
  omega
theorem Encoding.vcgt (d : Nat) (a : Nat) (b : Nat) (p : Nat) (t : VType) : Encoding.Statement (.vcgt d a b p t) := by
  intro h word hw
  have h : ((d < 8 && a < 32 && b < 32 && p < 8 : Bool)) = true := h
  simp only [Bool.and_eq_true, decide_eq_true_eq, cmdOk, pairOk] at h
  have := VType.code_lt t
  injection hw with hw
  omega
theorem Encoding.vcge (d : Nat) (a : Nat) (b : Nat) (p : Nat) (t : VType) : Encoding.Statement (.vcge d a b p t) := by
  intro h word hw
  have h : ((d < 8 && a < 32 && b < 32 && p < 8 : Bool)) = true := h
  simp only [Bool.and_eq_true, decide_eq_true_eq, cmdOk, pairOk] at h
  have := VType.code_lt t
  injection hw with hw
  omega
theorem Encoding.vcun (d : Nat) (a : Nat) (b : Nat) (p : Nat) (t : VType) : Encoding.Statement (.vcun d a b p t) := by
  intro h word hw
  have h : ((d < 8 && a < 32 && b < 32 && p < 8 && t.isFloat : Bool)) = true := h
  simp only [Bool.and_eq_true, decide_eq_true_eq, cmdOk, pairOk] at h
  have := VType.code_lt t
  injection hw with hw
  omega
theorem Encoding.vcvt (d : Nat) (a : Nat) (s : VType) (x : Bool) (p : Nat) (t : VType) (m : RMode) : Encoding.Statement (.vcvt d a s x p t m) := by
  intro h word hw
  have h : ((d < 32 && a < 32 && p < 8 : Bool)) = true := h
  simp only [Bool.and_eq_true, decide_eq_true_eq, cmdOk, pairOk] at h
  have := VType.code_lt s
  have := Bool.toNat_lt x
  have := VType.code_lt t
  have := RMode.code_lt m
  injection hw with hw
  omega
theorem Encoding.vshuf (d : Nat) (a : Nat) (b : Nat) (p : Nat) (t : VType) : Encoding.Statement (.vshuf d a b p t) := by
  intro h word hw
  have h : ((d < 32 && a < 32 && b < 32 && p < 8 : Bool)) = true := h
  simp only [Bool.and_eq_true, decide_eq_true_eq, cmdOk, pairOk] at h
  have := VType.code_lt t
  injection hw with hw
  omega
theorem Encoding.vrot (d : Nat) (a : Nat) (n : Nat) (p : Nat) (t : VType) : Encoding.Statement (.vrot d a n p t) := by
  intro h word hw
  have h : ((d < 32 && a < 32 && n < 32 && p < 8 && (t != .f64 || n < 16) : Bool)) = true := h
  simp only [Bool.and_eq_true, decide_eq_true_eq, cmdOk, pairOk] at h
  have := VType.code_lt t
  injection hw with hw
  omega
theorem Encoding.vbcast (d : Nat) (a : Nat) (n : Nat) (p : Nat) (t : VType) : Encoding.Statement (.vbcast d a n p t) := by
  intro h word hw
  have h : ((d < 32 && a < 32 && n < 32 && p < 8 && (t != .f64 || n < 16) : Bool)) = true := h
  simp only [Bool.and_eq_true, decide_eq_true_eq, cmdOk, pairOk] at h
  have := VType.code_lt t
  injection hw with hw
  omega
theorem Encoding.vxlane (d : Nat) (a : Nat) (b : Nat) (p : Nat) (t : VType) : Encoding.Statement (.vxlane d a b p t) := by
  intro h word hw
  have h : ((d < 32 && a < 32 && b < 32 && p < 8 : Bool)) = true := h
  simp only [Bool.and_eq_true, decide_eq_true_eq, cmdOk, pairOk] at h
  have := VType.code_lt t
  injection hw with hw
  omega
theorem Encoding.vcompress (d : Nat) (a : Nat) (p : Nat) (t : VType) : Encoding.Statement (.vcompress d a p t) := by
  intro h word hw
  have h : ((d < 32 && a < 32 && p < 8 : Bool)) = true := h
  simp only [Bool.and_eq_true, decide_eq_true_eq, cmdOk, pairOk] at h
  have := VType.code_lt t
  injection hw with hw
  omega
theorem Encoding.vexpand (d : Nat) (a : Nat) (p : Nat) (t : VType) : Encoding.Statement (.vexpand d a p t) := by
  intro h word hw
  have h : ((d < 32 && a < 32 && p < 8 : Bool)) = true := h
  simp only [Bool.and_eq_true, decide_eq_true_eq, cmdOk, pairOk] at h
  have := VType.code_lt t
  injection hw with hw
  omega
theorem Encoding.vrsum (d : Nat) (a : Nat) (p : Nat) (t : VType) : Encoding.Statement (.vrsum d a p t) := by
  intro h word hw
  have h : ((d < 32 && a < 32 && p < 8 : Bool)) = true := h
  simp only [Bool.and_eq_true, decide_eq_true_eq, cmdOk, pairOk] at h
  have := VType.code_lt t
  injection hw with hw
  omega
theorem Encoding.vrmax (d : Nat) (a : Nat) (p : Nat) (t : VType) : Encoding.Statement (.vrmax d a p t) := by
  intro h word hw
  have h : ((d < 32 && a < 32 && p < 8 : Bool)) = true := h
  simp only [Bool.and_eq_true, decide_eq_true_eq, cmdOk, pairOk] at h
  have := VType.code_lt t
  injection hw with hw
  omega
theorem Encoding.vrmin (d : Nat) (a : Nat) (p : Nat) (t : VType) : Encoding.Statement (.vrmin d a p t) := by
  intro h word hw
  have h : ((d < 32 && a < 32 && p < 8 : Bool)) = true := h
  simp only [Bool.and_eq_true, decide_eq_true_eq, cmdOk, pairOk] at h
  have := VType.code_lt t
  injection hw with hw
  omega
theorem Encoding.vrsumo (d : Nat) (a : Nat) (p : Nat) (t : VType) : Encoding.Statement (.vrsumo d a p t) := by
  intro h word hw
  have h : ((d < 32 && a < 32 && p < 8 : Bool)) = true := h
  simp only [Bool.and_eq_true, decide_eq_true_eq, cmdOk, pairOk] at h
  have := VType.code_lt t
  injection hw with hw
  omega
theorem Encoding.vld (d : Nat) (a : Nat) (p : Nat) (t : VType) : Encoding.Statement (.vld d a p t) := by
  intro h word hw
  have h : ((d < 32 && a < 32 && p < 8 : Bool)) = true := h
  simp only [Bool.and_eq_true, decide_eq_true_eq, cmdOk, pairOk] at h
  have := VType.code_lt t
  injection hw with hw
  omega
theorem Encoding.vlds (d : Nat) (a : Nat) (b : Nat) (p : Nat) (t : VType) : Encoding.Statement (.vlds d a b p t) := by
  intro h word hw
  have h : ((d < 32 && a < 32 && b < 32 && p < 8 : Bool)) = true := h
  simp only [Bool.and_eq_true, decide_eq_true_eq, cmdOk, pairOk] at h
  have := VType.code_lt t
  injection hw with hw
  omega
theorem Encoding.vgather (d : Nat) (a : Nat) (b : Nat) (p : Nat) (t : VType) : Encoding.Statement (.vgather d a b p t) := by
  intro h word hw
  have h : ((d < 32 && a < 32 && b < 32 && p < 8 : Bool)) = true := h
  simp only [Bool.and_eq_true, decide_eq_true_eq, cmdOk, pairOk] at h
  have := VType.code_lt t
  injection hw with hw
  omega
theorem Encoding.vst (d : Nat) (a : Nat) (p : Nat) (t : VType) : Encoding.Statement (.vst d a p t) := by
  intro h word hw
  have h : ((d < 32 && a < 32 && p < 8 : Bool)) = true := h
  simp only [Bool.and_eq_true, decide_eq_true_eq, cmdOk, pairOk] at h
  have := VType.code_lt t
  injection hw with hw
  omega
theorem Encoding.vsts (d : Nat) (a : Nat) (b : Nat) (p : Nat) (t : VType) : Encoding.Statement (.vsts d a b p t) := by
  intro h word hw
  have h : ((d < 32 && a < 32 && b < 32 && p < 8 : Bool)) = true := h
  simp only [Bool.and_eq_true, decide_eq_true_eq, cmdOk, pairOk] at h
  have := VType.code_lt t
  injection hw with hw
  omega
theorem Encoding.vscatter (d : Nat) (a : Nat) (b : Nat) (p : Nat) (t : VType) : Encoding.Statement (.vscatter d a b p t) := by
  intro h word hw
  have h : ((d < 32 && a < 32 && b < 32 && p < 8 : Bool)) = true := h
  simp only [Bool.and_eq_true, decide_eq_true_eq, cmdOk, pairOk] at h
  have := VType.code_lt t
  injection hw with hw
  omega
theorem Encoding.vmovgv (d : Nat) (a : Nat) (n : Nat) (p : Nat) (t : VType) : Encoding.Statement (.vmovgv d a n p t) := by
  intro h word hw
  have h : ((d < 32 && a < 32 && n < 32 && p < 8 && (t != .f64 || n < 16) : Bool)) = true := h
  simp only [Bool.and_eq_true, decide_eq_true_eq, cmdOk, pairOk] at h
  have := VType.code_lt t
  injection hw with hw
  omega
theorem Encoding.vmovvg (d : Nat) (a : Nat) (n : Nat) (t : VType) : Encoding.Statement (.vmovvg d a n t) := by
  intro h word hw
  have h : ((d < 32 && a < 32 && n < 32 && (t != .f64 || n < 16) : Bool)) = true := h
  simp only [Bool.and_eq_true, decide_eq_true_eq, cmdOk, pairOk] at h
  have := VType.code_lt t
  injection hw with hw
  omega
theorem Encoding.vsplat (d : Nat) (a : Nat) (p : Nat) (t : VType) : Encoding.Statement (.vsplat d a p t) := by
  intro h word hw
  have h : ((d < 32 && a < 32 && p < 8 : Bool)) = true := h
  simp only [Bool.and_eq_true, decide_eq_true_eq, cmdOk, pairOk] at h
  have := VType.code_lt t
  injection hw with hw
  omega
theorem Encoding.vqbind (k : Nat) (a : Nat) : Encoding.Statement (.vqbind k a) := by
  intro h word hw
  have h : ((k < 4 && a < 32 : Bool)) = true := h
  simp only [Bool.and_eq_true, decide_eq_true_eq, cmdOk, pairOk] at h
  injection hw with hw
  omega
theorem Encoding.vqdrop (k : Nat) : Encoding.Statement (.vqdrop k) := by
  intro h word hw
  have h : ((k < 4 : Bool)) = true := h
  simp only [Bool.and_eq_true, decide_eq_true_eq, cmdOk, pairOk] at h
  injection hw with hw
  omega
theorem Encoding.vpand (d : Nat) (a : Nat) (b : Nat) (p : Nat) : Encoding.Statement (.vpand d a b p) := by
  intro h word hw
  have h : ((d < 8 && a < 8 && b < 8 && p < 8 : Bool)) = true := h
  simp only [Bool.and_eq_true, decide_eq_true_eq, cmdOk, pairOk] at h
  injection hw with hw
  omega
theorem Encoding.vpor (d : Nat) (a : Nat) (b : Nat) (p : Nat) : Encoding.Statement (.vpor d a b p) := by
  intro h word hw
  have h : ((d < 8 && a < 8 && b < 8 && p < 8 : Bool)) = true := h
  simp only [Bool.and_eq_true, decide_eq_true_eq, cmdOk, pairOk] at h
  injection hw with hw
  omega
theorem Encoding.vpxor (d : Nat) (a : Nat) (b : Nat) (p : Nat) : Encoding.Statement (.vpxor d a b p) := by
  intro h word hw
  have h : ((d < 8 && a < 8 && b < 8 && p < 8 : Bool)) = true := h
  simp only [Bool.and_eq_true, decide_eq_true_eq, cmdOk, pairOk] at h
  injection hw with hw
  omega
theorem Encoding.vpnot (d : Nat) (a : Nat) (p : Nat) : Encoding.Statement (.vpnot d a p) := by
  intro h word hw
  have h : ((d < 8 && a < 8 && p < 8 : Bool)) = true := h
  simp only [Bool.and_eq_true, decide_eq_true_eq, cmdOk, pairOk] at h
  injection hw with hw
  omega
theorem Encoding.vpcnt (d : Nat) (a : Nat) (p : Nat) : Encoding.Statement (.vpcnt d a p) := by
  intro h word hw
  have h : ((d < 32 && a < 8 && p < 8 : Bool)) = true := h
  simp only [Bool.and_eq_true, decide_eq_true_eq, cmdOk, pairOk] at h
  injection hw with hw
  omega
theorem Encoding.vpset (d : Nat) (a : Nat) (p : Nat) : Encoding.Statement (.vpset d a p) := by
  intro h word hw
  have h : ((d < 8 && a < 32 && p < 8 : Bool)) = true := h
  simp only [Bool.and_eq_true, decide_eq_true_eq, cmdOk, pairOk] at h
  injection hw with hw
  omega
theorem Encoding.vpfirst (d : Nat) (a : Nat) (p : Nat) : Encoding.Statement (.vpfirst d a p) := by
  intro h word hw
  have h : ((d < 8 && a < 8 && p < 8 : Bool)) = true := h
  simp only [Bool.and_eq_true, decide_eq_true_eq, cmdOk, pairOk] at h
  injection hw with hw
  omega
theorem Encoding.timerInterrupt : Encoding.Statement (.timerInterrupt) := noWord rfl
theorem Encoding.uiEntry : Encoding.Statement (.uiEntry) := noWord rfl
theorem Encoding.responseArrival (n : Nat) : Encoding.Statement (.responseArrival n) := noWord rfl
theorem Encoding.lockLoss (core : Nat) : Encoding.Statement (.lockLoss core) := noWord rfl
theorem Encoding.mma (core : Nat) : Encoding.Statement (.mma core) := noWord rfl
theorem Encoding.mmr (core : Nat) : Encoding.Statement (.mmr core) := noWord rfl
theorem Encoding.accz (core : Nat) : Encoding.Statement (.accz core) := noWord rfl
theorem Encoding.accld (core : Nat) : Encoding.Statement (.accld core) := noWord rfl
theorem Encoding.accst (core : Nat) : Encoding.Statement (.accst core) := noWord rfl
theorem Encoding.cpy (core : Nat) : Encoding.Statement (.cpy core) := noWord rfl
theorem Encoding.cpy2 (core : Nat) : Encoding.Statement (.cpy2 core) := noWord rfl
theorem Encoding.deal (core : Nat) : Encoding.Statement (.deal core) := noWord rfl
theorem Encoding.xpose (core : Nat) : Encoding.Statement (.xpose core) := noWord rfl
theorem Encoding.agset (core : Nat) : Encoding.Statement (.agset core) := noWord rfl
theorem Encoding.mldred (core : Nat) : Encoding.Statement (.mldred core) := noWord rfl
theorem Encoding.mstore (core : Nat) : Encoding.Statement (.mstore core) := noWord rfl
theorem Encoding.agstat (core : Nat) : Encoding.Statement (.agstat core) := noWord rfl
theorem Encoding.engineElement (core : Nat) (e : Eng) : Encoding.Statement (.engineElement core e) := noWord rfl
theorem Encoding.latchChunkArrival (core : Nat) : Encoding.Statement (.latchChunkArrival core) := noWord rfl
theorem Encoding.mmrWriteBack (core : Nat) : Encoding.Statement (.mmrWriteBack core) := noWord rfl
theorem Encoding.streamEntryArrival (n : Nat) : Encoding.Statement (.streamEntryArrival n) := noWord rfl
theorem Encoding.completionMessage (core : Nat) (e : Eng) : Encoding.Statement (.completionMessage core e) := noWord rfl
theorem Encoding.messageArrival (n : Nat) : Encoding.Statement (.messageArrival n) := noWord rfl
theorem Encoding.firingPush (core : Nat) (launch : Nat) (n : Nat) : Encoding.Statement (.firingPush core launch n) := noWord rfl
theorem Encoding.stealProbe (thief : Nat) (victim : Nat) (launch : Nat) : Encoding.Statement (.stealProbe thief victim launch) := noWord rfl
theorem Encoding.stealGrant (core : Nat) (launch : Nat) : Encoding.Statement (.stealGrant core launch) := noWord rfl
theorem Encoding.dieAgentSteal (launch : Nat) (die : Nat) : Encoding.Statement (.dieAgentSteal launch die) := noWord rfl
theorem Encoding.sharePush (launch : Nat) (n : Nat) : Encoding.Statement (.sharePush launch n) := noWord rfl
theorem Encoding.barrierArrival (launch : Nat) (tile : Nat) : Encoding.Statement (.barrierArrival launch tile) := noWord rfl
theorem Encoding.barrierRelease (core : Nat) (launch : Nat) : Encoding.Statement (.barrierRelease core launch) := noWord rfl
theorem Encoding.lullWave (launch : Nat) : Encoding.Statement (.lullWave launch) := noWord rfl
theorem Encoding.contextWake (core : Nat) (launch : Nat) : Encoding.Statement (.contextWake core launch) := noWord rfl
theorem Encoding.contextSwitch (core : Nat) : Encoding.Statement (.contextSwitch core) := noWord rfl
theorem Encoding.preemptInterrupt : Encoding.Statement (.preemptInterrupt) := noWord rfl
theorem Encoding.deadlineMiss (launch : Nat) : Encoding.Statement (.deadlineMiss launch) := noWord rfl
theorem Encoding.budgetExhausted (core : Nat) : Encoding.Statement (.budgetExhausted core) := noWord rfl
theorem Encoding.reserveRefill : Encoding.Statement (.reserveRefill) := noWord rfl
theorem Encoding.rollback : Encoding.Statement (.rollback) := noWord rfl
theorem Encoding.pairExchange (core : Nat) : Encoding.Statement (.pairExchange core) := noWord rfl
theorem Encoding.watchdogFire (tile : Nat) : Encoding.Statement (.watchdogFire tile) := noWord rfl
theorem Encoding.intervalEnd (tile : Nat) : Encoding.Statement (.intervalEnd tile) := noWord rfl
theorem Encoding.snapshotTimeout (tile : Nat) : Encoding.Statement (.snapshotTimeout tile) := noWord rfl
theorem Encoding.checkpointCommit (tile : Nat) : Encoding.Statement (.checkpointCommit tile) := noWord rfl
theorem Encoding.refusedMessageResend (n : Nat) : Encoding.Statement (.refusedMessageResend n) := noWord rfl
theorem Encoding.lehrFence (tile : Nat) : Encoding.Statement (.lehrFence tile) := noWord rfl
theorem Encoding.lehrChoose (tile : Nat) : Encoding.Statement (.lehrChoose tile) := noWord rfl
theorem Encoding.lehrRestore (tile : Nat) : Encoding.Statement (.lehrRestore tile) := noWord rfl
theorem Encoding.rebindingFlip (tile : Nat) : Encoding.Statement (.rebindingFlip tile) := noWord rfl
theorem Encoding.lehrReplay (tile : Nat) : Encoding.Statement (.lehrReplay tile) := noWord rfl
theorem Encoding.lehrResume (tile : Nat) : Encoding.Statement (.lehrResume tile) := noWord rfl
theorem Encoding.plannedMigration (tile : Nat) : Encoding.Statement (.plannedMigration tile) := noWord rfl
theorem Encoding.flitArrival (link : Nat) (good : Bool) : Encoding.Statement (.flitArrival link good) := noWord rfl
theorem Encoding.flitAcknowledgement (link : Nat) (n : Nat) : Encoding.Statement (.flitAcknowledgement link n) := noWord rfl
theorem Encoding.negativeAcknowledgement (link : Nat) (oneLane : Bool) : Encoding.Statement (.negativeAcknowledgement link oneLane) := noWord rfl
theorem Encoding.laneSparingDone (link : Nat) : Encoding.Statement (.laneSparingDone link) := noWord rfl
theorem Encoding.linkTrained (link : Nat) (lanes : Nat) : Encoding.Statement (.linkTrained link lanes) := noWord rfl
theorem Encoding.trainingTimeout (link : Nat) : Encoding.Statement (.trainingTimeout link) := noWord rfl
theorem Encoding.lossOfSignal (port : Nat) : Encoding.Statement (.lossOfSignal port) := noWord rfl
theorem Encoding.meshFlitArrival (f : MeshFlit) (q : FlitQuality) : Encoding.Statement (.meshFlitArrival f q) := noWord rfl
theorem Encoding.galePortTrained (port : Nat) (identity : BitVec 256) : Encoding.Statement (.galePortTrained port identity) := noWord rfl
theorem Encoding.hostPortDown (port : Nat) : Encoding.Statement (.hostPortDown port) := noWord rfl
theorem Encoding.launch (q : Nat) : Encoding.Statement (.launch q) := noWord rfl
theorem Encoding.waitpkt (q : Nat) : Encoding.Statement (.waitpkt q) := noWord rfl
theorem Encoding.signal (q : Nat) : Encoding.Statement (.signal q) := noWord rfl
theorem Encoding.pin (q : Nat) : Encoding.Statement (.pin q) := noWord rfl
theorem Encoding.unpin (q : Nat) : Encoding.Statement (.unpin q) := noWord rfl
theorem Encoding.copy (q : Nat) : Encoding.Statement (.copy q) := noWord rfl
theorem Encoding.nop (q : Nat) : Encoding.Statement (.nop q) := noWord rfl
theorem Encoding.packetWaitEnd (q : Nat) : Encoding.Statement (.packetWaitEnd q) := noWord rfl
theorem Encoding.copyDone (q : Nat) (n : Nat) : Encoding.Statement (.copyDone q n) := noWord rfl
theorem Encoding.qkick (q : Nat) (k : BitVec 32) : Encoding.Statement (.qkick q k) := noWord rfl
theorem Encoding.enable (q : Nat) : Encoding.Statement (.enable q) := noWord rfl
theorem Encoding.disable (q : Nat) : Encoding.Statement (.disable q) := noWord rfl
theorem Encoding.qctlResume (q : Nat) : Encoding.Statement (.qctlResume q) := noWord rfl
theorem Encoding.skip (q : Nat) : Encoding.Statement (.skip q) := noWord rfl
theorem Encoding.clrstale (q : Nat) : Encoding.Statement (.clrstale q) := noWord rfl
theorem Encoding.partitionTableWrite (off : Nat) (value : Nat) : Encoding.Statement (.partitionTableWrite off value) := noWord rfl
theorem Encoding.registerWrite (off : Nat) (value : Nat) : Encoding.Statement (.registerWrite off value) := noWord rfl
theorem Encoding.bar2Write (addr : Nat) (data : List (BitVec 8)) : Encoding.Statement (.bar2Write addr data) := noWord rfl
theorem Encoding.bar2Read (addr : BarAddr) (n : Nat) : Encoding.Statement (.bar2Read addr n) := noWord rfl
theorem Encoding.resyncRequest (value : Nat) : Encoding.Statement (.resyncRequest value) := noWord rfl
theorem Encoding.resyncComplete : Encoding.Statement (.resyncComplete) := noWord rfl
theorem Encoding.attach : Encoding.Statement (.attach) := noWord rfl
theorem Encoding.detach : Encoding.Statement (.detach) := noWord rfl
theorem Encoding.dbgHalt : Encoding.Statement (.dbgHalt) := noWord rfl
theorem Encoding.dbgResume : Encoding.Statement (.dbgResume) := noWord rfl
theorem Encoding.dbgRead : Encoding.Statement (.dbgRead) := noWord rfl
theorem Encoding.dbgWrite : Encoding.Statement (.dbgWrite) := noWord rfl
theorem Encoding.i3cReadDevstat : Encoding.Statement (.i3cReadDevstat) := noWord rfl
theorem Encoding.i3cReadPower : Encoding.Statement (.i3cReadPower) := noWord rfl
theorem Encoding.attestationReport (nonce : BitVec 256) : Encoding.Statement (.attestationReport nonce) := noWord rfl
theorem Encoding.bootStoreWrite (img : BootImage) : Encoding.Statement (.bootStoreWrite img) := noWord rfl
theorem Encoding.versionFloorRaise (kind : ImageKind) (floor : BitVec 32) (signature : Bool) : Encoding.Statement (.versionFloorRaise kind floor signature) := noWord rfl
theorem Encoding.debugWindowAccess (off : Nat) (write : Option (BitVec 64)) : Encoding.Statement (.debugWindowAccess off write) := noWord rfl
theorem Encoding.bypass : Encoding.Statement (.bypass) := noWord rfl
theorem Encoding.idcode : Encoding.Statement (.idcode) := noWord rfl
theorem Encoding.samplePreload : Encoding.Statement (.samplePreload) := noWord rfl
theorem Encoding.extest : Encoding.Statement (.extest) := noWord rfl
theorem Encoding.powerOnReset : Encoding.Statement (.powerOnReset) := noWord rfl
theorem Encoding.sensorSample (site : SensorSite) (temp : Nat) (current : Nat) : Encoding.Statement (.sensorSample site temp current) := noWord rfl
theorem Encoding.overtemperature (tile : Nat) : Encoding.Statement (.overtemperature tile) := noWord rfl
theorem Encoding.roleRestart (role : Nat) : Encoding.Statement (.roleRestart role) := noWord rfl
theorem Encoding.illegalInstruction (w : Nat) : Encoding.Statement (.illegalInstruction w) := noWord rfl
theorem Encoding.instructionFetch : Encoding.Statement (.instructionFetch) := noWord rfl
theorem Encoding.hostPortUp (port : Nat) : Encoding.Statement (.hostPortUp port) := noWord rfl
theorem Encoding.writeAcknowledgement (n : Nat) : Encoding.Statement (.writeAcknowledgement n) := noWord rfl
theorem Encoding.malformedPacket (q : Nat) : Encoding.Statement (.malformedPacket q) := noWord rfl
theorem Encoding.pairingExchange (launch : Nat) (wafer : Nat) (tiles : List Nat) : Encoding.Statement (.pairingExchange launch wafer tiles) := noWord rfl
theorem Encoding.pairedLaunchEnd (launch : Nat) (wafer : Nat) : Encoding.Statement (.pairedLaunchEnd launch wafer) := noWord rfl

end Sys2Proof.Laws
end

