-- ==== Sys2Proof/Laws/Traps.lean ====
section
/-! SUPPORT. What taking a trap leaves (R137): the saved registers, the level, the PC, and what it does not touch. -/

namespace Sys2Proof.Machine

/-- Leaving a gang changes nothing of the acting context but its gang. -/
theorem State.dissolveGang_cpu (s : State) : ∃ g, s.dissolveGang.cpu = { s.cpu with gang := g } := by
  unfold State.dissolveGang
  split
  · exact ⟨s.cpu.gang, rfl⟩
  · simp only [State.mapCtx_cpu]
    split
    · exact ⟨none, rfl⟩
    · exact ⟨s.cpu.gang, rfl⟩

theorem State.dissolveGang_rest (s : State) :
    s.dissolveGang.mem = s.mem ∧ s.dissolveGang.net = s.net ∧ s.dissolveGang.cores = s.cores ∧ s.dissolveGang.tiles = s.tiles ∧
      s.dissolveGang.launches = s.launches ∧ s.dissolveGang.dev = s.dev ∧ s.dissolveGang.fabric = s.fabric ∧
      s.dissolveGang.front = s.front := by
  unfold State.dissolveGang
  split <;> simp

/-- An abandoned wait changes nothing of the acting context but its gang and what its pair waits for. -/
theorem State.abandon_cpu (s : State) : ∃ g p, s.abandon.cpu = { s.cpu with gang := g, pair := p } := ⟨_, _, rfl⟩

/-- What is left of the acting context's waits when a trap stops it. -/
theorem State.dissolveAbandon_cpu (s : State) : ∃ g p, s.dissolveGang.abandon.cpu = { s.cpu with gang := g, pair := p } := by
  obtain ⟨g, hg⟩ := s.dissolveGang_cpu
  obtain ⟨g', p, hp⟩ := s.dissolveGang.abandon_cpu
  exact ⟨g', p, by rw [hp, hg]⟩

theorem State.dissolveAbandon_rest (s : State) :
    s.dissolveGang.abandon.mem = s.mem ∧ s.dissolveGang.abandon.net = s.net ∧ s.dissolveGang.abandon.cores = s.cores ∧
      s.dissolveGang.abandon.launches = s.launches ∧ s.dissolveGang.abandon.dev = s.dev ∧
      s.dissolveGang.abandon.fabric = s.fabric ∧ s.dissolveGang.abandon.front = s.front := by
  obtain ⟨h1, h2, h3, -, h5, h6, h7, h8⟩ := s.dissolveGang_rest
  exact ⟨h1, h2, h3, h5, h6, h7, h8⟩

/-- The state that a trap finds: waits left, the region sealed, the lock lost, and an interrupt or one of the causes 0x0E and 0x0F
noted for a replay (R128, R362, R110, R390). -/
def State.stopped (s : State) (w : Word) : State :=
  let u := s.dissolveGang.abandon.seal.loseLock s.cpu.core
  if w.getLsbD 63 || w == 14 || w == 15 then u.noteSwitch s.cpu.core 5 (s.cpu.launch.getD 0) else u

theorem State.stopped_cpu (s : State) (w : Word) :
    ∃ g p, (s.stopped w).cpu = { s.cpu with gang := g, pair := p, csrs := { s.cpu.csrs with regpc := s.cpu.csrs.regpc &&& 0x7FFFFFFFFFFFFFFF } } := by
  obtain ⟨g, p, h⟩ := s.dissolveAbandon_cpu
  refine ⟨g, p, ?_⟩
  unfold State.stopped
  simp only
  split <;> simp only [State.noteSwitch_cpu, State.loseLock_cpu] <;> simp only [State.seal, State.modCsr, State.modCpu, h]

/-- A core whose lock is lost is as it was but for that. -/
theorem State.loseLock_core (s : State) (n : Nat) : (s.loseLock n).core n = { s.core n with lock := none } := by
  have h : (s.loseLock n).core n = (s.updCore n fun c => { c with lock := none }).core n := by
    unfold State.core State.loseLock
    rw [State.unqueueLock_cores]
  rw [h, State.core_updCore, if_pos rfl]

theorem State.stopped_rest (s : State) (w : Word) :
    (s.stopped w).mem = s.mem ∧ (s.stopped w).net = s.net ∧
      (s.stopped w).core s.cpu.core = { s.core s.cpu.core with lock := none } := by
  obtain ⟨hm, hn, hc, -⟩ := s.dissolveAbandon_rest
  have hl : (s.dissolveGang.abandon.seal.loseLock s.cpu.core).core s.cpu.core = { s.core s.cpu.core with lock := none } := by
    rw [State.loseLock_core]
    simp only [State.core, State.seal, State.modCsr_cores, hc]
  have hsw : ∀ u : State, (u.noteSwitch s.cpu.core 5 (s.cpu.launch.getD 0)).core s.cpu.core = u.core s.cpu.core := by
    intro u; simp only [State.core, State.noteSwitch_cores]
  unfold State.stopped
  simp only
  split <;> simp only [State.noteSwitch_mem, State.noteSwitch_net, State.loseLock_mem, State.loseLock_net, hsw, hl] <;>
    simp [State.seal, hm, hn]

/-- Below an escalation taking a trap is one update of the state it finds. -/
theorem State.takeTrapWord_of (s : State) (w : Word) (tval telem : Nat) (h : s.takesTraps) :
    s.takeTrapWord w tval telem =
      (((s.stopped w).modCsr fun c =>
        { c with
          tcause := w, tval := BitVec.ofNat 64 tval, telem := BitVec.ofNat 64 (telem % 2 ^ 28), tpc := BitVec.ofNat 64 s.pc
          tstat := BitVec.ofNat 64 ((if s.cpu.handler then 16 else 0) + s.cpu.level.code * 4 + (if tstatIE c.tstat then 2 else 0)) }).modCpu
        fun c => { c with level := .runtime, handler := false, stalled := false, entered := w :: c.entered, frame := none }).setPcc
      (capSetAddr runtimeText (pcOf s.cpu.csrs.tvec.toNat)) := by
  obtain ⟨g, p, hg⟩ := s.dissolveAbandon_cpu
  obtain ⟨g', p', hs⟩ := s.stopped_cpu w
  have hlev : s.dissolveGang.abandon.cpu.level = s.cpu.level := by rw [hg]
  have hcsr : s.dissolveGang.abandon.cpu.csrs = s.cpu.csrs := by rw [hg]
  have hpc : s.dissolveGang.abandon.pc = s.pc := by simp [State.pc, hg]
  have hcore : s.dissolveGang.abandon.cpu.core = s.cpu.core := by rw [hg]
  have hlau : s.dissolveGang.abandon.cpu.launch = s.cpu.launch := by rw [hg]
  have hhan : s.dissolveGang.abandon.cpu.handler = s.cpu.handler := by rw [hg]
  unfold State.takeTrapWord
  simp only [hlev, hcsr]
  rw [if_neg (by rcases h with h | ⟨h, h'⟩ <;> simp [h]; simp [h'])]
  have hst : (if w.getLsbD 63 || w == 14 || w == 15 then
      (s.dissolveGang.abandon.seal.loseLock s.cpu.core).noteSwitch s.cpu.core 5 (s.cpu.launch.getD 0)
      else s.dissolveGang.abandon.seal.loseLock s.cpu.core) = s.stopped w := rfl
  have hseal : s.dissolveGang.abandon.seal.cpu.core = s.cpu.core := hcore
  have hseal' : s.dissolveGang.abandon.seal.cpu.launch = s.cpu.launch := hlau
  simp only [State.loseLock_cpu, hcore, hseal, hseal', hpc, hst]
  simp [State.enter, hs]

/-- What a trap below an escalation leaves. -/
theorem State.takeTrapWord_fields (s : State) (w : Word) (tval telem : Nat) (h : s.takesTraps) :
    let t := s.takeTrapWord w tval telem
    t.cpu.csrs.tcause = w ∧ t.cpu.csrs.tval = BitVec.ofNat 64 tval ∧ t.cpu.csrs.telem = BitVec.ofNat 64 (telem % 2 ^ 28) ∧
      t.cpu.csrs.tpc = BitVec.ofNat 64 s.pc ∧
      t.cpu.csrs.tstat = BitVec.ofNat 64 ((if s.cpu.handler then 16 else 0) + s.cpu.level.code * 4 +
        (if tstatIE s.cpu.csrs.tstat then 2 else 0)) ∧
      t.cpu.csrs.frm = s.cpu.csrs.frm ∧ t.cpu.csrs.regpc = s.cpu.csrs.regpc &&& 0x7FFFFFFFFFFFFFFF ∧
      t.cpu.level = .runtime ∧ t.cpu.handler = false ∧ t.cpu.stalled = false ∧ t.cpu.entered = w :: s.cpu.entered ∧
      t.cpu.pcc = capSetAddr runtimeText (pcOf s.cpu.csrs.tvec.toNat) ∧ t.cpu.regs = s.cpu.regs ∧ t.cpu.core = s.cpu.core ∧
      t.mem = s.mem ∧ t.net = s.net ∧ (t.core s.cpu.core).lock = none ∧ (t.core s.cpu.core).preReq = (s.core s.cpu.core).preReq := by
  obtain ⟨g, p, hs⟩ := s.stopped_cpu w
  obtain ⟨hm, hn, hc⟩ := s.stopped_rest w
  have hc' : ∀ f g, ((((s.stopped w).modCsr f).modCpu g).setPcc (capSetAddr runtimeText (pcOf s.cpu.csrs.tvec.toNat))).core s.cpu.core =
      (s.stopped w).core s.cpu.core := fun _ _ => rfl
  simp only [s.takeTrapWord_of w tval telem h, hc', hc]
  simp [hs, hm, hn]

end Sys2Proof.Machine
end

