-- ==== Sys2Proof/Tests/Slice0.lean ====
section
/-! SUPPORT. Tests: ill-formed terms that WellFormed refuses, words written out from the encoding tables, single steps whose results
come from the spec's rules, and for every statement a state and operands that meet its hypotheses. -/

set_option maxRecDepth 100000
set_option exponentiation.threshold 2100
set_option Elab.async false

open Sys2Proof Sys2Proof.Machine

namespace Sys2Proof.Machine

/-- A state with other general registers. -/
def State.gs (s : State) (rs : List (Nat × GReg)) : State :=
  rs.foldl (fun s r => s.modRegs fun g => { g with g := vset g.g r.1 r.2 }) s

/-- At another level. -/
def State.atLevel (s : State) (l : Level) : State := s.modCpu fun c => { c with level := l }

end Sys2Proof.Machine

namespace Sys2Proof.Tests

/-! ## Helpers -/

/-- A checked result, without its value. -/
def good {α : Type} (x : Out α) : Bool :=
  match x with
  | .ok _ => true
  | .trap _ => false
  | .wait => false

theorem good_ok {α : Type} {x : Out α} (h : good x = true) : ∃ a, x = .ok a := by
  cases x with
  | ok a => exact ⟨a, rfl⟩
  | trap t => cases h
  | wait => cases h

theorem good_pair {α : Type} {x : State × Out α} (h : good x.2 = true) : ∃ u a, x = (u, .ok a) := by
  obtain ⟨a, h⟩ := good_ok h
  exact ⟨x.1, a, by rw [← h]⟩

def egood {α : Type} (x : EOut α) : Bool :=
  match x with
  | .ok _ => true
  | .stop _ _ _ _ => false
  | .wait => false

theorem egood_pair {α : Type} {x : State × EOut α} (h : egood x.2 = true) : ∃ u a, x = (u, .ok a) := by
  obtain ⟨s, r⟩ := x
  cases r with
  | ok a => exact ⟨s, a, rfl⟩
  | stop _ _ _ _ => cases h
  | wait => cases h

/-- The next state meets a test. -/
def nextIs (r : Res) (p : State → Bool) : Bool :=
  match r with
  | .next t => p t
  | .fault _ => false
  | .refused _ => false

theorem next_of {r : Res} (h : nextIs r (fun _ => true) = true) : ∃ t, r = .next t := by
  cases r with
  | next t => exact ⟨t, rfl⟩
  | fault _ => cases h
  | refused _ => cases h

/-- A checked result with a value. -/
def okIs {α : Type} [DecidableEq α] (x : Out α) (v : α) : Bool :=
  match x with
  | .ok a => decide (a = v)
  | .trap _ => false
  | .wait => false

theorem okIs_pair {α : Type} [DecidableEq α] {x : State × Out α} {v : α} (h : okIs x.2 v = true) : x = (x.1, .ok v) := by
  obtain ⟨u, r⟩ := x
  cases r with
  | ok a => rw [of_decide_eq_true (p := a = v) h]
  | trap t => cases h
  | wait => cases h

/-- A capability with every permission over the core's own TCM, and one over its tile's scratchpad. -/
def tcmCap : GReg := ⟨.cap, capOver 63 0 0x20000 0x1000⟩
def spadCap : GReg := ⟨.cap, capOver 63 0x10000000 0x200000 0x10000000⟩
def farCap : GReg := ⟨.cap, capOver 63 0x010000000000 0x10000 0x010000000000⟩

/-- Registers of the small states: g1 TCM, g2 5, g3 POISON, g4 scratchpad, g5 7, g6 a translated page. -/
def regs0 : Regs :=
  { Regs.reset with g := vset (vset (vset (vset (vset (vset Regs.reset.g 1 tcmCap) 2 (word 5)) 3 (poisonOnes 1)) 4 spadCap) 5 (word 7)) 6 farCap }

/-- Core 0 at application level, without a launch. -/
def st : State := { State.reset with cpu := { State.reset.cpu.bare with regs := regs0 } }

/-! ## Ill-formed terms: one for each check of WellFormed, and both ends of a range -/

/-- Register numbers: g below 64, v below 32, p below 8 (R42). -/
theorem test_wf_registers :
    ([Instr.add 64 0 0, .add 0 64 0, .add 0 0 64, .clz 64 0, .clz 0 64, .lui 64 0, .jr 64, .st 64 0 .b8 0, .beq 0 64 0, .pair 64,
      .vadd 32 0 0 0 .f32, .vadd 0 32 0 0 .f32, .vadd 0 0 32 0 .f32, .vadd 0 0 0 8 .f32, .vceq 8 0 0 0 .f32, .vpand 8 0 0 0, .vpand 0 8 0 0,
      .vpand 0 0 8 0, .vpcnt 32 0 0, .vpset 0 32 0, .vld 0 32 0 .f32, .vqbind 4 0, .vqbind 0 32, .vqdrop 4, .vmovgv 0 0 32 0 .f32].any wf) = false := by
  decide

/-- Immediates and displacements at the first value outside each range (R43, R45, R53). -/
theorem test_wf_immediates :
    ([Instr.addi 0 0 8192, .addi 0 0 (-8193), .ori 0 0 16384, .shli 0 0 64, .slti 0 0 4096, .slti 0 0 (-4097), .lui 0 524288, .lui 0 (-524289),
      .cinci 0 0 8192, .ld 0 0 .d64 1024, .ld 0 0 .d64 (-1025), .beq 0 0 1024, .beqz 0 65536, .beqz 0 (-65537), .j 33554432, .j (-33554433),
      .rep 0 1 0 0 0, .rep 17 1 0 0 0, .rep 1 0 0 0 0, .rep 1 257 0 0 0, .rep 1 1 4 0 0, .rep 1 1 0 4 0, .rep 1 1 0 0 4, .ecall 1024,
      .csrr 16384 0].any wf) = false := by
  decide

/-- Fields whose values are limited by name: descriptor pairs, command registers, types, lanes, FCVT (R46, R47, R116, R152, R153, R169). -/
theorem test_wf_fields :
    ([Instr.spawn 0, .spawn 63, .take 0 63, .trig 0 0 0, .push 0 .me, .push 61 .me, .pushTry 0 61 .ce, .fcvt 0 0 .other .toFmt .f32,
      .vand 0 0 0 0 .f32, .vadds 0 0 0 0 .f64, .vfma 0 0 0 0 .i32, .vsqrt 0 0 0 .n8, .vcun 0 0 0 0 .i32, .vrot 0 0 16 0 .f64, .vbcast 0 0 16 0 .f64,
      .vmovgv 0 0 16 0 .f64, .vmovvg 0 0 16 .f64].any wf) = false := by
  decide

/-- The ends inside each range are well formed. -/
theorem test_wf_ends :
    ([Instr.add 63 63 63, .addi 0 0 8191, .addi 0 0 (-8192), .slti 0 0 (-4096), .lui 0 524287, .ld 0 0 .d64 1023, .beq 0 0 (-1024), .j 33554431,
      .rep 1 1 0 0 0, .rep 16 256 3 3 3, .spawn 62, .push 60 .ca, .vrot 31 31 31 7 .f32, .vrot 0 0 15 0 .f64, .ecall 1023, .csrr 16383 63].all wf) =
      true := by
  decide

/-! ## Words written out from R42 to R49 -/

/-- Field places of the formats of R42. -/
def f3 (m d a b fn : Nat) : Nat := m * 2 ^ 26 + d * 2 ^ 20 + a * 2 ^ 14 + b * 2 ^ 8 + fn
def fi (m d a i : Nat) : Nat := m * 2 ^ 26 + d * 2 ^ 20 + a * 2 ^ 14 + i
def fm (m d a w i : Nat) : Nat := m * 2 ^ 26 + d * 2 ^ 20 + a * 2 ^ 14 + w * 2 ^ 11 + i
def fv (m d a b p t o : Nat) : Nat := m * 2 ^ 26 + d * 2 ^ 21 + a * 2 ^ 16 + b * 2 ^ 11 + p * 2 ^ 8 + t * 2 ^ 4 + o

/-- The words that the spec works out (chapters 2, 3 and 5). -/
theorem test_decode_workedWords :
    decodeWord 0x04304200 = some (.add 3 1 2) ∧ decodeWord 0x08517FF8 = some (.addi 5 5 (-8)) ∧
    decodeWord 0x307F1803 = some (.ld 7 60 .d64 3) ∧ decodeWord 0x488807FD = some (.bne 4 0 (-3)) ∧
    decodeWord 0x84853100 = some (.vfma 4 5 6 1 .f32) ∧ decodeWord 0x7C025800 = some (.csrr 0 9) ∧ decodeWord 0x70000000 = some .region ∧
    decodeWord 0x2D4F4100 = some (.cinci 20 61 256) ∧ decodeWord 0x29451501 = some (.cbnd 20 20 21) ∧
    decodeWord 0x80221800 = some (.vadd 1 2 3 0 .f32) ∧ decodeWord 0x88E70000 = some (.vexp2 7 7 0) ∧
    decodeWord 0x8C442802 = some (.vclt 2 4 5 0 .f32) ∧ decodeWord 0x91090020 = some (.vcvt 8 9 .f32 false 0 .bf16 .rne) ∧
    decodeWord 0x94221C33 = some (.vxlane 1 2 3 4 .i32) ∧ decodeWord 0x998D0000 = some (.vrsum 12 13 0 .f32) ∧
    decodeWord 0x9D545B02 = some (.vgather 10 20 11 3 .f32) ∧ decodeWord 0xA0250003 = some (.vqbind 1 5) := by
  decide

/-- A word of each integer, capability and memory major. -/
theorem test_decode_integerAndMemory :
    decodeWord (f3 0x01 9 8 7 19) = some (.div 9 8 7) ∧ decodeWord (f3 0x01 9 8 0 23) = some (.clz 9 8) ∧ decodeWord (f3 0x01 9 8 7 31) = some (.sne 9 8 7) ∧
    decodeWord (fi 0x03 1 2 0x3FFF) = some (.andi 1 2 (-1)) ∧ decodeWord (fi 0x04 1 2 0x3FFF) = some (.ori 1 2 16383) ∧
    decodeWord (fi 0x05 1 2 5) = some (.xori 1 2 5) ∧ decodeWord (fi 0x06 1 2 (2 * 2 ^ 12 + 63)) = some (.sari 1 2 63) ∧
    decodeWord (fi 0x07 1 2 (2 ^ 13 + 0x1FFF)) = some (.sltni 1 2 (-1)) ∧ decodeWord (0x08 * 2 ^ 26 + 3 * 2 ^ 20 + 0x80000) = some (.lui 3 (-524288)) ∧
    decodeWord (0x09 * 2 ^ 26 + 3 * 2 ^ 20 + 4) = some (.cpc 3 4) ∧ decodeWord (f3 0x0A 1 2 3 10) = some (.csub 1 2 3) ∧
    decodeWord (fm 0x0D 1 2 7 1) = some (.lds 1 2 .q128 1) ∧ decodeWord (fm 0x0E 1 2 3 0x7FF) = some (.st 1 2 .b64 (-1)) ∧
    decodeWord (f3 0x0F 1 2 3 (9 * 16 + 8 + 2 * 2 + 1)) = some (.acas 1 2 3 .w64 .dev .ar) ∧
    decodeWord (f3 0x10 0 0 3 0) = some (.fence .sys) ∧ decodeWord (f3 0x10 1 2 2 3) = some (.lda 1 2 .dev) ∧ decodeWord (f3 0x10 1 2 0 6) = some (.stul 1 2) ∧
    decodeWord (f3 0x11 1 2 3 1) = some (.stv 1 2 3) ∧ decodeWord (f3 0x11 0 2 3 3) = some (.reclaim 2 3) := by
  decide

/-- A word of each control, task, message, barrier and system major. -/
theorem test_decode_controlAndSystem :
    decodeWord (0x12 * 2 ^ 26 + 5 * 2 ^ 23 + 3 * 2 ^ 17 + 4 * 2 ^ 11 + 0x400) = some (.bgen 3 4 (-1024)) ∧
    decodeWord (0x13 * 2 ^ 26 + 4 * 2 ^ 23 + 3 * 2 ^ 17 + 2) = some (.bgtz 3 2) ∧ decodeWord (0x14 * 2 ^ 26 + 0x3FFFFFF) = some (.j (-1)) ∧
    decodeWord (0x15 * 2 ^ 26 + 6) = some (.jal 6) ∧ decodeWord (f3 0x16 5 6 0 1) = some (.jalr 5 6) ∧
    decodeWord (0x17 * 2 ^ 26 + 15 * 2 ^ 22 + 255 * 2 ^ 14 + 1 * 2 ^ 12 + 2 * 2 ^ 10 + 3 * 2 ^ 8) = some (.rep 16 256 1 2 3) ∧
    decodeWord (f3 0x18 1 2 8 (128 + 9)) = some (.fcvt 1 2 .i32 .fromFmt .f64) ∧ decodeWord (f3 0x18 1 2 3 4) = some (.fma 1 2 3 .f32) ∧
    decodeWord (f3 0x19 1 2 0 2) = some (.take 1 2) ∧ decodeWord (f3 0x19 1 2 3 5) = some (.trig 1 2 3) ∧ decodeWord (f3 0x1A 0 2 3 3) = some (.send 2 3) ∧
    decodeWord (f3 0x1B 1 2 3 9) = some (.tnbr 1 2 3) ∧ decodeWord (f3 0x1C 1 2 3 5) = some (.rng 1 2 3) ∧ decodeWord (f3 0x1D 1 0 0 1) = some (.waitpred 1) ∧
    decodeWord (f3 0x1E 0 8 0 0) = some (.push 8 .me) ∧ decodeWord (f3 0x1E 1 8 5 0) = some (.pushTry 1 8 .ce) ∧ decodeWord (f3 0x1E 1 0 3 1) = some (.eprog 1 .sr) ∧
    decodeWord (fi 0x1F 0 0 1023) = some (.ecall 1023) ∧ decodeWord (fi 0x1F 0 0 (2 * 2 ^ 10)) = some .eret ∧
    decodeWord (fi 0x1F 15 9 (7 * 2 ^ 10 + 1023)) = some (.csrw 16383 9) ∧ decodeWord (fi 0x1F 0 5 (10 * 2 ^ 10)) = some (.tlbinv 5) := by
  decide

/-- A word of each vector major. -/
theorem test_decode_vector :
    decodeWord (fv 0x20 1 2 3 4 8 15) = some (.vsubs 1 2 3 4 .n8) ∧ decodeWord (fv 0x21 1 2 0 4 9 5) = some (.vsqrt 1 2 4 .f64) ∧
    decodeWord (fv 0x22 1 2 0 4 0 3) = some (.vrsq 1 2 4) ∧ decodeWord (fv 0x23 7 2 3 4 2 6) = some (.vcun 7 2 3 4 .bf16) ∧
    decodeWord (fv 0x24 1 2 (2 * 5 + 1) 4 3 1) = some (.vcvt 1 2 .i8 true 4 .i32 .rtz) ∧ decodeWord (fv 0x25 1 2 31 4 4 1) = some (.vrot 1 2 31 4 .i16) ∧
    decodeWord (fv 0x26 1 2 0 4 6 3) = some (.vrsumo 1 2 4 .n32) ∧ decodeWord (fv 0x27 1 2 3 4 9 4) = some (.vsts 1 2 3 4 .f64) ∧
    decodeWord (fv 0x28 1 2 3 0 0 1) = some (.vmovvg 1 2 3 .f32) ∧ decodeWord (fv 0x29 1 2 3 4 0 2) = some (.vpxor 1 2 3 4) ∧
    decodeWord (fv 0x29 31 2 0 4 0 4) = some (.vpcnt 31 2 4) := by
  decide

/-- Words that are no instructions (R51, R52). -/
theorem test_decode_refused :
    ([0, 0x2A * 2 ^ 26, 0x3F * 2 ^ 26, f3 0x01 1 2 3 23, f3 0x01 1 2 3 32, fi 0x06 1 2 64, f3 0x10 1 0 0 0, f3 0x10 1 2 4 3, f3 0x16 1 2 0 0,
      0x17 * 2 ^ 26 + 1, f3 0x18 1 2 1 9, f3 0x18 1 2 4 9, f3 0x19 0 0 0 0, f3 0x19 1 2 3 2, f3 0x1E 0 61 0 0, f3 0x1E 0 8 3 0, fi 0x1F 16 9 (6 * 2 ^ 10),
      fv 0x20 1 2 3 4 10 0, fv 0x20 1 2 3 4 0 7, fv 0x23 8 2 3 4 0 0, fv 0x24 1 2 0 0 0 6, fv 0x26 1 2 1 0 0 0, fv 0x29 1 2 3 4 1 0].all
      fun w => (decodeWord w).isNone) = true := by
  decide

/-! ## Single steps: results the spec states -/

/-- st with two operands in g10 and g11. -/
def ops (x y : Nat) : State := st.gs [(10, word (BitVec.ofNat 64 x)), (11, word (BitVec.ofNat 64 y))]

/-- g12 after an instruction, when it retires. -/
def puts (i : Instr) (s : State) (v : Nat) : Bool := nextIs (exec i s) fun t => t.getG 12 == word (BitVec.ofNat 64 v) && t.pc == s.pc4

/-- A step fetches, decodes and runs the word at the PC: ADD g3, g2, g5 of 5 and 7 (R41, R80, R81). -/
theorem test_step_add :
    nextIs (step (st.withFetchWord 32 (f3 0x01 3 2 5 0))) (fun t => t.getG 3 == word 12 && t.pc == 4 && t.cpu.level == .app) = true := by decide

/-- A word that is no instruction traps with cause 0x01, the word in TVAL and its address in TPC (R51). -/
theorem test_step_illegal :
    nextIs (step (st.withFetchWord 32 0xFC000001)) (fun t => t.cpu.csrs.tcause == 1 && t.cpu.csrs.tval == 0xFC000001 && t.cpu.csrs.tpc == 0 &&
      t.cpu.level == .runtime) = true := by decide

/-- DIV and REM by zero and of the least number by −1 (R81). -/
theorem test_div_corners :
    puts (.div 12 10 11) (ops 7 0) (2 ^ 64 - 1) = true ∧ puts (.rem 12 10 11) (ops 7 0) 7 = true ∧
    puts (.div 12 10 11) (ops (2 ^ 63) (2 ^ 64 - 1)) (2 ^ 63) = true ∧ puts (.rem 12 10 11) (ops (2 ^ 63) (2 ^ 64 - 1)) 0 = true ∧
    puts (.div 12 10 11) (ops (2 ^ 64 - 7) 2) (2 ^ 64 - 3) = true ∧ puts (.rem 12 10 11) (ops (2 ^ 64 - 7) 2) (2 ^ 64 - 1) = true ∧
    puts (.divn 12 10 11) (ops 7 0) (2 ^ 64 - 1) = true ∧ puts (.remn 12 10 11) (ops 7 0) 7 = true := by decide

/-- Products, shifts, 32-bit forms and comparisons at their edges (R81). -/
theorem test_integer_edges :
    puts (.mulh 12 10 11) (ops (2 ^ 64 - 1) (2 ^ 64 - 1)) 0 = true ∧ puts (.mulhn 12 10 11) (ops (2 ^ 64 - 1) (2 ^ 64 - 1)) (2 ^ 64 - 2) = true ∧
    puts (.sar 12 10 11) (ops (2 ^ 63) 63) (2 ^ 64 - 1) = true ∧ puts (.shl 12 10 11) (ops 1 64) 1 = true ∧
    puts (.rol 12 10 11) (ops (2 ^ 63 + 1) 1) 3 = true ∧ puts (.addw 12 10 11) (ops 0x7FFFFFFF 1) 0xFFFFFFFF80000000 = true ∧
    puts (.mulw 12 10 11) (ops 0x10000 0x8000) 0xFFFFFFFF80000000 = true ∧ puts (.slt 12 10 11) (ops (2 ^ 64 - 1) 0) 1 = true ∧
    puts (.sltn 12 10 11) (ops (2 ^ 64 - 1) 0) 0 = true ∧ puts (.clz 12 10) (ops 0 0) 64 = true ∧ puts (.ctz 12 10) (ops 8 0) 3 = true ∧
    puts (.bswap 12 10) (ops 0x0102030405060708 0) 0x0807060504030201 = true := by decide

/-- Immediates: sign extension, zero extension, LUI (R82). -/
theorem test_immediates :
    puts (.addi 12 10 (-1)) (ops 0 0) (2 ^ 64 - 1) = true ∧ puts (.andi 12 10 (-1)) (ops 5 0) 5 = true ∧ puts (.ori 12 10 16383) (ops 0 0) 16383 = true ∧
    puts (.sltni 12 10 (-1)) (ops 5 0) 1 = true ∧ puts (.sari 12 10 1) (ops (2 ^ 64 - 3) 0) (2 ^ 64 - 2) = true ∧
    puts (.lui 12 (-524288)) (ops 0 0) 0xFFFFFFFF80000000 = true := by decide

/-- POISON is copied whole, the first operand first; g0 discards (R71, R80). -/
theorem test_poison_and_g0 :
    nextIs (exec (.add 12 2 3) st) (fun t => t.getG 12 == poisonOnes 1) = true ∧
    nextIs (exec (.add 0 2 5) st) (fun t => t.getG 0 == GReg.zero && t.pc == 4) = true := by decide

/-- The derivation that the spec works through, and the one that passes its parent (chapter 3). -/
theorem test_derivation :
    let s := st.gs [(61, ⟨.cap, mkCap 0b110111 10 2048 0x10000000 0x10000000⟩), (21, word 100001), (22, word 0x200000)]
    nextIs (exec (.cinci 20 61 256) s) (fun t => nextIs (exec (.cbnd 20 20 21) t) fun u =>
      u.getG 20 == ⟨.cap, 0xDC5C3600000100001000000010000100⟩) = true ∧
    nextIs (exec (.cinci 20 61 256) s) (fun t => nextIs (exec (.cbnd 20 20 22) t) fun u =>
      u.cpu.csrs.tcause == 3 && u.cpu.csrs.tval == 0x10000100 && u.getG 20 == t.getG 20) = true := by decide

/-- A store and the loads of its bytes: little-endian, sign and zero extension (R12, R85). -/
theorem test_store_load :
    nextIs (exec (.st 10 1 .b32 2) (ops 0xFFFFFF80 0)) (fun t =>
      (t.mem.byte (tcmKey 0 0x1008) == 0x80 && t.mem.byte (tcmKey 0 0x100B) == 0xFF && t.mem.byte (tcmKey 0 0x100C) == 0) &&
      nextIs (exec (.ld 12 1 .i8 8) t) (fun u => u.getG 12 == word 0xFFFFFFFFFFFFFF80) &&
      nextIs (exec (.ld 12 1 .n32 2) t) (fun u => u.getG 12 == word 0xFFFFFF80) &&
      nextIs (exec (.ld 12 1 .i8 11) t) (fun u => u.getG 12 == word 0xFFFFFFFFFFFFFFFF)) = true := by decide

/-- Each check of R77 in its order, and a misaligned access (R77, R86, R141). -/
theorem test_access_traps :
    let cause := fun (i : Instr) (s : State) (c : Word) => nextIs (exec i s) fun t => t.cpu.csrs.tcause == c && t.cpu.regs.g == s.cpu.regs.g
    cause (.ld 12 2 .n8 0) st 2 = true ∧ cause (.ld 12 3 .n8 0) st 6 = true ∧
    cause (.ld 12 1 .n8 0) (st.gs [(1, ⟨.cap, capOver 0b010000 0 0x20000 0⟩)]) 4 = true ∧
    cause (.ld 12 1 .d64 0) (st.gs [(1, ⟨.cap, capOver 63 0 8 8⟩)]) 3 = true ∧
    cause (.ld 12 1 .d64 0) (st.gs [(1, ⟨.cap, capOver 63 0 64 4⟩)]) 5 = true ∧
    cause (.ld 12 1 .n8 0) (st.gs [(1, ⟨.cap, capOver 63 0x20000 64 0x20000⟩)]) 4 = true := by decide

/-- Branches and links (R92, R93, R94). -/
theorem test_control :
    nextIs (exec (.blt 10 11 (-1)) ((ops (2 ^ 64 - 1) 0).setPc 8)) (fun t => t.pc == 4) = true ∧
    nextIs (exec (.bltn 10 11 (-1)) ((ops (2 ^ 64 - 1) 0).setPc 8)) (fun t => t.pc == 12) = true ∧
    nextIs (exec (.jal 4) st) (fun t => t.pc == 16 && t.getG 63 == ⟨.cap, capSetAddr st.cpu.pcc 4⟩) = true ∧
    nextIs (exec (.j (-1)) st) (fun t => t.cpu.csrs.tcause == 3) = true := by decide

/-- f32 and f64: one rounding, ties to even, the directed modes, flags (R28, R37, R96). -/
theorem test_float :
    let two24 := 0x4B800000; let one := 0x3F800000
    nextIs (exec (.fadd 12 10 11 .f32) (ops two24 one)) (fun t => t.getG 12 == word 0x4B800000 && t.cpu.csrs.fflags == 1) = true ∧
    nextIs (exec (.fadd 12 10 11 .f32) ((ops two24 one).modCsr fun c => { c with frm := 3 })) (fun t => t.getG 12 == word 0x4B800001) = true ∧
    nextIs (exec (.fdiv 12 10 11 .f32) (ops one 0)) (fun t => t.getG 12 == word 0x7F800000 && t.cpu.csrs.fflags == 8) = true ∧
    nextIs (exec (.fsqrt 12 10 .f64) (ops 0x4010000000000000 0)) (fun t => t.getG 12 == word 0x4000000000000000 && t.cpu.csrs.fflags == 0) = true ∧
    nextIs (exec (.fcvt 12 10 .i32 .fromFmt .f64) (ops 0x41E0000000000000 0)) (fun t => t.getG 12 == word 0x7FFFFFFF && t.cpu.csrs.fflags == 16) = true ∧
    nextIs (exec (.fmin 12 10 11 .f32) (ops 0x7FC00000 one)) (fun t => t.getG 12 == word 0x3F800000) = true := by decide

/-- FRM refuses 6 and 7, a reserved bit traps, CSRC never does (R14, R38). -/
theorem test_csr :
    nextIs (exec (.csrw 5 10) (ops 6 0)) (fun t => t.cpu.csrs.tcause == 1 && t.cpu.csrs.frm == 0 && t.cpu.csrs.tval == BitVec.ofNat 64 (fi 0x1F 0 10 (7 * 2 ^ 10 + 5))) =
      true ∧
    nextIs (exec (.csrw 5 10) (ops 5 0)) (fun t => t.cpu.csrs.frm == 5 && t.pc == 4) = true ∧
    nextIs (exec (.csrs 6 10) (ops 0x20 0)) (fun t => t.cpu.csrs.tcause == 1) = true ∧
    nextIs (exec (.csrc 6 10) (ops 0x20 0)) (fun t => t.pc == 4 && t.cpu.csrs.fflags == 0) = true ∧
    nextIs (exec (.csrr 0x100 12) st) (fun t => t.cpu.csrs.tcause == 1) = true ∧
    nextIs (exec (.csrr 0x100 12) (st.atLevel .runtime)) (fun t => t.pc == 4) = true := by decide

/-- ECALL saves what R137 says and ERET gives it back (R137, R138). -/
theorem test_trap_and_return :
    nextIs (exec (.ecall 16) (st.setPc 0x40)) (fun t => t.cpu.csrs.tcause == 9 && t.cpu.csrs.tval == 16 && t.cpu.csrs.tpc == 0x40 && t.pc == 0x1E000 &&
      t.cpu.level == .runtime && nextIs (exec .eret t) (fun u => u.pc == 0x40 && u.cpu.level == .app)) = true ∧
    nextIs (exec .eret st) (fun t => t.cpu.csrs.tcause == 1) = true := by decide

/-- An atomic at its home: signed minimum of 32 bits, and the old value, sign-extended (R105, R106). -/
theorem test_atomic :
    let s := st.writeMem 0x100 [0xFF, 0xFF, 0xFF, 0xFF] false false 0
    (s.atomAt 0x100 4 4 1 0 0).1 = word 0xFFFFFFFFFFFFFFFF ∧ (s.atomAt 0x100 4 4 1 0 0).2.mem.nat 0x100 4 = 0xFFFFFFFF ∧
    (s.atomAt 0x100 0 4 1 0 0).2.mem.nat 0x100 8 = 0 ∧ (s.atomAt 0x100 6 4 1 0 0).2.mem.nat 0x100 4 = 1 := by decide

/-- VXLANE with an inactive source, as the spec works it (chapter 5). -/
theorem test_vxlane :
    let lanes := fun (xs : List Nat) => BitVec.ofNat 1024 ((xs.zipIdx.map fun p => p.1 * 2 ^ (32 * p.2)).sum)
    let s := ((st.setV 2 (lanes [10, 11, 12, 13])).setV 3 (lanes [2, 3, 0, 1])).setP 4 0xB
    nextIs (exec (.vxlane 1 2 3 4 .i32) s) (fun t => t.getV 1 == lanes [10, 13, 0, 11] && t.getP 4 == 0xA) = true := by decide

/-- Tree and sequential sums of 2^24 and thirty-one ones (chapter 5). -/
theorem test_reductions :
    let s := st.setV 13 (BitVec.ofNat 1024 (0x4B800000 + ((List.range 31).map fun i => 0x3F800000 * 2 ^ (32 * (i + 1))).sum))
    nextIs (exec (.vrsum 12 13 0 .f32) s) (fun t => t.getV 12 == 0x4B80000F && t.cpu.csrs.fflags == 1) = true ∧
    nextIs (exec (.vrsumo 12 13 0 .f32) s) (fun t => t.getV 12 == 0x4B800000 && t.cpu.csrs.fflags == 1) = true := by decide

/-- Lane arithmetic: wrap, saturation, shift by the width, inactive lanes (R152). -/
theorem test_vector_lanes :
    let s := (((st.setV 1 0x7F).setV 2 0x01).setV 3 (BitVec.allOnes 1024)).setP 1 1
    nextIs (exec (.vadds 4 1 2 1 .i8) s) (fun t => t.getV 4 == 0x7F) = true ∧
    nextIs (exec (.vadd 3 1 2 1 .n32) s) (fun t => t.getV 3 == BitVec.allOnes 1024 - 0xFFFFFFFF + 0x80) = true ∧
    nextIs (exec (.vshl 4 1 1 1 .n32) s) (fun t => t.getV 4 == 0) = true ∧
    nextIs (exec (.vceq 2 1 1 1 .n32) s) (fun t => t.getP 2 == 1) = true := by decide

/-- A generator's first output from key 0 and counter 0 is the mix of its constant, and its counter moves on (R31). -/
theorem test_generator :
    nextIs (exec (.rng 12 0 0) st) (fun t => vget 0 t.cpu.gens.ctr 0 == 1 && vget 0 t.cpu.gens.ctr 1 == 0 && t.pc == 4) = true := by decide

/-- The deque: SPAWN, DEQN, TAKE (R116, R118). -/
theorem test_deque :
    let s := st.gs [(10, ⟨.data, BitVec.ofNat 128 (9 * 2 ^ 64 + 0x2000)⟩), (11, ⟨.data, BitVec.ofNat 128 (4 * 2 ^ 64 + 3)⟩)]
    nextIs (exec (.spawn 10) s) (fun t => nextIs (exec (.deqn 12) t) (fun u => u.getG 12 == word 1) &&
      nextIs (exec (.take 12 20) t) (fun u => u.getG 12 == word 1 && u.getG 20 == s.getG 10 && u.getG 21 == s.getG 11 && u.cpu.task.count == 0)) = true := by
  decide

/-- Fingerprints and checks use the CRC-32C of RFC 3720: the check value of "123456789". -/
theorem test_crc32c : crc32c ("123456789".toList.map fun c => BitVec.ofNat 8 c.toNat) = 0xE3069283 := by decide

/-- A boot without images ends with code 0x01 (R404). -/
theorem test_boot :
    nextIs (exec .powerOnReset (State.reset.modDev fun d => { d with store := [] })) (fun t => t.dev.state == .fail && t.dev.code == 1) = true := by decide

/-! ## Witnesses: for every statement with hypotheses, a state and operands that meet them -/

/-- A running launch over tile 0, without a predecessor. -/
def pkt0 : LaunchPkt :=
  { queue := 0, pid := 1, handle := 1, budget := 4, ovr := 0, dlab := true, hint := false, every := false, foot := 0x8000, accn := 8, specok := true,
    entry := 0x2000, args := [], pred := none, root := 0, ranges := [], wset := 0 }
def launch0 : Launch :=
  { pkt := pkt0, st := .running, domains := [0x10000000], base := 0, deadline := 5, demoted := false, pool := 0, charged := 0, admitted := 0,
    hinted := false, published := false, missed := false, unlimited := false, endRec := none, recovery := 0, recovered := false, paired := [], unpaired := [], shares := [], sweep := [],
    wave := none, pins := [], raw := [], toFree := false }

/-- st with launches. -/
def withLaunch (s : State) (l : Launch) : State := { s with cpu := { s.cpu with launch := some 0 }, launches := [(0, l)] }
def lst : State := withLaunch st launch0

theorem witness_DecodeOfEncode : ∃ (i : Instr) (w : Nat), wf i = true ∧ encode i = some w := ⟨.add 63 0 63, _, by decide, rfl⟩

theorem witness_EncodeOfDecode : ∃ (w : Nat) (i : Instr), w < 2 ^ 32 ∧ decodeWord w = some i := ⟨0x04304200, .add 3 1 2, by decide, by decide⟩

/-- A state whose next instruction is ADD g3, g1, g2. -/
def fetchSt : State := { st.withFetchWord 32 0x04304200 with agenda := [] }

/-- fetchSt with SPAWN g10 at the PC, and with a region open there. -/
def spawnSt : State := { st.withFetchWord 32 (wordOfInstr (.spawn 10)) with agenda := [] }
def opened (s : State) : State := s.modCsr fun c => { c with regpc := 0x8000000000000100 }

/-- A state of its turn, the word at its PC, the instruction: what StepRunsDecoded asks of all of them. -/
def turnOk (p : State) (w : Nat) (i : Instr) : Bool :=
  let f := p.unswitched.leftDone.fetchAt p.pc
  p.live && !p.skips (p.cpu.core / 16) && p.boundary.isNone && !p.unswitched.leftDone.cpu.waitsDone && p.cpu.gang.isNone && !p.cpu.paired &&
    okIs f.2 w && decide (decodeWord w = some i) && !f.1.cpu.paired

theorem turn_of {p : State} {w : Nat} {i : Instr} {q : State → Prop} (h : turnOk p w i = true) (hq : q (p.unswitched.leftDone.fetchAt p.pc).1) :
    ∃ u, (p.live = true ∧ p.skips (p.cpu.core / 16) = false ∧ p.boundary = none ∧ p.unswitched.leftDone.cpu.waitsDone = false ∧ p.cpu.gang = none ∧
      p.cpu.paired = false ∧ p.unswitched.leftDone.fetchAt p.pc = (u, .ok w) ∧ decodeWord w = some i ∧ u.cpu.paired = false) ∧ q u := by
  simp only [turnOk, Bool.and_eq_true, Bool.not_eq_true', Option.isNone_iff_eq_none, decide_eq_true_eq] at h
  exact ⟨_, ⟨h.1.1.1.1.1.1.1.1, h.1.1.1.1.1.1.1.2, h.1.1.1.1.1.1.2, h.1.1.1.1.1.2, h.1.1.1.1.2, h.1.1.1.2, okIs_pair h.1.1.2, h.1.2, h.2⟩, hq⟩

/-- No region; g2, which ADD reads, pending; a region open before SPAWN, before an ADD that writes a register not in the mask and before
one that writes one in it; ADD of two registers, into itself, and into g0. -/
theorem witness_StepRunsDecoded :
    (∀ x : Nat × (State → Prop), x ∈ [
        (0, fun u => u.pendingWait (.add 3 1 2) = false ∧ u.regionOpen = false ∧ nextIs (exec (.add 3 1 2) u) (fun t => !u.full t) = true),
        (1, fun u => u.pendingWait (.add 3 1 2) = true),
        (2, fun u => u.pendingWait (.add 3 1 2) = false ∧ u.regionOpen = true ∧ u.seals (.add 3 1 2) = false ∧ u.violation (.add 3 1 2) = none),
        (3, fun u => u.pendingWait (.add 3 1 2) = false ∧ u.regionOpen = true ∧ u.seals (.add 3 1 2) = false ∧ u.violation (.add 3 1 2) = some 3)] →
      ∃ p u : State, (p.live = true ∧ p.skips (p.cpu.core / 16) = false ∧ p.boundary = none ∧ p.unswitched.leftDone.cpu.waitsDone = false ∧
        p.cpu.gang = none ∧ p.cpu.paired = false ∧ p.unswitched.leftDone.fetchAt p.pc = (u, .ok 0x04304200) ∧
        decodeWord 0x04304200 = some (.add 3 1 2) ∧ u.cpu.paired = false) ∧ x.2 u) ∧
    (∃ p u : State, (p.live = true ∧ p.skips (p.cpu.core / 16) = false ∧ p.boundary = none ∧ p.unswitched.leftDone.cpu.waitsDone = false ∧
      p.cpu.gang = none ∧ p.cpu.paired = false ∧ p.unswitched.leftDone.fetchAt p.pc = (u, .ok (wordOfInstr (.spawn 10))) ∧
      decodeWord (wordOfInstr (.spawn 10)) = some (.spawn 10) ∧ u.cpu.paired = false) ∧
      u.pendingWait (.spawn 10) = false ∧ u.regionOpen = true ∧ u.seals (.spawn 10) = true) ∧
    (∃ (s : State) (d a b : Nat), d < 64 ∧ d ≠ 0 ∧ d = b ∧ d ≠ a ∧ s.cpu.region.written.getLsbD d = true ∧ s.cpu.region.mask.getLsbD d = false) ∧
    (∃ (i : Instr), ∀ c n x y z, i ≠ .rep c n x y z) :=
  ⟨fun x hx => by
      simp only [List.mem_cons, List.not_mem_nil, or_false] at hx
      rcases hx with rfl | rfl | rfl | rfl
      · exact ⟨fetchSt, turn_of (by decide) (by decide)⟩
      · exact ⟨fetchSt.modRegs fun g => { g with pend := [(2, 7)] }, turn_of (by decide) (by decide)⟩
      · exact ⟨opened fetchSt, turn_of (by decide) (by decide)⟩
      · exact ⟨(opened fetchSt).modCpu fun c => { c with region := { c.region with mask := 8 } }, turn_of (by decide) (by decide)⟩,
    ⟨opened spawnSt, turn_of (by decide) (by decide)⟩,
    ⟨st.modCpu fun c => { c with region := { c.region with written := 8 } }, 3, 1, 3, by decide⟩, ⟨.add 0 0 0, fun _ _ _ _ _ => by simp⟩⟩

/-- An idle context, so counted, keeps its mark over a step in which cycles pass. -/
theorem witness_IdleStays : ∃ (s t : State), step s = .next t ∧ ∃ c ∈ t.ctxs, c.idleSince = true :=
  have h : nextIs (step { lst with cpu := { lst.cpu with run := .parked .done, idleSince := true, task := { TaskSt.reset with idle := some (capAddr lst.cpu.pcc, false, .app) } }, agenda := [.cycles 1] })
      (fun t => t.ctxs.any Ctx.idleSince) = true := by decide
  by
    cases e : step { lst with cpu := { lst.cpu with run := .parked .done, idleSince := true, task := { TaskSt.reset with idle := some (capAddr lst.cpu.pcc, false, .app) } }, agenda := [.cycles 1] } with
    | next t =>
      rw [e] at h
      obtain ⟨c, hc, hi⟩ := List.any_eq_true.mp h
      exact ⟨_, t, e, c, hc, hi⟩
    | fault f => cases f
    | refused _ => rw [e] at h; cases h

/-- Each bank: the general registers, the handler's, the runtime's, and the last codes of each file. -/
theorem witness_Registers :
    (∃ (s : State) (d : Nat), s.cpu.handler = true ∧ s.cpu.level ≠ .runtime ∧ 48 ≤ d ∧ d ≤ 55) ∧
    (∃ (s : State) (d : Nat), s.cpu.level = .runtime ∧ 56 ≤ d ∧ d ≤ 59) :=
  ⟨⟨st.modCpu fun c => { c with handler := true }, 55, by decide⟩, ⟨st.atLevel .runtime, 59, by decide⟩⟩

theorem witness_MemoryWrites : ∃ s : State, Memory.wf s.mem = true ∧ Memory.wf (s.writeMem 7 [1, 0, 2] false false 0).mem = true :=
  ⟨st, by decide, by decide⟩

theorem witness_IntegerResults : ∃ (s : State) (a b : Nat), s.clean a ∧ s.clean b := ⟨st, 1, 2, by unfold State.clean; decide, by unfold State.clean; decide⟩

theorem witness_IntegerOneSource : ∃ (s : State) (a n : Nat), s.clean a ∧ n < 64 := ⟨st, 0, 63, by unfold State.clean; decide, by decide⟩

theorem witness_IntegerPoison :
    (∃ (s : State) (a : Nat), ¬ s.clean a) ∧ (∃ (s : State) (a b : Nat), s.clean a ∧ ¬ s.clean b) :=
  ⟨⟨st, 3, by unfold State.clean; decide⟩, ⟨st, 2, 3, by unfold State.clean; decide, by unfold State.clean; decide⟩⟩

theorem witness_RegisterFrame : ∃ (s t : State) (d : Nat), d < 64 ∧ exec (.add d 1 2) s = .next t ∧ (∃ u, exec (.add 0 1 2) s = .next u) :=
  ⟨st, _, 63, by decide, rfl, _, rfl⟩

/-- CBND to the very end of its parent, and a length with an exact form; DATA, POISON, two capabilities, the second POISON. -/
theorem witness_CapabilityResults :
    (∃ (s : State) (a b : Nat), (s.getG a).tag = .cap ∧ s.clean b) ∧
    (∃ (s : State) (a b : Nat), (s.getG a).tag = .cap ∧ s.clean b ∧ let c := (s.getG a).val; let B := (s.ival b).toNat
      capBase c ≤ capAddr c ∧ capAddr c + (reprLen B).1 * 2 ^ (reprLen B).2 ≤ capBase c + capLen c ∧ (reprLen B).1 * 2 ^ (reprLen B).2 = B) ∧
    (∃ (s : State) (a : Nat), (s.getG a).tag = .data) ∧ (∃ (s : State) (a : Nat), ¬ s.clean a) ∧ (∃ (s : State) (a b : Nat), s.clean a ∧ s.clean b) ∧
    (∃ (s : State) (a b : Nat), s.clean a ∧ ¬ s.clean b) :=
  ⟨⟨st, 1, 2, by decide, by unfold State.clean; decide⟩,
    ⟨st.gs [(2, word 0x1F000)], 1, 2, by decide, by unfold State.clean; decide, by decide⟩, ⟨st, 2, by decide⟩, ⟨st, 3, by unfold State.clean; decide⟩,
    ⟨st, 1, 4, by unfold State.clean; decide, by unfold State.clean; decide⟩, ⟨st, 1, 3, by unfold State.clean; decide, by unfold State.clean; decide⟩⟩

/-- One past the parent's end, an address before its base, an inexact length, DATA. -/
theorem witness_CapabilityTraps :
    (∃ (s : State) (a b : Nat), s.clean b ∧ (s.getG a).tag = .cap ∧
      capBase (s.getG a).val + capLen (s.getG a).val < capAddr (s.getG a).val + (reprLen (s.ival b).toNat).1 * 2 ^ (reprLen (s.ival b).toNat).2) ∧
    (∃ (s : State) (a b : Nat), s.clean b ∧ (s.getG a).tag = .cap ∧ capAddr (s.getG a).val < capBase (s.getG a).val) ∧
    (∃ (s : State) (a b : Nat), s.clean b ∧ (s.getG a).tag = .cap ∧ (reprLen (s.ival b).toNat).1 * 2 ^ (reprLen (s.ival b).toNat).2 ≠ (s.ival b).toNat) ∧
    (∃ (s : State) (a b : Nat), s.clean b ∧ (s.getG a).tag = .data) :=
  ⟨⟨st.gs [(2, word 0x1F020)], 1, 2, by unfold State.clean; decide, by decide, by decide⟩,
    ⟨st.gs [(1, ⟨.cap, capOver 63 8 8 7⟩)], 1, 2, by unfold State.clean; decide, by decide, by decide⟩,
    ⟨st.gs [(2, word 100001)], 1, 2, by unfold State.clean; decide, by decide, by decide⟩, ⟨st, 5, 2, by unfold State.clean; decide, by decide⟩⟩

/-- Targets at both ends of PCC. -/
theorem witness_BranchResults :
    (∃ (s : State) (a b : Nat) (x : Int), s.clean a ∧ s.clean b ∧ let t := (((s.pc : Int) + 4 * x) % 2 ^ 52).toNat
      t = 0 ∧ capBase s.cpu.pcc ≤ t ∧ t + 4 ≤ capBase s.cpu.pcc + capLen s.cpu.pcc) ∧
    (∃ (s : State) (a b : Nat) (x : Int), s.clean a ∧ s.clean b ∧ let t := (((s.pc : Int) + 4 * x) % 2 ^ 52).toNat
      capBase s.cpu.pcc ≤ t ∧ t + 4 = capBase s.cpu.pcc + capLen s.cpu.pcc) :=
  ⟨⟨st.setPc 4, 1, 2, -1, by unfold State.clean; decide, by unfold State.clean; decide, by decide⟩,
    ⟨st.setPc 0x1FFF8, 1, 2, 1, by unfold State.clean; decide, by unfold State.clean; decide, by decide⟩⟩

theorem witness_JumpResults :
    (∃ (s : State) (x : Int), let t := (((s.pc : Int) + 4 * x) % 2 ^ 52).toNat
      capBase s.cpu.pcc ≤ t ∧ t + 4 ≤ capBase s.cpu.pcc + capLen s.cpu.pcc) ∧
    (∃ (s : State) (x : Int), let t := (((s.pc : Int) + 4 * x) % 2 ^ 52).toNat; capBase s.cpu.pcc + capLen s.cpu.pcc < t + 4) ∧
    (∃ (s : State) (x : Int), (((s.pc : Int) + 4 * x) % 2 ^ 52).toNat < capBase s.cpu.pcc) ∧
    (∃ (s : State) (a : Nat), (s.getG a).tag = .cap ∧ let c := (s.getG a).val
      capHas c .x = true ∧ capBase c ≤ capAddr c ∧ capAddr c + 4 ≤ capBase c + capLen c ∧ capAddr c % 4 = 0) ∧
    (∃ (s : State) (a : Nat), (s.getG a).tag = .poison) ∧ (∃ (s : State) (a : Nat), (s.getG a).tag = .data) ∧
    (∃ (s : State) (a : Nat), (s.getG a).tag = .cap ∧ capHas (s.getG a).val .x = false) ∧
    (∃ (s : State) (a : Nat), (s.getG a).tag = .cap ∧ let c := (s.getG a).val
      capHas c .x = true ∧ capAddr c + 4 = capBase c + capLen c + 1 ∧ capAddr c % 4 ≠ 0) ∧
    (∃ (s : State) (a : Nat), (s.getG a).tag = .cap ∧ let c := (s.getG a).val
      capHas c .x = true ∧ capBase c ≤ capAddr c ∧ capAddr c + 4 = capBase c + capLen c - 1 ∧ capAddr c % 4 ≠ 0) :=
  ⟨⟨st.setPc 4, -1, by decide⟩, ⟨st.setPc 0x1FFFC, 1, by decide⟩, ⟨st.setPcc (capOver 63 0x100 0x100 0x100), -1, by decide⟩, ⟨st, 1, by decide⟩,
    ⟨st, 3, by decide⟩, ⟨st, 2, by decide⟩, ⟨st.gs [(1, ⟨.cap, capOver 3 0 0x20000 0x1000⟩)], 1, by decide⟩,
    ⟨st.gs [(1, ⟨.cap, capOver 63 0 0x20000 0x1FFFD⟩)], 1, by decide⟩, ⟨st.gs [(1, ⟨.cap, capOver 63 0 0x20000 0x1FFFB⟩)], 1, by decide⟩⟩

/-- A value above the least normal quantum of FP32 by half of one, one of its subnormals, the largest significand; three registers. -/
theorem witness_FloatResults :
    (∀ x ∈ [(2 ^ 24 - 1, 1), (2 ^ 23 - 1, 0), (2 ^ 23, 254)], ∃ num den r k1 k2 : Nat, 0 < num ∧ num * 2 ^ k1 = x.1 * (den * 2 ^ k2) + r ∧ 0 < r ∧
      r < den * 2 ^ k2 ∧ (k1 = 0 ∨ k2 = 0) ∧ x.1 < 2 ^ (FF.fp32.m + 1) ∧ (x.2 = 0 ∨ 2 ^ FF.fp32.m ≤ x.1)) ∧
    (∃ (s : State) (d a b : Nat), s.clean a ∧ s.clean b ∧ s.clean d) ∧ (∃ (s : State) (a : Nat), ¬ s.clean a) ∧
    (∃ (s : State) (a b : Nat), s.clean a ∧ ¬ s.clean b) ∧ ∃ (s : State) (d a b : Nat), s.clean a ∧ s.clean b ∧ ¬ s.clean d :=
  ⟨fun x hx => ⟨x.1 * 2 + 1, 2, 1, 0, 0, by omega, by omega, by decide, by decide, .inl rfl, of_decide_eq_true ((List.all_eq_true
      (p := fun x : Nat × Nat => decide (x.1 < 2 ^ (FF.fp32.m + 1) ∧ (x.2 = 0 ∨ 2 ^ FF.fp32.m ≤ x.1)))).mp (by decide) x hx)⟩,
    ⟨st, 0, 2, 5, by unfold State.clean; decide, by unfold State.clean; decide, by unfold State.clean; decide⟩, ⟨st, 3, by unfold State.clean; decide⟩,
    ⟨st, 2, 3, by unfold State.clean; decide, by unfold State.clean; decide⟩,
    st, 3, 2, 5, by unfold State.clean; decide, by unfold State.clean; decide, by unfold State.clean; decide⟩

/-- Registers whose accesses of 8 bytes R77 stops: g3 POISON, g2 DATA, and capabilities of no permission, past their end by one byte, below
their base, and misaligned. -/
def barredRegs : List (Nat × GReg) := [(7, ⟨.cap, capOver 0 0 0x20000 0x1000⟩), (8, ⟨.cap, capOver 63 0 0x1008 0x1001⟩),
  (9, ⟨.cap, capOver 63 0x1000 0x1000 0xFF8⟩), (10, ⟨.cap, capOver 63 0 0x20000 0x1004⟩), (11, ⟨.cap, capOver 63 0x20000 0x10000 0x20000⟩),
  (12, ⟨.cap, capOver 63 0x10200000 0x10000 0x10200000⟩), (13, ⟨.cap, capOver 63 0x090000000000 0x10000 0x090000000000⟩), (14, poisonOnes 2)]
def barredSt : State := lst.gs barredRegs

/-- The five ways, in the order of R77, then a hole's first byte, the hole above the scratchpad, and a page that no range holds. -/
theorem barred_all (need : Perm) (h : need = .r ∨ need = .w) :
    (∀ p ∈ [(3, 6), (2, 2), (7, 4), (8, 3), (9, 3), (10, 5)], ∃ t, t.cause = p.2 ∧ barredSt.accessTraps p.1 (barredSt.ea p.1 0) 8 need t) ∧
    (∀ a ∈ [11, 12], barredSt.grants a (barredSt.ea a 0) 8 need ∧ inHole (barredSt.ea a 0)) ∧
    (barredSt.grants 13 (barredSt.ea 13 0) 8 need ∧ barredSt.findsNoPage (barredSt.ea 13 0)) := by
  have page : ∀ n, barredSt.cpu.launch = some n → barredSt.translate n (barredSt.dataTlb barredSt.cpu.core) (barredSt.ea 13 0) = none := by
    intro n h
    cases (show (0 : Nat) = n from Option.some.inj h)
    decide
  refine ⟨fun p hp => ?_, fun a ha => ?_, ?_⟩
  · simp only [List.mem_cons, List.not_mem_nil, or_false] at hp
    rcases h with rfl | rfl <;> rcases hp with rfl | rfl | rfl | rfl | rfl | rfl <;> unfold State.accessTraps
    all_goals first
      | exact ⟨_, rfl, .inl ⟨by decide, rfl⟩⟩
      | exact ⟨_, rfl, .inr (.inl ⟨by decide, rfl⟩)⟩
      | exact ⟨_, rfl, .inr (.inr (.inl ⟨by decide, by decide, rfl⟩))⟩
      | exact ⟨_, rfl, .inr (.inr (.inr (.inl ⟨by decide, by decide, by decide, rfl⟩)))⟩
      | exact ⟨_, rfl, .inr (.inr (.inr (.inr ⟨by decide, by decide, by decide, by decide, by decide, rfl⟩)))⟩
  · simp only [List.mem_cons, List.not_mem_nil, or_false] at ha
    rcases h with rfl | rfl <;> rcases ha with rfl | rfl <;> exact ⟨by unfold State.grants; decide, by unfold inHole; decide⟩
  · rcases h with rfl | rfl <;> exact ⟨by unfold State.grants; decide, by decide, page⟩

/-- The last word of the TCM; an absent home, the scratchpad of a lost tile; a marked word; a value, and a value for LDA. -/
theorem witness_LoadResults :
    (∃ (s t : State) (k x : Nat) (tag : Bool), (s.core s.cpu.core).meshBad = false ∧ s.loadRead 1 (s.ea 1 8) 8 = .ok (k, t, .value x tag)) ∧
    (∃ (s t : State) (k x : Nat) (tag : Bool), (s.core s.cpu.core).meshBad = false ∧ s.loadRead 1 (s.ea 1 0) 8 = .ok (k, t, .value x tag)) ∧
    (∃ (s t : State) (k : Nat), s.loadRead 4 (s.ea 4 8) 8 = .ok (k, t, .absent)) ∧
    (∃ (s t : State) (k : Nat), s.loadRead 1 (s.ea 1 8) 8 = .ok (k, t, .poisoned)) ∧
    (∃ (s : State) (i : Int), s.quiet ∧ s.grants 1 (s.ea 1 (i * LWidth.d64.bytes)) 8 .r ∧ s.ea 1 (i * LWidth.d64.bytes) + 8 = 0x20000 ∧
      s.mem.marked (tcmKey s.cpu.core (s.ea 1 (i * LWidth.d64.bytes))) 8 = false) ∧
    (∃ s : State, (∀ p ∈ [(3, 6), (2, 2), (7, 4), (8, 3), (9, 3), (10, 5)], ∃ t, t.cause = p.2 ∧ s.accessTraps p.1 (s.ea p.1 0) 8 .r t) ∧
      (∀ a ∈ [11, 12], s.grants a (s.ea a 0) 8 .r ∧ inHole (s.ea a 0)) ∧ s.grants 13 (s.ea 13 0) 8 .r ∧ s.findsNoPage (s.ea 13 0)) :=
  ⟨⟨st, _, _, _, _, by decide, rfl⟩, ⟨st, _, _, _, _, by decide, rfl⟩,
    ⟨st.updTile 0 fun t => { t with st := .lost }, _, _, rfl⟩, ⟨st.writeMem (tcmKey 0 0x1008) (leBytes 8 0) false true 0, _, _, rfl⟩,
    ⟨st.gs [(1, ⟨.cap, capOver 63 0 0x20000 0x1FFF0⟩)], 1, by unfold State.quiet; decide, by unfold State.grants; decide, by decide, by decide⟩,
    barredSt, barred_all .r (.inl rfl)⟩

/-- A store that is posted, STL behind nothing, and a capability stored whole. -/
theorem witness_StoreResults :
    (∃ s t : State, s.storeReg (s.getG 2) 4 (s.ea 4 8) 8 = .ok t) ∧ (∀ sc : Scope, ∃ s t : State, s.unackedAt sc = false ∧
      (s.seenAt sc).storeReg (s.getG 2) 1 (s.ea 1 0) 8 = .ok t) ∧
    (∃ (s : State) (v a : Nat) (w : SWidth) (i : Int), s.quiet ∧ s.grants a (s.ea a (i * w.bytes)) w.bytes .w ∧ s.ea a (i * w.bytes) + w.bytes ≤ 0x20000 ∧
      w = .q128 ∧ (s.getG v).tag = .cap ∧ capHas (s.getG a).val .sc = true) ∧
    (∃ s : State, (∀ p ∈ [(3, 6), (2, 2), (7, 4), (8, 3), (9, 3), (10, 5)], ∃ t, t.cause = p.2 ∧ s.accessTraps p.1 (s.ea p.1 0) 8 .w t) ∧
      (∀ a ∈ [11, 12], s.grants a (s.ea a 0) 8 .w ∧ inHole (s.ea a 0)) ∧ s.grants 13 (s.ea 13 0) 8 .w ∧ s.findsNoPage (s.ea 13 0)) ∧
    (∃ (s : State) (v a : Nat), s.grants a (s.ea a 0) 16 .w ∧ (s.getG v).tag = .cap ∧ capHas (s.getG a).val .sc = false) ∧
    (∃ (s : State) (v a : Nat), s.grants a (s.ea a 0) 16 .w ∧ (s.getG v).tag = .cap ∧ capHas (s.getG a).val .sc = true ∧
      capHas (s.getG v).val .g = false ∧ 0x20000 ≤ s.ea a 0) :=
  ⟨⟨st, good_ok (by decide)⟩, fun sc => ⟨st, (good_ok (x := (st.seenAt sc).storeReg (st.getG 2) 1 (st.ea 1 0) 8) (by cases sc <;> decide)).imp fun _ h =>
      ⟨by cases sc <;> decide, h⟩⟩,
    ⟨st, 4, 1, .q128, 0, by unfold State.quiet; decide, by unfold State.grants; decide, by decide, rfl, by decide, by decide⟩,
    ⟨barredSt, barred_all .w (.inr rfl)⟩,
    ⟨st.gs [(7, ⟨.cap, capOver 0b110000 0 0x20000 0x1000⟩)], 1, 7, by unfold State.grants; decide, by decide, by decide⟩,
    ⟨st.gs [(7, ⟨.cap, capOver 0b110000 0 0x20000 0x1000⟩)], 7, 4, by unfold State.grants; decide, by decide, by decide, by decide, by decide⟩⟩

theorem witness_StoreFrame : ∃ (s t u : State) (loc : Loc), s.takesTraps ∧ exec (.st 2 1 .b64 1) s = .next t ∧ exec (.stl 2 1 .dev) s = .next u ∧
    s.locate s.cpu.core s.cpu.launch (s.dataTlb s.cpu.core) (s.ea 1 8) = .ok loc :=
  ⟨st, _, _, _, Or.inl (by decide), rfl, rfl, rfl⟩

theorem witness_LoadFrame : ∃ (s t u v : State), s.takesTraps ∧ exec (.ld 7 1 .d64 1) s = .next t ∧ exec (.lds 7 1 .q128 1) s = .next u ∧
    exec (.lda 7 1 .dev) s = .next v := ⟨st, _, _, _, Or.inl (by decide), rfl, rfl, rfl⟩

/-- Nothing is outstanding where no message travels. -/
theorem no_atomics (t p : Nat) : st.atomicsOut t p = 0 := rfl

/-- Checks that pass at each scope, with nothing outstanding there; of a compare and swap, and of an access that leaves its core. -/
theorem witness_AtomicRequests : (∀ sc : Scope, ∃ (s : State) (loc : Loc) (ea : Nat) (x e : Word), s.unackedAt sc = false ∧
    s.atomicsOut (s.cpu.core / 16) ((homeOf loc.key).code * 3) < 64 ∧ s.atomCheck 7 1 2 8 false = .ok (loc, ea, x, e)) ∧
    (∀ sc : Scope, ∃ (s : State) (loc : Loc) (ea : Nat) (x e : Word), s.unackedAt sc = false ∧
      s.atomicsOut (s.cpu.core / 16) ((homeOf loc.key).code * 3) < 64 ∧ s.atomCheck 2 4 2 4 true = .ok (loc, ea, x, e)) ∧
    (∃ s : State, ∀ need, need = .r ∨ need = .w →
      (∀ p ∈ [(3, 6), (2, 2), (7, 4), (8, 3), (9, 3), (10, 5)], ∃ t, t.cause = p.2 ∧ s.accessTraps p.1 (s.ea p.1 0) 8 need t) ∧
      (∀ a ∈ [11, 12], s.grants a (s.ea a 0) 8 need ∧ inHole (s.ea a 0)) ∧ s.grants 13 (s.ea 13 0) 8 need ∧ s.findsNoPage (s.ea 13 0)) ∧
    (∃ (s : State) (a b d : Nat), s.grants a (s.getG a).addr 8 .r ∧ s.grants a (s.getG a).addr 8 .w ∧ s.clean d ∧ ¬ s.clean b) ∧
    (∃ (s : State) (a b d : Nat), s.grants a (s.getG a).addr 8 .r ∧ s.grants a (s.getG a).addr 8 .w ∧ s.clean b ∧ ¬ s.clean d) ∧
    (∃ (s : State) (a : Nat), s.grants a (s.getG a).addr 8 .r ∧ ∃ t, s.accessTraps a (s.getG a).addr 8 .w t) :=
  ⟨fun sc => ⟨st, by
      obtain ⟨⟨l, ea, x, e⟩, h⟩ := good_ok (x := st.atomCheck 7 1 2 8 false) (by decide)
      exact ⟨l, ea, x, e, by cases sc <;> decide, by rw [no_atomics]; decide, h⟩⟩,
    fun sc => ⟨st, by
      obtain ⟨⟨l, ea, x, e⟩, h⟩ := good_ok (x := st.atomCheck 2 4 2 4 true) (by decide)
      exact ⟨l, ea, x, e, by cases sc <;> decide, by rw [no_atomics]; decide, h⟩⟩,
    ⟨barredSt, barred_all⟩,
    ⟨st, 1, 3, 2, by unfold State.grants; decide, by unfold State.grants; decide, by unfold State.clean; decide, by unfold State.clean; decide⟩,
    ⟨st, 1, 2, 3, by unfold State.grants; decide, by unfold State.grants; decide, by unfold State.clean; decide, by unfold State.clean; decide⟩,
    ⟨st.gs [(7, ⟨.cap, capOver 0b100000 0 0x20000 0x1000⟩)], 7, by unfold State.grants; decide, ⟨4, _, 0⟩, .inr (.inr (.inl ⟨by decide, by decide, rfl⟩))⟩⟩

/-- A clean word, equal and unequal to what is expected, and a marked one. -/
theorem witness_AtomicAtHome :
    (∃ s : State, s.mem.bad = [] ∧ s.mem.soft = [] ∧ s.mem.marked 0x100 8 = false ∧ s.mem.nat 0x100 8 = (5 : Word).toNat % 2 ^ 64) ∧
    (∃ s : State, s.mem.bad = [] ∧ s.mem.soft = [] ∧ s.mem.marked 0x100 8 = false ∧ s.mem.nat 0x100 8 ≠ (5 : Word).toNat % 2 ^ 64) ∧
    (∃ s : State, s.mem.bad = [] ∧ s.mem.soft = [] ∧ s.mem.marked 0x100 8 = true) :=
  ⟨⟨st.writeMem 0x100 (leBytes 8 5) false false 0, by decide⟩, ⟨st, by decide⟩, ⟨st.writeMem 0x100 (leBytes 8 5) false true 0, by decide⟩⟩

/-- A state with a request of the acting core on its way: a message, or a GET. -/
def storing : State := st.post 0 none (.send 16000 (word 7)) true none
def getting : State := st.post 0 none (.get (spadKey 0 0)) false none

/-- Nothing outstanding at each scope; a message; a GET; a free word; a word under this core's lock, and under none. -/
theorem witness_FenceAndLockResults :
    (∀ sc, ∃ s : State, s.unackedAt sc = false ∧ s.readsOut sc = false) ∧ (∀ sc, ∃ s : State, s.unackedAt sc = true ∧ s.readsOut sc = false) ∧
    (∃ s : State, s.readsOut .sys = true) ∧
    (∃ (s : State) (a : Nat), s.quiet ∧ 0x10000000 ≤ s.ea a 0 ∧ s.ea a 0 < 0x10200000 ∧ s.grants a (s.ea a 0) 8 .r ∧ s.grants a (s.ea a 0) 8 .w ∧
      (let c := s.cpu.core; let k := spadKey (c / 16) (s.ea a 0 - 0x10000000)
        (s.updCore c fun u => { u with lock := none }).lockBlocked c c k = false ∧ s.mem.marked k 8 = false) ∧
      s.lockOf s.cpu.core = none) ∧
    (∃ (s : State) (d a o : Nat), s.quiet ∧ s.ea a 0 = 0x101FFFF8 ∧ s.grants a (s.ea a 0) 8 .w ∧ (s.getG d).tag = .data ∧
      s.lockOf s.cpu.core = some o ∧ sameLock (s.ea a 0 - 0x10000000) o = true) :=
  ⟨fun sc => ⟨st, by cases sc <;> decide⟩, fun sc => ⟨storing, by cases sc <;> decide⟩, ⟨getting, by decide⟩,
    ⟨st, 4, by unfold State.quiet; decide, by decide, by decide, by unfold State.grants; decide, by unfold State.grants; decide, by decide⟩,
    ⟨(st.gs [(4, ⟨.cap, capOver 63 0x10000000 0x200000 0x101FFFF8⟩)]).updCore 0 fun c => { c with lock := some (0x1FFFF8, 0) }, 2, 4, 0x1FFFF8,
      by unfold State.quiet; decide, by decide, by unfold State.grants; decide, by decide⟩⟩

/-- A page of class VER: g6 leads to it through the core's TLB; its line holds version 0, and memory behind it. -/
def verSt : State := { withLaunch st launch0 with cores := [(0, { CoreSt.reset with dtlb := [⟨0, 0x010000000000 / 2 ^ 16, 16, 2 ^ 40, 1⟩] })] }
/-- The same with version 1 open in the second slot, and with version 5 asked for. -/
def verOpen : State := (verSt.setVerLine (2 ^ 40) { verSt.verLine (2 ^ 40) with s1 := { VerSlot.empty with ver := 1, st := .opened } }).gs [(2, word 1)]
def verLine2 : VerLine :=
  { s0 := { VerSlot.empty with ver := 0, st := .complete }, s1 := { VerSlot.empty with ver := 1, st := .complete } }

/-- The state of verLine2 with version n asked for. -/
def verAsk (n : Word) : State := ({ verSt with verLines := [(2 ^ 40, verLine2)] } : State).gs [(2, word n)]

/-- LDV of the newest version and of an older one still held, one below the floor, one passed by and one still to come; STV into the open
slot, into a free one, of a version passed and of one whose slots are in use; RECLAIM of an old floor and of a new one. -/
theorem witness_VersionedResults :
    (∀ n ∈ [(0 : Word), 1], ∃ (s : State) (p : Loc × Nat × Nat) (y : VerSlot) (z : Word), s.clean 2 ∧ s.verPlace 6 8 .r = .ok p ∧
      s.verRead p.1.key = .ok false ∧ (s.core s.cpu.core).meshBad = false ∧ newer (s.verPage p.2.1).fr ((s.ival 2).truncate 12) = false ∧
      let l := s.verLine (p.1.key / 64 * 64)
      [l.s0, l.s1].find? (fun q => q.done && q.ver == (s.ival 2).truncate 12) = some y ∧ (l.newest = y ↔ n = 1) ∧ (y.meet p.1.key).word p.1.key = some z ∧
      s.mem.marked p.1.key 8 = false) ∧
    (∃ (s : State) (p : Loc × Nat × Nat), s.clean 2 ∧ s.verPlace 6 8 .r = .ok p ∧ s.verRead p.1.key = .ok false ∧
      newer (s.verPage p.2.1).fr ((s.ival 2).truncate 12) = true) ∧
    (∃ (s : State) (p : Loc × Nat × Nat), s.clean 2 ∧ s.verPlace 6 8 .r = .ok p ∧ s.verRead p.1.key = .ok false ∧
      newer (s.verPage p.2.1).fr ((s.ival 2).truncate 12) = false ∧ let l := s.verLine (p.1.key / 64 * 64); let v : BitVec 12 := (s.ival 2).truncate 12
      (l.s0.holds v || l.s1.holds v) = false ∧ ((l.s0.done && newer l.s0.ver v) || (l.s1.done && newer l.s1.ver v)) = false ∧
      [l.s0, l.s1].find? (fun q => q.done && q.ver == v) = none) ∧
    (∀ todo ∈ [StvOutcome.into true, .claim true, .bad, .blocked], ∃ (s : State) (p : Loc × Nat × Nat), s.clean 2 ∧ s.acked ∧ s.verPlace 6 8 .w = .ok p ∧
      s.verWrite p.1.key 8 = .ok false ∧ (s.core s.cpu.core).meshBad = false ∧ (s.verLine (p.1.key / 64 * 64)).stv ((s.ival 2).truncate 12) (s.verPage p.2.1).fe = todo) ∧
    (∃ (s : State) (p : Loc × Nat × Nat), s.clean 2 ∧ s.verPlace 6 1 .w = .ok p ∧ s.verWrite p.1.key 1 = .ok false ∧ newer ((s.ival 2).truncate 12) (s.verPage p.2.1).fr = false) ∧
    (∃ (s : State) (p : Loc × Nat × Nat), s.clean 2 ∧ s.verPlace 6 1 .w = .ok p ∧ s.verWrite p.1.key 1 = .ok false ∧ newer ((s.ival 2).truncate 12) (s.verPage p.2.1).fr = true) :=
  ⟨fun n hn => by
      simp only [List.mem_cons, List.not_mem_nil, or_false] at hn
      rcases hn with rfl | rfl
      · exact ⟨verAsk 0, _, verLine2.s0, 0, by unfold State.clean; decide, rfl, rfl, by decide, by decide, by decide⟩
      · exact ⟨verAsk 1, _, verLine2.s1, 0, by unfold State.clean; decide, rfl, rfl, by decide, by decide, by decide⟩,
    ⟨verAsk 4095, _, by unfold State.clean; decide, rfl, rfl, by decide⟩, ⟨verAsk 2, _, by unfold State.clean; decide, rfl, rfl, by decide, by decide⟩,
    fun todo ht => by
      simp only [List.mem_cons, List.not_mem_nil, or_false] at ht
      rcases ht with rfl | rfl | rfl | rfl
      · exact ⟨verOpen, _, by unfold State.clean; decide, by unfold State.acked; decide, rfl, rfl, by decide, by decide⟩
      · exact ⟨verSt, _, by unfold State.clean; decide, by unfold State.acked; decide, rfl, rfl, by decide, by decide⟩
      · exact ⟨verAsk 0, _, by unfold State.clean; decide, by unfold State.acked; decide, rfl, rfl, by decide, by decide⟩
      · exact ⟨verAsk 2, _, by unfold State.clean; decide, by unfold State.acked; decide, rfl, rfl, by decide, by decide⟩,
    ⟨verSt.gs [(2, word 0)], _, by unfold State.clean; decide, rfl, rfl, by decide⟩, ⟨verSt.gs [(2, word 2047)], _, by unfold State.clean; decide, rfl, rfl, by decide⟩⟩

/-- Application level, and runtime level with IE set; firmware level without a launch; runtime level with IE 0 in a launch. -/
theorem witness_TrapEntry : (∃ s : State, s.takesTraps) ∧ (∃ s : State, s.cpu.level = .runtime ∧ s.takesTraps) ∧
    (∃ s : State, s.cpu.level = .firmware ∧ s.cpu.launch = none) ∧
    (∃ (s : State) (n : Nat) (l : Launch), s.cpu.level = .runtime ∧ tstatIE s.cpu.csrs.tstat = false ∧ s.cpu.launch = some n ∧ s.launch? n = some l ∧
      l.live = true ∧ (s.launches.map (·.1)).Pairwise (· < ·)) :=
  ⟨⟨st, Or.inl (by decide)⟩, ⟨(st.atLevel .runtime).modCsr fun c => { c with tstat := 1 }, by decide, Or.inr (by decide)⟩,
    ⟨st.atLevel .firmware, by decide⟩, ⟨lst.atLevel .runtime, 0, launch0, by decide, by decide, by decide, rfl, by decide, by decide⟩⟩

theorem witness_CallsAndTraps : (∃ s : State, ∀ k ∈ s.together s.cpu.core, s.attachedAt k = false) ∧
    (∃ s : State, ∃ k ∈ s.together s.cpu.core, s.attachedAt k = true) :=
  ⟨⟨st, by decide⟩, ⟨st.updCore 0 fun c => { c with attached := true }, 0, by decide⟩⟩

/-- PREV at the present level, in no handler that ends or switches; in each of these; application level; PREV 3; PREV above. -/
theorem witness_ReturnFromTrap :
    (∃ s : State, s.cpu.level ≠ .app ∧ bits s.cpu.csrs.tstat.toNat 3 2 ≠ 3 ∧ bits s.cpu.csrs.tstat.toNat 3 2 = s.cpu.level.code ∧
      s.cpu.entered.head? ≠ some preemptCause ∧ s.cpu.entered.head? ≠ some 8) ∧
    (∃ s : State, s.cpu.level ≠ .app ∧ bits s.cpu.csrs.tstat.toNat 3 2 ≠ 3 ∧ bits s.cpu.csrs.tstat.toNat 3 2 ≤ s.cpu.level.code ∧
      s.cpu.entered.head? = some 8) ∧
    (∃ s : State, s.cpu.level ≠ .app ∧ bits s.cpu.csrs.tstat.toNat 3 2 ≠ 3 ∧ bits s.cpu.csrs.tstat.toNat 3 2 ≤ s.cpu.level.code ∧
      s.cpu.entered.head? = some preemptCause ∧ s.cpu.launch.isSome = true) ∧
    (∃ s : State, s.cpu.level = .app) ∧ (∃ s : State, s.cpu.level = .firmware ∧ bits s.cpu.csrs.tstat.toNat 3 2 = 3) ∧
    (∃ s : State, s.cpu.level.code < bits s.cpu.csrs.tstat.toNat 3 2 ∧ bits s.cpu.csrs.tstat.toNat 3 2 ≠ 3) :=
  ⟨⟨(st.atLevel .runtime).modCsr fun c => { c with tstat := 4 }, by decide⟩,
    ⟨((st.atLevel .runtime).modCsr fun c => { c with tstat := 4 }).modCpu fun c => { c with entered := [8] }, by decide⟩,
    ⟨((lst.atLevel .runtime).modCsr fun c => { c with tstat := 4 }).modCpu fun c => { c with entered := [preemptCause] }, by decide⟩, ⟨st, by decide⟩,
    ⟨(st.atLevel .firmware).modCsr fun c => { c with tstat := 12 }, by decide⟩, ⟨(st.atLevel .runtime).modCsr fun c => { c with tstat := 8 }, by decide⟩⟩

/-- A number that is no CSR, one above the level; DTIME; FRM given 5 and 6; a reserved bit; CSRC that would leave 6. -/
theorem witness_CsrAccess :
    (∃ s : State, s.csrOk 0x3FFF = false ∧ s.csrOk 0x100 = false) ∧ (∃ s : State, s.csrOk 0 = true ∧ s.nearReadInFlight = false) ∧
    (∃ (s : State) (rw rsv a : Nat), csrMap 5 = some (rw, rsv) ∧ s.csrOk 5 = true ∧ s.clean a ∧ s.ival a &&& BitVec.ofNat 64 rsv = 0 ∧ bits (s.ival a).toNat 2 0 = 5) ∧
    (∃ (s : State) (rw rsv a : Nat), csrMap 5 = some (rw, rsv) ∧ s.csrOk 5 = true ∧ s.clean a ∧ bits (s.ival a).toNat 2 0 = 6) ∧
    (∃ (s : State) (rw rsv a : Nat), csrMap 6 = some (rw, rsv) ∧ s.csrOk 6 = true ∧ s.clean a ∧ s.ival a &&& BitVec.ofNat 64 rsv ≠ 0) ∧
    (∃ (s : State) (a : Nat), s.csrOk 5 = true ∧ s.clean a ∧ 6 ≤ bits (s.csrRead 5 &&& ~~~(s.ival a)).toNat 2 0) :=
  ⟨⟨st, by decide⟩, ⟨st, by decide⟩, ⟨st, 7, 2 ^ 64 - 8, 2, by decide, by decide, by unfold State.clean; decide, by decide, by decide⟩,
    ⟨st.gs [(2, word 6)], 7, 2 ^ 64 - 8, 2, by decide, by decide, by unfold State.clean; decide, by decide⟩,
    ⟨st.gs [(2, word 32)], 31, 2 ^ 64 - 32, 2, by decide, by decide, by unfold State.clean; decide, by decide⟩,
    ⟨st.modCsr fun c => { c with frm := 7 }, 0, by decide, by unfold State.clean; decide, by decide⟩⟩

theorem witness_RoundingModeLegal :
    (∃ (s : State) (a : Nat), s.clean a ∧ s.takesTraps ∧ 6 ≤ bits (s.ival a).toNat 2 0) ∧
    (∃ (s : State) (a : Nat), s.clean a ∧ s.takesTraps ∧ 6 ≤ bits (s.csrRead 5 ||| s.ival a).toNat 2 0 ∧ bits s.cpu.csrs.frm.toNat 2 0 < 6) ∧
    (∃ (s : State) (a : Nat), s.clean a ∧ s.takesTraps ∧ 6 ≤ bits (s.csrRead 5 &&& ~~~(s.ival a)).toNat 2 0) ∧
    (∃ s t : State, s.takesTraps ∧ bits s.cpu.csrs.frm.toNat 2 0 < 6 ∧ exec (.csrw 5 2) s = .next t) :=
  ⟨⟨st.gs [(2, word 6)], 2, by unfold State.clean; decide, Or.inl (by decide), by decide⟩,
    ⟨(st.gs [(2, word 4)]).modCsr fun c => { c with frm := 3 }, 2, by unfold State.clean; decide, Or.inl (by decide), by decide, by decide⟩,
    ⟨(st.gs [(2, word 1)]).modCsr fun c => { c with frm := 7 }, 2, by unfold State.clean; decide, Or.inl (by decide), by decide⟩,
    ⟨st, (next_of (r := exec (.csrw 5 2) st) (by decide)).imp fun _ h => ⟨Or.inl (by decide), by decide, h⟩⟩⟩

/-- WFI with each condition; HALT at and below firmware level; TLBINV of an address the TLB holds, and of every entry. -/
theorem witness_SystemResults :
    (∃ s : State, s.cpu.inbox ≠ []) ∧ (∃ s : State, 0 < s.cpu.task.count) ∧ (∃ s : State, s.interruptPending = true) ∧
    (∃ s : State, s.cpu.level = .firmware) ∧ (∃ s : State, s.cpu.level ≠ .firmware) ∧
    (∃ (s t : State) (a : Nat), s.cpu.level ≠ .app ∧ s.clean a ∧ exec (.tlbinv a) s = .next t ∧ t.ctxs.length = 1 ∧ s.cpu.launch = some 0 ∧
      (s.core 0).dtlb ≠ []) ∧ (∃ s : State, s.cpu.level = .app) :=
  ⟨⟨st.modCpu fun c => { c with inbox := [⟨word 1, 0, none, 0⟩] }, by decide⟩,
    ⟨st.modTask fun t => { t with deque := [⟨0, 0, .plain 0 0⟩] }, by decide⟩,
    ⟨st.updCore 0 fun c => { c with preReq := true }, by decide⟩, ⟨st.atLevel .firmware, by decide⟩, ⟨st, by decide⟩,
    ⟨verSt.atLevel .runtime, outState st (exec (.tlbinv 0) (verSt.atLevel .runtime)), 0, by decide, by unfold State.clean; decide, rfl, by decide⟩, ⟨st, by decide⟩⟩

/-- An ENTRY below and above the text capability's bounds. -/
theorem witness_TaskStart :
    (∃ (s : State) (x : Task) (a2 a3 : Word), x.body = .plain a2 a3 ∧ let e := x.entry % 2 ^ 52 / 4 * 4
      capBase s.appText + capLen s.appText < e + 4) ∧
    (∃ (s : State) (x : Task) (lo hi c : Nat), x.body = .range lo hi c ∧
      x.entry % 2 ^ 52 / 4 * 4 < capBase s.appText) :=
  ⟨⟨st, ⟨0x20001, 1, .plain 2 3⟩, 2, 3, rfl, by decide⟩,
    ⟨withLaunch st { launch0 with pkt := { pkt0 with ranges := [⟨0x010000000000, 1, 16, 0, true⟩] } }, ⟨0, 1, .range 0 2 1⟩, 0, 2, 1, rfl, by decide⟩⟩

/-- A plain descriptor in g10 and g11, a range one in g12 and g13, the same with SPREAD in g14 and g15. -/
def taskSt : State :=
  lst.gs [(10, ⟨.data, BitVec.ofNat 128 (9 * 2 ^ 64 + 0x2000)⟩), (11, ⟨.data, 3⟩), (12, ⟨.data, 0x2000⟩),
    (13, ⟨.data, BitVec.ofNat 128 (8 * 2 ^ 64 + 2 ^ 112)⟩), (14, ⟨.data, BitVec.ofNat 128 (2 ^ 52 + 0x2000)⟩),
    (15, ⟨.data, BitVec.ofNat 128 (8 * 2 ^ 64 + 2 ^ 112)⟩)]
def task1 : Task := ⟨0x2000, 9, .plain 3 0⟩
def oneTask : State := lst.modTask fun q => { q with deque := [task1], current := none }
/-- Another ready context of the core with the same deadline. -/
def rival : State :=
  { lst with others := [{ lst.cpu with launch := some 1, run := .ready }], launches := [(0, launch0), (1, launch0)] }

theorem witness_TaskResults :
    (∃ (s : State) (x : Task), s.cpu.gang = none ∧ s.descriptor 10 (wordOfInstr (.spawn 10)) false = .ok (x, false) ∧ s.acked ∧ s.cpu.task.full = false) ∧
    (∃ (s : State) (x : Task), s.cpu.gang = none ∧ s.descriptor 12 (wordOfInstr (.range 12)) true = .ok (x, false) ∧ s.acked ∧ s.cpu.task.full = false) ∧
    (∃ (s : State) (x : Task) (l : Launch), s.cpu.gang = none ∧ s.descriptor 14 (wordOfInstr (.range 14)) true = .ok (x, true) ∧ s.acked ∧
      s.cpu.task.full = false ∧ s.cpu.launch = some 0 ∧ s.detsOpen (s.cpu.core / 16) = false ∧ s.launch? 0 = some l) ∧
    (∃ (s : State) (x : Task) (q : TaskSt), s.cpu.gang = none ∧ s.cpu.task.remainder = none ∧ s.cpu.task.pop = some (x, q)) ∧
    (∃ s : State, s.cpu.gang = none ∧ s.cpu.task.remainder = none ∧ s.cpu.task.pop = none ∧ s.yieldTo = none) ∧
    (∃ (s : State) (c : Ctx), s.cpu.gang = none ∧ s.yieldTo = some c) ∧
    (∃ (s : State) (x : Task) (lo hi c : Nat), s.cpu.gang = none ∧ s.cpu.task.current = some x ∧ x.body = .range lo hi c ∧ hi < lo + c) :=
  ⟨⟨taskSt, _, by decide, rfl, by unfold State.acked; decide, by decide⟩, ⟨taskSt, _, by decide, rfl, by unfold State.acked; decide, by decide⟩,
    ⟨taskSt, _, launch0, by decide, rfl, by unfold State.acked; decide, by decide, by decide, by decide, rfl⟩, ⟨oneTask, _, _, by decide, by decide, rfl⟩,
    ⟨lst, by decide⟩, ⟨rival, _, by decide, rfl⟩,
    ⟨lst.modTask fun q => { q with current := some ⟨0, 0, .range 6 8 4⟩ }, ⟨0, 0, .range 6 8 4⟩, 6, 8, 4, by decide, rfl, rfl, by decide⟩⟩

theorem witness_TaskResults_triggers :
    (∃ (s : State) (x y : Task) (q : TaskSt), s.cpu.gang = none ∧ s.cpu.task.remainder = some x ∧ s.cpu.task.full = false ∧ (s.cpu.task.push x).pop = some (y, q)) ∧
    (∃ (s : State) (x : Task), s.cpu.gang = none ∧ s.cpu.task.freeTrigs ≠ [] ∧ s.descriptor 10 (wordOfInstr (.trig 2 1 10)) false = .ok (x, false) ∧ s.clean 2 ∧
      s.grants 1 (s.ea 1 0) 8 .r ∧ s.ea 1 0 + 8 ≤ 0x20000 ∧ s.net = [] ∧ s.mem.nat (tcmKey s.cpu.core (s.ea 1 0)) 8 ≠ (s.ival 2).toNat) ∧
    (∃ (s : State) (k : Nat) (thr : Word) (x : Task), s.cpu.gang = none ∧ s.clean 2 ∧ vget .free s.cpu.task.trig ((s.ival 2).toNat % 32) = .armed k thr x) :=
  ⟨⟨lst.modTask fun q => { q with current := some ⟨0, 0, .range 6 8 4⟩ }, ⟨0, 0, .range 6 8 4⟩, _, _, by decide, rfl, by decide, rfl⟩,
    ⟨taskSt, _, by decide, by decide, rfl, by unfold State.clean; decide, by unfold State.grants; decide, by decide, by decide, by decide⟩,
    ⟨lst.modTask fun q => { q with trig := vset q.trig 5 (.armed 8 7 task1) }, 8, 7, task1, by decide, by unfold State.clean; decide, by decide⟩⟩

/-- A state like taskSt whose deque, hardware and spill, is full. -/
def fullTasks : State := taskSt.modTask fun q => { q with deque := List.replicate 64 task1, spill := List.replicate 192 task1 }
/-- taskSt with other entries in the waiting-task table. -/
def trigSt (x : TrigSt) : State := taskSt.modTask fun q => { q with trig := Vector.replicate 32 x }

/-- SPAWN, RANGE and RANGE with SPREAD onto a FULL deque; DONE with a range left and the deque FULL; a plain task; a word equal to the
threshold; a table without a free entry; the first word outside the TCM window; a free and a firing entry; a formed gang. -/
theorem witness_TaskResults_traps :
    (∃ (s : State) (x : Task), s.cpu.gang = none ∧ s.cpu.task.full = true ∧ s.acked ∧ s.descriptor 10 (wordOfInstr (.spawn 10)) false = .ok (x, false)) ∧
    (∃ (s : State) (x : Task), s.cpu.gang = none ∧ s.cpu.task.full = true ∧ s.acked ∧ s.descriptor 12 (wordOfInstr (.range 12)) true = .ok (x, false)) ∧
    (∃ (s : State) (x : Task) (l : Launch), s.cpu.gang = none ∧ s.cpu.task.full = true ∧ s.acked ∧
      s.descriptor 14 (wordOfInstr (.range 14)) true = .ok (x, true) ∧ s.curLaunch = some l ∧ s.detsOpen (s.cpu.core / 16) = false ∧
      ∃ p ∈ s.shares l x, p.1 = s.dieOf (s.cpu.core / 16)) ∧
    (∃ (s : State) (x : Task), s.cpu.gang = none ∧ s.cpu.task.remainder = some x ∧ s.cpu.task.full = true) ∧
    (∃ (s : State) (x : Task), s.cpu.gang = none ∧ s.cpu.task.current = some x ∧ ∀ lo hi c, x.body ≠ .range lo hi c) ∧
    (∃ (s : State) (x : Task), s.cpu.gang = none ∧ s.cpu.task.freeTrigs ≠ [] ∧ s.descriptor 10 (wordOfInstr (.trig 2 1 10)) false = .ok (x, false) ∧ s.clean 2 ∧
      s.grants 1 (s.ea 1 0) 8 .r ∧ s.ea 1 0 + 8 ≤ 0x20000 ∧ s.net = [] ∧ s.mem.nat (tcmKey s.cpu.core (s.ea 1 0)) 8 = (s.ival 2).toNat) ∧
    (∃ (s : State) (x : Task), s.cpu.gang = none ∧ (∀ k, k < 32 → vget .free s.cpu.task.trig k ≠ .free) ∧
      s.descriptor 10 (wordOfInstr (.trig 2 1 10)) false = .ok (x, false) ∧ s.clean 2 ∧ s.grants 1 (s.ea 1 0) 8 .r ∧ s.ea 1 0 + 8 ≤ 0x20000 ∧ s.net = []) ∧
    (∃ s : State, s.cpu.gang = none ∧ s.grants 4 (s.ea 4 0) 8 .r ∧ 0x20000 < s.ea 4 0 + 8) ∧
    (∃ s : State, s.cpu.gang = none ∧ s.clean 2 ∧ vget .free s.cpu.task.trig ((s.ival 2).toNat % 32) = .free) ∧
    (∃ (s : State) (x : Task), s.cpu.gang = none ∧ s.clean 2 ∧ vget .free s.cpu.task.trig ((s.ival 2).toNat % 32) = .firing x) ∧
    (∃ (s : State) (g : GangSt), s.cpu.gang = some g ∧ s.takesTraps ∧ g.formed = true ∧ 0 < g.size) :=
  ⟨⟨fullTasks, _, by decide, by decide, by unfold State.acked; decide, rfl⟩, ⟨fullTasks, _, by decide, by decide, by unfold State.acked; decide, rfl⟩,
    ⟨fullTasks, _, launch0, by decide, by decide, by unfold State.acked; decide, rfl, rfl, by decide, by decide⟩,
    ⟨fullTasks.modTask fun q => { q with current := some ⟨0, 0, .range 6 8 4⟩ }, ⟨0, 0, .range 6 8 4⟩, by decide, by decide, by decide⟩,
    ⟨lst.modTask fun q => { q with current := some task1 }, task1, by decide, by decide, fun _ _ _ => nofun⟩,
    ⟨taskSt.gs [(2, word 0)], _, by decide, by decide, rfl, by unfold State.clean; decide, by unfold State.grants; decide, by decide, by decide, by decide⟩,
    ⟨trigSt (.firing task1), _, by decide, by decide, rfl, by unfold State.clean; decide, by unfold State.grants; decide, by decide, by decide⟩,
    ⟨st, by decide, by unfold State.grants; decide, by decide⟩, ⟨taskSt, by decide, by unfold State.clean; decide, by decide⟩,
    ⟨trigSt (.firing task1), task1, by decide, by unfold State.clean; decide, by decide⟩,
    ⟨lst.modCpu fun c => { c with gang := some ⟨2, true, false⟩ }, _, rfl, Or.inl (by decide), rfl, by decide⟩⟩

/-- A deque with all 64 hardware entries in use, and an empty one. -/
theorem witness_DequeOrder :
    (∃ q : TaskSt, q.full = false ∧ q.deque.length = 64 ∧ (q.deque = [] → q.spill = [])) ∧
    (∃ q : TaskSt, q.full = false ∧ q.deque.length ≤ 64 ∧ q.deque = [] ∧ q.spill = []) :=
  ⟨⟨{ TaskSt.reset with deque := List.replicate 64 task1 }, by decide⟩, ⟨TaskSt.reset, by decide⟩⟩

/-- A partition with one enumerated tile. -/
def meshSt : State := { lst with fabric := { lst.fabric with rects := [⟨0, 0, 32, 32⟩] } }

theorem witness_MessageResults :
    (∃ (s u : State) (p : Loc × Nat), s.msgPlace 1 .w = .ok p ∧ s.clean 2 ∧
      s.writeAt p.1 p.2 (storeData (s.getG 2) 8).1 (storeData (s.getG 2) 8).2.1 (storeData (s.getG 2) 8).2.2 true = .ok u) ∧
    (∃ (s : State) (p : Loc × Nat), s.msgPlace 4 .r = .ok p) ∧
    (∃ (s : State) (l : Launch), s.clean 2 ∧ s.curLaunch = some l ∧ (s.ival 2).toNat % 2 ^ 20 / 16 ≠ 0xFFFF ∧
      s.enumerated ((s.ival 2).toNat % 2 ^ 20 / 16) = true ∧ l.hasTile ((s.ival 2).toNat % 2 ^ 20 / 16) = true ∧ (s.getG 1).tag = .cap ∧
      capHas (s.getG 1).val .g = true ∧ s.acked) ∧
    (∃ (s : State) (e : InEntry) (rest : List InEntry), s.cpu.inbox = e :: rest ∧ e.source < 2 ^ 20 ∧ s.nearReadInFlight = false) ∧
    (∃ (s : State) (c : Payload), s.cpu.handler = true ∧ jumpCheck (vget GReg.zero s.cpu.regs.gh 7) = .ok c) ∧ (∃ s : State, s.cpu.handler = false) :=
  ⟨⟨st, (good_ok (x := st.writeAt ⟨tcmKey 0 0x1000, 4, none⟩ 0x1000 (storeData (st.getG 2) 8).1 (storeData (st.getG 2) 8).2.1 (storeData (st.getG 2) 8).2.2 true)
      (by decide)).imp fun _ h => ⟨(⟨tcmKey 0 0x1000, 4, none⟩, 0x1000), rfl, by unfold State.clean; decide, h⟩⟩,
    ⟨st, _, rfl⟩, ⟨meshSt, launch0, by unfold State.clean; decide, rfl, by decide, by decide, by decide, by decide, by decide, by unfold State.acked; decide⟩,
    ⟨lst.modCpu fun c => { c with inbox := [⟨word 7, 2 ^ 20 - 1, some .me, 0⟩] }, _, _, rfl, by decide, by decide⟩,
    ⟨st.modCpu fun c => { c with handler := true, regs := { c.regs with gh := vset c.regs.gh 7 tcmCap } }, tcmCap.val, by decide, rfl⟩, ⟨st, by decide⟩⟩

theorem witness_BarrierResults :
    (∃ s : State, s.acked ∧ s.cpu.bar.arr ≠ .arrived) ∧ (∃ s : State, s.cpu.bar.half = true ∧ s.cpu.bar.arr = .released) ∧
    (∃ (s : State) (r : Rect), s.cpu.level ≠ .app ∧ s.cpu.bar.arr ≠ .arrived ∧ s.clean 2 ∧ let x := s.ival 2
      bits x.toNat 63 29 = 0 ∧ domValid x = true ∧ inDomain x (s.cpu.core / 16) = true ∧ s.rectOf (domOrigin x) = some r ∧ domFits r x = true) :=
  ⟨⟨st, by unfold State.acked; decide, by decide⟩, ⟨st.modCpu fun c => { c with bar := ⟨0, .released, true⟩ }, by decide⟩,
    ⟨(meshSt.gs [(2, word 0x1FFC0000)]).atLevel .runtime, ⟨0, 0, 32, 32⟩, by decide, by decide, by unfold State.clean; decide, by decide⟩⟩

/-- Core 1 waits in the gang that core 0 completes; core 1 waits for the pair that core 0 joins; a pair. -/
def gangSt : State := (lst.gs [(2, word 2)]).modCpu id
def gangOther : Ctx := { gangSt.cpu with core := 1, gang := some ⟨2, false, false⟩ }
def pairOther : Ctx := { gangSt.cpu with core := 1, pair := { gangSt.cpu.pair with waiting := some 5 } }

theorem witness_GangAndPairResults :
    (∃ (s : State) (g : GangSt), s.cpu.gang = some g ∧ g.formed = true ∧ 0 < g.size ∧ s.others ≠ []) ∧
    (∃ s : State, s.clean 2 ∧ (s.ival 2).toNat = 2 ∧ s.cpu.gang = none ∧ s.gangClash 2 = false ∧
      ((((s.modCpu fun c => { c with gang := some ⟨2, false, false⟩ }).group 2).filter fun c =>
        c.gang == some ⟨2, false, false⟩ && c.run == .running).length = 2)) ∧
    (∃ s : State, s.cpu.gang = none ∧ s.cpu.paired = false) ∧ (∃ s : State, s.cpu.paired = true) ∧
    (∃ (s : State) (p : Ctx), s.cpu.paired = false ∧ s.cpu.core % 2 = 0 ∧ s.cpu.handler = false ∧
      (s.others.find? fun c => c.core == partner s.cpu.core && c.launch == s.cpu.launch && c.run == .running && c.pair.waiting.isSome) = some p ∧
      p.bar.arr ≠ .arrived ∧ s.cpu.bar.arr ≠ .arrived) ∧
    (∃ (s : State) (p : Ctx), s.cpu.paired = false ∧ s.cpu.core % 2 = 1 ∧
      (s.others.find? fun c => c.core == partner s.cpu.core && c.launch == s.cpu.launch && c.run == .running && c.pair.waiting.isSome) = some p ∧
      p.bar.arr ≠ .arrived ∧ s.cpu.bar.arr ≠ .arrived) ∧
    (∃ (s : State) (g : GangSt), s.clean 2 ∧ s.cpu.gang = some g ∧ g.bad = false ∧ g.formed = true ∧ g.size = (s.ival 2).toNat ∧ g.size = 2) ∧
    (∃ (s : State) (c : Ctx), s.cpu.paired = true ∧ c ∈ s.others ∧ c.core = partner s.cpu.core ∧ c.launch = s.cpu.launch ∧ c.run = .pairSaved ∧
      c.csrs.pairctl ≠ pairHigh) :=
  ⟨⟨{ (gangSt.modCpu fun c => { c with gang := some ⟨2, true, false⟩ }) with others := [{ gangOther with gang := some ⟨2, true, false⟩ }] }, _, rfl, by decide⟩,
    ⟨{ gangSt with others := [gangOther] }, by unfold State.clean; decide, by decide⟩, ⟨st, by decide⟩, ⟨st.modCsr fun c => { c with pairctl := 1 }, by decide⟩,
    ⟨{ gangSt with others := [pairOther] }, pairOther, by decide, by decide, by decide, rfl, by decide, by decide⟩,
    ⟨{ (gangSt.modCpu fun c => { c with core := 1 }) with others := [{ pairOther with core := 0 }] }, { pairOther with core := 0 }, by decide, by decide,
      rfl, by decide, by decide⟩,
    ⟨gangSt.modCpu fun c => { c with gang := some ⟨2, true, false⟩ }, ⟨2, true, false⟩, by unfold State.clean; decide, rfl, rfl, rfl, by decide, rfl⟩,
    ⟨{ (gangSt.modCsr fun c => { c with pairctl := 1 }) with others := [{ pairOther with run := .pairSaved }] }, { pairOther with run := .pairSaved },
      by decide, List.mem_cons_self, by decide, rfl, rfl, by decide⟩⟩

theorem witness_NameResults : ∃ (s : State) (a b : Nat), s.clean a ∧ s.clean b := ⟨meshSt, 2, 5, by unfold State.clean; decide, by unfold State.clean; decide⟩

/-- Every op of RNG, on the last generator. -/
theorem witness_GeneratorStep : ∀ op : Fin 8, ∃ (s : State) (a b k : Nat), s.clean a ∧ s.clean b ∧ k < 4 ∧ (s.ival b).toNat % 4 = k ∧
    bits (s.ival b).toNat 4 2 = op :=
  fun op => ⟨st.gs [(2, word (BitVec.ofNat 64 (op * 4 + 3)))], 5, 2, 3, by revert op; unfold State.clean; decide, by revert op; unfold State.clean; decide,
    by decide, by revert op; decide, by revert op; decide⟩

/-- A predecessor, in each standing. -/
def predSt (p : LaunchSt) (pub : Bool) : State :=
  { lst with launches := [(0, { launch0 with pkt := { pkt0 with pred := some 1 } }), (1, { launch0 with st := p, published := pub })] }

theorem witness_RegionResults :
    (∃ (s : State) (a : Nat), s.clean a) ∧
    (∃ (s : State) (p : Loc × Nat), s.genArea 1 .w = .ok p ∧ s.writeHeld p.1.key 2048 = false) ∧
    (∃ (s : State) (p : Loc × Nat), s.quiet ∧ s.genArea 1 .r = .ok p ∧ s.mem.marked p.1.key 2048 = false ∧ ∀ j, j < 64 → s.genBad s.mem p.1.key j = false) ∧
    (∃ s : State, (s.curLaunch.bind fun l => l.pkt.pred).bind s.launch? = none) ∧
    (∃ (s : State) (p : Launch), (s.curLaunch.bind fun l => l.pkt.pred).bind s.launch? = some p ∧ p.st = .ended 0) ∧
    (∃ (s : State) (p : Launch), (s.curLaunch.bind fun l => l.pkt.pred).bind s.launch? = some p ∧ p.st = .ended (0 + 1)) ∧
    (∃ (s : State) (p : Launch), (s.curLaunch.bind fun l => l.pkt.pred).bind s.launch? = some p ∧ p.st = .running ∧ p.published = true) ∧
    (∃ s : State, s.cpu.launch = some 0 ∧ s.acked ∧ s.detsOpen (s.cpu.core / 16) = false) :=
  ⟨⟨st, 2, by unfold State.clean; decide⟩, ⟨st, _, rfl, by decide⟩, ⟨st, _, by unfold State.quiet; decide, rfl, by decide, by decide⟩,
    ⟨lst, rfl⟩, ⟨predSt (.ended 0) true, _, rfl, rfl⟩, ⟨predSt (.ended 1) false, _, rfl, rfl⟩, ⟨predSt .running true, _, rfl, rfl, rfl⟩,
    ⟨lst, by decide, by unfold State.acked; decide, by decide⟩⟩

theorem witness_SuccHint :
    (∃ (s : State) (l : Launch), s.cpu.launch = some 0 ∧ s.launch? 0 = some l ∧ l.pkt.hint = false) ∧
    (∃ (s : State) (l : Launch), s.cpu.launch = some 0 ∧ s.launch? 0 = some l ∧ l.pkt.hint = true ∧ l.hinted = false ∧ s.detsOpen (s.cpu.core / 16) = false) :=
  ⟨⟨lst, launch0, by decide, rfl, rfl⟩, ⟨withLaunch st { launch0 with pkt := { pkt0 with hint := true } }, _, by decide, rfl, rfl, rfl, by decide⟩⟩

/-- An ACCZ command in g20 to g23; the same with two commands queued. -/
def pushSt : State := lst.gs [(20, ⟨.data, 3⟩)]
def acczCmd : Cmd :=
  { hdr := 3, slot1 := GReg.zero, slot2 := GReg.zero, par := 0, num := 0, k0 := 0, c0 := 0, ring := 0, started := false, elem := 0, total := 0, flags := 0,
    recs := [], absentAt := none, poisonAt := none, unboundAt := none, gone := 0, slot := false, sent := false, taken := none, ended := none, wb := [], after := 0, held := [], buffer := [], ahead := [], out := [], flush := false }
def fullSt : State := pushSt.modEng fun e => { e with me := { e.me with cmds := [acczCmd, acczCmd] } }

theorem witness_EngineControl :
    (∃ s : State, s.pushCheck 20 (wordOfInstr (.push 20 .me)) .me = .ok () ∧ (s.cpu.eng.get .me).full = false) ∧
    (∃ s : State, s.pushCheck 20 (wordOfInstr (.pushTry 7 20 .me)) .me = .ok () ∧ (s.cpu.eng.get .me).full = true) ∧
    (∃ s : State, s.pushCheck 20 (wordOfInstr (.pushTry 7 20 .me)) .me = .ok () ∧ (s.cpu.eng.get .me).full = false) ∧
    (∃ s : State, s.clean 0 ∧ (s.ival 0).truncate 16 = (0 : BitVec 16)) ∧
    (∃ s : State, s.clean 2 ∧ (s.ival 2).truncate 16 ≠ (0 : BitVec 16) ∧ (s.cpu.eng.anyCmd fun c => c.key == (s.ival 2).truncate 16) = false) :=
  ⟨⟨pushSt, rfl, by decide⟩, ⟨fullSt, rfl, by decide⟩, ⟨pushSt, rfl, by decide⟩,
    ⟨pushSt, by unfold State.clean; decide, by decide⟩, ⟨pushSt, by unfold State.clean; decide, by decide, by decide⟩⟩

/-- Sources at hand: ordinary registers, and a stream's head. -/
def streamSt : State :=
  (st.modCsr fun c => { c with vqmap := 0x11 }).modCpu fun c => { c with streams := vset c.streams 0 [⟨1, 0⟩] }

theorem witness_VectorArithmetic : ∃ (s : State) (v : BitVec 1024 × BitVec 1024), s.src2 1 28 (wordOfInstr (.vadd 31 1 28 7 .f32)) = .ok v ∧ VType.isInt .i8 = true :=
  ⟨streamSt, (0, 1), rfl, rfl⟩

theorem witness_VectorOneSource : ∃ (s : State) (x : BitVec 1024) (v : BitVec 1024 × BitVec 1024), s.src1 28 (wordOfInstr (.vsqrt 31 28 7 .f64)) = .ok x ∧
    s.src2 1 2 (wordOfInstr (.vfma 31 1 2 7 .bf16)) = .ok v ∧ VType.isFloat .f64 = true ∧ VType.isFloat .bf16 = true := ⟨streamSt, 1, (0, 0), rfl, rfl, rfl, rfl⟩

theorem witness_VectorCompare : ∃ (s : State) (d : Nat) (v : BitVec 1024 × BitVec 1024), d < 8 ∧ d ≠ 0 ∧ s.src2 1 2 (wordOfInstr (.vceq 7 1 2 0 .f32)) = .ok v :=
  ⟨st, 7, (0, 0), by decide, by decide, rfl⟩

theorem witness_VectorMoves : ∃ (s : State) (d a n p g : Nat) (t : VType) (x : BitVec 1024) (v : BitVec 1024 × BitVec 1024), d < 32 ∧ n < t.lanes ∧ p ≠ 0 ∧ p < 8 ∧
    s.clean a ∧ g < 64 ∧ g ≠ 0 ∧ s.src1 a (wordOfInstr (.vmovvg g a n t)) = .ok x ∧ s.src2 a 1 (wordOfInstr (.vxlane d a 1 p t)) = .ok v :=
  ⟨st, 31, 2, 15, 7, 63, .f64, 0, (0, 0), by decide, by decide, by decide, by decide, by unfold State.clean; decide, by decide, by decide, rfl, rfl⟩

theorem witness_VectorReductions : ∃ (s : State) (x : BitVec 1024), s.src1 2 (wordOfInstr (.vrsum 31 2 7 .f64)) = .ok x := ⟨st, 0, rfl⟩

/-- A stream register bound and not, a tag of 255. -/
theorem witness_PredicateAndStreamResults :
    (∃ (s : State) (a : Nat), s.clean a) ∧
    (∃ (s : State) (k a : Nat), k < 4 ∧ s.clean a ∧ (s.ival a).toNat = 255 ∧ boundTo s.cpu.csrs.vqmap ((s.ival a).truncate 8) = none ∧ s.bound k = false) ∧
    (∃ (s : State) (k : Nat), k < 4 ∧ s.bound k = true) :=
  ⟨⟨st, 2, by unfold State.clean; decide⟩, ⟨st.gs [(2, word 255)], 3, 2, by decide, by unfold State.clean; decide, by decide, by decide, by decide⟩,
    ⟨streamSt, 0, by decide⟩⟩

/-- Lanes 0 and 31 active, at the end of the TCM; index vector of zeros. -/
def laneSt : State := (st.gs [(1, ⟨.cap, capOver 63 0 0x20000 0x1FF80⟩), (2, word 4)]).setP 1 0x80000001

/-- What each clause asks of the lanes: there is one that may go next and each such one completes; none is left; each waits. -/
def lanesGo (s : State) (p : Nat) (t : VType) (ea : Nat → Nat) (lane : Nat → State → State × Out Unit) : Prop :=
  s.lanesReady p t ea ≠ [] ∧ ∀ i ∈ s.lanesReady p t ea, ∃ u, lane i s.drawFree.2 = (u, .ok ())
def lanesWait (s : State) (p : Nat) (t : VType) (ea : Nat → Nat) (lane : Nat → State → State × Out Unit) : Prop :=
  s.lanesLeft p t ≠ [] ∧ ∀ i ∈ s.lanesReady p t ea, (lane i s.drawFree.2).2 = .wait ∧ (lane i s.drawFree.2).1.turnsBack = false

/-- A result that waits. -/
def waits {α : Type} (x : Out α) : Bool :=
  match x with
  | .wait => true
  | .ok _ => false
  | .trap _ => false

theorem waits_eq {α : Type} {x : Out α} (h : waits x = true) : x = .wait := by
  cases x with
  | wait => rfl
  | ok _ => cases h
  | trap _ => cases h

theorem lanesWait_of {s : State} {p : Nat} {t : VType} {ea : Nat → Nat} {lane : Nat → State → State × Out Unit}
    (h : (!(s.lanesLeft p t).isEmpty && (s.lanesReady p t ea).all fun i => waits (lane i s.drawFree.2).2 && !(lane i s.drawFree.2).1.turnsBack) = true) : lanesWait s p t ea lane := by
  rw [Bool.and_eq_true, List.all_eq_true] at h
  refine ⟨fun e => by simp [e] at h, fun i hi => ?_⟩
  have := h.2 i hi
  rw [Bool.and_eq_true, Bool.not_eq_true'] at this
  exact ⟨waits_eq this.1, this.2⟩

theorem lanesGo_of {s : State} {p : Nat} {t : VType} {ea : Nat → Nat} {lane : Nat → State → State × Out Unit}
    (h : (!(s.lanesReady p t ea).isEmpty && (s.lanesReady p t ea).all fun i => good (lane i s.drawFree.2).2) = true) : lanesGo s p t ea lane := by
  rw [Bool.and_eq_true, List.all_eq_true] at h
  exact ⟨fun e => by simp [e] at h, fun i hi => (good_pair (h.2 i hi)).imp fun _ h => h.elim fun _ h => h⟩

/-- The lanes of a load, of a store, and their addresses by element, by stride and by index. -/
def loads (ea : Nat → Nat) (t : VType) : Nat → State → State × Out Unit := fun i v => v.loadLane 5 1 t (ea i) i
def stores (ea : Nat → Nat) (t : VType) : Nat → State → State × Out Unit := fun i v => v.storeLane 5 1 t (ea i) i
def byElement (s : State) (t : VType) : Nat → Nat := fun i => s.laneEa 1 (i * (laneBytes t : Int))
def byStride (s : State) : Nat → Nat := fun i => s.laneEa 1 (i * (s.ival 2).toInt)
def byIndex (s : State) (t : VType) : Nat → Nat := fun i => s.laneEa 1 (indexOf 0 i * (laneBytes t : Int))
/-- The same with a store of the core's own on its way to all these bytes. -/
def heldLanes : State := laneSt.post 0 none (.store (tcmKey 0 0x1FF80) (zeros 128) false false none) false none

theorem witness_VectorMemory :
    lanesGo laneSt 1 .f32 (byElement laneSt .f32) (loads (byElement laneSt .f32) .f32) ∧
    lanesGo laneSt 1 .f32 (byElement laneSt .f32) (stores (byElement laneSt .f32) .f32) ∧
    laneSt.clean 2 ∧ lanesGo laneSt 1 .n8 (byStride laneSt) (loads (byStride laneSt) .n8) ∧
    lanesGo laneSt 1 .n8 (byStride laneSt) (stores (byStride laneSt) .n8) ∧
    laneSt.src1 6 (wordOfInstr (.vgather 5 1 6 1 .n8)) = .ok 0 ∧ laneSt.src1 6 (wordOfInstr (.vscatter 5 1 6 1 .n8)) = .ok 0 ∧
    lanesGo laneSt 1 .n8 (byIndex laneSt .n8) (loads (byIndex laneSt .n8) .n8) ∧
    lanesGo laneSt 1 .n8 (byIndex laneSt .n8) (stores (byIndex laneSt .n8) .n8) ∧
    (laneSt.setVprog 0x80000001).lanesLeft 1 .f32 = [] ∧
    lanesWait heldLanes 1 .f32 (byElement heldLanes .f32) (loads (byElement heldLanes .f32) .f32) ∧
    lanesWait heldLanes 1 .f32 (byElement heldLanes .f32) (stores (byElement heldLanes .f32) .f32) :=
  ⟨lanesGo_of (by decide), lanesGo_of (by decide), by unfold State.clean; decide, lanesGo_of (by decide), lanesGo_of (by decide), rfl, rfl,
    lanesGo_of (by decide), lanesGo_of (by decide), by decide, lanesWait_of (by decide), lanesWait_of (by decide)⟩

/-- laneSt with another base. -/
def laneBarred (g : GReg) : State := laneSt.gs [(1, g)]

/-- Both lanes left are stopped, in each of the five ways of R77, with TELEM's lane 0. -/
theorem witness_VectorMemory_traps : ∀ x ∈ [(poisonOnes 1, 6), (word 5, 2), (⟨.cap, capOver 0 0 0x20000 0x1000⟩, 4),
      (⟨.cap, capOver 63 0x1000 0x100 0x1100⟩, 3), (⟨.cap, capOver 63 0 0x20000 0x1002⟩, 5)],
    ∃ (s : State) (j : Nat) (rest : List Nat), s.takesTraps ∧ s.getG 1 = x.1 ∧ s.lanesLeft 1 .f32 = j :: rest ∧ rest ≠ [] ∧
      ∀ i ∈ s.lanesLeft 1 .f32, ∃ y, y.cause = x.2 ∧ s.accessTraps 1 (byElement s .f32 i) 4 .r y ∧ s.accessTraps 1 (byElement s .f32 i) 4 .w y := by
  have left : ∀ g, (laneBarred g).lanesLeft 1 .f32 = [0, 31] := fun g =>
    (show (laneBarred g).lanesLeft 1 .f32 = laneSt.lanesLeft 1 .f32 from rfl).trans (by decide)
  have app : ∀ g, (laneBarred g).takesTraps := fun _ => .inl rfl
  intro x hx
  simp only [List.mem_cons, List.not_mem_nil, or_false] at hx
  rcases hx with rfl | rfl | rfl | rfl | rfl
  all_goals
    refine ⟨laneBarred _, 0, [31], app _, rfl, left _, by decide, fun i hi => ?_⟩
    rw [left] at hi
    simp only [List.mem_cons, List.not_mem_nil, or_false] at hi
    rcases hi with rfl | rfl <;> unfold State.accessTraps
  all_goals first
    | exact ⟨_, rfl, .inl ⟨by decide, rfl⟩, .inl ⟨by decide, rfl⟩⟩
    | exact ⟨_, rfl, .inr (.inl ⟨by decide, rfl⟩), .inr (.inl ⟨by decide, rfl⟩)⟩
    | exact ⟨_, rfl, .inr (.inr (.inl ⟨by decide, by decide, rfl⟩)), .inr (.inr (.inl ⟨by decide, by decide, rfl⟩))⟩
    | exact ⟨_, rfl, .inr (.inr (.inr (.inl ⟨by decide, by decide, by decide, rfl⟩))), .inr (.inr (.inr (.inl ⟨by decide, by decide, by decide, rfl⟩)))⟩
    | exact ⟨_, rfl, .inr (.inr (.inr (.inr ⟨by decide, by decide, by decide, by decide, by decide, rfl⟩))),
        .inr (.inr (.inr (.inr ⟨by decide, by decide, by decide, by decide, by decide, rfl⟩)))⟩

/-- A VMEM instruction goes on, whichever lane the free value takes. -/
theorem vmem_next (s : State) (p : Nat) (t : VType) (fs : List Nat) (ea : Nat → Nat) (lane : Nat → State → State × Out Unit) :
    ∃ u, s.vmem p t fs ea lane = .next u := by
  unfold State.vmem
  dsimp only
  repeat' split
  all_goals exact ⟨_, rfl⟩

theorem witness_VectorMemoryFrame : ∃ (s t u : State), s.takesTraps ∧ exec (.vld 5 1 1 .f32) s = .next t ∧ exec (.vst 5 1 1 .f32) s = .next u :=
  (vmem_next laneSt 1 .f32 [] (byElement laneSt .f32) (loads (byElement laneSt .f32) .f32)).elim fun t ht =>
    (vmem_next laneSt 1 .f32 [] (byElement laneSt .f32) (stores (byElement laneSt .f32) .f32)).elim fun u hu =>
      ⟨laneSt, t, u, Or.inl (by decide), ht, hu⟩

/-- A frame of two words, run twice: ADDI g2, g2, 1 and ADD g3, g3, g2 behind the REP. -/
def repSt (k j : Nat) : State :=
  ({ st with mem := st.mem.write (tcmKey 0 4) (leBytes 4 (f3 0x02 2 2 0 1) ++ leBytes 4 (f3 0x01 3 3 2 0)) false false } : State).setRepprog (repAt k j)
/-- Its words; the frame with them captured. -/
def repWords : List Nat := [f3 0x02 2 2 0 1, f3 0x01 3 3 2 0]
def repHeld (k j : Nat) : State := (repSt k j).modCpu fun c => { c with frame := some repWords }
/-- The state in which an element runs. -/
def repRun (u : State) (k j : Nat) : State := (u.setRepprog (repAt k j)).modCpu fun q => { q with frame := some repWords }

/-- Whether the element due performs: the frame's words are there and its effect is a result. -/
def elementDue (s : State) (c n x y z k j : Nat) : Prop :=
  ∃ (u t : State) (w : Nat) (ws : List Nat) (i : Instr) (f : State → Out State),
    s.repPos = (k, j) ∧ k < n ∧ j < c ∧ s.frameWords c = (u, .ok ws) ∧ ws[j]? = some w ∧ stepWord k x y z w = some i ∧ effOf i = some f ∧
    f ((u.setRepprog (repAt k j)).modCpu fun q => { q with frame := some ws }) = .ok t

/-- The first element, with its words captured now; the last of an iteration, and the last of all. -/
theorem witness_RepeatFrames :
    elementDue (repSt 0 0) 2 2 0 0 0 0 0 ∧ elementDue (repHeld 0 1) 2 2 1 1 1 0 1 ∧ elementDue (repHeld 1 1) 2 2 1 1 1 1 1 :=
  have frame : (repSt 0 0).frameWords 2 = (((repSt 0 0).frameWords 2).1, .ok repWords) := okIs_pair (by decide)
  ⟨(good_ok (x := effAddi 2 2 1 (repRun ((repSt 0 0).frameWords 2).1 0 0)) (by decide)).elim fun t e =>
      ⟨_, t, _, _, .addi 2 2 1, _, by decide, by decide, by decide, frame, rfl, by decide, rfl, e⟩,
    (good_ok (x := effAdd 3 3 2 (repRun (repHeld 0 1) 0 1)) (by decide)).elim fun t e =>
      ⟨_, t, _, _, .add 3 3 2, _, by decide, by decide, by decide, rfl, rfl, by decide, rfl, e⟩,
    (good_ok (x := effAdd 4 4 3 (repRun (repHeld 1 1) 1 1)) (by decide)).elim fun t e =>
      ⟨_, t, _, _, .add 4 4 3, _, by decide, by decide, by decide, rfl, rfl, by decide, rfl, e⟩⟩

/-! ### Events -/

/-- A context on core 1 that waits in RECV with a message in its inbox. -/
def woken : Ctx := { lst.cpu with core := 1, run := .parked .recv, inbox := [⟨word 7, 0, none, 0⟩] }

/-- lst with a lease on core 0. -/
def leasedSt : State := lst.modCpu fun c => { c with lease := 7 }

theorem witness_SchedulingEvents :
    (∃ (s t : State) (w : Nat), s.fetchAt s.pc = (t, .ok w)) ∧
    (∃ s : State, s.cpu.csrs.tcmp ≠ BitVec.allOnes 64 ∧ s.cpu.csrs.tcmp.toNat ≤ s.dtime ∧ s.live = true ∧ s.takesTraps ∧ s.beforeTimer = true) ∧
    (∃ s : State, s.live = true ∧ s.asks CoreSt.preReq = true ∧ s.cpu.level = .runtime ∧ tstatIE s.cpu.csrs.tstat = true ∧ s.firstInLine s.cpu = true) ∧
    (∃ s : State, s.live = true ∧ s.cpu.level = .app ∧ s.cpu.uien = true ∧ s.cpu.inbox ≠ [] ∧ s.cpu.handler = false ∧ s.beforeTimer = true ∧ s.timerDue = false) ∧
    (∃ (s : State) (core o since : Nat), (s.core core).lock = some (o, since) ∧ since + 40960 ≤ s.clk) ∧
    (∃ (s : State) (core launch : Nat) (c : Ctx) (w : WaitIn), s.ctxOf core launch = some c ∧ c.run = .parked w ∧ (s.focus c).awake.wakeDue w = true) ∧
    (∃ (s : State) (core : Nat) (c : Ctx), (s.ctxs.find? fun c => c.core == core && c.run == .running && c.launch.isSome) = some c ∧
      (s.core core).preReq = true ∧ c.level = .app ∧ c.pair.held = [] ∧ c.pair.count = 0 ∧ s.firstInLine c = true ∧
      (s.tile (core / 16)).st.refuses = false) ∧
    (∃ s : State, s.dtime % 2 ^ 20 = 0) :=
  ⟨⟨fetchSt, _, 0x04304200, okIs_pair (by decide)⟩, ⟨st.modCsr fun c => { c with tcmp := 0 }, by decide, by decide, by decide, Or.inl (by decide), by decide⟩,
    ⟨((st.atLevel .runtime).modCsr fun c => { c with tstat := 1 }).updCore 0 fun k => { k with preReq := true }, by decide⟩,
    ⟨leasedSt.modCpu fun c => { c with uien := true, inbox := [⟨word 7, 0, none, 0⟩] }, by decide⟩,
    ⟨{ st.updCore 5 (fun k => { k with lock := some (8, 0) }) with clk := 40960 }, 5, 8, 0, by decide, by decide⟩,
    ⟨{ lst with others := [woken] }, 1, 0, woken, .recv, rfl, rfl, by decide⟩,
    ⟨leasedSt.updCore 0 fun k => { k with preReq := true }, 0, _, rfl, by decide⟩, ⟨st, by decide⟩⟩

/-- The task state of a context of lst that waits in DONE. -/
def idleTask : TaskSt := { TaskSt.reset with idle := some (capAddr lst.cpu.pcc, false, .app) }

/-- A launch of each OVR and DLA, and one whose last wave is counted. -/
def ovrSt (o : Nat) (pool : Nat) : State :=
  let s := withLaunch st { launch0 with pkt := { pkt0 with ovr := o }, pool := pool }
  { s with front := { s.front with parts := [(1, { Part.reset with left := 5000 })] } }
def dlaSt (b : Bool) : State := { withLaunch st { launch0 with pkt := { pkt0 with dlab := b } } with clk := 33 * 100 }
def waveSt : State :=
  let s := withLaunch st { launch0 with wave := some (0, 0) }
  { s with cpu := { s.cpu with idleSince := true, task := idleTask } }

theorem witness_SchedulingEvents_launches :
    (∀ o ∈ [0, 1, 2], ∃ (s : State) (core n : Nat) (c : Ctx) (l : Launch),
      (s.ctxs.find? fun c => c.core == core && c.launch.isSome && c.lease == 0 && (c.run.onCore || c.atGate)) = some c ∧ c.launch = some n ∧
      s.launch? n = some l ∧ l.pool = 0 ∧ l.unlimited = false ∧ l.live = true ∧ (c.due.any fun d => d.1 == 14) = false ∧ (s.tile (core / 16)).st.refuses = false ∧ l.pkt.ovr = o ∧ l.pkt.budget ≠ 0 ∧ 0 < s.reserveLeft l.pkt.handle) ∧
    (∀ b, ∃ (s : State) (n : Nat) (l : Launch), s.launch? n = some l ∧ l.live = true ∧ l.missed = false ∧ l.demoted = false ∧ l.deadline < s.dtime ∧
      (l.tiles.any fun t => (s.tile t).st.refuses) = false ∧ l.pkt.dlab = b) ∧
    (∃ (s : State) (n : Nat) (l : Launch), s.launch? n = some l ∧ l.st = .running ∧
      (∀ t ∈ l.tiles, (s.tile t).st.refuses = false ∧ (s.tile t).owed.elem n = false) ∧ (∀ c ∈ s.ctxs.filter fun c => c.launch == some n, c.idleSince = true ∧ s.idle c = true) ∧ l.shares = [] ∧ l.wave = some (0, 0)) ∧
    (∃ (s : State) (n : Nat) (l : Launch), s.launch? n = some l ∧ l.st = .running ∧
      (∀ t ∈ l.tiles, (s.tile t).st.refuses = false ∧ (s.tile t).owed.elem n = false) ∧ l.wave = none) := by
  refine ⟨fun o ho => ?_, fun b => ⟨dlaSt b, 0, _, rfl, rfl, rfl, rfl, by cases b <;> decide, by cases b <;> decide, rfl⟩, ⟨waveSt, 0, _, rfl, rfl, by decide, by decide, rfl, rfl⟩,
    ⟨lst, 0, _, rfl, rfl, by decide, rfl⟩⟩
  have h : o = 0 ∨ o = 1 ∨ o = 2 := by simpa using ho
  rcases h with rfl | rfl | rfl
  · exact ⟨ovrSt 0 0, 0, 0, _, _, rfl, rfl, rfl, rfl, rfl, rfl, rfl, by decide, rfl, by decide, by decide⟩
  · exact ⟨ovrSt 1 0, 0, 0, _, _, rfl, rfl, rfl, rfl, rfl, rfl, rfl, by decide, rfl, by decide, by decide⟩
  · exact ⟨ovrSt 2 0, 0, 0, _, _, rfl, rfl, rfl, rfl, rfl, rfl, rfl, by decide, rfl, by decide, by decide⟩

/-- An idle context of the launch on another core; one with work. -/
def idleCtx (core : Nat) : Ctx := { lst.cpu with core := core, run := .parked .done, task := idleTask }
def busyCtx (core : Nat) : Ctx := { lst.cpu with core := core, task := { TaskSt.reset with running := true, deque := [task1, task1] } }
/-- Core 0 has work and core 1 is a thief. -/
def stealSt : State := { lst with cpu := busyCtx 0, others := [idleCtx 1] }

/-- The seam between dies 0 and 1 with every link DOWN. -/
def seamDown (s : State) : State :=
  { s with fabric := { s.fabric with links := (s.presentLinks (seamEast 0 0)).map fun i => { s.link i with st := .down } } }
/-- The acting context, on a core, has arrived at the barrier of a domain, whose sweep has come so far. -/
def barSt (d : Word) (core : Nat) (marks : List SweepMark) : State :=
  (withLaunch st { launch0 with sweep := marks }).modCpu fun c => { c with core := core, csrs := { c.csrs with domain := d }, bar := ⟨0, .arrived, false⟩ }

theorem witness_TaskEvents :
    (∃ (s : State) (core n : Nat) (c : Ctx) (x : Task), s.ctxOf core 0 = some c ∧ vget .free c.task.trig n = .firing x ∧ c.task.full = false ∧
      (s.tile (core / 16)).st.refuses = false) ∧
    (∃ (s : State) (thief victim : Nat) (a b : Ctx) (x : Task) (q : TaskSt), s.ctxOf thief 0 = some a ∧ s.ctxOf victim 0 = some b ∧ a.thief = true ∧
      (s.ctxs.any fun c => c.core == thief && c.launch != some 0 && c.run.onCore) = false ∧ s.mayTrade thief victim = true ∧
      s.probeNext 0 a victim = true ∧ b.task.steal = some (x, q)) ∧
    (∃ (s : State) (core : Nat) (c : Ctx) (x : Task), s.ctxOf core 0 = some c ∧ c.task.grant = some x ∧ c.task.full = false ∧
      (s.tile (core / 16)).st.refuses = false) ∧
    (∃ (s : State) (n : Nat) (l : Launch) (x : Share) (c : Ctx) (rest : List Ctx), s.launch? 0 = some l ∧ l.shares[n]? = some x ∧
      s.cut x.src x.die = false ∧ s.dieCtxs 0 x.die = c :: rest ∧ c.task.full = false ∧ s.lowestThere 0 x.die = true ∧
      s.linksBusy (s.agentLinks x.src x.die) 0 = false) ∧
    (∃ (s : State) (n : Nat) (l : Launch) (x : Share), s.launch? 0 = some l ∧ l.shares[n]? = some x ∧ s.cut x.src x.die = true) :=
  ⟨⟨lst.modTask fun q => { q with trig := vset q.trig 31 (.firing task1) }, 0, 31, _, task1, rfl, by decide, by decide, by decide⟩,
    ⟨stealSt, 1, 0, _, _, _, _, rfl, rfl, by decide, by decide, by decide, by decide, rfl⟩,
    ⟨lst.modTask fun q => { q with grant := some task1 }, 0, _, task1, rfl, rfl, by decide, by decide⟩,
    ⟨withLaunch st { launch0 with shares := [⟨st.dieOf 0, st.dieOf 0, task1⟩] }, 0, _, _, _, _, rfl, rfl, by decide, rfl, by decide, by decide, by decide⟩,
    ⟨seamDown (withLaunch st { launch0 with shares := [⟨0, 1, task1⟩] }), 0, _, _, rfl, rfl, by decide⟩⟩

/-- Nothing to forward; the corner of a domain of one tile, with what its node has gathered; the east tile of two, with the way clear and
with the seam to it cut; the release at the corner, and one tile on, before and with the corner's mark. -/
theorem witness_TaskEvents_barrier :
    (∃ (s : State) (l : Launch), s.launch? 0 = some l ∧ (s.instances 0).filter (fun i => s.gathered 0 l 0 i.1 i.2) = []) ∧
    (∃ (s : State) (l : Launch) (i : Nat × Nat), s.launch? 0 = some l ∧ i ∈ (s.instances 0).filter (fun i => s.gathered 0 l 0 i.1 i.2) ∧
      towardCorner (BitVec.ofNat 64 i.1) 0 = none) ∧
    (∃ (s : State) (l : Launch) (i : Nat × Nat), s.launch? 0 = some l ∧ (s.instances 0).filter (fun i => s.gathered 0 l 1 i.1 i.2) = [i] ∧
      towardCorner (BitVec.ofNat 64 i.1) 1 = some 0 ∧ s.cutTiles 1 0 = false ∧ s.wayClear 1 0 0 = true) ∧
    (∃ (s : State) (l : Launch) (i : Nat × Nat), s.launch? 0 = some l ∧ (s.instances 0).filter (fun i => s.gathered 0 l 4 i.1 i.2) = [i] ∧
      towardCorner (BitVec.ofNat 64 i.1) 4 = some 3 ∧ s.cutTiles 4 3 = true) ∧
    (∃ (s : State) (c : Ctx) (l : Launch), s.ctxOf 0 0 = some c ∧ s.launch? 0 = some l ∧ c.bar.arr = .arrived ∧ 0 = domOrigin c.csrs.domain ∧
      l.swept c.csrs.domain.toNat c.bar.phase.toNat 0 .forwarded = true ∧ s.refusing 0 = false ∧
      (s.releaseTo 0 c.csrs.domain.toNat c.bar.phase.toNat 0).2 = true) ∧
    (∃ (s : State) (c : Ctx) (l : Launch), s.ctxOf 16 0 = some c ∧ s.launch? 0 = some l ∧ c.bar.arr = .arrived ∧ domOrigin c.csrs.domain = 0 ∧
      releasePath c.csrs.domain 1 = [1] ∧ s.cutTiles 0 1 = false ∧ s.wayClear 0 1 0 = true ∧ l.sweep = [] ∧
      l.swept c.csrs.domain.toNat c.bar.phase.toNat 1 .released = false ∧ (s.releaseTo 0 c.csrs.domain.toNat c.bar.phase.toNat 1).2 = true) ∧
    (∃ (s : State) (c : Ctx) (l : Launch), s.ctxOf 16 0 = some c ∧ s.launch? 0 = some l ∧ c.bar.arr = .arrived ∧ domOrigin c.csrs.domain = 0 ∧
      l.swept c.csrs.domain.toNat c.bar.phase.toNat 0 .forwarded = true ∧ s.refusing 0 = false ∧ s.refusing 1 = false ∧
      (s.releaseTo 0 c.csrs.domain.toNat c.bar.phase.toNat 1).2 = true) :=
  ⟨⟨lst, _, rfl, by decide⟩, ⟨barSt 0x10000000 0 [], _, (0x10000000, 0), rfl, by decide, by decide⟩,
    ⟨barSt 0x10800000 16 [], _, (0x10800000, 0), rfl, by decide, by decide, by decide, by decide⟩,
    ⟨seamDown (barSt 0x12000000 64 []), _, (0x12000000, 0), rfl, by decide, by decide, by decide⟩,
    ⟨barSt 0x10000000 0 [⟨0x10000000, 0, 0, .forwarded⟩], _, _, rfl, rfl, rfl, by decide, by decide, by decide, by decide⟩,
    ⟨barSt 0x10800000 16 [], _, _, rfl, rfl, rfl, by decide, by decide, by decide, by decide, rfl, by decide, by decide⟩,
    ⟨barSt 0x10800000 16 [⟨0x10800000, 0, 0, .forwarded⟩], _, _, rfl, rfl, rfl, by decide, by decide, by decide, by decide, by decide⟩⟩

theorem witness_TaskEvents_agent : ∃ (s : State) (die : Nat) (c : Ctx) (rest : List Ctx) (l : Launch), s.launch? 0 = some l ∧
    (s.dieTiles l die).all (s.tileWhole 0) = true ∧ s.dieCtxs 0 die = c :: rest ∧
    (∀ y ∈ c :: rest, y.thief = true ∧ s.atRest y = true ∧ y.task.steal = none) ∧ s.agentVictims 0 die ≠ [] ∧
    (∀ v ∈ s.agentVictims 0 die, v.task.steal.isSome = true ∧ s.mayTrade c.core v.core = true) :=
  ⟨{ lst with cpu := busyCtx (16 * 1000), others := [idleCtx 0] }, lst.dieOf 0, idleCtx 0, [], launch0, rfl, by decide, rfl, by decide, by decide, by decide⟩

/-- A message of core 0's launch, and states that hold one message or one link. -/
def msg0 (k : MsgKind) (m : MsgSt) : Msg :=
  { id := 3, core := 0, launch := some 0, chan := 1, seq := 1, kind := k, st := m, counted := true, engine := none, seen := 0, det := 0, noted := none,
    origin := none }
def netSt (k : MsgKind) (m : MsgSt) : State := { meshSt with net := [msg0 k m] }
def sendMsg : MsgKind := .send 0 (word 7)
def linkSt (n : Nat) (f : Link → Link) : State := { st with fabric := { st.fabric with links := [f ((st.link n))] } }
def flit0 : Flit := ⟨0, 0, 3, 0, 0⟩
def chunk0 : Chunk := ⟨0, 0, 0, 0, 0, 0, [], [], 0, false⟩

theorem witness_NetworkEvents_messages :
    (∃ (s : State) (n : Nat) (m : Msg), s.msg? n = some m ∧ s.crossing n = false ∧ (∀ c g e a b i, m.kind ≠ .stream c g e a b i) ∧
      (∀ c h, m.kind ≠ .chunk c h)) ∧
    (∃ (s : State) (n : Nat) (m : Msg), s.msg? n = some m ∧ s.crossing n = false ∧ ∃ c g e a b i, m.kind = .stream c g e a b i) ∧
    (∃ (s : State) (n : Nat) (m : Msg) (c : Nat) (v : GReg) (u : State), s.msg? n = some m ∧ s.crossing n = false ∧ m.st ≠ .performed ∧ m.st ≠ .lost ∧ m.st ≠ .held ∧
      s.senderStopped m = false ∧ m.kind = .send c v ∧ s.heldUp m (.tile (c / 16)) = false ∧ s.absent m.core m.launch (.tile (c / 16)) = false ∧
      s.refusing (c / 16) = false ∧ m.seq = (s.channel (m.core / 16) m.chan).accepted + 1 ∧ 
      (s.notePort m (.tile (c / 16))).placeSend c m.launch v m.core = some u) ∧
    (∃ (s : State) (n : Nat) (m : Msg) (v : GReg) (d : Nat), s.msg? n = some m ∧ m.kind = .resp v ∧ m.st = .sent ∧ s.crossing n = false ∧
      s.senderStopped m = false ∧ s.cpu.core = m.core ∧
      s.cpu.launch = m.launch ∧ s.cpu.csrs.pairctl = 0 ∧ d < 64 ∧ d ≠ 0 ∧ s.cpu.regs.pend.find? (fun p => p.2 == n) = some (d, n)) ∧
    (∃ (s : State) (n : Nat) (m : Msg), s.msg? n = some m ∧ m.st = .performed ∧ s.senderStopped m = false) ∧
    (∀ st ∈ [MsgSt.refused, .turned, .lost], ∃ (s : State) (n : Nat) (m : Msg), s.msg? n = some m ∧ m.st = st) ∧
    (∃ (s : State) (c : Nat) (m : Msg), (s.net.find? fun m => m.waiting && match m.kind with | .chunk k _ => k == c | _ => false) = some m) ∧
    (∃ (s : State) (n : Nat) (m : Msg), s.msg? n = some m ∧ m.st ≠ .performed ∧ m.st ≠ .held) :=
  ⟨⟨netSt sendMsg .sent, 3, _, rfl, by decide, nofun, nofun⟩,
    ⟨netSt (.stream 0 1 ⟨0, 0⟩ .ce 0 0) .sent, 3, _, rfl, by decide, _, _, _, _, _, _, rfl⟩,
    ⟨netSt sendMsg .sent, 3, _, 0, word 7, _, rfl, by decide, by decide, by decide, by decide, by decide, rfl, by decide, by decide, by decide, by decide, rfl⟩,
    ⟨(netSt (.resp (word 7)) .sent).modRegs fun r => { r with pend := [(63, 3)] }, 3, _, word 7, 63, rfl, rfl, rfl, by decide, by decide, rfl, rfl, rfl, by decide, by decide, rfl⟩,
    ⟨netSt sendMsg .performed, 3, _, rfl, rfl, by decide⟩, fun st _ => ⟨netSt sendMsg st, 3, _, rfl, rfl⟩,
    ⟨netSt (.chunk 0 chunk0) .sent, 0, _, rfl⟩, ⟨netSt sendMsg .sent, 3, _, rfl, by decide, by decide⟩⟩

/-- The last Gale port, in a state, with every port leading to wafer 2, whose identity is 9. -/
def galeSt (f : Link → Link) : State :=
  { linkSt 535 f with dev := { st.dev with cfg := { st.dev.cfg with galemap := List.replicate 32 2, peerid := [(2, 9)] } } }

theorem witness_NetworkEvents_links :
    (∃ (s : State) (n : Nat) (f : Flit), ((s.link n).buffer.take replaySize)[(s.link n).arrived]? = some f ∧
      (s.linkSt n = .up ∨ s.linkSt n = .replay) ∧ (s.link n).nack = false) ∧
    (∃ (s : State) (n k : Nat), 0 < k ∧ k ≤ (s.link n).arrived ∧ s.linkSt n = .up) ∧
    (∀ f one spare, f = 7 ∨ f = 8 → ∃ (s : State) (n : Nat), s.linkSt n = .replay ∧ (s.link n).nack = true ∧ (s.link n).fails = f ∧
      ((s.setLink { s.link n with nack := false }).link (linkBase n)).spareUsed = (spare && one)) ∧
    (∃ (s : State) (n : Nat), (s.link n).st = .spare) ∧ (∃ (s : State) (n : Nat), (s.link n).st = .retrain ∧ n < 504) ∧
    (∃ (s : State) (n : Nat), (s.link n).st = .retrain ∧ 504 ≤ n ∧ ∃ key, (s.link n).farId = some key ∧ s.identityOk (n - 504) key = true) ∧
    (∃ (s : State) (n : Nat), n < 32 ∧ (s.link (504 + n)).st ≠ .down) ∧
    (∃ (s : State) (n : Nat), n < 32 ∧ (s.link (504 + n)).st = .retrain) ∧
    (∃ (s : State) (n : Nat) (key : BitVec 256), n < 32 ∧ s.portTrains n = true ∧ (s.recentAttempts (s.link (504 + n))).length < 2 ∧
      afind s.dev.cfg.peerid (s.peerOf n) = some key) ∧
    (∃ (s : State) (n w : Nat) (l : Launch), s.launch? n = some l ∧ l.live = true ∧ l.pairing w = none ∧ w ∉ l.unpaired ∧ s.peerPresent w = true) ∧
    (∃ (s : State) (n w : Nat) (l : Launch), s.launch? n = some l ∧ (l.pairing w).isSome = true) := by
  refine ⟨⟨linkSt 0 fun l => { l with buffer := [flit0] }, 0, _, rfl, by decide, by decide⟩,
    ⟨linkSt 0 fun l => { l with buffer := [flit0], expect := 1 }, 0, 1, by decide⟩,
    fun f one spare hf => ⟨linkSt 0 fun l => { l with st := .replay, nack := true, fails := f, spareUsed := spare && one }, 0, rfl, rfl, rfl, rfl⟩,
    ⟨linkSt 0 fun l => { l with st := .spare }, 0, rfl⟩, ⟨linkSt 0 fun l => { l with st := .retrain }, 0, rfl, by decide⟩, ⟨galeSt fun l => { l with st := .retrain, farId := some 9 }, 535, rfl, by decide, 9, rfl, by decide⟩,
    ⟨linkSt 535 fun l => { l with st := .up }, 31, by decide⟩,
    ⟨linkSt 535 fun l => { l with st := .retrain }, 31, by decide⟩,
    ⟨galeSt fun l => { l with st := .down, attempts := [0] }, 31, 9, by decide⟩,
    ⟨{ lst with dev := { st.dev with cfg := { st.dev.cfg with galemap := [2] } }, fabric := (linkSt 504 fun l => { l with st := .up }).fabric }, 0, 2, launch0,
      rfl, rfl, rfl, by decide, by decide⟩,
    ⟨withLaunch st { launch0 with paired := [⟨2, [], []⟩] }, 0, 2, _, rfl, rfl⟩⟩

/-- A command with the given header, slots and parameters; core 0 with it at the head of an engine's queue; its records: granules from
TCM address 0x1000. -/
def cmdOf (hdr : Nat) (s1 s2 : GReg) (par : Nat) : Cmd := { acczCmd with hdr := BitVec.ofNat 128 hdr, slot1 := s1, slot2 := s2, par := BitVec.ofNat 128 par }
def engSt (e : Eng) (c : Cmd) : State := lst.modEng fun x => x.set e { (x.get e) with cmds := [c] }
def withGranules (s : State) (k : Nat) : List GReg → State
  | [] => s
  | g :: rest => withGranules (s.writeMem (tcmKey 0 (0x1000 + 16 * k)) (leBytes 16 g.val.toNat) (g.tag == .cap) false 0) (k + 1) rest
/-- The second granule of a tile record: a format and a row stride of 64. -/
def fmtG (f : Nat) : GReg := ⟨.data, BitVec.ofNat 128 (f + 64 * 2 ^ 32)⟩
def operands : List GReg := [tcmCap, fmtG 2, GReg.zero, GReg.zero, tcmCap, fmtG 2, GReg.zero, GReg.zero]
def transfer : List GReg :=
  [tcmCap, tcmCap, ⟨.data, BitVec.ofNat 128 (3 + 2 ^ 8 + 64 * 2 ^ 32 + 64 * 2 ^ 64)⟩, ⟨.data, BitVec.ofNat 128 (64 + 64 * 2 ^ 32)⟩, tcmCap, tcmCap,
    GReg.zero, GReg.zero]
def windowCap : GReg := ⟨.cap, capOver 63 0x080000000000 0x1000000 0x080000000000⟩
/-- Group 0 of core 0's launch is VALID. -/
def validGroup (s : State) : State := s.groupPut s.cpu 4105 1 1

/-- A command at the head of an engine's queue whose checks pass. -/
def Starts (e : Eng) (opc : Nat) (chk : State → Ctx → Cmd → State × EOut Cmd) : Prop :=
  ∃ (s u : State) (core : Nat) (c : Ctx) (cmd x : Cmd) (rest : List Cmd), s.engCtx core = some c ∧ cmd.started = false ∧ cmd.ended = none ∧
    s.beforePush c cmd = false ∧ (c.eng.get e).cmds = cmd :: rest ∧ cmd.opc = opc ∧ chk s c cmd = (u, .ok x)

theorem starts_of {e : Eng} {opc : Nat} {chk : State → Ctx → Cmd → State × EOut Cmd} (s : State) (cmd : Cmd) (h : s.engCtx 0 = some s.cpu)
    (hc : (s.cpu.eng.get e).cmds = [cmd]) (ho : cmd.opc = opc) (hs : cmd.started = false) (he : cmd.ended = none)
    (hb : s.beforePush s.cpu cmd = false)
    (hk : egood (chk s s.cpu cmd).2 = true) : Starts e opc chk :=
  have ⟨u, x, hx⟩ := egood_pair hk
  ⟨s, u, 0, s.cpu, cmd, x, [], h, hs, he, hb, hc, ho, hx⟩

theorem starts_mma : Starts .me 1 startMma :=
  starts_of (withGranules (engSt .me (cmdOf 1 tcmCap GReg.zero 0)) 0 operands) _ rfl rfl rfl rfl rfl (by decide) (by decide)

theorem starts_mmr : Starts .me 2 startMmr :=
  starts_of (withGranules ((engSt .me (cmdOf (2 + 2 ^ 67) tcmCap tcmCap 0)).modCsr fun c => { c with ringcfg := 0x8000000000000000 }) 0 operands) _
      rfl rfl rfl rfl rfl (by decide) (by decide)

theorem starts_accz : Starts .me 3 startAccz :=
  starts_of (engSt .me (cmdOf 3 GReg.zero GReg.zero 0)) _ rfl rfl rfl rfl rfl (by decide) (by decide)

theorem starts_accld : Starts .me 4 startAccld :=
  starts_of (withGranules (engSt .me (cmdOf 4 tcmCap GReg.zero 64)) 0 operands) _ rfl rfl rfl rfl rfl (by decide) (by decide)

theorem starts_accst : Starts .me 5 startAccst :=
  starts_of (withGranules (engSt .me (cmdOf 5 GReg.zero tcmCap 64)) 0 operands) _ rfl rfl rfl rfl rfl (by decide) (by decide)

theorem witness_EngineEvents_matrix : Starts .me 1 startMma ∧ Starts .me 2 startMmr ∧ Starts .me 3 startAccz ∧ Starts .me 4 startAccld ∧ Starts .me 5 startAccst :=
  ⟨starts_mma, starts_mmr, starts_accz, starts_accld, starts_accst⟩

theorem witness_EngineEvents_copy : Starts .ce 1 startCpy ∧ Starts .ce 2 startCpy2 ∧ Starts .ce 3 startDeal ∧ Starts .ce 4 startXpose :=
  ⟨starts_of (engSt .ce (cmdOf 1 tcmCap tcmCap 64)) _ rfl rfl rfl rfl rfl (by decide) (by decide),
    starts_of (engSt .ce (cmdOf 2 tcmCap tcmCap (64 + 2 ^ 32))) _ rfl rfl rfl rfl rfl (by decide) (by decide),
    starts_of (engSt .ce (cmdOf 3 tcmCap windowCap 0)) _ rfl rfl rfl rfl rfl (by decide) (by decide),
    starts_of (withGranules (engSt .ce (cmdOf 4 tcmCap GReg.zero 0)) 0 transfer) _ rfl rfl rfl rfl rfl (by decide) (by decide)⟩

theorem witness_EngineEvents_group : Starts .ca 1 startAgset ∧ Starts .ca 2 startMldred ∧ Starts .ca 3 startMstore ∧ Starts .ca 4 startAgstat :=
  ⟨starts_of (engSt .ca (cmdOf 1 tcmCap tcmCap 0)) _ rfl rfl rfl rfl rfl (by decide) (by decide),
    starts_of (validGroup (engSt .ca (cmdOf 2 tcmCap GReg.zero 0))) _ rfl rfl rfl rfl rfl (by decide) (by decide),
    starts_of (validGroup (engSt .ca (cmdOf 3 tcmCap GReg.zero 0))) _ rfl rfl rfl rfl rfl (by decide) (by decide),
    starts_of (engSt .ca (cmdOf 4 tcmCap GReg.zero 0)) _ rfl rfl rfl rfl rfl (by decide) (by decide)⟩

/-- The commands of the other clauses: one element to go, all done, and one with a write-back of step 0. -/
def goingCmd (slot : GReg) : Cmd := { cmdOf 4 slot GReg.zero 0 with started := true, total := 1 }
def backRows : Nat × List Nat := (0, List.range 14)
def backCmd : Cmd :=
  { cmdOf 2 tcmCap tcmCap 0 with
    started := true, total := 1, elem := 1, wb := [backRows], ring := 0x8000000000000000, recs := operands ++ [tcmCap, fmtG 10] }

theorem ok_going : ∃ u x, elementOf .ca 4 (engSt .ca (goingCmd tcmCap)) (engSt .ca (goingCmd tcmCap)).cpu (goingCmd tcmCap) = (u, .ok x) :=
  egood_pair (by decide)

theorem ok_back : ∀ r ∈ backCmd.rowsLeft backRows, ∃ v fl,
    (engSt .me backCmd).drawFree.2.writeBackRow 0 (engSt .me backCmd).cpu backCmd backRows.1 r = (v, .ok fl) := fun r hr =>
  egood_pair ((List.all_eq_true (p := fun r => egood ((engSt .me backCmd).drawFree.2.writeBackRow 0 (engSt .me backCmd).cpu backCmd backRows.1 r).2)).mp
    (by decide) r hr)

theorem witness_EngineEvents_elements :
    (∃ (s u : State) (core : Nat) (e : Eng) (c : Ctx) (cmd x : Cmd) (rest : List Cmd), s.engCtx core = some c ∧ (c.eng.get e).cmds = cmd :: rest ∧
      cmd.started = true ∧ cmd.over = false ∧ cmd.out = [] ∧ elementOf e cmd.opc s c cmd = (u, .ok x)) ∧
    (∃ (s u : State) (core : Nat) (e : Eng) (c : Ctx) (cmd : Cmd) (rest : List Cmd) (st info addr off : Nat), s.engCtx core = some c ∧
      (c.eng.get e).cmds = cmd :: rest ∧ cmd.started = true ∧ cmd.over = false ∧ cmd.out = [] ∧
      elementOf e cmd.opc s c cmd = (u, .stop st info addr off)) ∧
    (∃ (s : State) (core : Nat) (e : Eng) (cmd : Cmd) (rest : List Cmd), s.engCtx core = some s.cpu ∧ (s.cpu.eng.get e).cmds = cmd :: rest ∧
      cmd.over = true ∧ cmd.wb = [] ∧ cmd.out = [] ∧ s.net = []) :=
  ⟨ok_going.elim fun u ⟨x, h⟩ => ⟨engSt .ca (goingCmd tcmCap), u, 0, .ca, (engSt .ca (goingCmd tcmCap)).cpu, goingCmd tcmCap, x, [], rfl, rfl, rfl, rfl, rfl, h⟩,
    ⟨engSt .ca (goingCmd GReg.zero), _, 0, .ca, (engSt .ca (goingCmd GReg.zero)).cpu, goingCmd GReg.zero, [], _, _, _, _, rfl, rfl, rfl, rfl, rfl, rfl⟩,
    ⟨engSt .ce { goingCmd tcmCap with elem := 1 }, 0, .ce, _, [], rfl, rfl, rfl, rfl, rfl, rfl⟩⟩

theorem witness_EngineEvents_more :
    (∃ (s : State) (core : Nat) (x : Ctx) (c : Cmd) (rest : List Cmd) (w : Nat × List Nat) (wb : List (Nat × List Nat)), s.engCtx core = some x ∧
      x.eng.me.cmds = c :: rest ∧ c.wb = w :: wb ∧ c.rowsLeft w ≠ [] ∧
      ∀ r ∈ c.rowsLeft w, ∃ v fl, s.drawFree.2.writeBackRow core x c w.1 r = (v, .ok fl)) ∧
    (∃ (s : State) (core : Nat) (c : Ctx) (cmd : Cmd) (rest : List Cmd), s.engCtx core = some c ∧ c.eng.me.cmds = cmd :: rest ∧ cmd.opc = 3 ∧
      cmd.started = false ∧ cmd.ended = none ∧ cmd.rmCode = 0 ∧ cmd.sat = false ∧ cmd.accb = 0 ∧ cmd.spec = false ∧ cmd.shapeBits 47 3 = 0 ∧
      cmd.acca + cmd.accs ≤ (s.accn c).1 ∧ (s.accn c).1 ≤ 8 ∧ cmd.slot1 = GReg.zero ∧ cmd.slot2 = GReg.zero ∧ cmd.par = 0 ∧ s.beforePush c cmd = false) ∧
    (∃ (s : State) (core : Nat) (cmd : Cmd) (rest : List Cmd), s.engCtx core = some s.cpu ∧ s.cpu.eng.me.cmds = cmd :: rest ∧ cmd.opc = 3 ∧
      cmd.started = true ∧ cmd.over = false ∧ cmd.out = [] ∧ cmd.acca + cmd.elem < 8 ∧ cmd.spec = false) :=
  ⟨⟨engSt .me backCmd, 0, (engSt .me backCmd).cpu, backCmd, [], backRows, [], rfl, rfl, rfl, by decide, ok_back⟩,
    ⟨engSt .me (cmdOf (3 + 7 * 2 ^ 64) GReg.zero GReg.zero 0), 0, _, _, [], rfl, rfl, by decide⟩,
    ⟨engSt .me { cmdOf (3 + 7 * 2 ^ 64) GReg.zero GReg.zero 0 with started := true, total := 1 }, 0, _, [], rfl, rfl, by decide⟩⟩

/-- Tile 0 in a state of its own, on a device whose firmware column is the last; a snapshot. -/
def quietTile : TileSt :=
  { phys := 0, cls := 0, shared := false, buddy := 64, safe := true, st := .run, watchdog := 0, lastWatch := none, byWatch := false, since := 0,
    endDue := false, dirty := [], dets := [], detSeq := 0, detAck := 0, episode := none, owed := [], lockQ := [], committed := none, committing := none, fenced := none, chosen := none, full := false, oldStore := none, seeks := false, dueSince := none, tlb := [] }
def east (s : State) : State := { s with dev := { s.dev with cfg := { s.dev.cfg with fcol := 7 } } }
def tileSt (x : TileSt) : State := east { meshSt with tiles := [(0, x)], fabric := { meshSt.fabric with flips := [0] } }
def snap0 : Snap := { ctxs := [], bytes := [], tags := [], marks := [], channels := [], watchdog := 0, dets := [], checks := [], cores := [] }
/-- Tile 0 in CHOOSE, with no spare free on its die or an adjacent one. -/
def bareSt : State :=
  let s := tileSt { quietTile with st := .choose }
  { s with fabric := { s.fabric with retired := [4, 20, 36, 52, 68, 84, 100, 116, 516, 532, 548, 564] } }

theorem witness_RecoveryEvents :
    (∃ (s : State) (tile : Nat), (s.tile tile).st = .run ∧ (s.tile tile).committing = none ∧ s.intervalDue tile = true ∧
      s.stopWaits tile = false ∧ s.pairOpen tile = none) ∧
    (∃ (s : State) (tile d : Nat), (s.tile tile).st = .run ∧ (s.tile tile).committing = none ∧ s.intervalDue tile = true ∧
      (s.tile tile).dueSince = some d ∧ d + 10240 ≤ s.clk) ∧
    (∃ (s : State) (tile : Nat) (g : Snap), (s.tile tile).st = .run ∧ (s.tile tile).committing = some g) ∧
    (∃ (s : State) (tile : Nat), (s.tile tile).st = .run ∧ 2 ^ 24 ≤ (s.tile tile).watchdog ∧
      (∀ d, (s.tile tile).lastWatch = some d → d + 1000000000 ≤ s.dtime)) ∧
    (∃ (s : State) (tile p since : Nat), (s.tile tile).st = .run ∧ p = (s.tile tile).phys ∧ (p, since) ∈ s.fabric.hot ∧ since + 1000000 ≤ s.dtime ∧
      (∀ h ∈ s.fabric.hot, h.1 ≠ p → s.dtime < h.2 + 1000000) ∧ p ∉ s.fabric.retired) ∧
    (∃ (s : State) (tile p since : Nat), p ≠ (s.tile tile).phys ∧ (p, since) ∈ s.fabric.hot ∧ since + 1000000 ≤ s.dtime ∧
      (∀ h ∈ s.fabric.hot, h.1 ≠ p → s.dtime < h.2 + 1000000) ∧ p ∉ s.fabric.retired ∧ s.boundAt p = none ∧
      ∀ y ∈ s.tiles, ∀ c, y.2.chosen = some c → c.1 ≠ p) ∧
    (∃ (s : State) (tile : Nat), (s.tile tile).st = .fence ∧ (s.tile tile).safe = false ∧ (s.tile tile).fenced = none) ∧
    (∃ (s : State) (tile : Nat), (s.tile tile).st = .fence ∧ (s.tile tile).safe = true ∧ (s.tile tile).store ≠ (s.tile tile).phys ∧ s.rawLosses tile = [] ∧
      ∀ y ∈ s.tiles, if y.1 = tile then y.2 = s.tile tile else y.2.st.refuses = false) ∧
    (∃ (s : State) (tile : Nat) (c : Nat × Nat × Bool), (s.tile tile).st = .choose ∧ s.spareFor tile = some c) ∧
    (∃ (s : State) (tile : Nat) (c : Nat × Nat × Bool), (s.tile tile).st = .choose ∧ s.spareFor tile = none ∧ s.hostFor tile = some c) ∧
    (∃ (s : State) (tile : Nat), (s.tile tile).st = .restore) ∧
    (∃ (s : State) (tile : Nat) (c : Nat × Nat × Bool), (s.tile tile).st = .flip ∧ s.fabric.flips.head? = some tile ∧ (s.tile tile).chosen = some c) ∧
    (∃ (s : State) (tile : Nat) (g : Snap), (s.tile tile).st = .replay ∧ (s.tile tile).fenced = some g) ∧
    (∃ (s : State) (tile : Nat), (s.tile tile).st = .resume ∧ (s.tile tile).owed = [] ∧ s.mem.bad = [] ∧ s.mem.soft = [] ∧
      s.pairOpen tile = none ∧ ∀ c ∈ s.ctxs, (s.tile (c.core / 16)).phys = (s.tile tile).phys → c.run ≠ .ready) :=
  ⟨⟨tileSt { quietTile with endDue := true }, 0, rfl, rfl, by decide, by decide, by decide⟩,
    ⟨{ tileSt { quietTile with endDue := true, dueSince := some 0 } with clk := 10240 }, 0, 0, rfl, rfl, by decide, rfl, by decide⟩,
    ⟨tileSt { quietTile with committing := some snap0 }, 0, snap0, rfl, rfl⟩,
    ⟨tileSt { quietTile with watchdog := 2 ^ 24 }, 0, rfl, by decide, nofun⟩,
    ⟨{ east { st with fabric := { st.fabric with hot := [(0, 0)] } } with clk := 33 * 1000000, tiles := [(0, quietTile)] }, 0, 0, 0, rfl, rfl, by decide, by decide, by decide, by decide⟩,
    ⟨{ east { st with fabric := { st.fabric with hot := [(4, 0)] } } with clk := 33 * 1000000, tiles := [(0, quietTile)] }, 0, 4, 0, by decide, by decide,
      by decide, by decide, by decide, by decide, by decide⟩,
    ⟨tileSt { quietTile with st := .fence, safe := false }, 0, rfl, rfl, rfl⟩,
    ⟨tileSt { quietTile with st := .fence }, 0, rfl, rfl, by decide, by decide, by decide⟩, ⟨tileSt { quietTile with st := .choose }, 0, _, rfl, rfl⟩,
    ⟨bareSt, 0, _, rfl, by decide, rfl⟩, ⟨tileSt { quietTile with st := .restore }, 0, rfl⟩,
    ⟨tileSt { quietTile with st := .flip, chosen := some (4, 1, false) }, 0, _, rfl, rfl, rfl⟩,
    ⟨tileSt { quietTile with st := .replay, fenced := some snap0 }, 0, snap0, rfl, rfl⟩,
    ⟨{ tileSt { quietTile with st := .resume } with launches := [] }, 0, rfl, rfl, rfl, rfl, by decide, by decide⟩⟩

/-- The two contexts of a pair, with one record in each fingerprint. -/
def pairHalf (core : Nat) (ctl : Word) (l : Option Nat) : Ctx :=
  { lst.cpu with core := core, launch := l, csrs := { lst.cpu.csrs with pairctl := ctl }, pair := { lst.cpu.pair with count := 1 } }

theorem witness_RecoveryEvents_more :
    (∃ (s : State) (tile : Nat) (c : Nat × Nat × Bool), (s.tile tile).st = .run ∧ (s.tile tile).committing = none ∧
      (s.twoEvents (s.tile tile).phys || s.longWarm (s.tile tile).phys) = true ∧ s.responsesPending tile = false ∧
      s.stopWaits tile = false ∧ s.pairOpen tile = none ∧ s.spareFor tile = some c ∧ (s.tile tile).seeks = false ∧ s.mem.bad = [] ∧
      s.mem.soft = []) ∧
    (∃ (s : State) (tile : Nat) (g : Snap), (s.tile tile).st = .migrate ∧ (s.tile tile).committing = some g) ∧
    (∃ (s : State) (tile : Nat) (c : Nat × Nat × Bool), (s.tile tile).st = .migrate ∧ s.fabric.flips.head? = some tile ∧
      (s.tile tile).chosen = some c ∧ (s.tile tile).owed = [] ∧ s.physLost (s.tile tile).phys = false ∧ (s.tile tile).cls ≠ 3 ∧
      (s.tile tile).committed = some snap0) ∧
    (∃ s : State, (s.core s.cpu.core).rollReq = true ∧ s.asks CoreSt.haltReq = false ∧ s.live = true ∧ s.regionOpen = true ∧ s.cpu.regs.pend = []) ∧
    (∃ (s : State) (core : Nat) (a b : Ctx), s.pairCtx core = some a ∧ s.checkerOf (core / 2 * 2) = some b ∧ a.pair.count ≠ 0 ∧
      a.pair.crc = b.pair.crc ∧ a.pair.count = b.pair.count ∧ (s.tile (core / 16)).st.refuses = false) :=
  ⟨⟨east { meshSt with tiles := [(0, quietTile)], fabric := { meshSt.fabric with warm := [(0, 0)] }, clk := 33 * 100000000 }, 0, _, rfl, rfl, by decide,
      by decide, by decide, by decide, rfl, rfl, rfl, rfl⟩,
    ⟨tileSt { quietTile with st := .migrate, committing := some snap0 }, 0, snap0, rfl, rfl⟩,
    ⟨tileSt { quietTile with st := .migrate, chosen := some (4, 1, false), committed := some snap0 }, 0, (4, 1, false), rfl, rfl, rfl, rfl,
      by decide, by decide, rfl⟩,
    ⟨(lst.modCsr fun c => { c with regpc := 0x8000000000002000 }).updCore 0 fun k => { k with rollReq := true }, by decide⟩,
    ⟨{ lst with cpu := pairHalf 0 1 (some 0), others := [pairHalf 1 3 none] }, 1, pairHalf 0 1 (some 0), pairHalf 1 3 none, by decide⟩⟩

/-- A packet of 64 bytes from its opcode, nonzero bytes and CRC; queue 0 with it in slot 0 of a ring at device address 0. -/
def packet (op : Byte) (fields : List (Nat × Byte)) (crc : Nat) : List Byte :=
  (List.range 60).map (fun i => if i = 0 then op else (afind fields i).getD 0) ++ leBytes 4 crc
def queueSt (q : Queue) (bs : List Byte) : State :=
  { lst.writeMem (devKey 0) bs false false noName with front := { lst.front with queues := [(0, q)] } }
def readyQ : Queue := { Queue.reset with st := .running, widx := 1 }
def heldQ (bs : List Byte) : Queue := { readyQ with hand := some bs, copies := [⟨5, 9, 0, 0, 64⟩], kept := [⟨5, false, none, some 9⟩] }
def keptQ : Queue := { readyQ with kept := [⟨5, true, none, some 9⟩] }
def copyPkt : List Byte := packet 6 [] 0x627EAA1A
def waitPkt : List Byte := packet 2 [(8, 5)] 0x8F718667
def signalPkt : List Byte := packet 3 [(8, 64), (16, 7)] 0x6C205649

/-- The packet at RIDX is well formed, and its bytes meet a test. -/
def served (s : State) (p : State → List Byte → Bool) : Bool :=
  match s.packetAt 0 with
  | (u, 0, 0, some bs) => p u bs
  | (_, _, _, _) => false

theorem served_elim {s : State} {p : State → List Byte → Bool} (h : served s p = true) : ∃ u bs, s.packetAt 0 = (u, 0, 0, some bs) ∧ p u bs = true := by
  unfold served at h
  split at h
  · rename_i u bs e
    exact ⟨u, bs, e, h⟩
  · cases h

theorem served_wait : served (queueSt keptQ waitPkt) (fun u bs => pkt bs 0 1 == 2 && u.waitCase 0 bs == .ended) = true := by decide +kernel
theorem served_wait_held : served (queueSt { readyQ with kept := (heldQ []).kept } waitPkt) (fun u bs => pkt bs 0 1 == 2 && u.waitCase 0 bs == .wait) = true := by
  decide +kernel
theorem served_signal : served (queueSt readyQ signalPkt) (fun _ bs => pkt bs 0 1 == 3 && !bit (pkt bs 1 1) 0 && !bit (pkt bs 1 1) 1) = true := by
  decide +kernel
theorem served_copy : served (queueSt readyQ copyPkt) (fun u bs => pkt bs 0 1 == 6 && !bit (pkt bs 1 1) 0 && (u.queue 0).keptAgain (pkt bs 2 2) == none) = true := by decide +kernel
def againQ : Queue := { readyQ with again := some 9, kept := [⟨0, false, none, some 9⟩] }
theorem served_copy_again : served (queueSt againQ copyPkt) (fun u bs => pkt bs 0 1 == 6 && !bit (pkt bs 1 1) 0 && (u.queue 0).keptAgain (pkt bs 2 2) == some 9) = true := by
  decide +kernel
theorem served_ops : ∀ x ∈ [((1 : Nat), (0x2FB0A16A : Nat)), (4, 0x8909E2AC), (5, 0xFCB246F7), (7, 0x17C50E41)],
    served (queueSt readyQ (packet (BitVec.ofNat 8 x.1) [] x.2)) (fun _ bs => pkt bs 0 1 == x.1) = true := by decide +kernel
theorem witness_FrontEvents_packets :
    (∀ op ∈ [1, 4, 5, 7], ∃ (s u : State) (q : Nat) (bs : List Byte), (s.queue q).reads = true ∧ s.packetAt q = (u, 0, 0, some bs) ∧ pkt bs 0 1 = op) ∧
    (∃ (s u : State) (q : Nat) (bs : List Byte), (s.queue q).reads = true ∧ s.packetAt q = (u, 0, 0, some bs) ∧ pkt bs 0 1 = 2 ∧ u.waitCase q bs = .ended) ∧
    (∃ (s u : State) (q : Nat) (bs : List Byte), (s.queue q).reads = true ∧ s.packetAt q = (u, 0, 0, some bs) ∧ pkt bs 0 1 = 2 ∧ u.waitCase q bs = .wait) ∧
    (∃ (s u : State) (q : Nat) (bs : List Byte), (s.queue q).reads = true ∧ s.packetAt q = (u, 0, 0, some bs) ∧ pkt bs 0 1 = 3 ∧
      bit (pkt bs 1 1) 0 = false ∧ bit (pkt bs 1 1) 1 = false) ∧
    (∃ (s u : State) (q : Nat) (bs : List Byte), (s.queue q).reads = true ∧ s.packetAt q = (u, 0, 0, some bs) ∧ pkt bs 0 1 = 6 ∧
      bit (pkt bs 1 1) 0 = false ∧ (u.queue q).keptAgain (pkt bs 2 2) = none) ∧
    (∃ (s u : State) (q n : Nat) (bs : List Byte), (s.queue q).reads = true ∧ s.packetAt q = (u, 0, 0, some bs) ∧ pkt bs 0 1 = 6 ∧
      bit (pkt bs 1 1) 0 = false ∧ (u.queue q).keptAgain (pkt bs 2 2) = some n) ∧
    (∀ op ∈ [2, 3, 6], ∃ (s : State) (q : Nat) (bs : List Byte), (s.queue q).hand = some bs ∧ (s.queue q).st = .running ∧ pkt bs 0 1 = op) := by
  have ops : ∀ x ∈ [((1 : Nat), (0x2FB0A16A : Nat)), (4, 0x8909E2AC), (5, 0xFCB246F7), (7, 0x17C50E41)],
      ∃ (s u : State) (q : Nat) (bs : List Byte), (s.queue q).reads = true ∧ s.packetAt q = (u, 0, 0, some bs) ∧ pkt bs 0 1 = x.1 := fun x hx =>
    have ⟨u, bs, e, h⟩ := served_elim (served_ops x hx)
    ⟨queueSt readyQ (packet (BitVec.ofNat 8 x.1) [] x.2), u, 0, bs, rfl, e, eq_of_beq h⟩
  have again : ∀ x ∈ [((2 : Nat), waitPkt), (3, signalPkt), (6, copyPkt)],
      ∃ (s : State) (q : Nat) (bs : List Byte), (s.queue q).hand = some bs ∧ (s.queue q).st = .running ∧ pkt bs 0 1 = x.1 := fun x hx =>
    ⟨queueSt (heldQ x.2) x.2, 0, x.2, rfl, rfl, of_decide_eq_true ((List.all_eq_true (p := fun x : Nat × List Byte => decide (pkt x.2 0 1 = x.1))).mp
      (by decide) x hx)⟩
  refine ⟨?_, ?_, ?_, ?_, ?_, ?_, ?_⟩
  · simpa using ops
  · obtain ⟨u, bs, e, h⟩ := served_elim served_wait
    exact ⟨_, u, 0, bs, rfl, e, by simpa using h⟩
  · obtain ⟨u, bs, e, h⟩ := served_elim served_wait_held
    exact ⟨_, u, 0, bs, rfl, e, by simpa using h⟩
  · obtain ⟨u, bs, e, h⟩ := served_elim served_signal
    exact ⟨_, u, 0, bs, rfl, e, by simpa [and_assoc] using h⟩
  · obtain ⟨u, bs, e, h⟩ := served_elim served_copy
    exact ⟨_, u, 0, bs, rfl, e, by simpa [and_assoc] using h⟩
  · obtain ⟨u, bs, e, h⟩ := served_elim served_copy_again
    exact ⟨_, u, 0, 9, bs, rfl, e, by simpa [and_assoc] using h⟩
  · simpa using again

/-- A device that is ready, with queue 0 in a state. -/
def ctlSt (q : Queue) : State := { lst with front := { lst.front with queues := [(0, q)] }, dev := { lst.dev with state := .ready } }

theorem witness_FrontEvents :
    (∃ (s u : State) (q code off : Nat) (ob : Option (List Byte)), (s.queue q).reads = true ∧ s.packetAt q = (u, code, off, ob) ∧ code ≠ 0) ∧
    (∃ (s : State) (q n : Nat) (j : CopyJob), (s.queue q).copies[n]? = some j) ∧
    (∃ (s : State) (q : Nat) (k : BitVec 32), q < 256 ∧ s.dev.state = .ready ∧ (s.queue q).st ≠ .disabled ∧ k ≠ (s.queue q).widx ∧
      (k - (s.queue q).widx).toNat ≤ (s.queue q).size ∧ (k - (s.queue q).ridx).toNat ≤ (s.queue q).size) ∧
    (∃ (s : State) (q : Nat), q < 256 ∧ s.dev.state = .ready ∧ (s.queue q).st = .disabled ∧ (s.queue q).stale ≠ 0xFFFF) ∧
    (∃ (s : State) (q : Nat), q < 256 ∧ s.dev.state = .ready ∧ (s.queue q).st = .error) ∧
    (∃ (s : State) (h i v : Nat), 1 ≤ h ∧ h ≤ 127 ∧ i < 4 ∧ (∀ p ∈ s.launches, p.2.live = true → p.2.pkt.handle ≠ h) ∧ bits v 63 29 = 0 ∧ v % 4 = 0 ∧
      v < 2 ^ 64) ∧
    (∃ s : State, (∀ p ∈ s.front.queues, p.2.st = .running → p.2.port ≠ 0) ∧ s.dev.resync.busy = false) :=
  ⟨⟨ctlSt { readyQ with base := 0x18200000000 }, _, 0, 5, 0, none, rfl, rfl, by decide⟩, ⟨queueSt (heldQ []) [], 0, 0, _, rfl⟩,
    ⟨ctlSt { readyQ with ridx := 0xFFFFFFFF, widx := 0 }, 0, 15, by decide⟩, ⟨ctlSt Queue.reset, 255, by decide⟩,
    ⟨ctlSt { readyQ with st := .error }, 0, by decide⟩, ⟨lst, 127, 3, 0x1FFFFFFC, by decide⟩,
    ⟨ctlSt { readyQ with cfg := 0x10000000 }, by decide⟩⟩

/-- A device with a debug grant, core 0 of tile 0 halted with a debugger attached; a resync under way. -/
def dbgSt : State :=
  let s := tileSt quietTile
  { (s.modCpu fun c => { c with run := .halted }).updCore 0 (fun k => { k with attached := true }) with
    dev := { s.dev with cfg := { s.dev.cfg with debug := true }, dbg := { s.dev.dbg with reg := BitVec.ofNat 64 (8 * 63), data := 7 } } }
def resyncSt : State :=
  { st with dev := { lst.dev with state := .ready, resync := { lst.dev.resync with busy := true, len := 0xFFFFFFFF, addr := 0x8000000000000000 } } }

theorem length_leBytes (n x : Nat) : (leBytes n x).length = n := by
  induction n generalizing x with
  | zero => rfl
  | succ n ih => simp [leBytes, ih]

theorem length_flatMap_const {α β : Type} (f : α → List β) (n : Nat) (h : ∀ x, (f x).length = n) : ∀ l : List α, (l.flatMap f).length = l.length * n
  | [] => by simp
  | x :: l => by simp only [List.flatMap_cons, List.length_append, h, length_flatMap_const f n h l, List.length_cons, Nat.succ_mul]; omega

theorem length_queueSummary (q : Queue) : q.summary.length = 64 := by simp [Queue.summary, padTo, length_leBytes, zeros]

theorem length_rectSummary (s : State) (k : Nat) : (s.rectSummary k).length = 16 := by
  unfold State.rectSummary
  split <;> simp [padTo, length_leBytes, zeros]

theorem length_digest (c : CfgTable) : c.digest.length = 32 := by
  unfold CfgTable.digest shake256
  simp only [length_flatMap_const _ 8 fun _ => length_leBytes _ _, List.length_range]

theorem length_allTiles : allTiles.length = 1280 := by
  unfold allTiles
  rw [length_flatMap_const _ 20 fun d => by simp]; rfl

/-- Queues, rectangles, tiles, digest and health counters, with no launch and no record. -/
theorem length_summary (s : State) (hl : s.launches.filter (fun l => l.2.live) = []) (hr : s.logRecords = []) :
    s.summary.1.length = 64 ∧ s.summary.2.length = 64 * 256 + 16 * 63 + 2 * 1280 + 32 + 8 * 256 := by
  have hq : ∀ q, ((fun q => (s.queue q).summary) q).length = 64 := fun q => length_queueSummary (s.queue q)
  have hp : ∀ p, (s.tileSummary p).length = 2 := fun p => length_leBytes _ _
  have hh : ∀ i, ((fun i => leBytes 8 (s.health i)) i).length = 8 := fun i => length_leBytes 8 (s.health i)
  constructor
  · simp [State.summary, length_leBytes, zeros]
  · simp only [State.summary, hl, hr, List.length_append, length_flatMap_const _ 64 hq, length_flatMap_const _ 16 (length_rectSummary s),
      length_flatMap_const _ 2 hp, length_flatMap_const _ 8 hh, length_digest, length_allTiles, List.length_range, List.flatMap_nil, List.length_nil]

theorem resync_length : resyncSt.summary.1.length = 64 ∧ resyncSt.summary.2.length = 64 * 256 + 16 * 63 + 2 * 1280 + 32 + 8 * 256 :=
  length_summary resyncSt rfl (by decide)

theorem resync_room : 64 + resyncSt.summary.2.length ≤ 0xFFFFFFFF := by rw [resync_length.2]; decide
theorem resync_span : resyncSt.qSpan 0 0x8000000000000000 (resyncSt.summary.1 ++ resyncSt.summary.2).length = true := by
  rw [List.length_append, resync_length.1, resync_length.2]; decide

theorem witness_DeviceEvents :
    (∃ v : Nat, v % 64 = 0 ∧ v < 2 ^ 64) ∧ (∃ v : Nat, v < 2 ^ 16) ∧ (∃ v : Nat, bits v 63 16 ≠ 0) ∧
    (∃ s : State, s.dev.state = .fail) ∧ (∃ (s : State) (a : Nat) (bs : List Byte), s.dev.state ≠ .fail ∧ bar2Refused a bs.length = false ∧ ∀ i, i < bs.length → s.framePinned (a + i) = false) ∧
    (∃ (s : State) (a : Nat) (bs : List Byte), s.dev.state ≠ .fail ∧ bar2Refused a bs.length = true) ∧
    (∀ n : Nat, n < 2 → (∃ s : State, s.hostUp n = false) ∧ ∃ s : State, s.dev.state ≠ .fail ∧ s.hostUp n = true ∧ bar2Refused (devEnd - 3) 4 = true) ∧
    (∃ (s : State) (port a n : Nat), s.dev.state ≠ .fail ∧ s.hostUp port = true ∧ bar2Refused a n = false ∧ s.mem.bad = [] ∧ s.mem.soft = [] ∧ s.mem.badCheck = []) ∧
    (∃ s : State, s.dev.resync.busy = false) ∧
    (∃ s : State, s.dev.resync.busy = true ∧ s.dev.state = .ready ∧ 64 + s.summary.2.length ≤ s.dev.resync.len.toNat ∧
      s.qSpan 0 s.dev.resync.addr (s.summary.1 ++ s.summary.2).length = true) ∧
    (∃ s : State, s.dev.cfg.debug = false) ∧ (∃ s : State, s.dev.store = []) :=
  ⟨⟨2 ^ 64 - 64, by decide⟩, ⟨0xFFFF, by decide⟩, ⟨2 ^ 16, by decide⟩, ⟨{ lst with dev := { lst.dev with state := .fail } }, rfl⟩,
    ⟨lst, sramBase - 4, [1, 2, 3, 4], by decide, by decide, fun _ _ => rfl⟩,
    ⟨lst, devEnd - 3, [1, 2, 3, 4], by decide, by decide⟩, 
    fun n hn => have h : n = 0 ∨ n = 1 := by omega
      ⟨⟨{ lst with fabric := { lst.fabric with hostUp0 := false, hostUp1 := false } }, by rcases h with rfl | rfl <;> decide⟩,
        { lst with fabric := { lst.fabric with hostUp0 := true, hostUp1 := true } }, by decide, by rcases h with rfl | rfl <;> decide, by decide⟩,
    ⟨lst, 0, sramBase - 8, 8, by decide, by decide, by decide, rfl, rfl, rfl⟩, ⟨lst, rfl⟩, ⟨resyncSt, rfl, rfl, resync_room, resync_span⟩,
    ⟨lst, rfl⟩, ⟨{ lst with dev := { lst.dev with store := [] } }, rfl⟩⟩

theorem witness_DeviceEvents_debug :
    (∃ (s : State) (core : Nat), s.dev.cfg.debug = true ∧ s.dbgCore s.dev.dbg.sel = some core ∧ (s.tile (core / 16)).st = .run ∧
      s.dev.dbg.waiting = [] ∧ s.attachedAt core = false) ∧
    (∃ (s : State) (core : Nat), s.dev.cfg.debug = true ∧ s.dbgCore s.dev.dbg.sel = some core ∧ (s.tile (core / 16)).st = .run ∧
      s.dev.dbg.waiting = [] ∧ s.attachedAt core = true ∧ s.together core = [core]) ∧
    (∃ (s : State) (core : Nat) (c : Ctx) (n v : Nat), s.dev.cfg.debug = true ∧ s.dbgCore s.dev.dbg.sel = some core ∧ (s.tile (core / 16)).st = .run ∧
      s.dev.dbg.waiting = [] ∧ s.haltedOn core = true ∧ s.haltedCtx core = some c ∧ c = s.cpu ∧ s.cpu.core = core ∧ s.cpu.run = .halted ∧ n < 64 ∧ n ≠ 0 ∧ s.cpu.level = .app ∧
      s.dev.dbg.reg = BitVec.ofNat 64 (8 * n) ∧ s.dev.dbg.tag = 0 ∧ s.dev.dbg.data.toNat = v ∧ v < 2 ^ 64) ∧
    (∃ (s : State) (role : Nat), (∃ r ∈ s.dev.roles, r.1 = role) ∧ ∀ r ∈ s.dev.roles, s.dev.roles.filter (fun x => !(x.2 == r.2)) ≠ []) ∧
    (∃ (s : State) (role : Nat), (∃ r ∈ s.dev.roles, r.1 = role) ∧ ∀ r ∈ s.dev.roles, s.dev.roles.filter (fun x => !(x.2 == r.2)) = []) :=
  ⟨⟨dbgSt.updCore 0 fun k => { k with attached := false }, 0, by decide⟩, ⟨dbgSt, 0, by decide⟩,
    ⟨dbgSt, 0, dbgSt.cpu, 63, 7, rfl, by decide, rfl, rfl, by decide, rfl, rfl, rfl, rfl, by decide, by decide, by decide, rfl, rfl, by decide, by decide⟩,
    ⟨{ lst with dev := { lst.dev with roles := [(3, 4, 0), (5, 4, 1)] } }, 3, by decide⟩,
    ⟨{ lst with dev := { lst.dev with roles := [(3, 4, 0), (5, 4, 0)] } }, 5, by decide⟩⟩

/-- R35's row for an infinity with sat = 1: the largest finite FP32, as MSTORE and ACCST write it. -/
theorem test_infinity_saturates : (convert (.flt .fp32) (.flt .fp32) .rne true 0 0x7F800000).code = 0x7F7FFFFF := by decide

/-! ### Boot -/

/-- A device whose boot store holds four images, the last a lost-tile record; whether they are signed; its state as power comes up, with their tables in force. -/
def bootImages (fcol : Nat) (ls : List Word) (lost : List Nat) (signed : Bool) : List BootImage :=
  [⟨.firmware, 1, 0, signed⟩, ⟨.config ⟨fcol, 2, [], [], [], [], false⟩, 1, 0, signed⟩, ⟨.links ls, 1, 0, signed⟩, ⟨.lost lost, 1, 0, signed⟩]
def bootSt (is : List BootImage) : State := { st with dev := { st.dev with store := is } }
def bootOf (is : List BootImage) : State :=
  let s := (bootSt is).powerCycle
  { s with dev := { s.dev with cfg := loadTables is [] } }

/-- What the clauses on a boot have in common: the four images in the store, in their kinds. -/
def Booting (s : State) (a b c d : BootImage) (k : ConfigTable) (ls : List Word) : Prop :=
  findImage s.dev.store .firmware = some a ∧ findImage s.dev.store .config = some b ∧ findImage s.dev.store .links = some c ∧
    findImage s.dev.store .lost = some d ∧ b.table = .config k ∧ c.table = .links ls

theorem growRows_keeps (s : State) (bs : List (Nat × Nat)) (rects : List Rect) (row col : Nat) :
    ∀ (n h w : Nat) (best : Option Rect), best.isSome = true → (s.growRows bs rects row col n h w best).isSome = true
  | 0, _, _, _, hb => hb
  | n + 1, h, w, best, hb => by
    unfold State.growRows
    dsimp only
    split
    · exact hb
    · apply growRows_keeps
      cases best with
      | none => cases hb
      | some b => dsimp only; split <;> rfl

theorem runWidth_le (s : State) (bs : List (Nat × Nat)) (rects : List Rect) (row : Nat) (top : Bool) :
    ∀ n col w, w ≤ s.runWidth bs rects row top n col w
  | 0, _, _ => Nat.le_refl _
  | n + 1, col, w => by
    unfold State.runWidth
    split
    · exact Nat.le_trans (Nat.le_succ _) (runWidth_le s bs rects row top n _ _)
    · exact Nat.le_refl _

/-- With the first position left over, there is a rectangle. -/
theorem largestRect_some (s : State) (bs : List (Nat × Nat)) (h : s.leftOver bs [] 0 0 = true) : (s.largestRect bs []).isSome = true := by
  have grows : (s.growRows bs [] 0 0 32 0 32 none).isSome = true := by
    have w : s.runWidth bs [] 0 true 32 0 0 ≠ 0 := by
      have := runWidth_le s bs [] 0 true 31 1 1
      unfold State.runWidth
      simp only [h]
      exact fun e => by simp at e; omega
    unfold State.growRows
    simp only [Nat.zero_add, beq_self_eq_true, w, if_false, if_true]
    exact growRows_keeps s bs [] 0 0 31 1 _ _ rfl
  unfold State.largestRect
  have go : ∀ (l : List Nat) (best : Option Rect), (best.isSome = true ∨ 0 ∈ l) → (l.foldl (fun best i =>
      let row := i / 32; let col := i % 32
      let bound := (32 - row) * (32 - col)
      match best with
      | some b => if bound ≤ b.rows * b.cols then best else s.growRows bs [] row col (32 - row) 0 (32 - col) best
      | none => s.growRows bs [] row col (32 - row) 0 (32 - col) none) best).isSome = true := by
    intro l
    induction l with
    | nil => intro best h; simpa using h
    | cons i l ih =>
      intro best hb
      apply ih
      cases best with
      | some b => left; dsimp only; split; rfl; exact growRows_keeps _ _ _ _ _ _ _ _ _ rfl
      | none =>
        rcases hb with hb | hb
        · cases hb
        · rcases List.mem_cons.mp hb with rfl | hb
          · left; exact grows
          · right; exact hb
  exact go (List.range 1024) none (Or.inr (List.mem_range.mpr (by decide)))

theorem numberRects_ne (s : State) (bs : List (Nat × Nat)) : ∀ n rects, rects ≠ [] → s.numberRects bs n rects ≠ []
  | 0, _, h => h
  | n + 1, rects, h => by
    rw [State.numberRects]
    cases s.largestRect bs rects with
    | some r => exact numberRects_ne s bs n _ (by simp)
    | none => exact h

theorem numberRects_some (s : State) (bs : List (Nat × Nat)) (h : s.leftOver bs [] 0 0 = true) : s.numberRects bs 63 [] ≠ [] := by
  obtain ⟨r, e⟩ := Option.isSome_iff_exists.mp (largestRect_some s bs h)
  rw [State.numberRects, e]
  exact numberRects_ne s bs 62 _ (by simp)

theorem mem_nadd (x : Nat) : ∀ (l : List Nat) (a : Nat), x ∈ nadd l a ↔ x = a ∨ x ∈ l
  | [], a => by simp [nadd]
  | k :: m, a => by
    unfold nadd
    split
    · simp
    · split
      · rename_i e; simp [e]
      · simp only [List.mem_cons, mem_nadd x m a]; exact ⟨fun h => h.elim (fun h => .inr (.inl h)) (fun h => h.elim .inl fun h => .inr (.inr h)),
          fun h => h.elim (fun h => .inr (.inl h)) fun h => h.elim .inl fun h => .inr (.inr h)⟩

theorem mem_naddAll (x : Nat) : ∀ (l acc : List Nat), (x ∈ l ∨ x ∈ acc) → x ∈ l.foldl nadd acc
  | [], acc, h => by simpa using h
  | a :: l, acc, h => mem_naddAll x l _ (by
      rcases h with h | h
      · rcases List.mem_cons.mp h with rfl | h
        · exact .inr ((mem_nadd x acc x).mpr (.inl rfl))
        · exact .inl h
      · exact .inr ((mem_nadd x acc a).mpr (.inr h)))

/-- Every tile of the record is lost. -/
def allLost : List BootImage := bootImages 7 [] (List.range 4096) true

theorem allLost_lost (p : Nat) (h : p < 4096) : (bootOf allLost).recordedLost p = true := by
  show List.elem p ((List.range 4096).foldl nadd []) = true
  exact List.elem_eq_true_of_mem (mem_naddAll p _ _ (.inl (List.mem_range.mpr h)))

theorem allLost_bindings : (bootOf allLost).bindings = [] := by
  unfold State.bindings
  refine List.flatMap_eq_nil_iff.mpr fun die hd => ?_
  have hd := List.mem_range.mp hd
  have free : ∀ acc : List (Nat × Nat), ((spareTiles die).filter fun q => !(bootOf allLost).recordedLost q && !(bootOf allLost).firmwareTile q &&
      !(acc.any fun b => b.2 == q)) = [] := fun acc => List.filter_eq_nil_iff.mpr fun q hq => by
    obtain ⟨r, hr, rfl⟩ := List.mem_map.mp hq
    have := List.mem_range.mp hr
    simp [allLost_lost (die / 8 * 512 + die % 8 * 64 + r * 16 + 4) (by omega)]
  unfold State.bindDie
  have go : ∀ l : List Nat, l.foldl (fun (acc : List (Nat × Nat)) i =>
      let p := die / 8 * 512 + die % 8 * 64 + i / 4 * 16 + i % 4
      if !(bootOf allLost).recordedLost p then acc
      else
        let free := (spareTiles die).filter fun q =>
          !(bootOf allLost).recordedLost q && !(bootOf allLost).firmwareTile q && !(acc.any fun b => b.2 == q)
        match leastBy (fun q => (bootOf allLost).hops p q * 4096 + q) free with
        | some q => acc ++ [(p, q)]
        | none => acc) [] = [] := by
    intro l
    induction l with
    | nil => rfl
    | cons i l ih =>
      rw [List.foldl_cons]
      dsimp only
      rw [free []]
      simp only [leastBy, ite_self]
      exact ih
  exact go _

theorem allLost_rects : (bootOf allLost).numberRects (bootOf allLost).bindings 63 [] = [] := by
  rw [allLost_bindings]
  have left : ∀ row col, (bootOf allLost).leftOver [] [] row col = false := fun row col => by
    unfold State.leftOver
    by_cases h : row < 32 ∧ col < 32
    · have : (bootOf allLost).recordedLost (physAt row col) = true := allLost_lost _ (by unfold physAt; omega)
      simp [State.serves, this]
    · simp [h]
  have width : ∀ row top n col, (bootOf allLost).runWidth [] [] row top n col 0 = 0 := fun row top n col => by
    cases n with
    | zero => rfl
    | succ n => unfold State.runWidth; simp [left]
  have grow : ∀ row col n h w, (bootOf allLost).growRows [] [] row col n h w none = none := fun row col n h w => by
    cases n with
    | zero => rfl
    | succ n => unfold State.growRows; simp [width]
  have none_ : (bootOf allLost).largestRect [] [] = none := by
    unfold State.largestRect
    generalize List.range 1024 = l
    induction l with
    | nil => rfl
    | cons i l ih => rw [List.foldl_cons]; dsimp only; rw [grow]; exact ih
  rw [State.numberRects, none_]
  rfl

/-- Each ending of a boot: an image unsigned; a field or a link entry out of range; no rectangle; a die without firmware tiles; READY. -/
theorem witness_DeviceEvents_boot :
    (∃ (s : State) (a b c d : BootImage) (k : ConfigTable) (ls : List Word), Booting s a b c d k ls ∧ verifyAll s.dev.floors [a, b, c, d] ≠ 0) ∧
    (∃ (s : State) (a b c d : BootImage) (k : ConfigTable) (ls : List Word), Booting s a b c d k ls ∧ verifyAll s.dev.floors [a, b, c, d] = 0 ∧
      configOk k = false) ∧
    (∃ (s : State) (a b c d : BootImage) (k : ConfigTable) (ls : List Word), Booting s a b c d k ls ∧ verifyAll s.dev.floors [a, b, c, d] = 0 ∧
      linkTableOk ls = false) ∧
    (∃ (s : State) (a b c d : BootImage) (k : ConfigTable) (ls : List Word), Booting s a b c d k ls ∧ verifyAll s.dev.floors [a, b, c, d] = 0 ∧
      configOk k = true ∧ linkTableOk ls = true ∧
      let u : State := { s.powerCycle with dev := { s.powerCycle.dev with cfg := loadTables [a, b, c, d] s.fabric.lost } }
      u.numberRects u.bindings 63 [] = []) ∧
    (∃ (s : State) (a b c d : BootImage) (k : ConfigTable) (ls : List Word), Booting s a b c d k ls ∧ verifyAll s.dev.floors [a, b, c, d] = 0 ∧
      configOk k = true ∧ linkTableOk ls = true ∧
      let u : State := { s.powerCycle with dev := { s.powerCycle.dev with cfg := loadTables [a, b, c, d] s.fabric.lost } }
      u.numberRects u.bindings 63 [] ≠ [] ∧ u.placeFirmware = none) ∧
    (∃ (s : State) (a b c d : BootImage) (k : ConfigTable) (ls : List Word), Booting s a b c d k ls ∧ verifyAll s.dev.floors [a, b, c, d] = 0 ∧
      configOk k = true ∧ linkTableOk ls = true ∧
      let u : State := { s.powerCycle with dev := { s.powerCycle.dev with cfg := loadTables [a, b, c, d] s.fabric.lost } }
      u.numberRects u.bindings 63 [] ≠ [] ∧ ∃ roles, u.placeFirmware = some roles) :=
  ⟨⟨bootSt (bootImages 7 [] [] false), _, _, _, _, _, _, ⟨rfl, rfl, rfl, rfl, rfl, rfl⟩, by decide⟩,
    ⟨bootSt (bootImages 8 [] [] true), _, _, _, _, _, _, ⟨rfl, rfl, rfl, rfl, rfl, rfl⟩, by decide, by decide⟩,
    ⟨bootSt (bootImages 7 [0] [] true), _, _, _, _, _, _, ⟨rfl, rfl, rfl, rfl, rfl, rfl⟩, by decide, by decide⟩,
    ⟨bootSt allLost, _, _, _, _, _, _, ⟨rfl, rfl, rfl, rfl, rfl, rfl⟩, by decide, by decide, rfl, allLost_rects⟩,
    ⟨bootSt (bootImages 7 [] [452, 468, 484, 500] true), _, _, _, _, _, _, ⟨rfl, rfl, rfl, rfl, rfl, rfl⟩, by decide, by decide, rfl,
      numberRects_some (bootOf (bootImages 7 [] [452, 468, 484, 500] true)) _ (by decide), by decide⟩,
    ⟨bootSt (bootImages 7 [] [] true), _, _, _, _, _, _, ⟨rfl, rfl, rfl, rfl, rfl, rfl⟩, by decide, by decide, rfl,
      numberRects_some (bootOf (bootImages 7 [] [] true)) _ (by decide), Option.isSome_iff_exists.mp (by decide)⟩⟩

end Sys2Proof.Tests
end

section
/-! SUPPORT. No step stops the machine: every meaning of an instruction, and every step that an agent may take, answers a next
state (R3, R51, R102, R137). -/

namespace Sys2Proof.Machine

/-! ## The operations that instructions share -/

theorem State.finishStore_next (s : State) (g : GReg) (a ea size : Nat) (o : Out State) : ∃ t, s.finishStore g a ea size o = .next t := by
  cases o <;> exact ⟨_, rfl⟩

theorem State.waitFor_next (s : State) (busy : Bool) (o : Out State) : ∃ t, s.waitFor busy o = .next t := by
  cases busy
  · exact s.finish_next o
  · exact ⟨_, rfl⟩

theorem State.atom_next (s : State) (op d a b : Nat) (w : AWidth) (sc : Scope) (o : Ord) : ∃ t, s.atom op d a b w sc o = .next t := by
  fun_cases State.atom s op d a b w sc o <;> exact ⟨_, rfl⟩

theorem State.vmem_next (s : State) (p : Nat) (t : VType) (fs : List Nat) (ea : Nat → Nat) (lane : Nat → State → State × Out Unit) :
    ∃ u, s.vmem p t fs ea lane = .next u := by
  fun_cases State.vmem s p t fs ea lane <;> exact ⟨_, rfl⟩

theorem State.vmemWith_next {α : Type} (s : State) (o : Out α) {f : α → Res} (h : ∀ x, ∃ t, f x = .next t) :
    ∃ t, s.vmemWith o f = .next t := by
  cases o with
  | ok x => exact h x
  | trap t => exact ⟨_, rfl⟩
  | wait => exact ⟨_, rfl⟩

theorem State.startCmd_next (s : State) (core : Nat) (e : Eng) (opc : Nat) (chk : State → Ctx → Cmd → State × EOut Cmd) :
    ∃ t, s.startCmd core e opc chk = .next t := by
  fun_cases State.startCmd s core e opc chk <;> exact ⟨_, rfl⟩

theorem State.runElement_next (s : State) (core : Nat) (e : Eng) (f : State → Ctx → Cmd → State × EOut Cmd) :
    ∃ t, s.runElement core e f = .next t := by
  fun_cases State.runElement s core e f <;> exact ⟨_, rfl⟩

theorem State.serve_next (s : State) (q op : Nat) (f : State → List Byte → State) : ∃ t, s.serve q op f = .next t := by
  fun_cases State.serve s q op f <;> exact ⟨_, rfl⟩

/-! ## Instructions that end in one of these, or in another's meaning -/

theorem execStl_next (d a : Nat) (sc : Scope) (s : State) : ∃ t, execStl d a sc s = .next t := by
  fun_cases execStl d a sc s
  · exact s.finishStore_next _ _ _ _ _
  · exact s.waitFor_next _ _

theorem execStul_next (d a : Nat) (s : State) : ∃ t, execStul d a s = .next t := by
  fun_cases execStul d a s
  case case4 => exact s.finish_next _
  all_goals exact ⟨_, rfl⟩

theorem execEngineElement_next (core : Nat) (e : Eng) (s : State) : ∃ t, execEngineElement core e s = .next t := by
  obtain ⟨t, ht⟩ := (if e = .me then s.flushChunks core else s).runElement_next core e fun s x c => elementOf e c.opc s x c
  exact ⟨if e = .me then t.bufferNext core else t, by rw [execEngineElement, ht]⟩

theorem execPairExchange_next (core : Nat) (s : State) : ∃ t, execPairExchange core s = .next t := by
  fun_cases execPairExchange core s <;> exact ⟨_, rfl⟩

theorem execIntervalEnd_next (tile : Nat) (s : State) : ∃ t, execIntervalEnd tile s = .next t := by
  fun_cases execIntervalEnd tile s
  · exact execPairExchange_next _ s
  all_goals exact ⟨_, rfl⟩

theorem execPlannedMigration_next (tile : Nat) (s : State) : ∃ t, execPlannedMigration tile s = .next t := by
  fun_cases execPlannedMigration tile s
  case case3 => exact execPairExchange_next _ s
  all_goals exact ⟨_, rfl⟩

/-! ## Every instruction -/

/-- A step that answers a next state wherever it is taken. -/
def Answers (f : State → Res) : Prop := ∀ s, ∃ t, f s = .next t

/-- Every instruction's meaning answers a next state: it finishes through a shared operation, it is another's meaning, or each of its
own branches is a next state. -/
theorem exec_answers (i : Instr) : Answers (exec i) := by
  intro s
  cases i with dsimp only [exec]
  | add | sub | and | or | xor | andn | shl | shr | sar | rol | slt | sltn | min | max | minn | maxn | mul | mulh | mulhn | div | divn |
  rem | remn | clz | ctz | popc | bswap | addw | subw | mulw | seq | sne | addi | andi | ori | xori | shli | shri | sari | roli | slti |
  sltni | cinc | cbnd | cbndx | cperm | cgeta | cgetb | cgetl | cgetp | cseta | csub | cinci | spawn | range | take | trig | untrig |
  chunk | put | puti | get | send | sendh | uien | domset | tname | tnbr | tdist | chkp | ckpt | rngsnap | rng | push | pushTry |
  specommit | specdrop | csrr | csrw | csrs | csrc | tlbinv | vadd | vsub | vmul | vmin | vmax | vabs | vneg | vand | vor | vxor | vshl
  | vshr | vsar | vmulh | vadds | vsubs | vfma | vfms | vfnma | vfnms | vdiv | vsqrt | vexp2 | vlog2 | vrcp | vrsq | vceq | vcne | vclt
  | vcle | vcgt | vcge | vcun | vcvt | vshuf | vrot | vbcast | vxlane | vcompress | vexpand | vrsum | vrmax | vrmin | vrsumo | vmovgv |
  vmovvg | vsplat | vqbind | vpset =>
    exact s.finish_next _
  | beq | bne | blt | bge | bltn | bgen | beqz | bnez | bltz | bgez | bgtz | blez | j | jal | jr | jalr | ihret =>
    exact s.finishJump_next _
  | aadd | aand | aor | axor | amin | amax | aminn | amaxn | aswap | acas | afadd => exact s.atom_next _ _ _ _ _ _ _
  | fence | fencea | fencel => exact s.waitFor_next _ _
  | st => exact s.finishStore_next _ _ _ _ _
  | vld d a p t => unfold execVld; exact s.vmem_next _ _ _ _ _
  | vst d a p t => unfold execVst; exact s.vmem_next _ _ _ _ _
  | vlds | vsts | vgather | vscatter => exact s.vmemWith_next _ fun _ => s.vmem_next _ _ _ _ _
  | mma | mmr | accz | accld | accst | cpy | cpy2 | deal | xpose | agset | mldred | mstore | agstat =>
    exact s.startCmd_next _ _ _ _
  | launch | waitpkt | signal | pin | unpin | copy | nop => exact s.serve_next _ _ _
  | lui | cpc | ctag | ctest | cclr | fadd | fsub | fmul | fdiv | fma | fsqrt | fmin | fmax | fcmp | fcvt | fclass | deqn | inboxn |
  eprog | ecancel | vqdrop | vpand | vpor | vpxor | vpnot | vpcnt | vpfirst | split | ecall | trap | timerInterrupt | responseArrival |
  qkick | enable | disable | qctlResume | skip | clrstale | partitionTableWrite | registerWrite | resyncRequest | attach | detach |
  dbgHalt | dbgResume | dbgRead | dbgWrite | i3cReadDevstat | bootStoreWrite | bypass | idcode | samplePreload | extest |
  illegalInstruction | writeAcknowledgement =>
    exact ⟨_, rfl⟩
  | stl d a src => exact execStl_next d a src s
  | stul d a => exact execStul_next d a s
  | engineElement core e => exact execEngineElement_next core e s
  | pairExchange core => exact execPairExchange_next core s
  | intervalEnd tile => exact execIntervalEnd_next tile s
  | plannedMigration tile => exact execPlannedMigration_next tile s
  | ld d a w imm => fun_cases execLd d a w imm s <;> exact ⟨_, rfl⟩
  | lds d a w imm => fun_cases execLds d a w imm s <;> exact ⟨_, rfl⟩
  | lda d a src => fun_cases execLda d a src s <;> exact ⟨_, rfl⟩
  | ldlk d a => fun_cases execLdlk d a s <;> exact ⟨_, rfl⟩
  | ldv d a b => fun_cases execLdv d a b s <;> exact ⟨_, rfl⟩
  | stv d a b => fun_cases execStv d a b s <;> exact ⟨_, rfl⟩
  | verq d a => fun_cases execVerq d a s <;> exact ⟨_, rfl⟩
  | reclaim a b => fun_cases execReclaim a b s <;> exact ⟨_, rfl⟩
  | rep c n x y z => fun_cases execRep c n x y z s <;> exact ⟨_, rfl⟩
  | done => fun_cases execDone s <;> exact ⟨_, rfl⟩
  | yield => fun_cases execYield s <;> exact ⟨_, rfl⟩
  | recv d a => fun_cases execRecv d a s <;> exact ⟨_, rfl⟩
  | bar => fun_cases execBar s <;> exact ⟨_, rfl⟩
  | bara => fun_cases execBara s <;> exact ⟨_, rfl⟩
  | barw => fun_cases execBarw s <;> exact ⟨_, rfl⟩
  | gang a => fun_cases execGang a s <;> exact ⟨_, rfl⟩
  | pair d => fun_cases execPair d s <;> exact ⟨_, rfl⟩
  | unpair => fun_cases execUnpair s <;> exact ⟨_, rfl⟩
  | region => fun_cases execRegion s; exact ⟨_, rfl⟩
  | rngrest a => fun_cases execRngrest a s <;> exact ⟨_, rfl⟩
  | succhint => fun_cases execSucchint s <;> exact ⟨_, rfl⟩
  | waitpred d => fun_cases execWaitpred d s <;> exact ⟨_, rfl⟩
  | publish => fun_cases execPublish s <;> exact ⟨_, rfl⟩
  | ebreak c => fun_cases execEbreak c s <;> exact ⟨_, rfl⟩
  | eret => fun_cases execEret s <;> exact ⟨_, rfl⟩
  | wfi => fun_cases execWfi s <;> exact ⟨_, rfl⟩
  | halt => fun_cases execHalt s <;> exact ⟨_, rfl⟩
  | uiEntry => fun_cases execUiEntry s <;> exact ⟨_, rfl⟩
  | lockLoss core => fun_cases execLockLoss core s <;> exact ⟨_, rfl⟩
  | latchChunkArrival core => fun_cases execLatchChunkArrival core s <;> exact ⟨_, rfl⟩
  | mmrWriteBack core => fun_cases execMmrWriteBack core s <;> exact ⟨_, rfl⟩
  | streamEntryArrival n => fun_cases execStreamEntryArrival n s <;> exact ⟨_, rfl⟩
  | completionMessage core e => fun_cases execCompletionMessage core e s <;> exact ⟨_, rfl⟩
  | messageArrival n => fun_cases execMessageArrival n s <;> exact ⟨_, rfl⟩
  | firingPush core launch n => fun_cases execFiringPush core launch n s <;> exact ⟨_, rfl⟩
  | stealProbe thief victim launch => fun_cases execStealProbe thief victim launch s <;> exact ⟨_, rfl⟩
  | stealGrant core launch => fun_cases execStealGrant core launch s <;> exact ⟨_, rfl⟩
  | dieAgentSteal launch die => fun_cases execDieAgentSteal launch die s <;> exact ⟨_, rfl⟩
  | sharePush launch n => fun_cases execSharePush launch n s <;> exact ⟨_, rfl⟩
  | barrierArrival launch tile => fun_cases execBarrierArrival launch tile s <;> exact ⟨_, rfl⟩
  | barrierRelease core launch => fun_cases execBarrierRelease core launch s <;> exact ⟨_, rfl⟩
  | lullWave launch => fun_cases execLullWave launch s <;> exact ⟨_, rfl⟩
  | contextWake core launch => fun_cases execContextWake core launch s <;> exact ⟨_, rfl⟩
  | contextSwitch core => fun_cases execContextSwitch core s <;> exact ⟨_, rfl⟩
  | preemptInterrupt => fun_cases execPreemptInterrupt s <;> exact ⟨_, rfl⟩
  | deadlineMiss launch => fun_cases execDeadlineMiss launch s <;> exact ⟨_, rfl⟩
  | budgetExhausted core => fun_cases execBudgetExhausted core s <;> exact ⟨_, rfl⟩
  | reserveRefill => fun_cases execReserveRefill s <;> exact ⟨_, rfl⟩
  | rollback => fun_cases execRollback s <;> exact ⟨_, rfl⟩
  | watchdogFire tile => fun_cases execWatchdogFire tile s <;> exact ⟨_, rfl⟩
  | snapshotTimeout tile => fun_cases execSnapshotTimeout tile s <;> exact ⟨_, rfl⟩
  | checkpointCommit tile => fun_cases execCheckpointCommit tile s <;> exact ⟨_, rfl⟩
  | refusedMessageResend n => fun_cases execRefusedMessageResend n s <;> exact ⟨_, rfl⟩
  | lehrFence tile => fun_cases execLehrFence tile s <;> exact ⟨_, rfl⟩
  | lehrChoose tile => fun_cases execLehrChoose tile s <;> exact ⟨_, rfl⟩
  | lehrRestore tile => fun_cases execLehrRestore tile s <;> exact ⟨_, rfl⟩
  | rebindingFlip tile => fun_cases execRebindingFlip tile s <;> exact ⟨_, rfl⟩
  | lehrReplay tile => fun_cases execLehrReplay tile s <;> exact ⟨_, rfl⟩
  | lehrResume tile => fun_cases execLehrResume tile s <;> exact ⟨_, rfl⟩
  | flitArrival link good => fun_cases execFlitArrival link good s <;> exact ⟨_, rfl⟩
  | flitAcknowledgement link n => fun_cases execFlitAcknowledgement link n s <;> exact ⟨_, rfl⟩
  | negativeAcknowledgement link oneLane => fun_cases execNegativeAcknowledgement link oneLane s <;> exact ⟨_, rfl⟩
  | laneSparingDone link => fun_cases execLaneSparingDone link s <;> exact ⟨_, rfl⟩
  | linkTrained link lanes => fun_cases execLinkTrained link lanes s <;> exact ⟨_, rfl⟩
  | trainingTimeout link => fun_cases execTrainingTimeout link s <;> exact ⟨_, rfl⟩
  | lossOfSignal port => fun_cases execLossOfSignal port s <;> exact ⟨_, rfl⟩
  | meshFlitArrival f q => fun_cases execMeshFlitArrival f q s <;> exact ⟨_, rfl⟩
  | galePortTrained port identity => fun_cases execGalePortTrained port identity s <;> exact ⟨_, rfl⟩
  | hostPortDown port => fun_cases execHostPortDown port s <;> exact ⟨_, rfl⟩
  | packetWaitEnd q => fun_cases execPacketWaitEnd q s <;> exact ⟨_, rfl⟩
  | copyDone q n => fun_cases execCopyDone q n s <;> exact ⟨_, rfl⟩
  | bar2Write addr data => fun_cases execBar2Write addr data s <;> exact ⟨_, rfl⟩
  | bar2Read addr n => fun_cases execBar2Read addr n s <;> exact ⟨_, rfl⟩
  | resyncComplete => fun_cases execResyncComplete s <;> exact ⟨_, rfl⟩
  | i3cReadPower => fun_cases execI3cReadPower s; exact ⟨_, rfl⟩
  | attestationReport nonce => fun_cases execAttestationReport nonce s; exact ⟨_, rfl⟩
  | versionFloorRaise kind floor signature => fun_cases execVersionFloorRaise kind floor signature s <;> exact ⟨_, rfl⟩
  | debugWindowAccess off write => fun_cases execDebugWindowAccess off write s <;> exact ⟨_, rfl⟩
  | powerOnReset => fun_cases execPowerOnReset s <;> exact ⟨_, rfl⟩
  | sensorSample site temp current => fun_cases execSensorSample site temp current s <;> exact ⟨_, rfl⟩
  | overtemperature tile => fun_cases execOvertemperature tile s; exact ⟨_, rfl⟩
  | roleRestart role => fun_cases execRoleRestart role s <;> exact ⟨_, rfl⟩
  | instructionFetch => fun_cases execInstructionFetch s <;> exact ⟨_, rfl⟩
  | hostPortUp port => fun_cases execHostPortUp port s <;> exact ⟨_, rfl⟩
  | malformedPacket q => fun_cases execMalformedPacket q s <;> exact ⟨_, rfl⟩
  | pairingExchange launch wafer tiles => fun_cases execPairingExchange launch wafer tiles s <;> exact ⟨_, rfl⟩
  | pairedLaunchEnd launch wafer => fun_cases execPairedLaunchEnd launch wafer s <;> exact ⟨_, rfl⟩

/-! ## A step of a core -/

theorem State.runInstr_next (s : State) (i : Instr) : ∃ t, s.runInstr i = .next t := by
  obtain ⟨t, ht⟩ := exec_answers i s
  simp only [State.runInstr, ht]
  split
  · exact ⟨_, rfl⟩
  · split
    · exact execPairExchange_next _ s
    · exact ⟨_, rfl⟩

theorem State.issue_next (s : State) (i : Instr) : ∃ t, s.issue i = .next t := by
  fun_cases State.issue s i
  · exact ⟨_, rfl⟩
  · exact execPairExchange_next _ s
  · exact s.seal.runInstr_next i
  · exact ⟨_, rfl⟩
  · exact s.runInstr_next i
  · exact s.runInstr_next i

theorem State.fetchIssue_next (s : State) : ∃ t, s.fetchIssue = .next t := by
  fun_cases State.fetchIssue s
  · exact ⟨_, rfl⟩
  · exact ⟨_, rfl⟩
  · exact State.issue_next _ _
  · exact execPairExchange_next _ _
  · exact ⟨_, rfl⟩
  · exact ⟨_, rfl⟩

theorem State.gangStep_next (s : State) (g : GangSt) : ∃ t, s.gangStep g = .next t := by
  obtain ⟨t, ht⟩ := s.fetchIssue_next
  simp only [State.gangStep, ht]
  repeat' split
  all_goals exact ⟨_, rfl⟩

theorem State.runCore_next (s : State) : ∃ t, s.runCore = .next t := by
  fun_cases State.runCore s
  case case4 => exact State.runInstr_next _ _
  case case5 => exact State.gangStep_next _ _
  case case6 => exact State.fetchIssue_next _
  case case7 => exact State.fetchIssue_next _
  all_goals exact ⟨_, rfl⟩

theorem State.runTurn_next (s : State) (core : Nat) : ∃ t, s.runTurn core = .next t := by
  obtain ⟨t, ht⟩ := (s.turnTo core).runCore_next
  simp only [State.runTurn, ht]
  exact ⟨_, rfl⟩

/-! ## A step of an agent -/

theorem State.limited_next (s : State) {f : State → Res} (h : Answers f) : ∃ t, s.limited f = .next t := by
  obtain ⟨t, ht⟩ := h s
  exact ⟨if s.full t then s.relieve t else t, by simp only [State.limited, ht]⟩

theorem State.engineStep_answers (core : Nat) (e : Eng) : Answers (State.engineStep core e) := by
  intro s
  obtain ⟨t, ht⟩ := execEngineElement_next core e s
  exact ⟨if t = s then s else (t.progressed core).noteStep (core / 16) (engAgent core e), by simp only [State.engineStep, ht]⟩

theorem State.runEvent_next (s : State) (i : Instr) : ∃ t, s.runEvent i = .next t := by
  unfold State.runEvent
  split
  · exact ⟨_, rfl⟩
  · generalize hr : s.limited _ = r
    have h : ∃ t, r = .next t := by
      rw [← hr]
      refine s.limited_next fun u => ?_
      split
      · exact State.engineStep_answers _ _ u
      · exact exec_answers _ u
    obtain ⟨t, rfl⟩ := h
    exact ⟨_, rfl⟩

theorem startStep_answers (core : Nat) (e : Eng) (opc : Nat) : ∀ f ∈ startStep core e opc, Answers f := by
  unfold startStep
  split <;> simp only [List.forall_mem_singleton, List.not_mem_nil, false_imp_iff, implies_true]
  · exact exec_answers (.mma core)
  · exact exec_answers (.mmr core)
  · exact exec_answers (.accz core)
  · exact exec_answers (.accld core)
  · exact exec_answers (.accst core)
  · exact exec_answers (.cpy core)
  · exact exec_answers (.cpy2 core)
  · exact exec_answers (.deal core)
  · exact exec_answers (.xpose core)
  · exact exec_answers (.agset core)
  · exact exec_answers (.mldred core)
  · exact exec_answers (.mstore core)
  · exact exec_answers (.agstat core)

theorem msgSteps_answers (m : Msg) : ∀ f ∈ msgSteps m, Answers f := by
  unfold msgSteps
  split <;> simp only [List.forall_mem_singleton, List.not_mem_nil, false_imp_iff, implies_true]
  · exact exec_answers (.refusedMessageResend m.id)
  · exact exec_answers (.writeAcknowledgement m.id)
  · exact exec_answers (.refusedMessageResend m.id)
  · exact exec_answers (.refusedMessageResend m.id)
  · exact exec_answers (.responseArrival m.id)
  · exact exec_answers (.streamEntryArrival m.id)
  · exact exec_answers (.latchChunkArrival _)
  · exact exec_answers (.messageArrival m.id)

theorem linkSteps_answers (l : Link) : ∀ f ∈ linkSteps l, Answers f := by
  simp only [linkSteps, List.forall_mem_cons, List.not_mem_nil, false_imp_iff, implies_true, and_true]
  exact ⟨exec_answers (.flitAcknowledgement _ _), exec_answers (.negativeAcknowledgement _ _), exec_answers (.flitArrival _ _)⟩

/-- What a list of steps must meet holds of one that stands there under a condition only. -/
theorem forall_mem_ite {α : Type} {p : α → Prop} {c : Prop} [Decidable c] {l m : List α} (hl : ∀ x ∈ l, p x) (hm : ∀ x ∈ m, p x) :
    ∀ x ∈ (if c then l else m), p x := by
  split
  · exact hl
  · exact hm

theorem tileSteps_answers (t : Nat) (x : TileSt) : ∀ f ∈ tileSteps t x, Answers f := by
  unfold tileSteps
  split <;> simp only [List.forall_mem_cons, List.not_mem_nil, false_imp_iff, implies_true, and_true]
  · exact exec_answers (.lehrFence t)
  · exact exec_answers (.lehrChoose t)
  · exact exec_answers (.lehrRestore t)
  · exact exec_answers (.rebindingFlip t)
  · exact exec_answers (.lehrReplay t)
  · exact exec_answers (.lehrResume t)
  · exact ⟨exec_answers (.watchdogFire t), exec_answers (.overtemperature t), exec_answers (.plannedMigration t),
      exec_answers (.intervalEnd t), exec_answers (.checkpointCommit t)⟩
  · exact ⟨exec_answers (.checkpointCommit t), exec_answers (.rebindingFlip t)⟩

theorem queueSteps_answers (q : Nat) (x : Queue) : ∀ f ∈ queueSteps q x, Answers f := by
  simp only [queueSteps, List.forall_mem_append, List.forall_mem_map]
  refine ⟨⟨forall_mem_ite ?_ (by simp), forall_mem_ite ?_ (by simp)⟩, fun k _ => exec_answers (.copyDone q k)⟩
  · exact List.forall_mem_singleton.2 (exec_answers (.packetWaitEnd q))
  · simp only [List.forall_mem_cons, List.not_mem_nil, false_imp_iff, implies_true, and_true]
    exact ⟨exec_answers (.malformedPacket q), exec_answers (.launch q), exec_answers (.waitpkt q), exec_answers (.signal q),
      exec_answers (.pin q), exec_answers (.unpin q), exec_answers (.copy q), exec_answers (.nop q)⟩

theorem ctxSteps_answers (c : Ctx) : ∀ f ∈ ctxSteps c, Answers f := by
  unfold ctxSteps
  extract_lets eng wb
  have heng : ∀ f ∈ eng, Answers f := by
    simp only [eng, List.forall_mem_flatMap]
    intro e _
    have ends : Answers (execCompletionMessage c.core e) := exec_answers (.completionMessage c.core e)
    split
    · simp
    · refine forall_mem_ite ?_ ?_
      · simpa using ⟨State.engineStep_answers _ _, ends⟩
      · simpa only [List.forall_mem_append, List.forall_mem_singleton] using ⟨startStep_answers _ _ _, ends⟩
  have hwb : ∀ f ∈ wb, Answers f := forall_mem_ite (List.forall_mem_singleton.2 (exec_answers (.mmrWriteBack c.core))) (by simp)
  split
  · exact List.forall_mem_append.2 ⟨heng, hwb⟩
  · rename_i n _
    simp only [List.forall_mem_append, List.forall_mem_map]
    refine ⟨⟨⟨⟨⟨⟨heng, hwb⟩, ?_⟩, ?_⟩, fun k _ => exec_answers (.firingPush c.core n k)⟩, ?_⟩, ?_⟩
    · split
      · exact List.forall_mem_singleton.2 (exec_answers (.contextWake c.core n))
      · simp
    · refine forall_mem_ite ?_ (by simp)
      simp only [List.forall_mem_cons, List.not_mem_nil, false_imp_iff, implies_true, and_true]
      exact ⟨exec_answers (.barrierArrival n (c.core / 16)), exec_answers (.barrierRelease c.core n)⟩
    · exact forall_mem_ite (List.forall_mem_singleton.2 (exec_answers (.stealGrant c.core n))) (by simp)
    · exact forall_mem_ite (List.forall_mem_singleton.2 (exec_answers (.budgetExhausted c.core))) (by simp)

theorem launchSteps_answers (s : State) (n : Nat) (l : Launch) : ∀ f ∈ launchSteps s n l, Answers f := by
  unfold launchSteps
  refine forall_mem_ite (by simp) ?_
  simp only [List.forall_mem_append, List.forall_mem_map, List.forall_mem_singleton, List.forall_mem_flatMap]
  refine ⟨⟨⟨⟨fun k _ => exec_answers (.sharePush n k), exec_answers (.deadlineMiss n)⟩, forall_mem_ite ?_ (by simp)⟩, ?_⟩, ?_⟩
  · simp only [List.forall_mem_append, List.forall_mem_map, List.forall_mem_singleton]
    exact ⟨fun t _ => exec_answers (.barrierArrival n t), exec_answers (.lullWave n)⟩
  · exact fun c _ v _ => exec_answers (.stealProbe c.core v n)
  · exact fun d _ => exec_answers (.dieAgentSteal n d)

theorem State.ownSteps_answer (s : State) : ∀ f ∈ s.ownSteps, Answers f := by
  unfold State.ownSteps
  rw [List.forall_mem_map]
  refine fun f hf u => u.limited_next ((?_ : ∀ g ∈ _, Answers g) f hf)
  simp only [List.forall_mem_append, List.forall_mem_map, List.forall_mem_flatMap]
  refine ⟨⟨⟨⟨⟨⟨⟨⟨⟨⟨?_, fun t _ u => ⟨_, rfl⟩⟩, fun l _ => linkSteps_answers l⟩, fun m _ => msgSteps_answers m⟩,
    fun c _ => ctxSteps_answers c⟩, fun k _ => exec_answers (.lockLoss k.1)⟩, fun k _ => exec_answers (.contextSwitch k.1)⟩,
    fun t _ => tileSteps_answers t.1 t.2⟩, fun q _ => queueSteps_answers q.1 q.2⟩, ?_⟩, fun l _ => launchSteps_answers s l.1 l.2⟩
  · exact forall_mem_ite (List.forall_mem_singleton.2 (exec_answers .powerOnReset)) (by simp)
  · exact forall_mem_ite (List.forall_mem_singleton.2 (exec_answers .resyncComplete)) (by simp)

theorem State.runOwn_next (s : State) : ∃ t, s.runOwn = .next t := by
  unfold State.runOwn
  split
  · rename_i f hf
    obtain ⟨t, ht⟩ := s.ownSteps_answer f (List.mem_of_find?_eq_some hf) s
    simp only [ht]
    exact State.runTurn_next _ _
  · exact s.runTurn_next _

theorem State.take_next (s : State) (x : Turn) : ∃ t, s.take x = .next t := by
  cases x with
  | event i => exact s.runEvent_next i
  | core n => exact s.runTurn_next n
  | cycles n => exact ⟨_, rfl⟩
  | fault f => cases f <;> exact ⟨_, rfl⟩
  | buddy t => exact ⟨_, rfl⟩
  | own => exact s.runOwn_next

/-- Settles O5: exec by the cases of the instruction, a step by whose turn it is. -/
theorem nothingStops : Obligations.NothingStops := by
  unfold Obligations.NothingStops
  exact ⟨exec_answers, fun s => s.popTurn.take_next s.turn⟩

end Sys2Proof.Machine
end

section
/-! SUPPORT. Tags and poison marks after a write (R78, R298). -/

namespace Sys2Proof.Machine

/-- The aligned blocks of `d` bytes that `n` bytes from `k` touch, as `wordsIn` and `granulesIn` list them. -/
theorem mem_blocks {d k n a : Nat} (hd : 0 < d) (hn : n ≠ 0) (ha : a % d = 0) :
    a ∈ (List.range ((k + n - 1) / d + 1 - k / d)).map (fun j => (k / d + j) * d) ↔ a < k + n ∧ k < a + d := by
  obtain ⟨q, rfl⟩ := Nat.dvd_of_mod_eq_zero ha
  have lo : k < d * q + d ↔ k / d ≤ q := by
    rw [← Nat.mul_succ, Nat.mul_comm, ← Nat.div_lt_iff_lt_mul hd, Nat.lt_succ_iff]
  have hi : d * q < k + n ↔ q ≤ (k + n - 1) / d := by
    rw [Nat.le_div_iff_mul_le hd, Nat.mul_comm]; omega
  simp only [List.mem_map, List.mem_range, lo, hi]
  constructor
  · rintro ⟨j, hj, e⟩
    have : k / d + j = q := Nat.eq_of_mul_eq_mul_right hd (by rw [e, Nat.mul_comm])
    omega
  · rintro ⟨h1, h2⟩
    exact ⟨q - k / d, by omega, by rw [Nat.add_sub_of_le h2, Nat.mul_comm]⟩

theorem mem_wordsIn {k n a : Nat} (ha : a % 8 = 0) : a ∈ wordsIn k n ↔ n ≠ 0 ∧ a < k + n ∧ k < a + 8 := by
  unfold wordsIn
  split
  · simp_all
  · rw [mem_blocks (by decide) ‹_› ha]; simp_all

theorem mem_granulesIn {k n a : Nat} (ha : a % 16 = 0) : a ∈ granulesIn k n ↔ n ≠ 0 ∧ a < k + n ∧ k < a + 16 := by
  unfold granulesIn
  split
  · simp_all
  · rw [mem_blocks (by decide) ‹_› ha]; simp_all

/-- A key set changed at some keys, each in a way that depends on that key alone. -/
theorem nmem_fold {f : List Nat → Nat → List Nat} {g : Nat → Bool → Bool} {a : Nat}
    (hf : ∀ m w, nmem (f m w) a = if w = a then g a (nmem m a) else nmem m a) (hg : ∀ x, g a (g a x) = g a x) (ws m : List Nat) :
    nmem (ws.foldl f m) a = if a ∈ ws then g a (nmem m a) else nmem m a := by
  induction ws generalizing m with
  | nil => simp
  | cons w ws ih =>
    rw [List.foldl_cons, ih, hf]
    by_cases hw : w = a
    · subst hw; simp [hg]
    · simp [hw, Ne.symm hw]

/-- The tag of a granule after a write (R78). -/
theorem tagged_write (m : Mem) (k : Nat) (bs : List Byte) (t p : Bool) {a : Nat} (ha : a % 16 = 0) :
    (m.write k bs t p).tagged a = if bs ≠ [] ∧ a < k + bs.length ∧ k < a + 16 then t else m.tagged a := by
  have key : a / 16 * 16 = a := Nat.div_mul_cancel (Nat.dvd_of_mod_eq_zero ha)
  have fold := nmem_fold (f := fun ts g => if t then nadd ts g else ndel ts g) (g := fun _ _ => t) (a := a)
    (fun ts w => by cases t <;> simp only [nmem_nadd, nmem_ndel, Bool.false_eq_true, if_true, if_false] <;> grind) (fun _ => rfl)
    (granulesIn k bs.length) m.tags
  simp only [Mem.tagged, Mem.write, tagsAfter, key, fold, mem_granulesIn ha, ne_eq, List.length_eq_zero_iff]

/-- The mark of a word after a write (R78, R298). -/
theorem marked_write (m : Mem) (k : Nat) (bs : List Byte) (t p : Bool) {a : Nat} (ha : a % 8 = 0) :
    nmem (m.write k bs t p).marks a = if bs ≠ [] ∧ a < k + bs.length ∧ k < a + 8 then
      p || (!(decide (k ≤ a ∧ a + 8 ≤ k + bs.length)) && (nmem m.marks a || nmem m.bad a)) else nmem m.marks a := by
  have fold := nmem_fold
    (f := fun ms w => if p then nadd ms w else if whole k bs.length w then ndel ms w else if nmem m.bad w then nadd ms w else ms)
    (g := fun w x => p || (!whole k bs.length w && (x || nmem m.bad w))) (a := a)
    (fun ms w => by
      by_cases h : w = a
      · subst h
        cases p <;> cases whole k bs.length w <;> cases nmem m.bad w <;> simp [nmem_nadd, nmem_ndel]
      · have h' : (a == w) = false := by simpa using Ne.symm h
        rw [if_neg h]; repeat' split
        all_goals simp [nmem_nadd, nmem_ndel, bne, h'])
    (fun x => by cases p <;> cases whole k bs.length a <;> cases nmem m.bad a <;> cases x <;> rfl)
    (wordsIn k bs.length) m.marks
  simp only [Mem.write, marksAfter]
  rw [fold]
  simp only [mem_wordsIn ha, ne_eq, List.length_eq_zero_iff, whole]

/-- Settles O10: what a write leaves in memory is what `Mem.write` does, byte by byte, granule by granule and word by word. -/
theorem memoryWrites : Obligations.MemoryWrites := by
  unfold Obligations.MemoryWrites
  intro s k a b bs t p
  rw [State.writeMem_mem]
  exact ⟨byte_write s.mem k bs t p a, s.meetRead_byte k a b a, tagged_write s.mem k bs t p, marked_write s.mem k bs t p,
    fun h => ⟨wf_write s.mem k bs t p h, s.meetRead_wf k a b h⟩⟩

end Sys2Proof.Machine
end

section
/-! SUPPORT. What reset leaves, and what the CSR instructions do (R13, R14, R38, R136, R140). -/

namespace Sys2Proof.Machine

/-- Settles O8: the reset state is a literal, and memory lists no byte. -/
theorem resetValues : Obligations.ResetValues :=
  ⟨rfl, rfl, rfl, rfl, rfl, rfl, rfl, rfl, rfl, rfl, rfl, rfl, rfl, rfl, rfl, rfl, rfl, fun _ => rfl, wf_reset⟩

/-- A value operand that is not POISON is its ival (R101). -/
theorem State.value_of_clean {s : State} {a : Nat} (h : s.clean a) : s.value a = .ok (s.ival a) := if_neg h

/-- A value that a CSR takes: it sets no reserved bit, and leaves FRM.RM at none of 6 and 7 (R14, R38). -/
def CsrTakes (n rsv : Nat) (z : Word) : Prop := z &&& BitVec.ofNat 64 rsv = 0 ∧ (n = 0x005 → bits z.toNat 2 0 < 6)

/-- What a write of a CSR leaves: its writable bits, or nothing in one that has none (R13). -/
def State.csrWrote (s : State) (n rw : Nat) (z : Word) : State := if rw = 0 then s else s.csrStore n (s.csrWritten n rw z)

theorem State.csrSet_of_takes {s : State} {n w rw rsv : Nat} {z : Word} (hm : csrMap n = some (rw, rsv)) (h : CsrTakes n rsv z) :
    s.csrSet n w z = .ok (s.csrWrote n rw z) := by
  have : ¬(z &&& BitVec.ofNat 64 rsv ≠ 0 ∨ (n = 0x005 ∧ bits z.toNat 2 0 ≥ 6)) := by
    rintro (h1 | ⟨h1, h2⟩)
    · exact h1 h.1
    · exact absurd (h.2 h1) (Nat.not_lt.2 h2)
  simp only [State.csrSet, hm, if_neg this, State.csrWrote]
  split <;> rfl

theorem State.csrSet_of_not_takes {s : State} {n w rw rsv : Nat} {z : Word} (hm : csrMap n = some (rw, rsv)) (h : ¬CsrTakes n rsv z) :
    s.csrSet n w z = .trap (illegal w) := by
  have : z &&& BitVec.ofNat 64 rsv ≠ 0 ∨ (n = 0x005 ∧ bits z.toNat 2 0 ≥ 6) := by
    by_contra hn
    rw [not_or, not_not, not_and] at hn
    exact h ⟨hn.1, fun h5 => Nat.lt_of_not_ge (hn.2 h5)⟩
  simp only [State.csrSet, hm, if_pos this]

/-- A CSR that the present level does not reach is an illegal instruction (R48, R140). -/
theorem exec_csr_of_not_ok {s : State} {n : Nat} (a : Nat) (h : s.csrOk n = false) :
    exec (.csrr n a) s = .next (s.takeTrap (illegal (wordOfInstr (.csrr n a)))) ∧
      exec (.csrw n a) s = .next (s.takeTrap (illegal (wordOfInstr (.csrw n a)))) ∧
      exec (.csrs n a) s = .next (s.takeTrap (illegal (wordOfInstr (.csrs n a)))) ∧
      exec (.csrc n a) s = .next (s.takeTrap (illegal (wordOfInstr (.csrc n a)))) := by
  show execCsrr n a s = _ ∧ execCsrw n a s = _ ∧ execCsrs n a s = _ ∧ execCsrc n a s = _
  simp only [execCsrr, execCsrw, execCsrs, execCsrc, h, Bool.not_false, if_true, State.finish_trap, and_self]

theorem exec_csrr {s : State} {n : Nat} (a : Nat) (h : s.csrOk n = true) (hn : n ≠ 0 ∨ s.nearReadInFlight = false) :
    exec (.csrr n a) s = .next ((s.noteCsr n).setG a (word (s.csrRead n))).advance := by
  have hw : ¬(n = 0 ∧ s.nearReadInFlight = true) := by
    rintro ⟨h0, hr⟩
    rcases hn with h' | h'
    · exact h' h0
    · rw [h'] at hr; cases hr
  show execCsrr n a s = _
  simp only [execCsrr, h, Bool.not_true, Bool.false_eq_true, if_false, if_neg hw, State.finish_ok, State.put, word]

theorem State.noteCsr_eq_self (s : State) {n : Nat} (h : n ∉ [0, 3, 4]) : s.noteCsr n = s :=
  if_neg fun h' => h (by simpa using h')

section
variable {s : State} {n a rw rsv : Nat} (hok : s.csrOk n = true) (hc : s.clean a) (hm : csrMap n = some (rw, rsv))
include hok hc

theorem exec_csrw : exec (.csrw n a) s = s.finish (s.csrSet n (wordOfInstr (.csrw n a)) (s.ival a)) := by
  show execCsrw n a s = _
  simp only [execCsrw, hok, Bool.not_true, Bool.false_eq_true, if_false, s.value_of_clean hc, Out.bind]

theorem exec_csrs : exec (.csrs n a) s = s.finish (s.csrSet n (wordOfInstr (.csrs n a)) (s.csrRead n ||| s.ival a)) := by
  show execCsrs n a s = _
  simp only [execCsrs, hok, Bool.not_true, Bool.false_eq_true, if_false, s.value_of_clean hc, Out.bind]

include hm

/-- CSRC writes but an FRM.RM of 6 or 7, and never traps on its value (R14, R38). -/
theorem exec_csrc : exec (.csrc n a) s = .next (if n = 0x005 ∧ 6 ≤ bits (s.csrRead n &&& ~~~s.ival a).toNat 2 0 then s
    else s.csrWrote n rw (s.csrRead n &&& ~~~s.ival a)).advance := by
  show execCsrc n a s = _
  simp only [execCsrc, hok, Bool.not_true, Bool.false_eq_true, if_false, s.value_of_clean hc, Out.bind, hm, State.csrWrote]
  by_cases hf : n = 0x005 ∧ bits (s.csrRead n &&& ~~~s.ival a).toNat 2 0 ≥ 6
  · rw [if_pos (Or.inr hf), if_pos hf, State.finish_ok]
  · by_cases h0 : rw = 0
    · rw [if_pos (Or.inl h0), if_neg hf, if_pos h0, State.finish_ok]
    · rw [if_neg (not_or.2 ⟨h0, hf⟩), if_neg hf, if_neg h0, State.finish_ok]

end

/-- Settles O31. -/
theorem csrAccess : Obligations.CsrAccess := by
  unfold Obligations.CsrAccess
  refine fun s n a => ⟨exec_csr_of_not_ok a, exec_csrr a, s.noteCsr_eq_self, fun rw rsv hm hok hc => ?_⟩
  refine ⟨fun h => ?_, fun h => ?_, fun h => ?_, fun h => ?_, fun h => ?_, fun h => ?_⟩
  · rw [exec_csrw hok hc, State.csrSet_of_takes hm h]; rfl
  · rw [exec_csrw hok hc, State.csrSet_of_not_takes hm h]; rfl
  · rw [exec_csrs hok hc, State.csrSet_of_takes hm h]; rfl
  · rw [exec_csrs hok hc, State.csrSet_of_not_takes hm h]; rfl
  · rw [exec_csrc hok hc hm, if_neg fun h' => absurd (h h'.1) (Nat.not_lt.2 h'.2)]; rfl
  · rw [exec_csrc hok hc hm, if_pos h]

end Sys2Proof.Machine
end

section
/-! SUPPORT. A core's turn runs the instruction at its PC (R51, R95, R103, R361, R362), and what seals or violates a region. -/

namespace Sys2Proof.Machine

/-! ## What stands before an instruction changes no register -/

theorem State.unswitched_cpu (s : State) : s.unswitched.cpu = s.cpu := by
  unfold State.unswitched; split <;> rfl

/-- Leaving a DONE changes nothing of the acting context but its task. -/
theorem State.leftDone_cpu (s : State) : ∃ x, s.leftDone.cpu = { s.cpu with task := x } := by
  unfold State.leftDone
  split
  · split
    · exact ⟨_, rfl⟩
    · exact ⟨s.cpu.task, rfl⟩
  · exact ⟨s.cpu.task, rfl⟩

/-- The acting context as an instruction's step finds it. -/
theorem State.unswitchedLeftDone_cpu (s : State) : ∃ x, s.unswitched.leftDone.cpu = { s.cpu with task := x } := by
  obtain ⟨x, hx⟩ := s.unswitched.leftDone_cpu
  exact ⟨x, by rw [hx, s.unswitched_cpu]⟩

/-! ## Outside a pair, an instruction's step has no pair's part -/

theorem State.exchangeDue_unpaired {s : State} (h : s.cpu.paired = false) (i : Instr) : s.exchangeDue i = false := by
  have h' : s.cpu.csrs.pairctl.getLsbD 0 = false := h
  simp only [State.exchangeDue, h', Bool.false_and]

theorem State.parksUnexchanged_unpaired {s : State} (h : s.cpu.paired = false) (t : State) : t.parksUnexchanged s = false := by
  simp [State.parksUnexchanged, h]

theorem State.pairAfter_unpaired {s : State} (h : s.cpu.paired = false) (t : State) (i : Instr) : t.pairAfter s i = t := by
  simp [State.pairAfter, h]

theorem State.pairFollow_unpaired {s : State} (h : s.cpu.paired = false) (t : State) : t.pairFollow s = t := by
  simp [State.pairFollow, h]

/-- What an instruction of a core in no pair leaves once it has executed: it waits where it finds no room, and an open region's mask
takes the registers of one that has retired (R361, R381, R387). -/
theorem State.runInstr_unpaired {v t : State} {i : Instr} (h : v.cpu.paired = false) (ht : exec i v = .next t) :
    v.runInstr i = .next (if v.full t then (v.relieve t).stall else if t.regionOpen && t.retiredFrom v then t.noteRegs (v.regUse i) else t) := by
  simp only [State.runInstr, ht, State.parksUnexchanged_unpaired h, State.pairAfter_unpaired h, Bool.false_eq_true, if_false]
  split <;> rfl

/-! ## A region (R361, R362) -/

theorem State.regionOpen_seal (s : State) : s.seal.regionOpen = false := by
  simp [State.regionOpen, State.seal]

theorem State.seals_of_always {i : Instr} (s : State) (hi : s.acting i = i) (h : sealsAlways i = true) : s.seals i = true := by
  simp [State.seals, hi, h]

theorem State.takeViolation_of_not_rep (s : State) {i : Instr} (c : Nat) (h : ∀ c n x y z, i ≠ .rep c n x y z) :
    s.takeViolation i c = s.takeTrap ⟨0x11, s.cpu.csrs.regpc.toNat % 2 ^ 52 + c * 2 ^ 56, 0⟩ := by
  unfold State.takeViolation State.violationTrap
  split
  · exact absurd rfl (h _ _ _ _ _)
  · rfl

/-- The bit of a general register once a code has been added to a mask. -/
theorem getLsbD_addCode (m : BitVec 104) {c d : Nat} (hd : d < 64) (h0 : d ≠ 0) :
    (if maskCode c then m ||| BitVec.ofNat 104 (2 ^ c) else m).getLsbD d = (m.getLsbD d || decide (d = c)) := by
  split
  · rw [BitVec.getLsbD_or, BitVec.getLsbD_ofNat, Nat.testBit_two_pow, decide_eq_true (show d < 104 by omega), Bool.true_and]
    simp only [eq_comm]
  · have : d ≠ c := by
      rintro rfl
      simp only [maskCode, Bool.and_eq_true, bne_iff_ne] at *
      omega
    simp only [this, decide_false, Bool.or_false]

theorem codeMask_pair {a b d : Nat} (hd : d < 64) (h0 : d ≠ 0) : (codeMask [a, b]).getLsbD d = true ↔ d = a ∨ d = b := by
  have empty : (0 : BitVec 104).getLsbD d = false := BitVec.getLsbD_zero
  simp only [codeMask, List.foldl_cons, List.foldl_nil, getLsbD_addCode _ hd h0, empty, Bool.false_or, Bool.or_eq_true,
    decide_eq_true_eq]

/-- ADD would write a register of the input mask where gd is in it already, or where this ADD is the first to read it (R361). -/
theorem State.violation_add (s : State) {d a b : Nat} (hd : d < 64) (h0 : d ≠ 0) : s.violation (.add d a b) =
    if s.cpu.region.mask.getLsbD d = true ∨ ((d = a ∨ d = b) ∧ s.cpu.region.written.getLsbD d = false) then some d else none := by
  have code : maskCode d = true := by simp only [maskCode, Bool.and_eq_true, bne_iff_ne]; omega
  have bit : (s.maskAfterReads [a, b]).getLsbD d = true ↔
      s.cpu.region.mask.getLsbD d = true ∨ ((d = a ∨ d = b) ∧ s.cpu.region.written.getLsbD d = false) := by
    rw [State.maskAfterReads, BitVec.getLsbD_or, BitVec.getLsbD_and, Bool.or_eq_true, Bool.and_eq_true, codeMask_pair hd h0,
      BitVec.getLsbD_not, decide_eq_true (show d < 104 by omega), Bool.true_and, Bool.not_eq_true']
  have use : s.regUse (.add d a b) = ([a, b], [d]) := rfl
  simp only [State.violation, use, List.find?_singleton, code, Bool.true_and, bit]

/-! ## The turn of a core -/

/-- The rest of a turn once the acting core has moved: the step's place in its tile's episode, the cycle's charges and the watchdog, and
what settles between steps; what finds no room waits (R267, R376, R381, R389). -/
def State.afterTurn (p t : State) : Res :=
  let v := if t.stepped p then t.noteStep (p.cpu.core / 16) (p.cpu.core % 16) else t
  .next (if p.full v then ((p.relieve v).stall.tick none).settled
    else (v.tick (if t.stepped p then some (p.cpu.core / 16) else none)).settled)

/-- A core in no gang and no pair acts when it is live, its tile skips no cycle and no event is pending (R356). -/
theorem State.acts_of {p : State} (hl : p.live = true) (hs : p.skips (p.cpu.core / 16) = false) (hb : p.boundary = none)
    (hg : p.cpu.gang = none) (hp : p.cpu.paired = false) : p.acts = true := by
  simp [State.acts, hl, hs, hb, hg, hp]

/-- The turn of the core that acts already. -/
theorem step_core {p : State} (hl : p.live = true) (ha : p.acts = true) {t : State} (ht : p.runCore = .next t) :
    step { p with agenda := .core p.cpu.core :: p.agenda } = p.afterTurn t := by
  have turn : p.turnTo p.cpu.core = p := by
    have run : p.cpu.run.onCore = true := by
      simp only [State.live, Bool.and_eq_true, beq_iff_eq] at hl
      rw [hl.1.1]; rfl
    exact if_pos ⟨rfl, run⟩
  show p.runTurn p.cpu.core = p.afterTurn t
  simp only [State.runTurn, turn, ht, ha, Bool.true_and, State.afterTurn]
  generalize (if t.stepped p then t.noteStep (p.cpu.core / 16) (p.cpu.core % 16) else t) = v
  cases p.full v
  · simp
  · simp

/-- A step of a core whose word at the PC decodes issues the instruction (R51, R95). -/
theorem State.runCore_issue {p u : State} {w : Nat} {i : Instr} (hl : p.live = true) (hs : p.skips (p.cpu.core / 16) = false)
    (hb : p.boundary = none) (hw : p.unswitched.leftDone.cpu.waitsDone = false) (hg : p.cpu.gang = none) (hp : p.cpu.paired = false)
    (hf : p.unswitched.leftDone.fetchAt p.pc = (u, .ok w)) (hi : decodeWord w = some i) : p.runCore = u.issue i := by
  obtain ⟨x, hx⟩ := p.unswitchedLeftDone_cpu
  have hpc : p.unswitched.leftDone.pc = p.pc := by rw [State.pc, hx]; rfl
  have hg' : p.unswitched.leftDone.cpu.gang = none := by rw [hx]; exact hg
  have hp' : p.unswitched.leftDone.cpu.paired = false := by rw [hx]; exact hp
  have hfi : p.unswitched.leftDone.fetchIssue = u.issue i := by simp only [State.fetchIssue, hpc, hf, hi]
  simp only [State.runCore, hl, hs, hb, hp', hw, hg', hfi, Bool.not_true, Bool.or_self, Bool.false_and, Bool.false_eq_true, if_false]

/-- Settles O4: the turn reaches `State.issue`, whose branches are the statement's. -/
theorem stepRunsDecoded : Obligations.StepRunsDecoded := by
  unfold Obligations.StepRunsDecoded
  refine ⟨?_, fun s d a b n w sc o e => ⟨?_, fun i c hi => s.takeViolation_of_not_rep c hi, s.violation_add⟩⟩
  · intro p u w i hl hs hb hw hg hp hf hi hu
    have goes : ∀ {t}, u.issue i = .next t → step { p with agenda := .core p.cpu.core :: p.agenda } = p.afterTurn t := fun h =>
      step_core hl (State.acts_of hl hs hb hg hp) ((State.runCore_issue hl hs hb hw hg hp hf hi).trans h)
    have hx : u.exchangeDue i = false := State.exchangeDue_unpaired hu i
    refine ⟨fun hpend => goes (by simp only [State.issue, hpend, if_true]), fun hpend => ⟨fun hr t ht => goes ?_,
      fun hr hse => ⟨u.regionOpen_seal, fun t ht => goes ?_⟩, fun hr hse => ⟨fun c hc => goes ?_, fun hc t ht => goes ?_⟩⟩⟩
    · simp only [State.issue, hpend, hx, hr, Bool.false_eq_true, if_false]
      exact State.runInstr_unpaired hu ht
    · simp only [State.issue, hpend, hx, hr, hse, Bool.false_eq_true, if_false, if_true]
      exact State.runInstr_unpaired (v := u.seal) hu ht
    · simp only [State.issue, hpend, hx, hr, hse, hc, Bool.false_eq_true, if_false, if_true]
      rw [State.pairFollow_unpaired hu]
    · simp only [State.issue, hpend, hx, hr, hse, hc, Bool.false_eq_true, if_false, if_true]
      exact State.runInstr_unpaired hu ht
  · simp only [List.forall_mem_cons, List.not_mem_nil, false_imp_iff, implies_true, and_true]
    and_intros
    all_goals exact State.seals_of_always s rfl rfl

end Sys2Proof.Machine
end

section
/-! SUPPORT. The host's registers, BAR2 and the summary (R14, R285, R374, R413). -/

namespace Sys2Proof.Machine

/-! ## Registers of BAR0 (R14, R411) -/

theorem State.bar0Write_resynca (s : State) {v : Nat} (h : v % 64 = 0) :
    s.bar0Write 0x400 v = s.modDev fun d => { d with resync := { d.resync with addr := BitVec.ofNat 64 v } } := if_pos h

theorem State.bar0Write_admfrac (s : State) {v : Nat} (h : bits v 63 16 = 0) :
    s.bar0Write 0x1000 v = { s with front := { s.front with admfrac := BitVec.ofNat 16 v } } := if_pos h

theorem State.bar0Write_admfrac_reserved (s : State) {v : Nat} (h : bits v 63 16 ≠ 0) : s.bar0Write 0x1000 v = s.count 0 := if_neg h

/-! ## BAR2 (R285, R374) -/

/-- No BAR2 after a boot that failed, and no completion of a read through a port that is down (R404). -/
theorem exec_bar2Write_fail {s : State} (h : s.dev.state = .fail) (a : Nat) (bs : List Byte) : exec (.bar2Write a bs) s = .next s :=
  if_pos h

theorem exec_bar2Read_none {s : State} {a : BarAddr} (h : s.dev.state = .fail ∨ s.hostUp a.port = false) (n : Nat) :
    exec (.bar2Read a n) s = .next s := if_pos h

theorem exec_bar2Write_refused {s : State} {a : Nat} {bs : List Byte} (hs : s.dev.state ≠ .fail) (h : bar2Refused a bs.length = true) :
    exec (.bar2Write a bs) s = .next (s.count 1) := by
  show execBar2Write a bs s = _
  simp only [execBar2Write, if_neg hs, h, Bool.true_or, if_true]

theorem exec_bar2Write {s : State} {a : Nat} {bs : List Byte} (hs : s.dev.state ≠ .fail) (h : bar2Refused a bs.length = false)
    (hp : ∀ i, i < bs.length → s.framePinned (a + i) = false) :
    exec (.bar2Write a bs) s = .next (s.writeMem (devKey a) bs false false noName) := by
  have free : ((List.range bs.length).any fun i => s.framePinned (a + i)) = false := by
    simpa only [List.any_eq_false, List.mem_range, Bool.not_eq_true] using hp
  show execBar2Write a bs s = _
  simp only [execBar2Write, if_neg hs, h, free, Bool.or_self, Bool.false_eq_true, if_false]

theorem exec_bar2Read_refused {s : State} {a : BarAddr} {n : Nat} (hs : s.dev.state ≠ .fail) (hu : s.hostUp a.port = true)
    (h : bar2Refused a.off n = true) : exec (.bar2Read a n) s = .next ((s.count 1).answer (List.replicate n 0xFF) false) := by
  have up : ¬(s.dev.state = .fail ∨ s.hostUp a.port = false) := by simp [hs, hu]
  show execBar2Read a n s = _
  simp only [execBar2Read, if_neg up, h, if_true]

/-- A read of memory that holds no error meets none (R298). -/
theorem State.meetRead_eq_self {s : State} (hb : s.mem.bad = []) (hs : s.mem.soft = []) (k n b : Nat) : s.meetRead k n b = s := by
  unfold State.meetRead
  induction wordsIn k n with
  | nil => rfl
  | cons w ws ih => rw [List.foldl_cons]; simpa [hb, hs, nmem] using ih

/-- A line whose check value matches leaves the device as it is (R374). -/
theorem State.leave_eq_self {s : State} (h : s.mem.badCheck = []) (x : Nat × Nat) (k : Nat) : (s.leave x k).1 = s := by
  unfold State.leave
  rw [h]
  dsimp only
  split <;> rfl

theorem exec_bar2Read {s : State} {a : BarAddr} {n : Nat} (hs : s.dev.state ≠ .fail) (hu : s.hostUp a.port = true)
    (h : bar2Refused a.off n = false) (hbad : s.mem.bad = []) (hsoft : s.mem.soft = []) (hchk : s.mem.badCheck = []) :
    exec (.bar2Read a n) s = .next (s.answer (s.mem.read (devKey a.off) n) (s.mem.marked (devKey a.off) n)) := by
  have up : ¬(s.dev.state = .fail ∨ s.hostUp a.port = false) := by simp [hs, hu]
  have lines : ∀ ls : List Nat, ls.foldl (fun s l => (s.leave (a.port, 0) l).1) s = s := fun ls => by
    induction ls with
    | nil => rfl
    | cons l ls ih => rw [List.foldl_cons, State.leave_eq_self hchk, ih]
  show execBar2Read a n s = _
  simp only [execBar2Read, if_neg up, h, Bool.false_eq_true, if_false, State.meetRead_eq_self hbad hsoft, lines]

/-! ## The summary (R413) -/

theorem exec_resyncRequest_idle {s : State} (h : s.dev.resync.busy = false) : exec (.resyncRequest 1) s =
    .next (s.modDev fun d => { d with resync := { s.dev.resync with busy := true, done := false, err := false } }) := by
  show Host.Outcome.next (s.resyncWrite 1) = _
  simp [State.resyncWrite, bits, h]

theorem exec_resyncRequest_busy {s : State} (h : s.dev.resync.busy = true) : exec (.resyncRequest 1) s = .next (s.count 0) := by
  show Host.Outcome.next (s.resyncWrite 1) = _
  simp [State.resyncWrite, bits, h, State.discardWrite]

/-- A request on a READY device whose host has room for the whole summary: it is written, DONE is set and the vector raised. -/
theorem exec_resyncComplete {s : State} (hb : s.dev.resync.busy = true) (hr : s.dev.state = .ready)
    (hl : 64 + s.summary.2.length ≤ s.dev.resync.len.toNat)
    (hq : s.qSpan 0 s.dev.resync.addr (s.summary.1 ++ s.summary.2).length = true) :
    exec .resyncComplete s = .next (((s.writeMem (qKey 0 s.dev.resync.addr) (s.summary.1 ++ s.summary.2) false false noName).modDev fun d =>
      { d with resync := { s.dev.resync with busy := false, done := true, err := false } }).raise 0 (bits s.dev.resync.vec.toNat 10 0)) := by
  have ready : s.ready = true := by rw [State.ready, hr]; rfl
  have room : decide (s.dev.resync.len.toNat < 64 + s.summary.2.length) = false := decide_eq_false (Nat.not_lt.2 hl)
  show execResyncComplete s = _
  simp only [execResyncComplete, hb, ready, room, hq, Bool.not_true, Bool.or_self, Bool.false_eq_true, if_false]

end Sys2Proof.Machine
end

section
/-! SUPPORT. The debug commands (R375, R416). -/

namespace Sys2Proof.Machine

/-! ## A command that is applied at once -/

/-- The command as it would arrive now. -/
def State.dbgNow (s : State) (cmd : Nat) (core : Nat) : DbgCmd :=
  ⟨s.dev.dbg.sel, cmd, s.dev.dbg.reg, s.dev.dbg.tag, s.dev.dbg.data, some (core / 16)⟩

/-- Without DEBUG every command is discarded and counted. -/
theorem exec_dbg_disabled {s : State} (h : s.dev.cfg.debug = false) :
    ∀ x ∈ [Instr.attach, .detach, .dbgHalt, .dbgResume, .dbgRead, .dbgWrite], exec x s = .next (s.count 0) := by
  have arrive : ∀ cmd, s.dbgArrive cmd = s.count 0 := fun cmd => by
    simp only [State.dbgArrive, h, Bool.not_false, if_true, State.discardWrite]
  intro x hx
  simp only [List.mem_cons, List.not_mem_nil, or_false] at hx
  rcases hx with rfl | rfl | rfl | rfl | rfl | rfl <;> exact congrArg Host.Outcome.next (arrive _)

theorem State.dbgArrive_eq {s : State} {core : Nat} (hd : s.dev.cfg.debug = true) (hc : s.dbgCore s.dev.dbg.sel = some core)
    (hr : (s.tile (core / 16)).st = .run) (hw : s.dev.dbg.waiting = []) (cmd : Nat) : s.dbgArrive cmd = s.dbgDo core (s.dbgNow cmd core) := by
  simp [State.dbgArrive, State.dbgWaits, State.dbgCommand, State.dbgNow, hd, hc, hr, hw, RecSt.refuses]

/-- ERR and its code alone are set. -/
@[simp] theorem State.dbgErr_mem (s : State) (e : Nat) : (s.dbgErr e).mem = s.mem := rfl
@[simp] theorem State.dbgErr_err (s : State) (e : Nat) : (s.dbgErr e).dev.dbg.err = e := rfl
@[simp] theorem State.dbgErr_haltedOn (s : State) (e core : Nat) : (s.dbgErr e).haltedOn core = s.haltedOn core := rfl
@[simp] theorem State.dbgErr_haltedCtx (s : State) (e core : Nat) : (s.dbgErr e).haltedCtx core = s.haltedCtx core := rfl
@[simp] theorem State.dbgErr_dbgValue (s : State) (e : Nat) (c : Ctx) (r : Word) : (s.dbgErr e).dbgValue c r = s.dbgValue c r := rfl

/-! ## Requests to a group of cores -/

/-- The cores of a list changed in one way. -/
def State.updCores (s : State) (cs : List Nat) (f : CoreSt → CoreSt) : State := cs.foldl (fun s c => s.updCore c f) s

theorem State.updCores_core {f : CoreSt → CoreSt} (hf : ∀ x, f (f x) = f x) (cs : List Nat) (s : State) (n : Nat) :
    (s.updCores cs f).core n = if n ∈ cs then f (s.core n) else s.core n := by
  unfold State.updCores
  induction cs generalizing s with
  | nil => simp
  | cons c cs ih =>
    rw [List.foldl_cons, ih, State.core_updCore]
    by_cases h : n = c
    · subst h; simp [hf]
    · simp [h]

@[simp] theorem State.updCores_mem (s : State) (cs : List Nat) (f : CoreSt → CoreSt) : (s.updCores cs f).mem = s.mem :=
  foldl_keeps (fun s c => s.updCore c f) State.mem (fun _ _ => rfl) cs s

@[simp] theorem State.updCores_dev (s : State) (cs : List Nat) (f : CoreSt → CoreSt) : (s.updCores cs f).dev = s.dev :=
  foldl_keeps (fun s c => s.updCore c f) State.dev (fun _ _ => rfl) cs s

@[simp] theorem State.resumeCores_mem (s : State) (cs : List Nat) : (s.resumeCores cs).mem = s.mem := rfl
@[simp] theorem State.resumeCores_dev (s : State) (cs : List Nat) : (s.resumeCores cs).dev = s.dev := rfl

/-- The halts of a group asked for or taken back. -/
def CoreSt.askHalt (b : Bool) (k : CoreSt) : CoreSt := { k with haltReq := b }
/-- A debugger that has gone. -/
def CoreSt.left (k : CoreSt) : CoreSt := { k with attached := false }

section
variable {s : State} {core : Nat}

theorem State.dbgDo_attach (h : s.attachedAt core = false) :
    s.dbgDo core (s.dbgNow 1 core) = (s.dbgErr 0).updCore core fun k => { k with attached := true } := by
  simp [State.dbgDo, State.dbgNow, h]

theorem State.dbgDo_detach : s.dbgDo core (s.dbgNow 2 core) =
    (((s.dbgErr 0).resumeCores (s.debugGroup core)).updCores (s.debugGroup core) (CoreSt.askHalt false)).updCores (s.namesOf core) CoreSt.left := rfl

theorem State.dbgDo_halt (h : s.attachedAt core = true) :
    s.dbgDo core (s.dbgNow 3 core) = (s.dbgErr 0).updCores (s.debugGroup core) (CoreSt.askHalt true) := by
  simp only [State.dbgDo, State.dbgNow, h, Bool.not_true, Bool.false_eq_true, if_false]; rfl

theorem State.dbgDo_resume (h : s.haltedOn core = true) :
    s.dbgDo core (s.dbgNow 4 core) = (s.dbgErr 0).resumeCores (s.debugGroup core) := by
  simp [State.dbgDo, State.dbgNow, h]

theorem State.dbgDo_read {c : Ctx} (h : s.haltedCtx core = some c) : s.dbgDo core (s.dbgNow 5 core) = (s.dbgErr 0).modDev fun d =>
    { d with dbg := { d.dbg with data := (s.dbgValue c s.dev.dbg.reg).1, tag := BitVec.ofNat 64 (s.dbgValue c s.dev.dbg.reg).2 } } := by
  simp only [State.dbgDo, State.dbgNow, State.dbgErr_haltedCtx, h, State.dbgErr_dbgValue]

end

/-! ## A general register written by a debugger (R375) -/

/-- DBGREG of a general register of the interrupted code. -/
theorem dbgReg_general {n : Nat} (h : n < 64) :
    regSpace (BitVec.ofNat 64 (8 * n)) = 0 ∧ regBank (BitVec.ofNat 64 (8 * n)) = false ∧ regIndex (BitVec.ofNat 64 (8 * n)) = n := by
  have e : (BitVec.ofNat 64 (8 * n)).toNat = 8 * n := by rw [BitVec.toNat_ofNat]; omega
  refine ⟨?_, ?_, ?_⟩
  · unfold regSpace bits; rw [e]; omega
  · unfold regBank bit; rw [e, beq_eq_false_iff_ne]; omega
  · unfold regIndex bits; rw [e]; omega

/-- A 64-bit value in the window is the DATA that a program would have put. -/
theorem dbgGReg_data {v : BitVec 2048} (h : v.toNat < 2 ^ 64) : dbgGReg v 0 = some (word (BitVec.ofNat 64 v.toNat)) := by
  have e : v.truncate 128 = (BitVec.ofNat 64 v.toNat).zeroExtend 128 := by
    apply BitVec.eq_of_toNat_eq
    simp only [BitVec.truncate_eq_setWidth, BitVec.toNat_setWidth, BitVec.toNat_ofNat]
    omega
  show some (GReg.mk .data (v.truncate 128)) = _
  rw [e]; rfl

/-- A register of the interrupted code is in neither the handler's bank nor the runtime's. -/
theorem State.setG_interrupted {s : State} {n : Nat} (v : GReg) (h0 : n ≠ 0) (hl : s.cpu.level = .runtime → n < 56 ∨ 59 < n)
    (hh : s.cpu.handler = false) : s.setG n v = s.modRegs fun r => { r with g := vset r.g n v } := by
  have rt : ¬(s.cpu.level = .runtime ∧ 56 ≤ n ∧ n ≤ 59) := by
    rintro ⟨h1, h2⟩
    have := hl h1
    omega
  simp only [State.setG, if_neg h0, if_neg rt, hh, Bool.false_eq_true, false_and, if_false]

/-- A register of the interrupted code is written in the halted context, whose response to it, if one is awaited, is to be discarded. -/
theorem State.dbgStore_general {u : State} {c : Ctx} {n : Nat} {v : BitVec 2048} (hn : n < 64) (h0 : n ≠ 0)
    (hl : c.level = .runtime → n < 56 ∨ 59 < n) (hv : v.toNat < 2 ^ 64) :
    ∃ t, u.dbgStore c (BitVec.ofNat 64 (8 * n)) v 0 = some t ∧ t.mem = u.mem ∧ t.dev = u.dev ∧ t.cpu.run = c.run ∧
      vget GReg.zero t.cpu.regs.g n = word (BitVec.ofNat 64 v.toNat) := by
  obtain ⟨hspace, hbank, hindex⟩ := dbgReg_general hn
  have hset : ({ ({ u with cpu := c } : State) with cpu := c.banked false } : State).setG n (word (BitVec.ofNat 64 v.toNat)) = _ :=
    State.setG_interrupted _ h0 hl rfl
  simp only [State.dbgStore, hspace, hbank, hindex, dbgGReg_data hv, hn, if_true]
  rw [hset]
  refine ⟨_, rfl, rfl, rfl, rfl, ?_⟩
  exact (vget_vset _ _ _ _ _).trans (if_pos ⟨rfl, hn⟩)

/-- A write to the halted context of the acting core seals its region (R375). -/
theorem State.dbgDo_write {s t : State} {core : Nat} (hc : s.haltedCtx core = some s.cpu) (hrun : s.cpu.run = .halted)
    (ht : (s.dbgErr 0).dbgStore s.cpu s.dev.dbg.reg s.dev.dbg.data s.dev.dbg.tag = some t) :
    s.dbgDo core (s.dbgNow 6 core) = t.seal := by
  have here : s.cpu.core = (s.dbgErr 0).cpu.core ∧ (s.dbgErr 0).cpu.run = .halted := ⟨rfl, hrun⟩
  simp only [State.dbgDo, State.dbgNow, State.dbgErr_haltedCtx, hc, if_pos here, ht, Option.map_some, Option.getD_some]

end Sys2Proof.Machine
end

section
/-! SUPPORT. The I3C port, boundary scan, the boot store and the version floors, sensors and roles (R405, R408, R410, R414, R415). -/

namespace Sys2Proof.Machine

/-! ## What a read answers -/

@[simp] theorem State.answer_reply (s : State) (bs : List Byte) (b : Bool) : (s.answer bs b).dev.reply = ⟨bs, b⟩ := rfl

@[simp] theorem length_leBytes (n x : Nat) : (leBytes n x).length = n := by
  induction n generalizing x with
  | zero => rfl
  | succ n ih => rw [leBytes, List.length_cons, ih]

/-- PWRTOT and the 64 PWRDIE words are 65 words of 8 bytes (R414). -/
theorem exec_i3cReadPower (s : State) : ∃ t, exec .i3cReadPower s = .next t ∧ t.dev.reply.bytes.length = 520 ∧ t.dev.reply.bad = false ∧
    t.mem = s.mem ∧ t.cpu = s.cpu := by
  refine ⟨_, rfl, ?_, rfl, rfl, rfl⟩
  simp only [State.answer_reply, List.length_append, length_leBytes, List.length_flatMap, List.map_const', List.length_range,
    List.sum_replicate, smul_eq_mul]

/-- A report begins with DEVID (R405). -/
theorem exec_attestationReport (s : State) (nonce : BitVec 256) : ∃ t, exec (.attestationReport nonce) s = .next t ∧
    t.dev.reply.bad = false ∧ t.dev.reply.bytes.take 8 = leBytes 8 0x0016 ∧ t.mem = s.mem ∧ t.cpu = s.cpu :=
  ⟨_, rfl, rfl, by simp only [State.answer_reply, List.append_assoc]; exact List.take_left' (length_leBytes 8 _), rfl, rfl⟩

/-! ## The boot store and the floors (R405, R414) -/

/-- An image takes the place of the one of its kind alone. -/
theorem findImage_store (store : List BootImage) (img : BootImage) (k : ImageKind) :
    findImage (img :: store.filter fun i => tableKind i.table != tableKind img.table) k =
      if k = tableKind img.table then some img else findImage store k := by
  unfold findImage
  rw [List.find?_cons]
  split
  · rename_i h
    rw [if_pos (eq_of_beq h).symm]
  · rename_i h
    have hk : k ≠ tableKind img.table := fun e => by simp [e] at h
    rw [if_neg hk, List.find?_filter]
    congr 1
    funext i
    by_cases hi : tableKind i.table = k
    · simp [hi, hk]
    · simp [hi]

theorem kindIdx_lt (k : ImageKind) : kindIdx k < 4 := by cases k <;> decide

/-- A floor raised under a vendor signature is the greater of the two. -/
theorem exec_versionFloorRaise (s : State) (k : ImageKind) (f : BitVec 32) : ∃ t, exec (.versionFloorRaise k f true) s = .next t ∧
    (vget 0 t.dev.floors (kindIdx k)).toNat = Nat.max (vget 0 s.dev.floors (kindIdx k)).toNat f.toNat := by
  by_cases h : (vget 0 s.dev.floors (kindIdx k)).toNat < f.toNat
  · refine ⟨s.modDev fun d => { d with floors := vset d.floors (kindIdx k) f }, if_pos (by simpa using h), ?_⟩
    rw [show (s.modDev fun d => { d with floors := vset d.floors (kindIdx k) f }).dev.floors = vset s.dev.floors (kindIdx k) f from rfl,
      vget_vset, if_pos ⟨rfl, kindIdx_lt k⟩]
    exact (Nat.max_eq_right h.le).symm
  · exact ⟨s, if_neg (by simpa using h), (Nat.max_eq_left (Nat.le_of_not_lt h)).symm⟩

/-! ## The debug window through the I3C port (R414) -/

theorem exec_debugWindowAccess_nack {s : State} (h : s.dev.cfg.debug = false) (off : Nat) (w : Option (BitVec 64)) :
    exec (.debugWindowAccess off w) s = .next (s.answer [] true) := if_pos (by rw [h]; rfl)

theorem exec_debugWindowAccess_read {s : State} (h : s.dev.cfg.debug = true) (off : Nat) :
    exec (.debugWindowAccess off none) s = .next (s.answer (leBytes 8 (s.dbgRead off)) false) := if_neg (by rw [h]; decide)

/-! ## Sensors and roles (R408, R410) -/

theorem exec_sensorSample_tile (s : State) (p temp current : Nat) : ∃ t, exec (.sensorSample (.tile p) temp current) s = .next t ∧
    t.mem = s.mem ∧ t.cpu = s.cpu ∧
    aget 0 t.fabric.throttle p = if 1050 < temp ∨ 40000 ≤ current then 2 else if 950 ≤ temp then 1 else 0 :=
  ⟨_, rfl, rfl, rfl, (aget_aput 0 s.fabric.throttle p p _).trans (if_pos rfl)⟩

/-- A draw picks an entry of a list that has one. -/
theorem getElem?_mod_of_ne_nil {α : Type} {l : List α} (h : l ≠ []) (n : Nat) : ∃ x ∈ l, l[n % l.length]? = some x := by
  have lt : n % l.length < l.length := Nat.mod_lt _ (List.length_pos_of_ne_nil h)
  exact ⟨_, List.getElem_mem lt, List.getElem?_eq_getElem lt⟩

/-- The core that fails has the role; every role it has moves to a core that stays, if one does (R408). -/
theorem exec_roleRestart (s : State) (role : Nat) (h : ∃ r ∈ s.dev.roles, r.1 = role) :
    ∃ r ∈ s.dev.roles, r.1 = role ∧ ∃ t, exec (.roleRestart role) s = .next t ∧ t.mem = s.mem ∧ t.cpu = s.cpu ∧
      let rest := s.dev.roles.filter fun x => !(x.2 == r.2)
      (rest = [] → t.dev = s.dev) ∧ (rest ≠ [] → ∃ y ∈ rest,
        t.dev.roles = rest ++ (s.dev.roles.filter fun x => x.2 == r.2).map fun x => (x.1, y.2)) := by
  have some_has : (s.dev.roles.filter fun r => r.1 == role) ≠ [] := by
    obtain ⟨r, hr, he⟩ := h
    exact List.ne_nil_of_mem (List.mem_filter.2 ⟨hr, beq_iff_eq.2 he⟩)
  obtain ⟨r, hr, hfail⟩ := getElem?_mod_of_ne_nil some_has (Config.failedRole s.free)
  obtain ⟨hmem, hrole⟩ := List.mem_filter.1 hr
  refine ⟨r, hmem, eq_of_beq hrole, ?_⟩
  show ∃ t, execRoleRestart role s = .next t ∧ _
  simp only [execRoleRestart, State.drawFree, hfail]
  by_cases hrest : (s.dev.roles.filter fun x => !(x.2 == r.2)) = []
  · rw [hrest]
    exact ⟨_, rfl, rfl, rfl, fun _ => rfl, fun hn => absurd rfl hn⟩
  · obtain ⟨y, hy, hheir⟩ := getElem?_mod_of_ne_nil hrest (Config.heirRole (s.free + 1))
    rw [hheir]
    exact ⟨_, rfl, rfl, rfl, fun hn => absurd hn hrest, fun _ => ⟨y, hy, rfl⟩⟩

end Sys2Proof.Machine
end

section
/-! SUPPORT. The boot of R404, step by step, and the device's events together. -/

namespace Sys2Proof.Machine

/-! ## What binding the tiles and setting the firmware leave -/

/-- What neither the binding of tiles nor the cores' vectors touch. -/
def State.outside (s : State) : Device × Fabric × List (Nat × Launch) × List Msg := (s.dev, s.fabric, s.launches, s.net)

theorem State.bootTile_outside (s : State) (t p cls : Nat) : (s.bootTile t p cls).outside = s.outside := by
  unfold State.bootTile
  dsimp only
  split <;> rfl

theorem State.bindTiles_outside (s : State) (bs : List (Nat × Nat)) : (s.bindTiles bs).outside = s.outside := by
  refine foldl_keeps _ State.outside (fun u i => ?_) _ s
  split
  · dsimp only
    split
    · rfl
    · exact u.bootTile_outside ..
  · rfl

theorem State.setFirmware_outside (s : State) (image : BitVec 256) (roles : List (Nat × Nat × Nat)) :
    (s.setFirmware image roles).outside = ({ s.dev with fwText := Config.firmwareText image }, s.fabric, s.launches, s.net) := by
  unfold State.setFirmware
  refine (foldl_keeps _ State.outside ?_ roles _).trans rfl
  exact fun _ _ => rfl

/-- The firmware set and the tiles bound: the text capability is the image's. -/
theorem State.setFirmware_bindTiles (s : State) (image : BitVec 256) (roles : List (Nat × Nat × Nat)) (bs : List (Nat × Nat)) :
    ((s.setFirmware image roles).bindTiles bs).dev = { s.dev with fwText := Config.firmwareText image } ∧
      ((s.setFirmware image roles).bindTiles bs).fabric = s.fabric ∧
      ((s.setFirmware image roles).bindTiles bs).launches = s.launches ∧ ((s.setFirmware image roles).bindTiles bs).net = s.net := by
  have same := ((s.setFirmware image roles).bindTiles_outside bs).trans (s.setFirmware_outside image roles)
  simpa only [State.outside, Prod.mk.injEq] using same

/-! ## Steps 4 to 8 (R404) -/

theorem State.bootWith_noRect {s : State} (h : s.numberRects s.bindings 63 [] = []) : s.bootWith = s.bootFails 5 := by
  simp only [State.bootWith, h, List.isEmpty_nil, if_true]

theorem State.bootWith_noFirmware {s : State} (h : s.numberRects s.bindings 63 [] ≠ []) (hf : s.placeFirmware = none) :
    s.bootWith = s.bootFails 6 := by
  have some_rect : (s.numberRects s.bindings 63 []).isEmpty = false := by simpa using h
  simp only [State.bootWith, some_rect, Bool.false_eq_true, if_false, hf]

/-- The tables of a boot that ends READY, before its firmware is set and its tiles are bound. -/
def State.inForce (s : State) (rects : List Rect) (roles : List (Nat × Nat × Nat)) : State :=
  { s with
    fabric := { s.fabric with rects := rects, links := bootLinks s.dev.cfg }
    dev := { s.dev with state := .ready, code := 0, roles := roles, bootSummary := rects.map fun r => (s.linksIn 2 r, s.linksIn 3 r) } }

theorem State.bootWith_eq {s : State} {roles : List (Nat × Nat × Nat)} {a : BootImage} (h : s.numberRects s.bindings 63 [] ≠ [])
    (hf : s.placeFirmware = some roles) (ha : findImage s.dev.store .firmware = some a) :
    s.bootWith = (((s.inForce (s.numberRects s.bindings 63 []) roles).setFirmware a.digest roles).bindTiles s.bindings).count 6
      (s.unnamed s.bindings (s.numberRects s.bindings 63 [])) := by
  have some_rect : (s.numberRects s.bindings 63 []).isEmpty = false := by simpa using h
  simp only [State.bootWith, some_rect, Bool.false_eq_true, if_false, hf, ha, Option.map_some, Option.getD_some, State.inForce]

theorem State.count_dev (s : State) (i n : Nat) : (s.count i n).dev =
    { s.dev with health := vset s.dev.health i (Nat.min (vget 0 s.dev.health i + n) (2 ^ 64 - 1)) } := by unfold State.count; rfl

/-- What the end of a boot has in force: rectangles, roles and the image's text capability. -/
structure State.BootedFrom (t s : State) (rects : List Rect) (roles : List (Nat × Nat × Nat)) (image : BitVec 256) : Prop where
  state : t.dev.state = .ready
  code : t.dev.code = 0
  rects : t.fabric.rects = rects
  roles : t.dev.roles = roles
  launches : t.launches = s.launches
  net : t.net = s.net
  cfg : t.dev.cfg = s.dev.cfg
  fwText : t.dev.fwText = Config.firmwareText image

theorem State.inForce_booted (s : State) (rects : List Rect) (roles : List (Nat × Nat × Nat)) (image : BitVec 256) (bs : List (Nat × Nat))
    (n : Nat) : ((((s.inForce rects roles).setFirmware image roles).bindTiles bs).count 6 n).BootedFrom s rects roles image := by
  obtain ⟨dev, fabric, launches, net⟩ := (s.inForce rects roles).setFirmware_bindTiles image roles bs
  generalize ((s.inForce rects roles).setFirmware image roles).bindTiles bs = t at *
  refine ⟨?_, ?_, ?_, ?_, ?_, ?_, ?_, ?_⟩
  · rw [State.count_dev, dev]; rfl
  · rw [State.count_dev, dev]; rfl
  · rw [State.count_fabric, fabric]; rfl
  · rw [State.count_dev, dev]; rfl
  · rw [State.count_launches, launches]; rfl
  · rw [State.count_net, net]; rfl
  · rw [State.count_dev, dev]; rfl
  · rw [State.count_dev, dev]

theorem State.bootWith_ready {s : State} {roles : List (Nat × Nat × Nat)} {a : BootImage} (h : s.numberRects s.bindings 63 [] ≠ [])
    (hf : s.placeFirmware = some roles) (ha : findImage s.dev.store .firmware = some a) :
    s.bootWith.BootedFrom s (s.numberRects s.bindings 63 []) roles a.digest := by
  rw [State.bootWith_eq h hf ha]
  exact State.inForce_booted ..

/-! ## Power-on (R404) -/

/-- Power has come back and the tables of the images are loaded. -/
def State.loaded (s : State) (is : List BootImage) : State :=
  { s.powerCycle with dev := { s.powerCycle.dev with cfg := loadTables is s.fabric.lost } }

theorem exec_powerOnReset_empty {s : State} (h : s.dev.store = []) :
    ∃ t, exec .powerOnReset s = .next t ∧ t.dev.state = .fail ∧ t.dev.code = 1 := by
  have none_found : ∀ k, findImage s.powerCycle.dev.store k = none := fun k => by
    rw [show s.powerCycle.dev.store = s.dev.store from rfl, h]; rfl
  refine ⟨s.powerCycle.bootFails 1, ?_, rfl, rfl⟩
  show execPowerOnReset s = _
  simp only [execPowerOnReset, none_found]

/-- A boot that finds its four images and the tables in them. -/
theorem exec_powerOnReset {s : State} {a b c d : BootImage} {k : ConfigTable} {ls : List Word}
    (ha : findImage s.dev.store .firmware = some a) (hb : findImage s.dev.store .config = some b)
    (hc : findImage s.dev.store .links = some c) (hd : findImage s.dev.store .lost = some d) (hk : b.table = .config k)
    (hl : c.table = .links ls) :
    exec .powerOnReset s = .next (if verifyAll s.dev.floors [a, b, c, d] ≠ 0 then s.powerCycle.bootFails (verifyAll s.dev.floors [a, b, c, d])
      else if !configOk k || !linkTableOk ls then s.powerCycle.bootFails 4 else (s.loaded [a, b, c, d]).bootWith) := by
  have store : s.powerCycle.dev.store = s.dev.store := rfl
  have floors : s.powerCycle.dev.floors = s.dev.floors := rfl
  show execPowerOnReset s = _
  simp only [execPowerOnReset, store, floors, ha, hb, hc, hd, hk, hl, State.loaded]
  split
  · rfl
  · split <;> rfl

/-! ## The events of the device together -/

/-- The debug commands on a core whose tile is in service (R375, R416). -/
theorem exec_dbg {s : State} {core : Nat} (hd : s.dev.cfg.debug = true) (hc : s.dbgCore s.dev.dbg.sel = some core)
    (hr : (s.tile (core / 16)).st = .run) (hw : s.dev.dbg.waiting = []) :
    exec .attach s = .next (s.dbgDo core (s.dbgNow 1 core)) ∧ exec .detach s = .next (s.dbgDo core (s.dbgNow 2 core)) ∧
      exec .dbgHalt s = .next (s.dbgDo core (s.dbgNow 3 core)) ∧ exec .dbgResume s = .next (s.dbgDo core (s.dbgNow 4 core)) ∧
      exec .dbgRead s = .next (s.dbgDo core (s.dbgNow 5 core)) ∧ exec .dbgWrite s = .next (s.dbgDo core (s.dbgNow 6 core)) :=
  have now := fun cmd => congrArg Host.Outcome.next (State.dbgArrive_eq hd hc hr hw cmd)
  ⟨now 1, now 2, now 3, now 4, now 5, now 6⟩

/-- DETACH ends the attachment under every name of the core and takes back the halts asked for. -/
theorem State.dbgDo_detach_fields (s : State) (core : Nat) :
    let t := s.dbgDo core (s.dbgNow 2 core)
    (∀ n ∈ s.namesOf core, (t.core n).attached = false) ∧ (∀ n ∈ s.debugGroup core, (t.core n).haltReq = false) ∧
      t.dev.dbg.err = 0 ∧ t.mem = s.mem := by
  have left : ∀ x : CoreSt, x.left.left = x.left := fun _ => rfl
  have asked : ∀ x : CoreSt, (x.askHalt false).askHalt false = x.askHalt false := fun _ => rfl
  simp only [State.dbgDo_detach, State.updCores_core left, State.updCores_core asked]
  refine ⟨fun n hn => ?_, fun n hn => ?_, by simp, by simp⟩
  · rw [if_pos hn]; rfl
  · rw [if_pos hn]; split <;> rfl

/-- HALT asks for it on every core of the group and on no other. -/
theorem State.dbgDo_halt_fields {s : State} {core : Nat} (h : s.attachedAt core = true) :
    let t := s.dbgDo core (s.dbgNow 3 core)
    (∀ n ∈ s.debugGroup core, (t.core n).haltReq = true) ∧ (∀ n, n ∉ s.debugGroup core → t.core n = s.core n) ∧
      t.dev.dbg.err = 0 ∧ t.mem = s.mem := by
  have asked : ∀ x : CoreSt, (x.askHalt true).askHalt true = x.askHalt true := fun _ => rfl
  simp only [State.dbgDo_halt h, State.updCores_core asked]
  refine ⟨fun n hn => ?_, fun n hn => ?_, by simp, by simp⟩
  · rw [if_pos hn]; rfl
  · rw [if_neg hn]; rfl

/-- WRITE of a general register of the halted context of the acting core. -/
theorem State.dbgDo_write_general {s : State} {core n : Nat} (hc : s.haltedCtx core = some s.cpu) (hrun : s.cpu.run = .halted)
    (hn : n < 64) (h0 : n ≠ 0) (hl : s.cpu.level = .runtime → n < 56 ∨ 59 < n) (hreg : s.dev.dbg.reg = BitVec.ofNat 64 (8 * n))
    (htag : s.dev.dbg.tag = 0) (hv : s.dev.dbg.data.toNat < 2 ^ 64) :
    let t := s.dbgDo core (s.dbgNow 6 core)
    t.dev.dbg.err = 0 ∧ vget GReg.zero t.cpu.regs.g n = word (BitVec.ofNat 64 s.dev.dbg.data.toNat) ∧ t.mem = s.mem ∧
      t.cpu.run = .halted := by
  obtain ⟨t, ht, hmem, hdev, hr, hg⟩ := State.dbgStore_general (u := s.dbgErr 0) hn h0 hl hv
  rw [← hreg, ← htag] at ht
  simp only [State.dbgDo_write hc hrun ht]
  exact ⟨(congrArg (fun d : Device => d.dbg.err) hdev).trans rfl, hg, hmem, hr.trans hrun⟩

/-- A boot with its four images: the code of the step that fails, or READY with the tables in force. -/
theorem exec_powerOnReset_images {s : State} {a b c d : BootImage} {k : ConfigTable} {ls : List Word}
    (ha : findImage s.dev.store .firmware = some a) (hb : findImage s.dev.store .config = some b)
    (hc : findImage s.dev.store .links = some c) (hd : findImage s.dev.store .lost = some d) (hk : b.table = .config k)
    (hl : c.table = .links ls) :
    let code := verifyAll s.dev.floors [a, b, c, d]
    let u := s.loaded [a, b, c, d]
    let rects := u.numberRects u.bindings 63 []
    (code ≠ 0 → exec .powerOnReset s = .next (s.powerCycle.bootFails code)) ∧
      (code = 0 → (configOk k = false ∨ linkTableOk ls = false) → exec .powerOnReset s = .next (s.powerCycle.bootFails 4)) ∧
      (code = 0 → configOk k = true → linkTableOk ls = true →
        (rects = [] → exec .powerOnReset s = .next (u.bootFails 5)) ∧
        (rects ≠ [] → u.placeFirmware = none → exec .powerOnReset s = .next (u.bootFails 6)) ∧
        ∀ roles, rects ≠ [] → u.placeFirmware = some roles → ∃ t, exec .powerOnReset s = .next t ∧ t.BootedFrom u rects roles a.digest) := by
  intro code u rects
  have run := exec_powerOnReset ha hb hc hd hk hl
  have boots : code = 0 → configOk k = true → linkTableOk ls = true → exec .powerOnReset s = .next u.bootWith := fun h0 h1 h2 => by
    rw [run, if_neg (not_not.2 h0), if_neg (by simp [h1, h2])]
  refine ⟨fun h => ?_, fun h0 bad => ?_, fun h0 h1 h2 => ⟨fun h => ?_, fun h hf => ?_, fun roles h hf => ?_⟩⟩
  · rw [run, if_pos h]
  · rw [run, if_neg (not_not.2 h0), if_pos (by rcases bad with h | h <;> simp [h])]
  · rw [boots h0 h1 h2, State.bootWith_noRect h]
  · rw [boots h0 h1 h2, State.bootWith_noFirmware h hf]
  · exact ⟨u.bootWith, boots h0 h1 h2, State.bootWith_ready h hf ha⟩

/-! ## The registers that a host writes (R14, R262) -/

theorem exec_registerWrite_resynca (s : State) {v : Nat} (h : v % 64 = 0) (hv : v < 2 ^ 64) :
    ∃ t, exec (.registerWrite 0x400 v) s = .next t ∧ t.dev.resync.addr.toNat = v ∧ t.mem = s.mem ∧ t.cpu = s.cpu :=
  ⟨_, congrArg Host.Outcome.next (s.bar0Write_resynca h), (BitVec.toNat_ofNat v 64).trans (Nat.mod_eq_of_lt hv), rfl, rfl⟩

theorem exec_registerWrite_admfrac (s : State) {v : Nat} (hv : v < 2 ^ 16) :
    ∃ t, exec (.registerWrite 0x1000 v) s = .next t ∧ t.front.admfrac.toNat = v ∧ t.mem = s.mem := by
  have high : bits v 63 16 = 0 := by unfold bits; rw [Nat.div_eq_of_lt hv, Nat.zero_mod]
  exact ⟨_, congrArg Host.Outcome.next (s.bar0Write_admfrac high), (BitVec.toNat_ofNat v 16).trans (Nat.mod_eq_of_lt hv), rfl⟩

/-- Settles O60: each event by its own lemma above, the debug commands by what they do to the attached core and the boot by its steps. -/
theorem deviceEvents : Obligations.DeviceEvents := by
  unfold Obligations.DeviceEvents
  intro s
  refine ⟨fun v h hv => exec_registerWrite_resynca s h hv, fun v hv => exec_registerWrite_admfrac s hv,
    fun v h => congrArg Host.Outcome.next (s.bar0Write_admfrac_reserved h), ?bar2Failed,
    fun a bs hs h hp => exec_bar2Write hs h hp, fun a bs hs h => exec_bar2Write_refused hs h,
    fun port a n h => exec_bar2Read_none (.inr h) n, fun port a n hs hu h => exec_bar2Read_refused hs hu h,
    fun port a n hs hu h hb hsoft hc => exec_bar2Read hs hu h hb hsoft hc,
    ?request, exec_resyncRequest_busy, fun hb hr hl hq => exec_resyncComplete hb hr hl hq,
    exec_dbg_disabled, ?commands, rfl, exec_i3cReadPower s, exec_attestationReport s, ?store, exec_versionFloorRaise s,
    fun k f => rfl, fun off w h => exec_debugWindowAccess_nack h off w, fun off h => exec_debugWindowAccess_read h off,
    ⟨_, rfl, rfl⟩, ⟨_, rfl, rfl, rfl⟩, ⟨_, rfl, rfl⟩, ⟨_, rfl, rfl⟩, exec_powerOnReset_empty, ?boot,
    exec_sensorSample_tile s, exec_roleRestart s⟩
  case bar2Failed => exact fun h a n bs => ⟨exec_bar2Write_fail h a bs, fun port => exec_bar2Read_none (.inl h) n⟩
  case request => exact fun h => ⟨_, exec_resyncRequest_idle h, rfl, rfl, rfl⟩
  case commands =>
    intro core hd hc hr hw
    obtain ⟨attach, detach, halt, resume, read, write⟩ := exec_dbg hd hc hr hw
    refine ⟨fun h => ?_, ⟨_, detach, s.dbgDo_detach_fields core⟩, fun h => ⟨_, halt, State.dbgDo_halt_fields h⟩, fun h => ?_,
      fun c h => ?_, fun n v _ hrun hcur hn h0 hl hreg htag hdata hv => ⟨_, write, ?_⟩⟩
    · rw [attach, State.dbgDo_attach h]
    · rw [resume, State.dbgDo_resume h]
    · rw [read, State.dbgDo_read h]
    · subst hdata
      exact State.dbgDo_write_general hcur hrun hn h0 hl hreg htag hv
  case store =>
    intro img
    refine ⟨_, rfl, ?_, fun k hk => ?_, rfl⟩
    · exact (findImage_store ..).trans (if_pos rfl)
    · exact (findImage_store ..).trans (if_neg hk)
  case boot =>
    intro a b c d k ls ha hb hc hd hk hl code u rects fails
    obtain ⟨unverified, badTable, tables⟩ := exec_powerOnReset_images ha hb hc hd hk hl
    refine ⟨fun h => ⟨_, unverified h, rfl, rfl⟩, fun h0 h => ⟨_, badTable h0 h, rfl, rfl⟩, fun h0 h1 h2 => ?_⟩
    obtain ⟨noRect, noFirmware, ready⟩ := tables h0 h1 h2
    refine ⟨fun h => ⟨_, noRect h, rfl, rfl⟩, fun h hf => ⟨_, noFirmware h hf, rfl, rfl⟩, fun roles h hf => ?_⟩
    obtain ⟨t, run, booted⟩ := ready roles h hf
    exact ⟨t, run, booted.state, booted.code, booted.rects, booted.roles, booted.launches, booted.net, booted.cfg, booted.fwText⟩

end Sys2Proof.Machine
end

section
/-! SUPPORT. FRM.RM through the CSR instructions (R38), and a generator's output and counter through RNG (R31, R131). -/

namespace Sys2Proof.Machine

/-! ## FRM (R38) -/

/-- A trap that is no translation fault leaves FRM as it was. -/
theorem State.takeTrap_frm {s : State} {t : Trap} (h : s.takesTraps) (h8 : t.cause ≠ 8) :
    (s.takeTrap t).cpu.csrs.frm = s.cpu.csrs.frm := by
  rw [State.takeTrap, if_neg h8]
  obtain ⟨-, -, -, -, -, hfrm, -⟩ := s.takeTrapWord_fields (BitVec.ofNat 64 t.cause) t.tval t.telem h
  exact hfrm

/-- What an illegal instruction leaves of the registers that R38 names. -/
theorem State.takeTrap_illegal {s : State} (w : Nat) (h : s.takesTraps) :
    (s.takeTrap (illegal w)).cpu.csrs.frm = s.cpu.csrs.frm ∧ (s.takeTrap (illegal w)).cpu.csrs.tcause = 1 ∧
      (s.takeTrap (illegal w)).cpu.csrs.tval = BitVec.ofNat 64 w ∧ (s.takeTrap (illegal w)).cpu.csrs.tpc = BitVec.ofNat 64 s.pc ∧
      (s.takeTrap (illegal w)).cpu.regs = s.cpu.regs := by
  obtain ⟨hcause, htval, -, htpc, -, hfrm, -, -, -, -, -, -, hregs, -⟩ := s.takeTrapWord_fields 1 w 0 h
  exact ⟨hfrm, hcause, htval, htpc, hregs⟩

/-- The low three bits of a word. -/
theorem bits_two_zero (x : Nat) : bits x 2 0 = x % 2 ^ 3 := by simp [bits]

/-- A write of FRM takes RM from the value written. -/
theorem rm_csrWritten (s : State) (x : Word) : bits (s.csrWritten 5 7 x).toNat 2 0 = bits x.toNat 2 0 := by
  have key : ∀ old : Word, (under (BitVec.ofNat 64 7) old x).setWidth 3 = x.setWidth 3 := fun old => by
    unfold under; ext i hi; interval_cases i <;> simp
  have toNat : ∀ y : Word, y.toNat % 2 ^ 3 = (y.setWidth 3).toNat := fun y => (BitVec.toNat_setWidth 3 y).symm
  rw [bits_two_zero, bits_two_zero, toNat, toNat]
  exact congrArg BitVec.toNat (key _)

/-- No CSR but FRM itself stores into FRM. -/
theorem State.csrStore_frm (s : State) {n : Nat} (h : n ≠ 5) (x : Word) : (s.csrStore n x).cpu.csrs.frm = s.cpu.csrs.frm := by
  unfold State.csrStore
  split
  case h_1 => exact absurd rfl h
  case h_4 => unfold State.setRepprog; split <;> rfl
  case h_5 => unfold State.setVprog; split <;> rfl
  all_goals rfl

/-- FRM.RM is a rounding mode: none of the codes 6 and 7. -/
def State.rmLegal (s : State) : Prop := bits s.cpu.csrs.frm.toNat 2 0 < 6

theorem State.rmLegal_advance {s : State} : s.advance.rmLegal ↔ s.rmLegal := by unfold State.rmLegal; rw [State.advance_cpu_csrs]

theorem State.rmLegal_of_frm {s t : State} (e : t.cpu.csrs.frm = s.cpu.csrs.frm) (h : s.rmLegal) : t.rmLegal := by
  unfold State.rmLegal; rw [e]; exact h

theorem State.csrWrote_rmLegal {s : State} {n rw rsv : Nat} {z : Word} (hm : csrMap n = some (rw, rsv))
    (hz : n = 5 → bits z.toNat 2 0 < 6) (h : s.rmLegal) : (s.csrWrote n rw z).rmLegal := by
  unfold State.csrWrote
  by_cases h0 : rw = 0
  · rwa [if_pos h0]
  · rw [if_neg h0]
    by_cases h5 : n = 5
    · subst h5
      obtain ⟨rfl, -⟩ : 7 = rw ∧ _ = rsv := by simpa [csrMap] using hm
      exact (rm_csrWritten s z).trans_lt (hz rfl)
    · exact State.rmLegal_of_frm (s.csrStore_frm h5 _) h

/-- A write of CSRW or CSRS leaves FRM.RM a rounding mode, whether the value is taken or refused. -/
theorem State.finish_csrSet_rmLegal {s t : State} {n w rw rsv : Nat} {z : Word} (ht : s.takesTraps) (h : s.rmLegal)
    (hm : csrMap n = some (rw, rsv)) (e : s.finish (s.csrSet n w z) = .next t) : t.rmLegal := by
  by_cases hz : CsrTakes n rsv z
  · rw [State.csrSet_of_takes hm hz, State.finish_ok] at e
    cases e
    exact State.rmLegal_advance.2 (State.csrWrote_rmLegal hm hz.2 h)
  · rw [State.csrSet_of_not_takes hm hz, State.finish_trap] at e
    cases e
    exact State.rmLegal_of_frm (State.takeTrap_frm ht (t := illegal _) (show (1 : Nat) ≠ 8 by decide)) h

/-- A POISON operand of CSRW, CSRS and CSRC traps with its reason. -/
theorem exec_csr_poison {s : State} {n a : Nat} (hok : s.csrOk n = true) (h : ¬s.clean a) :
    ∀ x ∈ [Instr.csrw n a, .csrs n a, .csrc n a], exec x s = .next (s.takeTrap ⟨6, (s.getG a).reason, 0⟩) := by
  have hv : s.value a = .trap ⟨6, (s.getG a).reason, 0⟩ := if_pos (not_not.1 h)
  simp only [List.forall_mem_cons, List.not_mem_nil, false_imp_iff, implies_true, and_true]
  show execCsrw n a s = _ ∧ execCsrs n a s = _ ∧ execCsrc n a s = _
  simp only [execCsrw, execCsrs, execCsrc, hok, Bool.not_true, Bool.false_eq_true, if_false, hv, Out.bind, State.finish_trap, and_self]

/-- CSRR leaves FRM.RM a rounding mode: it writes a general register alone. -/
theorem exec_csrr_rmLegal {s t : State} {n a : Nat} (ht : s.takesTraps) (h : s.rmLegal) (e : exec (.csrr n a) s = .next t) : t.rmLegal := by
  by_cases hok : s.csrOk n = true
  · by_cases hw : n = 0 ∧ s.nearReadInFlight = true
    · have : exec (.csrr n a) s = .next s.stall := by
        show execCsrr n a s = _
        rw [execCsrr, hok, Bool.not_true, if_neg Bool.false_ne_true, if_pos hw, State.finish_wait]
      rw [this] at e; cases e; exact h
    · rw [exec_csrr a hok (by rw [← Bool.not_eq_true]; tauto)] at e
      cases e
      refine State.rmLegal_of_frm ?_ h
      rw [State.advance_cpu_csrs, (State.setG_keeps ..).2.2.2.1]
      unfold State.noteCsr; split <;> simp
  · rw [(exec_csr_of_not_ok a (by simpa using hok)).1] at e
    cases e
    exact State.rmLegal_of_frm (State.takeTrap_frm ht (t := illegal _) (show (1 : Nat) ≠ 8 by decide)) h

/-- CSRW, CSRS and CSRC leave FRM.RM a rounding mode. -/
theorem exec_csr_write_rmLegal {s t : State} {n a : Nat} {x : Instr} (ht : s.takesTraps) (h : s.rmLegal)
    (hx : x ∈ [Instr.csrw n a, .csrs n a, .csrc n a]) (e : exec x s = .next t) : t.rmLegal := by
  by_cases hok : s.csrOk n = true
  · obtain ⟨⟨rw', rsv⟩, hm⟩ : ∃ m, csrMap n = some m := Option.isSome_iff_exists.1 (Bool.and_eq_true_iff.1 hok).1
    by_cases hc : s.clean a
    · simp only [List.mem_cons, List.not_mem_nil, or_false] at hx
      rcases hx with rfl | rfl | rfl
      · exact State.finish_csrSet_rmLegal ht h hm ((exec_csrw hok hc).symm.trans e)
      · exact State.finish_csrSet_rmLegal ht h hm ((exec_csrs hok hc).symm.trans e)
      · rw [exec_csrc hok hc hm] at e
        cases e
        refine State.rmLegal_advance.2 ?_
        by_cases hb : n = 5 ∧ 6 ≤ bits (s.csrRead n &&& ~~~s.ival a).toNat 2 0
        · rwa [if_pos hb]
        · rw [if_neg hb]
          exact State.csrWrote_rmLegal hm (fun h5 => Nat.lt_of_not_le fun h6 => hb ⟨h5, h6⟩) h
    · rw [exec_csr_poison hok hc x hx] at e
      cases e
      exact State.rmLegal_of_frm (State.takeTrap_frm ht (by simp)) h
  · obtain ⟨-, hw, hs, hc⟩ := exec_csr_of_not_ok (s := s) (n := n) a (by simpa using hok)
    have : exec x s = .next (s.takeTrap (illegal (wordOfInstr x))) := by
      simp only [List.mem_cons, List.not_mem_nil, or_false] at hx
      rcases hx with rfl | rfl | rfl <;> assumption
    rw [this] at e
    cases e
    exact State.rmLegal_of_frm (State.takeTrap_frm ht (t := illegal _) (show (1 : Nat) ≠ 8 by decide)) h

/-- Settles O32: a value with RM at 6 or 7 is none that FRM takes, and every CSR instruction keeps a legal RM. -/
theorem roundingModeLegal : Obligations.RoundingModeLegal := by
  unfold Obligations.RoundingModeLegal
  refine ⟨?refusal, fun s t n a x ht h hx e => ?_⟩
  case refusal =>
    intro s a hc ht x y bad refused
    have hok : s.csrOk 5 = true := by simp [State.csrOk, csrMap, csrLevel]
    have hm : csrMap 5 = some (7, 2 ^ 64 - 2 ^ 3) := rfl
    have refuse : ∀ i z, exec i s = s.finish (s.csrSet 5 (wordOfInstr i) z) → bad z → refused i := fun i z e hz => by
      have hn : ¬CsrTakes 5 (2 ^ 64 - 2 ^ 3) z := fun hz' => absurd (hz'.2 rfl) (Nat.not_lt.2 hz)
      exact ⟨_, by rw [e, State.csrSet_of_not_takes hm hn, State.finish_trap], State.takeTrap_illegal _ ht⟩
    exact ⟨refuse _ _ (exec_csrw hok hc), refuse _ _ (exec_csrs hok hc), fun hz => by rw [exec_csrc hok hc hm, if_pos ⟨rfl, hz⟩]⟩
  · rw [List.mem_cons] at hx
    rcases hx with rfl | hx
    · exact exec_csrr_rmLegal ht h e
    · exact exec_csr_write_rmLegal ht h hx e

/-! ## Generators (R31, R131) -/

section
variable {s : State} {b : Nat} (h : s.clean b) (d a : Nat)
include h

/-- Op 0 draws the next output of the generator named (R31). -/
theorem exec_rng_draw (op : bits (s.ival b).toNat 4 2 = 0) : exec (.rng d a b) s =
    .next ((s.modCpu fun c => { c with gens := c.gens.skip ((s.ival b).toNat % 4) 1 }).setG d
      (word (s.cpu.gens.out ((s.ival b).toNat % 4) 0))).advance := by
  show execRng d a b s = _
  simp only [execRng, s.value_of_clean h, Out.bind, op, State.finish_ok, State.put, word]

theorem exec_rng_key (op : bits (s.ival b).toNat 4 2 = 1) : exec (.rng d a b) s =
    .next (s.setG d (word (vget 0 s.cpu.gens.key ((s.ival b).toNat % 4)))).advance := by
  show execRng d a b s = _
  simp only [execRng, s.value_of_clean h, Out.bind, op, State.finish_ok, State.put, word]

theorem exec_rng_ctr (op : bits (s.ival b).toNat 4 2 = 2) : exec (.rng d a b) s =
    .next (s.setG d (word (vget 0 s.cpu.gens.ctr ((s.ival b).toNat % 4)))).advance := by
  show execRng d a b s = _
  simp only [execRng, s.value_of_clean h, Out.bind, op, State.finish_ok, State.put, word]

/-- Ops 3 and 4 exchange the key and the counter. -/
theorem exec_rng_setKey (ha : s.clean a) (op : bits (s.ival b).toNat 4 2 = 3) : exec (.rng d a b) s =
    .next ((s.modCpu fun c => { c with gens := { c.gens with key := vset c.gens.key ((s.ival b).toNat % 4) (s.ival a) } }).setG d
      (word (vget 0 s.cpu.gens.key ((s.ival b).toNat % 4)))).advance := by
  show execRng d a b s = _
  simp only [execRng, s.value_of_clean h, s.value_of_clean ha, Out.bind, op, State.finish_ok, State.put, word]

theorem exec_rng_setCtr (ha : s.clean a) (op : bits (s.ival b).toNat 4 2 = 4) : exec (.rng d a b) s =
    .next ((s.modCpu fun c => { c with gens := { c.gens with ctr := vset c.gens.ctr ((s.ival b).toNat % 4) (s.ival a) } }).setG d
      (word (vget 0 s.cpu.gens.ctr ((s.ival b).toNat % 4)))).advance := by
  show execRng d a b s = _
  simp only [execRng, s.value_of_clean h, s.value_of_clean ha, Out.bind, op, State.finish_ok, State.put, word]

theorem exec_rng_illegal (op : 5 ≤ bits (s.ival b).toNat 4 2) :
    exec (.rng d a b) s = .next (s.takeTrap (illegal (wordOfInstr (.rng d a b)))) := by
  show execRng d a b s = _
  simp only [execRng, s.value_of_clean h, Out.bind]
  split
  case h_6 => rfl
  all_goals omega

end

/-- The next output of a generator is that of its key and its counter (R31). -/
theorem Gens.out_zero (g : Gens) (k : Nat) : g.out k 0 = genOut (vget 0 g.key k) (vget 0 g.ctr k) := by
  unfold Gens.out; rw [BitVec.ofNat_eq_ofNat, BitVec.add_zero]

/-- The counters after a draw: one more in the generator drawn from, modulo 2^64 (R31). -/
theorem Gens.ctr_skip_one (g : Gens) {k : Nat} (hk : k < 4) (j : Nat) :
    vget 0 (g.skip k 1).ctr j = if j = k then vget 0 g.ctr k + 1 else vget 0 g.ctr j := by
  simp only [Gens.skip, vget_vset, hk, and_true]
  rfl

/-- Settles O41: RNG by its operation, and the output of `Gens.out` written out with R31's constants. -/
theorem generatorStep : Obligations.GeneratorStep := by
  unfold Obligations.GeneratorStep
  intro s d a b k hb hk hkb op g puts
  subst hkb
  refine ⟨exec_rng_key hb d a, exec_rng_ctr hb d a, exec_rng_setKey hb d a, exec_rng_setCtr hb d a, exec_rng_illegal hb d a, fun h0 => ?_⟩
  intro z0 z1 z2
  refine ⟨s.modCpu fun c => { c with gens := c.gens.skip ((s.ival b).toNat % 4) 1 }, ?_, rfl, rfl, ?_, fun j hj => ?_⟩
  · rw [exec_rng_draw hb d a h0, Gens.out_zero]
    rfl
  · exact (s.cpu.gens.ctr_skip_one hk _).trans (if_pos rfl)
  · exact (s.cpu.gens.ctr_skip_one hk j).trans (if_neg hj)

end Sys2Proof.Machine
end

section
/-! SUPPORT. R28's rounding by the digits of the scaled value, and the exact values that a product, a quotient and a sum round
(R28, R29, R30, R32). -/

namespace Sys2Proof.Machine

/-! ## The scaled value and its binade -/

/-- A ratio scaled up or down, never both. -/
theorem scaled_sub (num den : Nat) {k1 k2 : Nat} (h : k1 = 0 ∨ k2 = 0) :
    scaled num den ((k1 : Int) - k2) = (num * 2 ^ k1, den * 2 ^ k2) := by
  unfold scaled
  rcases h with rfl | rfl
  · rcases Nat.eq_zero_or_pos k2 with rfl | h2
    · simp
    · rw [if_neg (by omega)]; simp
  · simp

/-- A positive ratio whose integer part, scaled by 2^(k1 − k2), has at most m bits lies below binade m − k1 + k2 (R28). -/
theorem floorLog2_lt_of_digits {num den n r m k1 k2 : Nat} (exp : Int) (hn : 0 < num) (hd : 0 < den)
    (h : num * 2 ^ k1 = n * (den * 2 ^ k2) + r) (hr : r < den * 2 ^ k2) (hhi : n < 2 ^ m) :
    floorLog2 num den exp < (m : Int) - k1 + k2 + exp := by
  have hz : floorLog2 num den exp = floorLog2 num den 0 + exp := by simp [floorLog2]
  have below : num * 2 ^ k1 < 2 ^ m * (den * 2 ^ k2) := by
    rw [h]
    calc n * (den * 2 ^ k2) + r < (n + 1) * (den * 2 ^ k2) := by rw [Nat.succ_mul]; omega
      _ ≤ _ := Nat.mul_le_mul_right _ hhi
  have hi : (num : ℚ) < 2 ^ ((m : Int) - k1 + k2) * den := by
    have q : (num : ℚ) * 2 ^ k1 < 2 ^ m * (den * 2 ^ k2) := by exact_mod_cast below
    rw [zpow_add₀ (by norm_num), zpow_sub₀ (by norm_num), zpow_natCast, zpow_natCast, zpow_natCast, div_mul_eq_mul_div, div_mul_eq_mul_div,
      lt_div_iff₀ (by positivity)]
    linarith
  have dp : (0 : ℚ) < den := by exact_mod_cast hd
  have e := lt_of_mul_lt_mul_right ((floorLog2_bounds hn hd).1.trans_lt hi) dp.le
  rw [zpow_lt_zpow_iff_right₀ (by norm_num)] at e
  omega

/-! ## Rounding into a float format -/

/-- The code of n units of 2^q with the flags of the rounding that gave n, or `o`, an overflow: the end of `roundF`. -/
def FF.encode (f : FF) (neg : Bool) (o : FR) (fl : Flags) (n : Nat) (q : Int) : FR :=
  let (n, q) := if n = 2 ^ (f.m + 1) then (2 ^ f.m, q + 1) else (n, q)
  if n < 2 ^ f.m then ⟨f.signBit neg + n, fl⟩
  else
    let e := (q + f.m + f.bias).toNat
    let m := n - 2 ^ f.m
    if e > f.top.1 || (e == f.top.1 && decide (m > f.top.2)) then ⟨o.code, o.fl ||| fl⟩ else ⟨f.signBit neg + e * 2 ^ f.m + m, fl⟩

/-- `roundF` rounds a + r/d units of its quantum and encodes them. -/
theorem roundF_eq_encode (f : FF) (mode : RMode) (sat : Bool) (draw : Nat) (neg : Bool) {num den : Nat} (exp : Int) {q : Int} {a d : Nat}
    (h0 : num ≠ 0) (hq : (if floorLog2 num den exp ≥ 1 - (f.bias : Int) then floorLog2 num den exp else 1 - (f.bias : Int)) - f.m = q)
    (hs : scaled num den (exp - q) = (a, d)) :
    roundF f mode sat draw neg num den exp = f.encode neg (f.overflow neg mode sat)
      ((if a % d > 0 then flNX else 0) ||| (if a % d > 0 && decide (floorLog2 num den exp < 1 - (f.bias : Int)) then flUF else 0))
      (a / d + (roundUp mode neg (a / d) (a % d) d draw).toNat) q := by
  unfold roundF
  rw [if_neg h0]
  simp only [hq, hs, FF.encode]
  cases roundUp mode neg (a / d) (a % d) d draw <;> rfl

/-- The largest finite value is normal, and its mantissa is one of M bits (R20). -/
theorem FF.top_bounds (f : FF) : 1 ≤ f.top.1 ∧ f.top.2 < 2 ^ f.m := by cases f <;> decide

/-- A finite code is at most the largest one by its exponent, and by its mantissa at the largest exponent. -/
theorem FF.le_top_iff (f : FF) {e k : Nat} (hk : k < 2 ^ f.m) :
    (decide (e > f.top.1) || (e == f.top.1 && decide (k > f.top.2))) = !decide (e * 2 ^ f.m + k ≤ f.top.1 * 2 ^ f.m + f.top.2) := by
  have ht := f.top_bounds.2
  rw [Bool.eq_iff_iff]
  simp only [Bool.or_eq_true, Bool.and_eq_true, decide_eq_true_eq, beq_iff_eq, Bool.not_eq_true', decide_eq_false_iff_not, Nat.not_le]
  rcases Nat.lt_trichotomy e f.top.1 with h | h | h
  · have := Nat.mul_le_mul_right (2 ^ f.m) (Nat.succ_le_of_lt h)
    rw [Nat.succ_mul] at this
    omega
  · rw [h]; omega
  · have := Nat.mul_le_mul_right (2 ^ f.m) (Nat.succ_le_of_lt h)
    rw [Nat.succ_mul] at this
    omega

/-- n units of the quantum 2^(1 − B − M + j) have the code j × 2^M + n, or are an overflow. -/
theorem FF.encode_quanta (f : FF) (neg : Bool) (o : FR) (fl : Flags) {n j : Nat} (hn : n ≤ 2 ^ (f.m + 1)) (hj : j = 0 ∨ 2 ^ f.m ≤ n) :
    f.encode neg o fl n (1 - (f.bias : Int) - f.m + j) =
      if j * 2 ^ f.m + n ≤ f.top.1 * 2 ^ f.m + f.top.2 then ⟨f.signBit neg + (j * 2 ^ f.m + n), fl⟩ else ⟨o.code, o.fl ||| fl⟩ := by
  have hM : 0 < 2 ^ f.m := Nat.two_pow_pos _
  have h2 : 2 ^ (f.m + 1) = 2 ^ f.m + 2 ^ f.m := by rw [Nat.pow_succ]; omega
  have exponent : ∀ x : Nat, (1 - (f.bias : Int) - f.m + j + x + f.m + f.bias).toNat = j + 1 + x := fun x => by omega
  -- an exponent field e and a mantissa k, and their code
  have normal : ∀ e k c, k < 2 ^ f.m → e * 2 ^ f.m + k = c →
      (if (decide (e > f.top.1) || (e == f.top.1 && decide (k > f.top.2))) = true then (⟨o.code, o.fl ||| fl⟩ : FR)
        else ⟨f.signBit neg + e * 2 ^ f.m + k, fl⟩) =
      if c ≤ f.top.1 * 2 ^ f.m + f.top.2 then ⟨f.signBit neg + c, fl⟩ else ⟨o.code, o.fl ||| fl⟩ := by
    rintro e k c hk rfl
    rw [f.le_top_iff hk, Nat.add_assoc]
    split <;> rename_i h <;> simp only [Bool.not_eq_true', decide_eq_false_iff_not, not_not] at h
    · rw [if_neg h]
    · rw [if_pos h]
  unfold FF.encode
  by_cases carry : n = 2 ^ (f.m + 1)
  · rw [if_pos carry]
    simp only [lt_irrefl, if_false, Nat.sub_self]
    refine normal _ 0 _ hM ?_
    rw [show (1 - (f.bias : Int) - f.m + j + 1 + f.m + f.bias).toNat = j + 2 from exponent 1, carry, h2, Nat.add_mul]
    omega
  · rw [if_neg carry]
    simp only
    by_cases sub : n < 2 ^ f.m
    · have j0 : j = 0 := hj.resolve_right (Nat.not_le.2 sub)
      have le : n ≤ f.top.1 * 2 ^ f.m + f.top.2 := by
        have := Nat.mul_le_mul_right (2 ^ f.m) f.top_bounds.1
        omega
      rw [if_pos sub, j0, Nat.zero_mul, Nat.zero_add, if_pos le]
    · rw [if_neg sub]
      refine normal _ _ _ (by omega) ?_
      rw [show (1 - (f.bias : Int) - f.m + j + f.m + f.bias).toNat = j + 1 by simpa using exponent 0, Nat.succ_mul]
      omega

/-- R28 into a float format, by the digits of the scaled value: n quanta of 2^(1 − B − M + j) and a remainder. -/
theorem roundF_of_digits (f : FF) (mode : RMode) (sat : Bool) (draw : Nat) (neg : Bool) {num den n r j k1 k2 : Nat} (h0 : 0 < num)
    (h : num * 2 ^ k1 = n * (den * 2 ^ k2) + r) (hr : r < den * 2 ^ k2) (hk : k1 = 0 ∨ k2 = 0) (hn : n < 2 ^ (f.m + 1))
    (hj : j = 0 ∨ 2 ^ f.m ≤ n) :
    let n' := j * 2 ^ f.m + n + (roundUp mode neg n r (den * 2 ^ k2) draw).toNat
    roundF f mode sat draw neg num den (1 - (f.bias : Int) - f.m + j + k1 - k2) =
      if n' ≤ f.top.1 * 2 ^ f.m + f.top.2
        then ⟨f.signBit neg + n', (if 0 < r then flNX else 0) ||| (if 0 < r ∧ j = 0 ∧ n < 2 ^ f.m then flUF else 0)⟩
        else ⟨(f.overflow neg mode sat).code, flOF ||| flNX⟩ := by
  intro n'
  have hden : 0 < den := Nat.pos_of_mul_pos_right (Nat.zero_lt_of_lt hr)
  generalize hexp : 1 - (f.bias : Int) - f.m + j + k1 - k2 = exp
  -- the value is normal unless it has fewer than M + 1 digits at the least exponent
  have binade : floorLog2 num den exp = 1 - (f.bias : Int) + j ∧ 2 ^ f.m ≤ n ∨
      floorLog2 num den exp < 1 - (f.bias : Int) ∧ j = 0 ∧ n < 2 ^ f.m := by
    by_cases sub : n < 2 ^ f.m
    · have j0 : j = 0 := hj.resolve_right (Nat.not_le.2 sub)
      have := floorLog2_lt_of_digits exp h0 hden h hr sub
      exact .inr ⟨by omega, j0, sub⟩
    · have := floorLog2_of_digits exp hden h hr (Nat.not_lt.1 sub) hn
      exact .inl ⟨by omega, Nat.not_lt.1 sub⟩
  have quantum : (if floorLog2 num den exp ≥ 1 - (f.bias : Int) then floorLog2 num den exp else 1 - (f.bias : Int)) - f.m =
      1 - (f.bias : Int) - f.m + j := by
    rcases binade with ⟨hl, -⟩ | ⟨hl, hj0, -⟩ <;> split <;> omega
  have subnormal : decide (floorLog2 num den exp < 1 - (f.bias : Int)) = decide (j = 0 ∧ n < 2 ^ f.m) := by
    rw [decide_eq_decide]
    rcases binade with ⟨hl, hn⟩ | ⟨hl, hj0, hn⟩ <;> omega
  have scale : scaled num den (exp - (1 - (f.bias : Int) - f.m + j)) = (num * 2 ^ k1, den * 2 ^ k2) := by
    rw [← scaled_sub num den hk]; congr 1; omega
  obtain ⟨hdiv, hmod⟩ : num * 2 ^ k1 / (den * 2 ^ k2) = n ∧ num * 2 ^ k1 % (den * 2 ^ k2) = r :=
    (Nat.div_mod_unique (Nat.zero_lt_of_lt hr)).2 ⟨by rw [h]; ring, hr⟩
  have up : (roundUp mode neg n r (den * 2 ^ k2) draw).toNat ≤ 1 := Bool.toNat_le _
  have assoc : j * 2 ^ f.m + (n + (roundUp mode neg n r (den * 2 ^ k2) draw).toNat) = n' := (Nat.add_assoc ..).symm
  rw [roundF_eq_encode f mode sat draw neg exp h0.ne' quantum scale, hdiv, hmod, subnormal,
    f.encode_quanta neg _ _ (by omega) (hj.imp_right fun h => by omega), assoc]
  split
  case isTrue => simp [Bool.decide_and]
  case isFalse big =>
    have normal : ¬(j = 0 ∧ n < 2 ^ f.m) := fun ⟨j0, sub⟩ => big (by
      have := Nat.mul_le_mul_right (2 ^ f.m) f.top_bounds.1
      rw [j0] at assoc
      omega)
    have ofl : (f.overflow neg mode sat).fl = flOF ||| flNX := by unfold FF.overflow; grind
    rw [ofl, decide_eq_false normal, Bool.and_false]
    split <;> rfl

/-! ## Rounding into an integer type -/

/-- R28 into an integer type, by the digits of the scaled value. -/
theorem roundI_of_digits (signed : Bool) (w : Nat) (mode : RMode) (draw : Nat) (neg : Bool) {num den n r k1 k2 : Nat}
    (h : num * 2 ^ k1 = n * (den * 2 ^ k2) + r) (hr : r < den * 2 ^ k2) (hk : k1 = 0 ∨ k2 = 0) :
    roundI signed w mode draw neg num den ((k1 : Int) - k2) =
      intRange signed w neg (n + (roundUp mode neg n r (den * 2 ^ k2) draw).toNat) (if 0 < r then flNX else 0) := by
  obtain ⟨hdiv, hmod⟩ : num * 2 ^ k1 / (den * 2 ^ k2) = n ∧ num * 2 ^ k1 % (den * 2 ^ k2) = r :=
    (Nat.div_mod_unique (Nat.zero_lt_of_lt hr)).2 ⟨by rw [h]; ring, hr⟩
  unfold roundI
  rw [scaled_sub num den hk]
  simp only [hdiv, hmod]
  cases roundUp mode neg n r (den * 2 ^ k2) draw <;> rfl

/-! ## Exact products, quotients and sums -/

section
variable (f : FF) (mode : RMode) (draw a1 a2 : Nat) (n1 n2 : Bool) (e1 e2 : Int)

theorem fmul_fin : fmul f mode draw (.fin n1 a1 e1) (.fin n2 a2 e2) = roundF f mode false draw (n1 != n2) (a1 * a2) 1 (e1 + e2) := rfl

theorem fdiv_fin (h : a2 ≠ 0) :
    fdiv f mode draw (.fin n1 a1 e1) (.fin n2 a2 e2) = roundF f mode false draw (n1 != n2) a1 a2 (e1 - e2) := if_neg h

/-- A finite value in units of 2^e, k below its exponent. -/
theorem atExp_add (k : Nat) : atExp n1 a1 (e1 + k) e1 = (if n1 then -(a1 : Int) else a1) * 2 ^ k := by
  unfold atExp
  rw [show (e1 + k - e1).toNat = k by omega]
  cases n1 <;> simp

/-- The sum of two finite values in units of the lesser one, with the sign of R29 for an exact zero. -/
theorem fadd_fin (k : Nat) :
    let x1 : Int := if n1 then -(a1 : Int) else a1
    let x2 : Int := if n2 then -(a2 : Int) else a2
    fadd f mode draw (.fin n1 a1 (e1 + k)) (.fin n2 a2 e1) =
      if x1 * 2 ^ k + x2 = 0 then ⟨f.signBit (zeroSign mode n1 n2), 0⟩
        else roundF f mode false draw (decide (x1 * 2 ^ k + x2 < 0)) (x1 * 2 ^ k + x2).natAbs 1 e1 := by
  intro x1 x2
  have units : (if e1 + k ≤ e1 then e1 + (k : Int) else e1) = e1 := by split <;> omega
  have second : atExp n2 a2 e1 e1 = x2 := by simpa using atExp_add a2 n2 e1 0
  show sumF f mode draw n1 a1 (e1 + k) n2 a2 e1 = _
  unfold sumF
  rw [units]
  simp only [second, atExp_add, x1]

end

/-! ## The scalar instructions (R96, R98) -/

section
variable {s : State} {d : Nat} {srcs : List Nat} (rounds : Bool) (f : Nat → FR)

/-- The result, its flags and the draw of an instruction whose sources are not POISON (R98). -/
def State.fpsPut (s : State) (d : Nat) (rounds : Bool) (x : FR) : State :=
  let t := (s.setG d (word (BitVec.ofNat 64 x.code))).raiseFlags x.fl
  if rounds then t.consume s.rm 1 else t

/-- The POISON source copied, and the draw (R98). -/
def State.fpsCopy (s : State) (d : Nat) (rounds : Bool) (n : Nat) : State :=
  let t := s.setG d (s.getG n)
  if rounds then t.consume s.rm 1 else t

theorem State.fps_clean (h : ∀ n ∈ srcs, s.clean n) : s.fps d srcs rounds f = .ok (s.fpsPut d rounds (f (s.laneDraw s.rm 0))) := by
  have none : (srcs.find? fun n => (s.getG n).tag == .poison) = none :=
    List.find?_eq_none.2 fun n hn => by simpa [State.clean] using h n hn
  simp only [State.fps, none, State.fpsPut, State.put, word]

theorem State.fps_poison {pre post : List Nat} {n : Nat} (h : ∀ k ∈ pre, s.clean k) (hn : ¬s.clean n) :
    s.fps d (pre ++ n :: post) rounds f = .ok (s.fpsCopy d rounds n) := by
  have first : ((pre ++ n :: post).find? fun n => (s.getG n).tag == .poison) = some n := by
    rw [List.find?_append, List.find?_eq_none.2 fun k hk => by simpa [State.clean] using h k hk]
    simp [show (s.getG n).tag = .poison from not_not.1 hn]
  simp only [State.fps, first, State.fpsCopy]

/-- An instruction of R96 with its sources, the result that it rounds to or takes exactly, and its draw. -/
def IsFps (x : Instr) (d : Nat) (srcs : List Nat) (rounds : Bool) (s : State) (f : Nat → FR) : Prop :=
  exec x s = s.finish (s.fps d srcs rounds f)

variable {x : Instr} {rounds} {f}

theorem IsFps.clean (hx : IsFps x d srcs rounds s f) (h : ∀ n ∈ srcs, s.clean n) :
    exec x s = .next (s.fpsPut d rounds (f (s.laneDraw s.rm 0))).advance := by
  rw [hx, State.fps_clean rounds f h, State.finish_ok]

theorem IsFps.poison {pre post : List Nat} {n : Nat} (hx : IsFps x d (pre ++ n :: post) rounds s f) (h : ∀ k ∈ pre, s.clean k)
    (hn : ¬s.clean n) : exec x s = .next (s.fpsCopy d rounds n).advance := by
  rw [hx, State.fps_poison rounds f h hn, State.finish_ok]

/-- Two sources: the first POISON one is copied. -/
theorem IsFps.poison2 {a b : Nat} {post : List Nat} (hx : IsFps x d (a :: b :: post) rounds s f) :
    (¬s.clean a → exec x s = .next (s.fpsCopy d rounds a).advance) ∧
      (s.clean a → ¬s.clean b → exec x s = .next (s.fpsCopy d rounds b).advance) :=
  ⟨fun ha => hx.poison (pre := []) (by simp) ha, fun ha hb => hx.poison (pre := [a]) (by simpa using ha) hb⟩

end

/-- The value of a source operand (R96). -/
def State.fval (s : State) (p : FFmt) (n : Nat) : FVal := (ffOf p).val (s.fcode p n)

section
variable (s : State) (d a b : Nat) (p : FFmt)

theorem isFps_fadd : IsFps (.fadd d a b p) d [a, b] true s fun r => fadd (ffOf p) s.rm r (s.fval p a) (s.fval p b) := rfl
theorem isFps_fsub : IsFps (.fsub d a b p) d [a, b] true s fun r => fsub (ffOf p) s.rm r (s.fval p a) (s.fval p b) := rfl
theorem isFps_fmul : IsFps (.fmul d a b p) d [a, b] true s fun r => fmul (ffOf p) s.rm r (s.fval p a) (s.fval p b) := rfl
theorem isFps_fdiv : IsFps (.fdiv d a b p) d [a, b] true s fun r => fdiv (ffOf p) s.rm r (s.fval p a) (s.fval p b) := rfl
theorem isFps_fma : IsFps (.fma d a b p) d [a, b, d] true s fun r =>
  ffma (ffOf p) s.rm r false (s.fval p a) (s.fval p b) (s.fval p d) := rfl
theorem isFps_fsqrt : IsFps (.fsqrt d a p) d [a] true s fun r => fsqrt (ffOf p) s.rm r (s.fval p a) := rfl
theorem isFps_fmin : IsFps (.fmin d a b p) d [a, b] false s fun _ => fminmax (ffOf p) false (s.fcode p a) (s.fcode p b) := rfl
theorem isFps_fmax : IsFps (.fmax d a b p) d [a, b] false s fun _ => fminmax (ffOf p) true (s.fcode p a) (s.fcode p b) := rfl
theorem isFps_fcmp : IsFps (.fcmp d a b p) d [a, b] false s fun _ =>
  ⟨(fcompare (s.fval p a) (s.fval p b)).1, (fcompare (s.fval p a) (s.fval p b)).2⟩ := rfl
theorem isFps_fclass : IsFps (.fclass d a p) d [a] false s fun _ => ⟨fclass (ffOf p) (s.fcode p a), 0⟩ := rfl

/-- The types that FCVT converts between (R46). -/
def cvtSrc (ty : CvtType) (p : FFmt) : CvtDir → NumTy
  | .fromFmt => .flt (ffOf p)
  | .toFmt => cvtNum ty p
def cvtDst (ty : CvtType) (p : FFmt) : CvtDir → NumTy
  | .fromFmt => cvtNum ty p
  | .toFmt => .flt (ffOf p)

theorem isFps_fcvt (ty : CvtType) (dir : CvtDir) : IsFps (.fcvt d a ty dir p) d [a] true s fun r =>
    let x := convert (cvtSrc ty p dir) (cvtDst ty p dir) s.rm false r ((s.ival a).toNat % 2 ^ (cvtSrc ty p dir).width)
    ⟨(cvtDst ty p dir).place x.code, x.fl⟩ := by
  cases dir <;> rfl

end

/-- Settles O19: R28 by the digits of the value, exact products, quotients and sums, and the instructions by `IsFps`. -/
theorem floatResults : Obligations.FloatResults := by
  unfold Obligations.FloatResults
  refine ⟨?rounding, ?exact, ?instructions⟩
  case rounding =>
    intro f mode sat neg draw num den n r j k1 k2 d up nx h0 h hr hk
    have hup : (roundUp mode neg n r d draw).toNat = up := by
      cases mode <;> simp [roundUp, up, Bool.toNat, Bool.cond_eq_ite]
    refine ⟨fun hn hj => ?_, fun signed w => ?_⟩
    · rw [← hup]
      exact roundF_of_digits f mode sat draw neg h0 h hr hk hn hj
    · rw [← hup]
      exact roundI_of_digits signed w mode draw neg h hr hk
  case exact =>
    exact fun f mode draw a1 a2 n1 n2 e1 e2 => ⟨fmul_fin .., fun h => fdiv_fin (h := h) .., fadd_fin f mode draw a1 a2 n1 n2 e1⟩
  case instructions =>
    intro s d a b p ty dir f m r A B D put rounds exact
    refine ⟨fun ha hb => ?_, ?_⟩
    · have one : ∀ n ∈ [a], s.clean n := by simpa using ha
      have two : ∀ n ∈ [a, b], s.clean n := by simpa using ⟨ha, hb⟩
      refine ⟨(isFps_fadd ..).clean two, (isFps_fsub ..).clean two, (isFps_fmul ..).clean two, (isFps_fdiv ..).clean two,
        fun hd => (isFps_fma ..).clean (by simpa using ⟨ha, hb, hd⟩), (isFps_fsqrt ..).clean one, (isFps_fmin ..).clean two,
        (isFps_fmax ..).clean two, (isFps_fcmp ..).clean two, (isFps_fclass ..).clean one, ?_⟩
      have := (isFps_fcvt s d a p ty dir).clean one
      cases dir <;> exact this
    · intro drawn copied
      refine ⟨?_, fun ha hb hd => ?_, fun ha => ?_, ?_⟩
      · simp only [List.forall_mem_cons, List.not_mem_nil, false_imp_iff, implies_true, and_true]
        exact ⟨(isFps_fadd ..).poison2, (isFps_fsub ..).poison2, (isFps_fmul ..).poison2, (isFps_fdiv ..).poison2, (isFps_fma ..).poison2⟩
      · exact (isFps_fma ..).poison (pre := [a, b]) (by simpa using ⟨ha, hb⟩) hd
      · exact ⟨(isFps_fsqrt ..).poison (pre := []) (by simp) ha, (isFps_fcvt ..).poison (pre := []) (by simp) ha,
          (isFps_fclass ..).poison (pre := []) (by simp) ha⟩
      · simp only [List.forall_mem_cons, List.not_mem_nil, false_imp_iff, implies_true, and_true]
        exact ⟨(isFps_fmin ..).poison2, (isFps_fmax ..).poison2, (isFps_fcmp ..).poison2⟩

end Sys2Proof.Machine
end

section
/-! SUPPORT. Lanes read after they were written (R142, R143), and what stream sources, flags and draws leave alone (R33, R37, R149). -/

namespace Sys2Proof.Machine

/-! ## One lane -/

theorem laneBits_cases (t : VType) : laneBits t = 64 ∧ t.lanes = 16 ∨ laneBits t = 32 ∧ t.lanes = 32 := by cases t <;> decide

theorem laneRaw_eq (t : VType) (v : BitVec 1024) (i : Nat) : laneRaw t v i = v.toNat / 2 ^ (laneBits t * i) % 2 ^ laneBits t := by
  unfold laneRaw laneBits bits
  split <;> congr 2 <;> omega

theorem testBit_laneRaw (t : VType) (v : BitVec 1024) (i k : Nat) :
    (laneRaw t v i).testBit k = (decide (k < laneBits t) && v.getLsbD (laneBits t * i + k)) := by
  rw [laneRaw_eq, Nat.testBit_mod_two_pow, Nat.testBit_div_two_pow, Nat.add_comm k, BitVec.getLsbD]

theorem getLsbD_laneSetRaw (lw : Nat) (v : BitVec 1024) (i x : Nat) {k : Nat} (hk : k < 1024) :
    (laneSetRaw lw v i x).getLsbD k = if lw * i ≤ k ∧ k < lw * i + lw then x.testBit (k - lw * i) else v.getLsbD k := by
  unfold laneSetRaw
  simp only [BitVec.getLsbD_or, BitVec.getLsbD_and, BitVec.getLsbD_not, BitVec.getLsbD_ofNat, hk, decide_true, Bool.true_and,
    Nat.testBit_mul_two_pow, Nat.testBit_two_pow_sub_one, Nat.testBit_mod_two_pow]
  by_cases h1 : lw * i ≤ k
  · by_cases h2 : k < lw * i + lw
    · have : k - lw * i < lw := by omega
      simp [h1, h2, this]
    · have : ¬k - lw * i < lw := by omega
      simp [h1, h2, this]
  · simp [h1]

/-- The bits of a lane lie in the register, and apart from those of another lane. -/
theorem lane_inside {t : VType} {j k : Nat} (hj : j < t.lanes) (hk : k < laneBits t) : laneBits t * j + k < 1024 := by
  rcases laneBits_cases t with ⟨h, h'⟩ | ⟨h, h'⟩ <;> rw [h] at hk ⊢ <;> omega

theorem lane_apart {t : VType} {i j k : Nat} (hk : k < laneBits t) (hij : j ≠ i) :
    ¬(laneBits t * i ≤ laneBits t * j + k ∧ laneBits t * j + k < laneBits t * i + laneBits t) := by
  rcases laneBits_cases t with ⟨h, -⟩ | ⟨h, -⟩ <;> rw [h] at hk ⊢ <;> omega

/-- A lane after a write of one lane. -/
theorem laneRaw_laneSetRaw (t : VType) (v : BitVec 1024) (x : Nat) {i j : Nat} (hj : j < t.lanes) :
    laneRaw t (laneSetRaw (laneBits t) v i x) j = if j = i then x % 2 ^ laneBits t else laneRaw t v j := by
  refine Nat.eq_of_testBit_eq fun k => ?_
  rw [testBit_laneRaw]
  by_cases hk : k < laneBits t
  · rw [getLsbD_laneSetRaw _ _ _ _ (lane_inside hj hk)]
    by_cases hij : j = i
    · subst hij
      simp [hk]
    · rw [if_neg (lane_apart hk hij), if_neg hij, testBit_laneRaw]
  · split
    · simp [hk]
    · simp [testBit_laneRaw, hk]

/-! ## Many lanes -/

section
variable {ι : Type} (t : VType) (c : ι → Bool) (lane x : ι → Nat)

/-- Lanes of `old` replaced one after the other, each bit for bit. -/
def setLanes (ws : List ι) (old : BitVec 1024) : BitVec 1024 :=
  ws.foldl (fun v w => if c w then laneSetRaw (laneBits t) v (lane w) (x w) else v) old

variable {c lane x} {ws : List ι} {i : Nat} (hi : i < t.lanes)
include hi

theorem laneRaw_setLanes_other (h : ∀ w ∈ ws, c w = true → lane w ≠ i) (old : BitVec 1024) :
    laneRaw t (setLanes t c lane x ws old) i = laneRaw t old i := by
  induction ws generalizing old with
  | nil => rfl
  | cons w ws ih =>
    obtain ⟨hw, hws⟩ := List.forall_mem_cons.1 h
    refine (ih hws _).trans ?_
    cases hc : c w with
    | false => simp only [hc, Bool.false_eq_true, if_false]
    | true =>
      simp only [hc, if_true]
      rw [laneRaw_laneSetRaw t old _ hi, if_neg (hw hc).symm]

/-- A lane that some write meets holds what those writes agree on. -/
theorem laneRaw_setLanes {y : Nat} (some : ∃ w ∈ ws, c w = true ∧ lane w = i) (same : ∀ w ∈ ws, c w = true → lane w = i → x w = y)
    (old : BitVec 1024) : laneRaw t (setLanes t c lane x ws old) i = y % 2 ^ laneBits t := by
  induction ws generalizing old with
  | nil => obtain ⟨w, hw, -⟩ := some; cases hw
  | cons w ws ih =>
    obtain ⟨hw, hws⟩ := List.forall_mem_cons.1 same
    by_cases later : ∃ w' ∈ ws, c w' = true ∧ lane w' = i
    · exact ih later hws _
    · obtain ⟨hc, hl⟩ : c w = true ∧ lane w = i := by simpa [later] using some
      refine (laneRaw_setLanes_other t hi (fun w' h' hc' hl' => later ⟨w', h', hc', hl'⟩) _).trans ?_
      simp only [hc, if_true]
      rw [laneRaw_laneSetRaw t old _ hi, if_pos hl.symm, hw hc hl]

end

/-- What a lane of 32 bits takes fits it (R142). -/
theorem laneImage_lt {t : VType} (h : t ≠ .f64) (x : Nat) : laneImage t x < 2 ^ 32 := by
  unfold laneImage
  split
  · have := Int.emod_lt_of_pos (sext x t.width) (show (0 : Int) < 2 ^ 32 by norm_num)
    unfold codeOf
    omega
  · have w : t.width ≤ 32 := by revert h; cases t <;> decide
    exact (Nat.mod_lt _ (Nat.two_pow_pos _)).trans_le (Nat.pow_le_pow_right (by norm_num) w)

/-- The bits that a result takes in its lane are those that the lane holds (R142). -/
theorem laneBitsOf_eq (t : VType) (x : Nat) : (if t = .f64 then x else laneImage t x) % 2 ^ laneBits t = laneBitsOf t x := by
  unfold laneBits laneBitsOf
  by_cases h : t = .f64
  · simp only [if_pos h]
  · simp only [if_neg h]
    exact Nat.mod_eq_of_lt (laneImage_lt h x)

theorem laneRaw_mod (t : VType) (v : BitVec 1024) (i : Nat) : laneRaw t v i % 2 ^ laneBits t = laneRaw t v i := by
  rw [laneRaw_eq, Nat.mod_mod]

section
variable (t : VType) {c : Nat → Bool} {x : Nat → Nat} {n i : Nat} (hi : i < t.lanes) (old : BitVec 1024)
include hi

/-- Each lane below n that c names, written once. -/
theorem laneRaw_setLanes_range :
    laneRaw t (setLanes t c id x (List.range n) old) i = if i < n ∧ c i = true then x i % 2 ^ laneBits t else laneRaw t old i := by
  split
  · rename_i h
    exact laneRaw_setLanes t hi ⟨i, List.mem_range.2 h.1, h.2, rfl⟩ (fun w _ _ hw => congrArg x hw) old
  · rename_i h
    exact laneRaw_setLanes_other t hi (fun w hw hc e => h (by subst e; exact ⟨List.mem_range.1 hw, hc⟩)) old

theorem laneRaw_writeLanes (m : BitVec 32) (f : Nat → Nat) :
    laneRaw t (writeLanes t m old f) i = if active m i = true then laneBitsOf t (f i) else laneRaw t old i := by
  refine (laneRaw_setLanes_range t (c := active m) (x := fun i => if t = .f64 then f i else laneImage t (f i)) (n := t.lanes) hi old).trans ?_
  simp only [hi, true_and, laneBitsOf_eq]

theorem laneRaw_moveLanes (m : BitVec 32) (f : Nat → Nat) :
    laneRaw t (moveLanes t m old f) i = if active m i = true then f i % 2 ^ laneBits t else laneRaw t old i := by
  refine (laneRaw_setLanes_range t (c := active m) (x := f) (n := t.lanes) hi old).trans ?_
  simp only [hi, true_and]

end

/-! ## Stream sources give up an entry (R149) -/

/-- One entry taken from stream register k. -/
def State.popStream (s : State) (k : Nat) : State :=
  s.modCpu fun c => { c with streams := vset c.streams k ((vget [] c.streams k).drop 1), popped := (c.popped + 1) % 2 ^ 28 }

/-- One entry taken from each of some stream registers. -/
def State.popEach (s : State) (P : Nat → Bool) (ks : List Nat) : State := ks.foldl (fun s k => if P k then s.popStream k else s) s

theorem State.popEach_cons (s : State) (P : Nat → Bool) (k : Nat) (ks : List Nat) :
    s.popEach P (k :: ks) = (if P k then s.popStream k else s).popEach P ks := rfl

/-- Taking entries changes nothing but the queues and their count. -/
theorem State.popEach_eq (s : State) (P : Nat → Bool) (ks : List Nat) :
    ∃ st n, s.popEach P ks = s.modCpu fun c => { c with streams := st, popped := n } := by
  induction ks generalizing s with
  | nil => exact ⟨s.cpu.streams, s.cpu.popped, rfl⟩
  | cons k ks ih =>
    obtain ⟨st, n, h⟩ := ih (if P k then s.popStream k else s)
    exact ⟨st, n, by rw [State.popEach_cons, h]; split <;> rfl⟩

theorem State.popEach_streams (P : Nat → Bool) {ks : List Nat} (nodup : ks.Nodup) (s : State) {j : Nat} (hj : j < 4) :
    vget [] (s.popEach P ks).cpu.streams j = (vget [] s.cpu.streams j).drop (if P j = true ∧ j ∈ ks then 1 else 0) := by
  induction ks generalizing s with
  | nil => simp [State.popEach]
  | cons k ks ih =>
    obtain ⟨hk, nodup⟩ := List.nodup_cons.1 nodup
    rw [State.popEach_cons, ih nodup]
    have one : vget [] (if P k then s.popStream k else s).cpu.streams j = (vget [] s.cpu.streams j).drop (if P j = true ∧ j = k then 1 else 0) := by
      by_cases hp : P k = true
      · rw [if_pos hp, State.popStream, State.modCpu_cpu, vget_vset]
        by_cases e : j = k
        · subst e; simp [hj, hp]
        · simp [e]
      · rw [if_neg hp]
        have : ¬(P j = true ∧ j = k) := fun ⟨h, e⟩ => hp (e ▸ h)
        simp [this]
    rw [one, List.drop_drop]
    by_cases e : j = k
    · subst e; simp [hk]
    · simp [e]

theorem State.popStreams_eq_popEach (s : State) (fs : List Nat) :
    s.popStreams fs = s.popEach (fun k => fs.any fun f => s.streamOf f == some k) (List.range 4) := by
  have key : ∀ (ks : List Nat) (u : State), u.streamOf = s.streamOf →
      ks.foldl (fun s k => if fs.any fun f => s.streamOf f == some k then s.popStream k else s) u =
        u.popEach (fun k => fs.any fun f => s.streamOf f == some k) ks := by
    intro ks
    induction ks with
    | nil => intro u _; rfl
    | cons k ks ih =>
      intro u hu
      rw [State.popEach_cons, List.foldl_cons, hu]
      exact ih _ (by split <;> exact hu)
  exact key _ s rfl

/-- The stream sources of an instruction give up their entries and nothing else changes. -/
theorem State.popStreams_eq (s : State) (fs : List Nat) :
    ∃ st n, s.popStreams fs = s.modCpu fun c => { c with streams := st, popped := n } := by
  rw [State.popStreams_eq_popEach]; exact State.popEach_eq ..

theorem State.popStreams_streams (s : State) (fs : List Nat) {k : Nat} (hk : k < 4) :
    vget [] (s.popStreams fs).cpu.streams k = (vget [] s.cpu.streams k).drop (if some k ∈ fs.map s.streamOf then 1 else 0) := by
  rw [State.popStreams_eq_popEach, State.popEach_streams _ List.nodup_range s hk]
  simp [hk]

section
variable (s : State) (fs : List Nat) (n : Nat)

@[simp] theorem State.popStreams_mem : (s.popStreams fs).mem = s.mem := by obtain ⟨_, _, h⟩ := s.popStreams_eq fs; rw [h]; rfl
@[simp] theorem State.popStreams_csrs : (s.popStreams fs).cpu.csrs = s.cpu.csrs := by obtain ⟨_, _, h⟩ := s.popStreams_eq fs; rw [h]; rfl
@[simp] theorem State.popStreams_gens : (s.popStreams fs).cpu.gens = s.cpu.gens := by obtain ⟨_, _, h⟩ := s.popStreams_eq fs; rw [h]; rfl
@[simp] theorem State.popStreams_pcc : (s.popStreams fs).cpu.pcc = s.cpu.pcc := by obtain ⟨_, _, h⟩ := s.popStreams_eq fs; rw [h]; rfl
@[simp] theorem State.getG_popStreams : (s.popStreams fs).getG n = s.getG n := by obtain ⟨_, _, h⟩ := s.popStreams_eq fs; rw [h]; rfl
@[simp] theorem State.getV_popStreams : (s.popStreams fs).getV n = s.getV n := by obtain ⟨_, _, h⟩ := s.popStreams_eq fs; rw [h]; rfl
@[simp] theorem State.getP_popStreams : (s.popStreams fs).getP n = s.getP n := by obtain ⟨_, _, h⟩ := s.popStreams_eq fs; rw [h]; rfl

end

/-! ## Draws (R33), flags (R37) and writes of a vector or predicate register leave the rest alone -/

/-- Outputs drawn change the generators alone. -/
theorem State.consume_eq (s : State) (m : RMode) (k : Nat) : ∃ g, s.consume m k = s.modCpu fun c => { c with gens := g } := by
  unfold State.consume
  split
  · exact ⟨_, rfl⟩
  · exact ⟨s.cpu.gens, rfl⟩

/-- The generator that GENSEL selects has given the outputs, under stochastic rounding alone (R33). -/
theorem State.consume_gens (s : State) (m : RMode) (k : Nat) :
    (s.consume m k).cpu.gens = if m = .sr then s.cpu.gens.skip s.sel k else s.cpu.gens := by
  unfold State.consume; split <;> rfl

section
variable (s : State) (m : RMode) (k n : Nat)

@[simp] theorem State.consume_mem : (s.consume m k).mem = s.mem := by obtain ⟨_, h⟩ := s.consume_eq m k; rw [h]; rfl
@[simp] theorem State.consume_csrs : (s.consume m k).cpu.csrs = s.cpu.csrs := by obtain ⟨_, h⟩ := s.consume_eq m k; rw [h]; rfl
@[simp] theorem State.consume_streams : (s.consume m k).cpu.streams = s.cpu.streams := by obtain ⟨_, h⟩ := s.consume_eq m k; rw [h]; rfl
@[simp] theorem State.consume_pcc : (s.consume m k).cpu.pcc = s.cpu.pcc := by obtain ⟨_, h⟩ := s.consume_eq m k; rw [h]; rfl
@[simp] theorem State.getG_consume : (s.consume m k).getG n = s.getG n := by obtain ⟨_, h⟩ := s.consume_eq m k; rw [h]; rfl
@[simp] theorem State.getV_consume : (s.consume m k).getV n = s.getV n := by obtain ⟨_, h⟩ := s.consume_eq m k; rw [h]; rfl
@[simp] theorem State.getP_consume : (s.consume m k).getP n = s.getP n := by obtain ⟨_, h⟩ := s.consume_eq m k; rw [h]; rfl

end

section
variable (s : State) (fl : Flags) (n d : Nat) (x : BitVec 1024) (q : BitVec 32)

@[simp] theorem State.raiseFlags_mem : (s.raiseFlags fl).mem = s.mem := rfl
@[simp] theorem State.raiseFlags_gens : (s.raiseFlags fl).cpu.gens = s.cpu.gens := rfl
@[simp] theorem State.raiseFlags_streams : (s.raiseFlags fl).cpu.streams = s.cpu.streams := rfl
@[simp] theorem State.raiseFlags_pcc : (s.raiseFlags fl).cpu.pcc = s.cpu.pcc := rfl
@[simp] theorem State.raiseFlags_csrs :
    (s.raiseFlags fl).cpu.csrs = { s.cpu.csrs with fflags := s.cpu.csrs.fflags ||| fl.zeroExtend 64 } := rfl
@[simp] theorem State.getG_raiseFlags : (s.raiseFlags fl).getG n = s.getG n := rfl
@[simp] theorem State.getV_raiseFlags : (s.raiseFlags fl).getV n = s.getV n := rfl
@[simp] theorem State.getP_raiseFlags : (s.raiseFlags fl).getP n = s.getP n := rfl

@[simp] theorem State.setV_mem : (s.setV d x).mem = s.mem := rfl
@[simp] theorem State.setV_csrs : (s.setV d x).cpu.csrs = s.cpu.csrs := rfl
@[simp] theorem State.setV_gens : (s.setV d x).cpu.gens = s.cpu.gens := rfl
@[simp] theorem State.setV_streams : (s.setV d x).cpu.streams = s.cpu.streams := rfl
@[simp] theorem State.setV_pcc : (s.setV d x).cpu.pcc = s.cpu.pcc := rfl
@[simp] theorem State.getG_setV : (s.setV d x).getG n = s.getG n := rfl
@[simp] theorem State.getP_setV : (s.setV d x).getP n = s.getP n := rfl

@[simp] theorem State.setP_mem : (s.setP d q).mem = s.mem := by unfold State.setP; split <;> rfl
@[simp] theorem State.getV_setP : (s.setP d q).getV n = s.getV n := by unfold State.setP; split <;> rfl

end

end Sys2Proof.Machine
end

section
/-! SUPPORT. What a lane-by-lane instruction leaves: the lanes of vd, flags, stream entries and draws (R33, R37, R142, R143, R149,
R152, R153, R154). -/

namespace Sys2Proof.Machine

/-! ## The flags of the active lanes (R37) -/

/-- The flags of some lanes ORed. -/
theorem getLsbD_foldl_flags {c : Nat → Bool} {f : Nat → FR} (b : Nat) (is : List Nat) (fl : Flags) :
    (is.foldl (fun g i => if c i then g ||| (f i).fl else g) fl).getLsbD b = true ↔
      fl.getLsbD b = true ∨ ∃ i ∈ is, c i = true ∧ (f i).fl.getLsbD b = true := by
  induction is generalizing fl with
  | nil => simp
  | cons i is ih =>
    rw [List.foldl_cons, ih]
    cases hc : c i <;> simp [hc, or_assoc]

theorem getLsbD_laneFlags (t : VType) (m : BitVec 32) (f : Nat → FR) (b : Nat) :
    (laneFlags t m f).getLsbD b = true ↔ ∃ i, i < t.lanes ∧ active m i = true ∧ (f i).fl.getLsbD b = true := by
  unfold laneFlags
  rw [getLsbD_foldl_flags]
  simp

/-- FFLAGS after flags were raised. -/
theorem getLsbD_raised (x : Word) (fl : Flags) (b : Nat) :
    (x ||| fl.zeroExtend 64).getLsbD b = true ↔ x.getLsbD b = true ∨ fl.getLsbD b = true := by
  have : fl.getLsbD b = true → b < 64 := fun h => (BitVec.lt_of_getLsbD h).trans (by norm_num)
  rw [BitVec.getLsbD_or, BitVec.zeroExtend, BitVec.getLsbD_setWidth]
  simp only [Bool.or_eq_true, Bool.and_eq_true, decide_eq_true_eq]
  tauto

/-! ## The end of a lane-by-lane instruction -/

/-- Lanes put and their flags raised, stream sources popped, and the draw where the operation rounds. -/
def State.laneResult (s : State) (d p : Nat) (t : VType) (fs : List Nat) (rounds : Bool) (f : Nat → FR) : State :=
  if rounds then ((s.vput d p t f).popStreams fs).consume s.rm t.draws else (s.vput d p t f).popStreams fs

section
variable (s : State) {d : Nat} (p : Nat) (t : VType) (fs : List Nat) (rounds : Bool) (f : Nat → FR)

theorem State.laneResult_takes (hd : d < 32) : TakesLanes s (s.laneResult d p t fs rounds f) d p t fun i => (f i).code := by
  have v : ∀ n, (s.laneResult d p t fs rounds f).getV n =
      if n = d then writeLanes t (s.getP p) (s.getV d) (fun i => (f i).code) else s.getV n := fun n => by
    unfold State.laneResult State.vput; split <;> simp [State.getV_setV, hd]
  refine ⟨fun i hi => ?_, fun n hn => by rw [v, if_neg hn], ?_⟩
  · rw [v, if_pos rfl, laneRaw_writeLanes t hi]
  · unfold State.laneResult State.vput; split <;> simp

theorem State.laneResult_effects : LaneEffects s (s.laneResult d p t fs rounds f) p t fs rounds f := by
  refine ⟨fun b => ?_, ?_, fun k hk => ?_, ?_⟩
  · have : (s.laneResult d p t fs rounds f).cpu.csrs.fflags = s.cpu.csrs.fflags ||| (laneFlags t (s.getP p) f).zeroExtend 64 := by
      unfold State.laneResult State.vput; split <;> simp
    rw [this, getLsbD_raised, getLsbD_laneFlags]
  · unfold State.laneResult State.vput; split <;> simp
  · have : (s.laneResult d p t fs rounds f).cpu.streams = ((s.vput d p t f).popStreams fs).cpu.streams := by
      unfold State.laneResult; split <;> simp
    rw [this, State.popStreams_streams _ _ hk]
    rfl
  · cases rounds with
    | false => simp [State.laneResult, State.vput]
    | true =>
      have sel : ((s.vput d p t f).popStreams fs).sel = s.sel := by unfold State.sel; rw [State.popStreams_csrs]; rfl
      simp only [State.laneResult, if_true, State.consume_gens, true_and, State.popStreams_gens, sel]
      rfl

end

/-- An instruction that puts f in the active lanes of vd and retires, with its flags, stream sources and draws. -/
def PutsLanes (s : State) (x : Instr) (d p : Nat) (t : VType) (fs : List Nat) (rounds : Bool) (f : Nat → FR) : Prop :=
  ∃ u, exec x s = .next (State.advance u) ∧ TakesLanes s u d p t (fun i => (f i).code) ∧ LaneEffects s u p t fs rounds f

/-- Two results that leave the same bits in a lane and raise the same flags. -/
def SameLane (t : VType) (x y : FR) : Prop := laneBitsOf t x.code = laneBitsOf t y.code ∧ x.fl = y.fl

theorem SameLane.rfl {t : VType} {x : FR} : SameLane t x x := ⟨Eq.refl _, Eq.refl _⟩

section
variable {s : State} {x : Instr} {d a b p w : Nat} {t : VType} {fs : List Nat} {rounds : Bool} {f g : Nat → FR}

/-- What a lane-by-lane instruction leaves, by results that are the same in their lanes. -/
theorem PutsLanes.of_finish (hd : d < 32) (hx : exec x s = s.finish (.ok (s.laneResult d p t fs rounds f))) (same : ∀ i, SameLane t (f i) (g i)) :
    PutsLanes s x d p t fs rounds g := by
  obtain ⟨lanes, rest⟩ := s.laneResult_takes p t fs rounds f hd
  obtain ⟨flags, others⟩ := s.laneResult_effects (d := d) p t fs rounds f
  refine ⟨_, hx, ⟨fun i hi => ?_, rest⟩, fun k => ?_, others⟩
  · rw [lanes i hi, (same i).1]
  · rw [flags k]
    simp only [(same _).2]

/-- Two sources, lane by lane (R152). -/
theorem PutsLanes.varith2 {ff : Nat → Nat → Nat → FR} {fi : Nat → Nat → Nat} {v : BitVec 1024 × BitVec 1024} (hd : d < 32)
    (hx : exec x s = s.finish (s.varith2 d a b p t w rounds ff fi)) (hv : s.src2 a b w = .ok v)
    (same : ∀ i, SameLane t (if t.isFloat then ff (s.laneDraw s.rm i) (laneGet t v.1 i) (laneGet t v.2 i)
      else ⟨fi (laneGet t v.1 i) (laneGet t v.2 i), 0⟩) (g i)) :
    PutsLanes s x d p t [a, b] (rounds && t.isFloat) g := by
  refine PutsLanes.of_finish hd (hx.trans ?_) same
  rw [State.varith2, hv]
  rfl

/-- One source, lane by lane (R152, R154). -/
theorem PutsLanes.varith1 {h : Nat → FR} {v : BitVec 1024} (hd : d < 32) (hx : exec x s = s.finish (s.varith1 d a p t w h))
    (hv : s.src1 a w = .ok v) (same : ∀ i, SameLane t (h (laneGet t v i)) (g i)) : PutsLanes s x d p t [a] false g := by
  refine PutsLanes.of_finish hd (hx.trans ?_) same
  rw [State.varith1, hv]
  rfl

/-- Two sources and the old lanes of vd (R153). -/
theorem PutsLanes.vfused {h : Nat → FVal → FVal → FVal → FR} {v : BitVec 1024 × BitVec 1024} (hd : d < 32)
    (hx : exec x s = s.finish (s.vfused d a b p t w h)) (hv : s.src2 a b w = .ok v) :
    PutsLanes s x d p t [a, b] true fun i => h (s.laneDraw s.rm i) (t.ff.val (laneGet t v.1 i)) (t.ff.val (laneGet t v.2 i))
      (t.ff.val (laneGet t (s.getV d) i)) := by
  refine PutsLanes.of_finish hd (hx.trans ?_) fun _ => SameLane.rfl
  rw [State.vfused, hv]
  rfl

/-- Integer results agree in a lane when they agree modulo 2^w (R142). -/
theorem SameLane.of_mod (ht : t.isFloat = false) (n : Nat) : SameLane t ⟨n % 2 ^ t.width, 0⟩ ⟨n, 0⟩ := by
  have h : t ≠ .f64 := by rintro rfl; cases ht
  refine ⟨?_, Eq.refl _⟩
  simp only [laneBitsOf, if_neg h, laneImage, sext, Nat.mod_mod]

/-- An operation on floats and one on integers modulo 2^w (R152). -/
theorem SameLane.float_or_mod {y : FR} {n : Nat} :
    SameLane t (if t.isFloat then y else ⟨n % 2 ^ t.width, 0⟩) (if t.isFloat then y else ⟨n, 0⟩) := by
  cases ht : t.isFloat with
  | true => exact SameLane.rfl
  | false => exact SameLane.of_mod ht n

/-- An operation of an integer type. -/
theorem SameLane.int {y : FR} {n m : Nat} (ht : t.isInt = true) (h : SameLane t ⟨n, 0⟩ ⟨m, 0⟩) :
    SameLane t (if t.isFloat then y else ⟨n, 0⟩) ⟨m, 0⟩ := by
  rwa [VType.isFloat, ht, Bool.not_true, if_neg Bool.false_ne_true]

/-- Settles O45: each instruction is `varith2` with its own operation, equal in each lane to the result that R152 names. -/
theorem vectorArithmetic : Obligations.VectorArithmetic := by
  unfold Obligations.VectorArithmetic
  intro s d a b p t v hd X Y m W fx fy gives float
  have puts : ∀ {x : Instr} (rounds : Bool) {ff fi} {f : Nat → FR},
      exec x s = s.finish (s.varith2 d a b p t (wordOfInstr x) rounds ff fi) →
      (∀ i, SameLane t (if t.isFloat then ff (s.laneDraw s.rm i) (X i) (Y i) else ⟨fi (X i) (Y i), 0⟩) (f i)) →
      gives x (rounds && t.isFloat) f := fun _ _ _ _ hx same hv => PutsLanes.varith2 hd hx hv same
  refine ⟨puts true rfl fun i => .float_or_mod, puts true rfl fun i => .float_or_mod, puts true rfl fun i => .float_or_mod,
    puts false rfl fun i => .rfl, puts false rfl fun i => .rfl, ?_⟩
  intro ht ints
  have hf : t.isFloat = false := by rw [VType.isFloat, ht]; rfl
  refine ⟨puts false rfl fun i => .int ht .rfl, puts false rfl fun i => .int ht .rfl, puts false rfl fun i => .int ht .rfl,
    puts false rfl fun i => .int ht ?_, puts false rfl fun i => .int ht .rfl, puts false rfl fun i => .int ht .rfl,
    puts false rfl fun i => .int ht .rfl, puts false rfl fun i => .int ht .rfl, puts false rfl fun i => .int ht .rfl⟩
  -- VSHL drops the bits from w on
  show SameLane t ⟨if t.width ≤ Y i then 0 else X i * 2 ^ Y i % 2 ^ t.width, 0⟩ ⟨if t.width ≤ Y i then 0 else X i * 2 ^ Y i, 0⟩
  split
  · exact .rfl
  · exact .of_mod hf _

/-- Settles O46: `varith1` for the one-source instructions, `vfused` for those of R153. -/
theorem vectorOneSource : Obligations.VectorOneSource := by
  unfold Obligations.VectorOneSource
  intro s d a b p t x1 v hd m gives gives1 gives2 X Z A B
  have one : ∀ {t : VType} {x : Instr} {h : Nat → FR} {f : Nat → FR}, exec x s = s.finish (s.varith1 d a p t (wordOfInstr x) h) →
      (∀ i, SameLane t (h (laneGet t x1 i)) (f i)) → gives1 t x false f := fun hx same hv => PutsLanes.varith1 hd hx hv same
  have fused : ∀ {x : Instr} (h : Nat → FVal → FVal → FVal → FR), exec x s = s.finish (s.vfused d a b p t (wordOfInstr x) h) →
      gives2 x fun i => h (s.laneDraw m i) (A i) (B i) (Z i) := fun _ hx hv => PutsLanes.vfused hd hx hv
  refine ⟨one rfl fun i => ?_, one rfl fun i => ?_, one rfl fun _ => .rfl, one rfl fun _ => .rfl, one rfl fun _ => .rfl, one rfl fun _ => .rfl,
    fun _ => ⟨fun hv => ?_, fused (fun r x y z => ffma t.ff m r false x y z) rfl, fused (fun r x y z => ffma t.ff m r false x y z.negate) rfl,
      fused (fun r x y z => ffma t.ff m r true x y z.negate) rfl, fused (fun r x y z => ffma t.ff m r true x y z) rfl,
      fused (fun r x y _ => fdiv t.ff m r x y) rfl⟩⟩
  · split <;> exact .rfl
  · split <;> exact .rfl
  · -- VSQRT is neither: one source, and a draw
    refine PutsLanes.of_finish hd (f := fun i => fsqrt t.ff m (s.laneDraw m i) (t.ff.val (X i))) ?_ fun _ => .rfl
    show s.finish (effVsqrt d a p t s) = _
    rw [effVsqrt, hv]
    rfl

end

end Sys2Proof.Machine
end

section
/-! SUPPORT. Lanes converted, moved bit for bit, and taken from or put into general registers (R35, R142, R156 to R159, R169). -/

namespace Sys2Proof.Machine

/-! ## Where a lane comes from -/

/-- A lane of VCVT: the element converted, but a float into its own type is the source, a NaN apart (R156). -/
theorem vconvert_code (u t : VType) (m : RMode) (sat : Bool) (draw c : Nat) : (vconvert u t m sat draw c).code =
    if u = t ∧ t.isFloat = true ∧ (t.ff.val c).isNan = false then c else (convert (numTy u) (numTy t) m sat draw c).code := by
  by_cases h : u = t
  · subst h
    cases u <;> simp only [vconvert, numTy, VType.isFloat, VType.isInt, VType.ff, true_and, Bool.not_true, Bool.not_false, Bool.false_eq_true,
      false_and, if_false] <;> split <;> rfl
  · rw [if_neg fun h' => h h'.1]
    unfold vconvert
    split
    · rw [if_neg fun h' => h h'.1]
    · rfl

/-- The lanes that take part in VCVT (R157). -/
theorem active_cvtLanes (q : BitVec 32) {u t : VType} {i : Nat} (hi : i < t.lanes) :
    (i < cvtLanes u t ∧ active (q &&& BitVec.ofNat 32 (2 ^ cvtLanes u t - 1)) i = true) ↔ i < u.lanes ∧ active q i = true := by
  have h32 : i < 32 := hi.trans_le (by cases t <;> decide)
  have hn : i < cvtLanes u t ↔ i < u.lanes := by unfold cvtLanes; rw [Nat.lt_min]; exact and_iff_left hi
  simp only [active, BitVec.getLsbD_and, BitVec.getLsbD_ofNat, Nat.testBit_two_pow_sub_one, Bool.and_eq_true, decide_eq_true_eq, hn]
  tauto

theorem activeLanes_eq (t : VType) (q : BitVec 32) {i : Nat} (hi : i < t.lanes) (h : active q i = true) :
    ∃ post, activeLanes t q = (List.range i).filter (active q) ++ i :: post := by
  obtain ⟨n, hn⟩ := Nat.exists_eq_add_of_lt hi
  refine ⟨((List.range n).map (i + 1 + ·)).filter (active q), ?_⟩
  rw [activeLanes, hn, show i + n + 1 = i + 1 + n by omega, List.range_add, List.range_succ]
  simp [h]

/-- The j-th active lane is lane i exactly when lane i is active and j active lanes stand below it (R158). -/
theorem activeLanes_getD (t : VType) (q : BitVec 32) {i : Nat} (hi : i < t.lanes) (j : Nat) :
    (j < (activeLanes t q).length ∧ (activeLanes t q).getD j 0 = i) ↔
      active q i = true ∧ j = ((List.range i).filter (active q)).length := by
  have nodup : (activeLanes t q).Nodup := List.nodup_range.filter _
  constructor
  · rintro ⟨hj, e⟩
    rw [List.getD_eq_getElem _ _ hj] at e
    have h : active q i = true := (List.mem_filter.1 (e ▸ List.getElem_mem hj : i ∈ activeLanes t q)).2
    obtain ⟨post, hp⟩ := activeLanes_eq t q hi h
    refine ⟨h, (nodup.getElem_inj_iff (hi := hj) (hj := by rw [hp]; simp)).1 ?_⟩
    rw [e]
    simp [hp]
  · rintro ⟨h, rfl⟩
    obtain ⟨post, hp⟩ := activeLanes_eq t q hi h
    simp [hp]

/-- The bits of a predicate made of the active lanes (R143). -/
theorem getLsbD_maskOf (t : VType) (m : BitVec 32) (f : Nat → Bool) {i : Nat} (hi : i < t.lanes) :
    (maskOf t m f).getLsbD i = (active m i && f i) := by
  have h32 : i < 32 := hi.trans_le (by cases t <;> decide)
  have one : ∀ j, (BitVec.ofNat 32 (2 ^ j)).getLsbD i = decide (j = i) := fun j => by
    rw [BitVec.getLsbD_ofNat, Nat.testBit_two_pow, decide_eq_true h32, Bool.true_and]
  have fold : ∀ (is : List Nat) (q : BitVec 32),
      (is.foldl (fun q i => if active m i && f i then q ||| BitVec.ofNat 32 (2 ^ i) else q) q).getLsbD i =
        (q.getLsbD i || (decide (i ∈ is) && (active m i && f i))) := by
    intro is
    induction is with
    | nil => simp
    | cons j is ih =>
      intro q
      rw [List.foldl_cons, ih]
      cases h : active m j && f j with
      | true =>
        simp only [if_true, BitVec.getLsbD_or, one, List.mem_cons]
        by_cases e : j = i
        · subst e; simp [h]
        · simp [e, Ne.symm e]
      | false =>
        simp only [Bool.false_eq_true, if_false, List.mem_cons]
        by_cases e : i = j
        · subst e; simp [h]
        · simp [e]
  rw [maskOf, fold]
  simp [hi]

/-! ## Instructions that leave one vector register changed -/

section
variable {s u : State} {x : Instr} {d : Nat} {vd : BitVec 1024}

/-- An instruction that retires with vd written has left memory and the other vector registers alone. -/
theorem exists_setV {P : State → Prop} (hx : exec x s = s.finish (.ok u)) (hm : u.mem = s.mem)
    (hv : ∀ k, u.getV k = if k = d then vd else s.getV k) (hP : u.getV d = vd → P u) :
    ∃ u : State, exec x s = .next u.advance ∧ u.mem = s.mem ∧ (∀ k, k ≠ d → u.getV k = s.getV k) ∧ P u :=
  ⟨u, hx, hm, fun k hk => (hv k).trans (if_neg hk), hP ((hv d).trans (if_pos rfl))⟩

/-- The same, by the lanes of vd, with stream sources that give up their entries. -/
theorem exists_setV_popped {fs : List Nat} {t : VType} {g : Nat → Nat} (hd : d < 32)
    (hx : exec x s = s.finish (.ok ((s.setV d vd).popStreams fs))) (lanes : ∀ i, i < t.lanes → laneRaw t vd i = g i) :
    ∃ u : State, exec x s = .next u.advance ∧ u.mem = s.mem ∧ (∀ k, k ≠ d → u.getV k = s.getV k) ∧
      ∀ i, i < t.lanes → laneRaw t (u.getV d) i = g i :=
  exists_setV hx (by simp) (fun k => by rw [State.getV_popStreams, s.getV_setV d k vd hd]) fun h i hi => by rw [h, lanes i hi]

end

section
variable {s : State} {d a b n p : Nat} {t : VType} {x1 : BitVec 1024} {v : BitVec 1024 × BitVec 1024}

/-- Lanes moved bit for bit. -/
theorem laneRaw_moved (m : BitVec 32) (old w : BitVec 1024) (src : Nat → Nat) {i : Nat} (hi : i < t.lanes) :
    laneRaw t (moveLanes t m old fun i => laneRaw t w (src i)) i = if active m i = true then laneRaw t w (src i) else laneRaw t old i := by
  rw [laneRaw_moveLanes t hi, laneRaw_mod]

/-- An instruction that moves lane `src i` of w to each active lane i of vd. -/
theorem exec_moved {x : Instr} (fs : List Nat) (w : BitVec 1024) (src : Nat → Nat) (hd : d < 32)
    (hx : exec x s = s.finish (.ok ((s.setV d (moveLanes t (s.getP p) (s.getV d) fun i => laneRaw t w (src i))).popStreams fs))) :
    ∃ u : State, exec x s = .next u.advance ∧ u.mem = s.mem ∧ (∀ k, k ≠ d → u.getV k = s.getV k) ∧
      ∀ i, i < t.lanes → laneRaw t (u.getV d) i = if active (s.getP p) i = true then laneRaw t w (src i) else laneRaw t (s.getV d) i :=
  exists_setV_popped hd hx fun _ hi => laneRaw_moved _ _ _ _ hi

theorem exec_vcvt {u : VType} {sat : Bool} {m : RMode} (hd : d < 32) (h : s.src1 a (wordOfInstr (.vcvt d a u sat p t m)) = .ok x1) :
    ∃ w : State, exec (.vcvt d a u sat p t m) s = .next w.advance ∧ w.mem = s.mem ∧ (∀ k, k ≠ d → w.getV k = s.getV k) ∧
      ∀ i, i < t.lanes → laneRaw t (w.getV d) i = if i < u.lanes ∧ active (s.getP p) i = true then
        laneBitsOf t (if u = t ∧ t.isFloat = true ∧ (t.ff.val (laneGet u x1 i)).isNan = false then laneGet u x1 i
          else (convert (numTy u) (numTy t) m sat (s.laneDraw m i) (laneGet u x1 i)).code) else laneRaw t (s.getV d) i := by
  let f : Nat → FR := fun i => vconvert u t m sat (s.laneDraw m i) (laneGet u x1 i)
  let mask := s.getP p &&& BitVec.ofNat 32 (2 ^ cvtLanes u t - 1)
  let vd := setLanes t (active mask) id (fun i => if t = .f64 then (f i).code else laneImage t (f i).code) (List.range (cvtLanes u t)) (s.getV d)
  have run : effVcvt d a u sat p t m s = .ok ((((s.setV d vd).raiseFlags ((List.range (cvtLanes u t)).foldl
      (fun g i => if active mask i then g ||| (f i).fl else g) 0)).popStreams [a]).consume m (if u = .f64 ∨ t = .f64 then 4 else 8)) := by
    rw [effVcvt, h]; rfl
  refine exists_setV (vd := vd) (congrArg s.finish run) (by simp) (fun k => by simp [s.getV_setV d k vd hd]) fun hv i hi => ?_
  rw [hv, laneRaw_setLanes_range t hi]
  simp only [mask, active_cvtLanes _ hi, laneBitsOf_eq, f, vconvert_code]

theorem exec_vcompress (hd : d < 32) (h : s.src1 a (wordOfInstr (.vcompress d a p t)) = .ok x1) :
    ∃ w : State, exec (.vcompress d a p t) s = .next w.advance ∧ w.mem = s.mem ∧ (∀ k, k ≠ d → w.getV k = s.getV k) ∧
      ∀ i, i < t.lanes → laneRaw t (w.getV d) i = if i < (activeLanes t (s.getP p)).length then
        laneRaw t x1 ((activeLanes t (s.getP p)).getD i 0) else laneRaw t (s.getV d) i := by
  let ls := activeLanes t (s.getP p)
  let vd := setLanes t (fun _ => true) id (fun j => laneRaw t x1 (ls.getD j 0)) (List.range ls.length) (s.getV d)
  have run : effVcompress d a p t s = .ok ((s.setV d vd).popStreams [a]) := by rw [effVcompress, h]; rfl
  refine exists_setV_popped hd (congrArg s.finish run) fun i hi => ?_
  rw [laneRaw_setLanes_range t hi, laneRaw_mod]
  simp only [and_true, ls]

theorem exec_vexpand (hd : d < 32) (h : s.src1 a (wordOfInstr (.vexpand d a p t)) = .ok x1) :
    ∃ w : State, exec (.vexpand d a p t) s = .next w.advance ∧ w.mem = s.mem ∧ (∀ k, k ≠ d → w.getV k = s.getV k) ∧
      ∀ i, i < t.lanes → laneRaw t (w.getV d) i = if active (s.getP p) i = true then
        laneRaw t x1 ((List.range i).filter (active (s.getP p))).length else laneRaw t (s.getV d) i := by
  let ls := activeLanes t (s.getP p)
  let vd := setLanes t (fun _ => true) (fun j => ls.getD j 0) (laneRaw t x1) (List.range ls.length) (s.getV d)
  have run : effVexpand d a p t s = .ok ((s.setV d vd).popStreams [a]) := by rw [effVexpand, h]; rfl
  refine exists_setV_popped hd (congrArg s.finish run) fun i hi => ?_
  have source := activeLanes_getD t (s.getP p) hi
  split
  · rename_i ha
    obtain ⟨lt, e⟩ := (source _).2 ⟨ha, rfl⟩
    have only : ∀ j ∈ List.range ls.length, true = true → ls.getD j 0 = i → laneRaw t x1 j = _ := fun j hj _ hl =>
      congrArg (laneRaw t x1) ((source j).1 ⟨List.mem_range.1 hj, hl⟩).2
    rw [laneRaw_setLanes t hi ⟨_, List.mem_range.2 lt, rfl, e⟩ only, laneRaw_mod]
  · rename_i ha
    exact laneRaw_setLanes_other t hi (fun j hj _ hl => ha ((source j).1 ⟨List.mem_range.1 hj, hl⟩).1) _

theorem exec_vxlane (hd : d < 32) (h : s.src2 a b (wordOfInstr (.vxlane d a b p t)) = .ok v) :
    let q := s.getP p
    let k := laneIndex t v.2
    ∃ w : State, exec (.vxlane d a b p t) s = .next w.advance ∧ w.mem = s.mem ∧ (∀ n, n ≠ d → w.getV n = s.getV n) ∧
      (∀ i, i < t.lanes → laneRaw t (w.getV d) i =
        if active q i then laneRaw t v.1 (if active q (k i) then k i else i) else laneRaw t (s.getV d) i) ∧
      (p ≠ 0 → p < 8 → ∀ i, i < t.lanes → (w.getP p).getLsbD i = (active q i && active q (k i))) := by
  intro q k
  let vd := moveLanes t q (s.getV d) fun i => laneRaw t v.1 (if active q (k i) then k i else i)
  let lost := maskOf t q fun i => !active q (k i)
  have run : effVxlane d a b p t s = .ok (((s.setV d vd).setP p (q &&& ~~~lost)).popStreams [a, b]) := by rw [effVxlane, h]; rfl
  refine exists_setV (vd := vd) (congrArg s.finish run) (by simp) (fun k => by simp [s.getV_setV d k vd hd]) fun hv =>
    ⟨fun i hi => ?_, fun h0 h8 i hi => ?_⟩
  · rw [hv, laneRaw_moved _ _ _ _ hi]
  · have h32 : i < 32 := hi.trans_le (by cases t <;> decide)
    have : q.getLsbD i = active q i := rfl
    rw [State.getP_popStreams, State.getP_setP _ _ _ _ h8, if_pos ⟨rfl, h0⟩, BitVec.getLsbD_and, BitVec.getLsbD_not,
      getLsbD_maskOf t q _ hi, this, decide_eq_true h32]
    cases active q i <;> cases active q (k i) <;> rfl

theorem exec_vmovgv (hd : d < 32) (ha : s.clean a) :
    ∃ w : State, exec (.vmovgv d a n p t) s = .next w.advance ∧ w.mem = s.mem ∧ (∀ k, k ≠ d → w.getV k = s.getV k) ∧
      ∀ i, i < t.lanes → laneRaw t (w.getV d) i = if i = n ∧ active (s.getP p) i = true then
        laneBitsOf t ((s.ival a).toNat % 2 ^ t.width) else laneRaw t (s.getV d) i := by
  let x := (s.ival a).toNat % 2 ^ t.width
  have run : exec (.vmovgv d a n p t) s = s.finish (.ok (if active (s.getP p) n then s.setV d (laneSet t (s.getV d) n x) else s)) := by
    show execVmovgv d a n p t s = _
    rw [execVmovgv, s.value_of_clean ha]; rfl
  by_cases h : active (s.getP p) n = true
  · rw [if_pos h] at run
    refine exists_setV run rfl (s.getV_setV d · _ hd) fun hv i hi => ?_
    rw [hv, laneSet, laneRaw_laneSetRaw t _ _ hi, laneBitsOf_eq]
    by_cases e : i = n
    · subst e; simp [h, x]
    · simp [e]
  · rw [if_neg h] at run
    refine exists_setV (d := d) (vd := s.getV d) run rfl (fun k => by split <;> simp [*]) fun _ i _ => ?_
    rw [if_neg]
    rintro ⟨rfl, h'⟩
    exact h h'

theorem exec_vsplat (hd : d < 32) (ha : s.clean a) :
    ∃ w : State, exec (.vsplat d a p t) s = .next w.advance ∧ TakesLanes s w d p t fun _ => (s.ival a).toNat % 2 ^ t.width := by
  have run : exec (.vsplat d a p t) s = s.finish (.ok (s.setV d (writeLanes t (s.getP p) (s.getV d) fun _ => (s.ival a).toNat % 2 ^ t.width))) := by
    show execVsplat d a p t s = _
    rw [execVsplat, s.value_of_clean ha]; rfl
  refine ⟨_, run, fun i hi => ?_, fun k hk => by rw [s.getV_setV d k _ hd, if_neg hk], fun _ => rfl, fun _ => rfl, rfl, rfl⟩
  rw [s.getV_setV d d _ hd, if_pos rfl, laneRaw_writeLanes t hi]

theorem exec_vmovvg {g : Nat} (hg : g < 64) (h0 : g ≠ 0) (h : s.src1 a (wordOfInstr (.vmovvg g a n t)) = .ok x1) :
    ∃ w : State, exec (.vmovvg g a n t) s = .next w.advance ∧
      w.getG g = word (if t.signed then BitVec.ofInt 64 (sext (laneGet t x1 n) t.width) else BitVec.ofNat 64 (laneGet t x1 n)) ∧
      (∀ k, w.getV k = s.getV k) ∧ w.mem = s.mem := by
  let x : Word := if t.signed then BitVec.ofInt 64 (sext (laneGet t x1 n) t.width) else BitVec.ofNat 64 (laneGet t x1 n)
  have run : exec (.vmovvg g a n t) s = s.finish (.ok ((s.setG g (word x)).popStreams [a])) := by
    show execVmovvg g a n t s = _
    rw [execVmovvg, h]; rfl
  obtain ⟨hm, -, -, -, -, -, hv, -⟩ := s.setG_keeps g (word x)
  refine ⟨_, run, ?_, fun k => ?_, ?_⟩
  · rw [State.getG_popStreams, State.getG_setG s g g _ hg, if_pos ⟨rfl, h0⟩]
  · rw [State.getV_popStreams, State.getV, hv, State.getV]
  · rw [State.popStreams_mem, hm]

end

/-- Settles O48: each instruction by the lanes that it writes. -/
theorem vectorMoves : Obligations.VectorMoves := by
  unfold Obligations.VectorMoves
  intro s d a b n p t u0 sat m x1 v hd q raw one two k ls
  refine ⟨exec_vcvt hd, fun h => exec_moved [a, b] v.1 k hd ?vshuf, fun h => exec_moved [a] x1 (fun i => (i + n) % t.lanes) hd ?vrot,
    fun _ h => exec_moved [a] x1 (fun _ => n) hd ?vbcast, exec_vxlane hd, exec_vcompress hd, exec_vexpand hd, fun ha _ => exec_vmovgv hd ha,
    exec_vsplat hd, fun g hg h0 h => exec_vmovvg hg h0 h⟩
  case vshuf => show s.finish (effVshuf d a b p t s) = _; rw [effVshuf, h]; rfl
  case vrot => show s.finish (effVrot d a n p t s) = _; rw [effVrot, h]; rfl
  case vbcast => show s.finish (effVbcast d a n p t s) = _; rw [effVbcast, h]; rfl

end Sys2Proof.Machine
end

section
/-! SUPPORT. The fields of a word: their bounds, a word as the sum of its fields, signed fields (R43), and the codes of the named
fields (R45 to R49). -/

namespace Sys2Proof

set_option Elab.async false

/-! ## Fields -/

theorem fld_lt (w lo n : Nat) : fld w lo n < 2 ^ n := Nat.mod_lt _ (Nat.two_pow_pos n)

/-- A predicate register field (R42). -/
@[simp] theorem fld_three_lt (w lo : Nat) : fld w lo 3 < 8 := fld_lt w lo 3
/-- A vector register field (R42). -/
@[simp] theorem fld_five_lt (w lo : Nat) : fld w lo 5 < 32 := fld_lt w lo 5
/-- A general register field (R42). -/
@[simp] theorem fld_six_lt (w lo : Nat) : fld w lo 6 < 64 := fld_lt w lo 6

theorem fld_append (w lo m n : Nat) : fld w lo (m + n) = fld w lo m + 2 ^ m * fld w (lo + m) n := by
  simp only [fld, pow_add, Nat.mod_mul, Nat.div_div_eq_div_mul]

/-- The bits of w from bit lo upward, as the sum of fields of the given widths, the lowest first. -/
def fieldSum (w lo : Nat) : List Nat → Nat
  | [] => 0
  | n :: ns => fld w lo n * 2 ^ lo + fieldSum w (lo + n) ns

theorem fieldSum_eq (w : Nat) (ns : List Nat) (lo : Nat) : fieldSum w lo ns = fld w lo ns.sum * 2 ^ lo := by
  induction ns generalizing lo with
  | nil => simp [fieldSum, fld, Nat.mod_one]
  | cons n ns ih => rw [fieldSum, ih, List.sum_cons, fld_append]; ring

/-- A word is the sum of the fields of any format (R42). -/
theorem word_eq_fieldSum {w : Nat} (ns : List Nat) (h : ns.sum = 32) (lt : w < 2 ^ 32) : w = fieldSum w 0 ns := by
  rw [fieldSum_eq, h, fld, pow_zero, Nat.div_one, Nat.mul_one, Nat.mod_eq_of_lt lt]

/-! ## Signed fields (R43) -/

theorem two_pow_halves {n : Nat} (hn : 0 < n) :
    ∃ m : Nat, (2 : Nat) ^ (n - 1) = m ∧ (2 : Nat) ^ n = 2 * m ∧ (2 : Int) ^ (n - 1) = m ∧ (2 : Int) ^ n = 2 * m := by
  obtain ⟨k, rfl⟩ : ∃ k, n = k + 1 := ⟨n - 1, by omega⟩
  exact ⟨2 ^ k, rfl, pow_succ' 2 k, by push_cast; rfl, by push_cast; exact pow_succ' 2 k⟩

/-- An integer within the limits of a field is read back from it. -/
@[simp] theorem sx_ux {n : Nat} {x : Int} (hn : 0 < n) (h : inS n x = true) : sx n (ux n x) = x := by
  obtain ⟨m, h1, -, h3, h4⟩ := two_pow_halves hn
  simp only [sx, ux, inS, h1, h3, h4, decide_eq_true_eq] at *
  rcases le_or_gt 0 x with hx | hx
  · rw [Int.emod_eq_of_lt hx (by omega), if_pos (by omega)]; omega
  · rw [← Int.add_emod_right, Int.emod_eq_of_lt (by omega) (by omega), if_neg (by omega)]; omega

@[simp] theorem ux_sx_fld (w lo n : Nat) : ux n (sx n (fld w lo n)) = fld w lo n := by
  have hx : (fld w lo n : Int) % 2 ^ n = fld w lo n := Int.emod_eq_of_lt (by omega) (by exact_mod_cast fld_lt w lo n)
  unfold sx ux
  split
  · rw [hx]; rfl
  · rw [Int.sub_emod_right, hx]; rfl

@[simp] theorem inS_sx_fld {n : Nat} (w lo : Nat) (hn : 0 < n) : inS n (sx n (fld w lo n)) = true := by
  have h := fld_lt w lo n
  obtain ⟨m, h1, h2, h3, h4⟩ := two_pow_halves hn
  simp only [sx, inS, h1, h2, h3, h4, decide_eq_true_eq] at *
  split <;> omega

/-! ## One-bit fields and the codes of named fields -/

@[simp] theorem toNat_beq_one (x : Bool) : (x.toNat == 1) = x := by cases x <;> rfl

theorem beq_one_toNat {n : Nat} (h : n < 2 ^ 1) : (n == 1).toNat = n := by
  obtain rfl | rfl : n = 0 ∨ n = 1 := by omega
  · rfl
  · rfl

theorem LWidth.ofCode_eq_some {c : Nat} {x : LWidth} : LWidth.ofCode c = some x ↔ x.code = c := by
  refine ⟨fun h => ?_, fun h => ?_⟩
  · unfold LWidth.ofCode at h; split at h <;> cases h <;> rfl
  · subst h; cases x <;> rfl
@[simp] theorem LWidth.ofCode_code (x : LWidth) : LWidth.ofCode x.code = some x := LWidth.ofCode_eq_some.2 rfl

theorem SWidth.ofCode_eq_some {c : Nat} {x : SWidth} : SWidth.ofCode c = some x ↔ x.code = c := by
  refine ⟨fun h => ?_, fun h => ?_⟩
  · unfold SWidth.ofCode at h; split at h <;> cases h <;> rfl
  · subst h; cases x <;> rfl
@[simp] theorem SWidth.ofCode_code (x : SWidth) : SWidth.ofCode x.code = some x := SWidth.ofCode_eq_some.2 rfl

theorem AWidth.ofCode_eq_some {c : Nat} {x : AWidth} : AWidth.ofCode c = some x ↔ x.code = c := by
  refine ⟨fun h => ?_, fun h => ?_⟩
  · unfold AWidth.ofCode at h; split at h <;> cases h <;> rfl
  · subst h; cases x <;> rfl
@[simp] theorem AWidth.ofCode_code (x : AWidth) : AWidth.ofCode x.code = some x := AWidth.ofCode_eq_some.2 rfl

theorem Scope.ofCode_eq_some {c : Nat} {x : Scope} : Scope.ofCode c = some x ↔ x.code = c := by
  refine ⟨fun h => ?_, fun h => ?_⟩
  · unfold Scope.ofCode at h; split at h <;> cases h <;> rfl
  · subst h; cases x <;> rfl
@[simp] theorem Scope.ofCode_code (x : Scope) : Scope.ofCode x.code = some x := Scope.ofCode_eq_some.2 rfl

theorem Ord.ofCode_eq_some {c : Nat} {x : Ord} : Ord.ofCode c = some x ↔ x.code = c := by
  refine ⟨fun h => ?_, fun h => ?_⟩
  · unfold Ord.ofCode at h; split at h <;> cases h <;> rfl
  · subst h; cases x <;> rfl
@[simp] theorem Ord.ofCode_code (x : Ord) : Ord.ofCode x.code = some x := Ord.ofCode_eq_some.2 rfl

theorem FFmt.ofCode_eq_some {c : Nat} {x : FFmt} : FFmt.ofCode c = some x ↔ x.code = c := by
  refine ⟨fun h => ?_, fun h => ?_⟩
  · unfold FFmt.ofCode at h; split at h <;> cases h <;> rfl
  · subst h; cases x <;> rfl
@[simp] theorem FFmt.ofCode_code (x : FFmt) : FFmt.ofCode x.code = some x := FFmt.ofCode_eq_some.2 rfl

theorem CvtType.ofCode_eq_some {c : Nat} {x : CvtType} : CvtType.ofCode c = some x ↔ x.code = c := by
  refine ⟨fun h => ?_, fun h => ?_⟩
  · unfold CvtType.ofCode at h; split at h <;> cases h <;> rfl
  · subst h; cases x <;> rfl
@[simp] theorem CvtType.ofCode_code (x : CvtType) : CvtType.ofCode x.code = some x := CvtType.ofCode_eq_some.2 rfl

theorem CvtDir.ofCode_eq_some {c : Nat} {x : CvtDir} : CvtDir.ofCode c = some x ↔ x.code = c := by
  refine ⟨fun h => ?_, fun h => ?_⟩
  · unfold CvtDir.ofCode at h; split at h <;> cases h <;> rfl
  · subst h; cases x <;> rfl
@[simp] theorem CvtDir.ofCode_code (x : CvtDir) : CvtDir.ofCode x.code = some x := CvtDir.ofCode_eq_some.2 rfl

theorem VType.ofCode_eq_some {c : Nat} {x : VType} : VType.ofCode c = some x ↔ x.code = c := by
  refine ⟨fun h => ?_, fun h => ?_⟩
  · unfold VType.ofCode at h; split at h <;> cases h <;> rfl
  · subst h; cases x <;> rfl
@[simp] theorem VType.ofCode_code (x : VType) : VType.ofCode x.code = some x := VType.ofCode_eq_some.2 rfl

theorem RMode.ofCode_eq_some {c : Nat} {x : RMode} : RMode.ofCode c = some x ↔ x.code = c := by
  refine ⟨fun h => ?_, fun h => ?_⟩
  · unfold RMode.ofCode at h; split at h <;> cases h <;> rfl
  · subst h; cases x <;> rfl
@[simp] theorem RMode.ofCode_code (x : RMode) : RMode.ofCode x.code = some x := RMode.ofCode_eq_some.2 rfl

theorem Eng.ofCode_eq_some {c : Nat} {x : Eng} : Eng.ofCode c = some x ↔ x.code = c := by
  refine ⟨fun h => ?_, fun h => ?_⟩
  · unfold Eng.ofCode at h; split at h <;> cases h <;> rfl
  · subst h; cases x <;> rfl
@[simp] theorem Eng.ofCode_code (x : Eng) : Eng.ofCode x.code = some x := Eng.ofCode_eq_some.2 rfl

theorem EProgSel.ofCode_eq_some {c : Nat} {x : EProgSel} : EProgSel.ofCode c = some x ↔ x.code = c := by
  refine ⟨fun h => ?_, fun h => ?_⟩
  · unfold EProgSel.ofCode at h; split at h <;> cases h <;> rfl
  · subst h; cases x <;> rfl
@[simp] theorem EProgSel.ofCode_code (x : EProgSel) : EProgSel.ofCode x.code = some x := EProgSel.ofCode_eq_some.2 rfl

end Sys2Proof
end

section
/-! SUPPORT. The fields of the word that the encoder puts together, one lemma for each set of operands that a format of R42 carries. The
lemma is named after the format and its operands, from high bits to low; c is the constant of the encoder's sum, which holds the
major opcode and the selecting codes, and a field that the instruction does not use is zero. -/

namespace Sys2Proof

set_option Elab.async false

/-! ### Format F3 -/

theorem f3_dab {c d a b w : Nat} (h : some (c + d * 0x100000 + a * 0x4000 + b * 0x100) = some w)
    (hr : (d < 64 && a < 64 && b < 64) = true) (hc : c % 0x4000000 < 0x100 ∧ c < 0x100000000 := by decide) :
    w < 2 ^ 32 ∧ fld w 26 6 = c / 0x4000000 ∧ fld w 20 6 = d ∧ fld w 14 6 = a ∧ fld w 8 6 = b ∧ fld w 0 8 = c % 0x100 := by
  cases h
  simp only [Bool.and_eq_true, decide_eq_true_eq] at hr
  simp only [fld]
  omega

theorem f3_da {c d a w : Nat} (h : some (c + d * 0x100000 + a * 0x4000) = some w)
    (hr : (d < 64 && a < 64) = true) (hc : c % 0x4000000 < 0x100 ∧ c < 0x100000000 := by decide) :
    w < 2 ^ 32 ∧ fld w 26 6 = c / 0x4000000 ∧ fld w 20 6 = d ∧ fld w 14 6 = a ∧ fld w 8 6 = 0 ∧ fld w 0 8 = c % 0x100 := by
  cases h
  simp only [Bool.and_eq_true, decide_eq_true_eq] at hr
  simp only [fld]
  omega

theorem f3_ab {c a b w : Nat} (h : some (c + a * 0x4000 + b * 0x100) = some w)
    (hr : (a < 64 && b < 64) = true) (hc : c % 0x4000000 < 0x100 ∧ c < 0x100000000 := by decide) :
    w < 2 ^ 32 ∧ fld w 26 6 = c / 0x4000000 ∧ fld w 20 6 = 0 ∧ fld w 14 6 = a ∧ fld w 8 6 = b ∧ fld w 0 8 = c % 0x100 := by
  cases h
  simp only [Bool.and_eq_true, decide_eq_true_eq] at hr
  simp only [fld]
  omega

theorem f3_a {c a w : Nat} (h : some (c + a * 0x4000) = some w)
    (hr : a < 64) (hc : c % 0x4000000 < 0x100 ∧ c < 0x100000000 := by decide) :
    w < 2 ^ 32 ∧ fld w 26 6 = c / 0x4000000 ∧ fld w 20 6 = 0 ∧ fld w 14 6 = a ∧ fld w 8 6 = 0 ∧ fld w 0 8 = c % 0x100 := by
  cases h
  simp only [fld]
  omega

theorem f3_d {c d w : Nat} (h : some (c + d * 0x100000) = some w)
    (hr : d < 64) (hc : c % 0x4000000 < 0x100 ∧ c < 0x100000000 := by decide) :
    w < 2 ^ 32 ∧ fld w 26 6 = c / 0x4000000 ∧ fld w 20 6 = d ∧ fld w 8 12 = 0 ∧ fld w 0 8 = c % 0x100 := by
  cases h
  simp only [fld]
  omega

theorem f3_das {c d a s w : Nat} (h : some (c + d * 0x100000 + a * 0x4000 + s * 0x100) = some w)
    (hr : (d < 64 && a < 64) = true) (hs : s < 4) (hc : c % 0x4000000 < 0x4000 ∧ c % 0x400 < 0x100 ∧ c < 0x100000000 := by decide) :
    w < 2 ^ 32 ∧ fld w 26 6 = c / 0x4000000 ∧ fld w 20 6 = d ∧ fld w 14 6 = a ∧ fld w 10 4 = c / 0x400 % 16 ∧ fld w 8 2 = s ∧
      fld w 0 8 = c % 0x100 := by
  cases h
  simp only [Bool.and_eq_true, decide_eq_true_eq] at hr
  simp only [fld]
  omega

theorem f3_as {c a s w : Nat} (h : some (c + a * 0x4000 + s * 0x100) = some w)
    (hr : a < 64) (hs : s < 4) (hc : c % 0x4000000 < 0x100 ∧ c < 0x100000000 := by decide) :
    w < 2 ^ 32 ∧ fld w 26 6 = c / 0x4000000 ∧ fld w 20 6 = 0 ∧ fld w 14 6 = a ∧ fld w 10 4 = 0 ∧ fld w 8 2 = s ∧
      fld w 0 8 = c % 0x100 := by
  cases h
  simp only [fld]
  omega

theorem f3_ds {c d s w : Nat} (h : some (c + d * 0x100000 + s * 0x100) = some w)
    (hr : d < 64) (hs : s < 4) (hc : c % 0x4000000 < 0x100 ∧ c < 0x100000000 := by decide) :
    w < 2 ^ 32 ∧ fld w 26 6 = c / 0x4000000 ∧ fld w 20 6 = d ∧ fld w 10 10 = 0 ∧ fld w 8 2 = s ∧ fld w 0 8 = c % 0x100 := by
  cases h
  simp only [fld]
  omega

theorem f3_s {c s w : Nat} (h : some (c + s * 0x100) = some w)
    (hs : s < 4) (hc : c % 0x4000000 < 0x100 ∧ c < 0x100000000 := by decide) :
    w < 2 ^ 32 ∧ fld w 26 6 = c / 0x4000000 ∧ fld w 10 16 = 0 ∧ fld w 8 2 = s ∧ fld w 0 8 = c % 0x100 := by
  cases h
  simp only [fld]
  omega

/-! ### Format F3 with a split function code (R45, R46) -/

theorem amo_dab {c d a b k s o w : Nat} (h : some (c + d * 0x100000 + a * 0x4000 + b * 0x100 + k * 0x8 + s * 0x2 + o * 0x1) = some w)
    (hr : (d < 64 && a < 64 && b < 64) = true)
    (hk : k < 2) (hs : s < 4) (ho : o < 2) (hc : c % 0x4000000 < 0x100 ∧ c % 16 = 0 ∧ c < 0x100000000 := by decide) :
    w < 2 ^ 32 ∧ fld w 26 6 = c / 0x4000000 ∧ fld w 20 6 = d ∧ fld w 14 6 = a ∧ fld w 8 6 = b ∧ fld w 4 4 = c / 16 % 16 ∧
      fld w 3 1 = k ∧ fld w 1 2 = s ∧ fld w 0 1 = o := by
  cases h
  simp only [Bool.and_eq_true, decide_eq_true_eq] at hr
  simp only [fld]
  omega

theorem fp_dab {c d a b p w : Nat} (h : some (c + d * 0x100000 + a * 0x4000 + b * 0x100 + p * 0x80) = some w)
    (hr : (d < 64 && a < 64 && b < 64) = true) (hp : p < 2) (hc : c % 0x4000000 < 0x80 ∧ c < 0x100000000 := by decide) :
    w < 2 ^ 32 ∧ fld w 26 6 = c / 0x4000000 ∧ fld w 20 6 = d ∧ fld w 14 6 = a ∧ fld w 8 6 = b ∧ fld w 7 1 = p ∧ fld w 0 7 = c % 0x80 := by
  cases h
  simp only [Bool.and_eq_true, decide_eq_true_eq] at hr
  simp only [fld]
  omega

theorem fp_da {c d a p w : Nat} (h : some (c + d * 0x100000 + a * 0x4000 + p * 0x80) = some w)
    (hr : (d < 64 && a < 64) = true) (hp : p < 2) (hc : c % 0x4000000 < 0x80 ∧ c < 0x100000000 := by decide) :
    w < 2 ^ 32 ∧ fld w 26 6 = c / 0x4000000 ∧ fld w 20 6 = d ∧ fld w 14 6 = a ∧ fld w 8 6 = 0 ∧ fld w 7 1 = p ∧ fld w 0 7 = c % 0x80 := by
  cases h
  simp only [Bool.and_eq_true, decide_eq_true_eq] at hr
  simp only [fld]
  omega

theorem fp_cvt {c d a t r p w : Nat} (h : some (c + d * 0x100000 + a * 0x4000 + t * 0x800 + r * 0x400 + p * 0x80) = some w)
    (hr : (d < 64 && a < 64) = true)
    (ht : t < 8) (hs : r < 2) (hp : p < 2) (hc : c % 0x4000000 < 0x80 ∧ c < 0x100000000 := by decide) :
    w < 2 ^ 32 ∧ fld w 26 6 = c / 0x4000000 ∧ fld w 20 6 = d ∧ fld w 14 6 = a ∧ fld w 8 2 = 0 ∧ fld w 11 3 = t ∧ fld w 10 1 = r ∧
      fld w 7 1 = p ∧ fld w 0 7 = c % 0x80 := by
  cases h
  simp only [Bool.and_eq_true, decide_eq_true_eq] at hr
  simp only [fld]
  omega

/-! ### Formats FI, FL, FM, FB, FZ, FJ and the word of REP -/

theorem fi_dax {c d a x w : Nat} (h : some (c + d * 0x100000 + a * 0x4000 + x * 0x1) = some w)
    (hr : (d < 64 && a < 64) = true) (hx : x < 16384) (hc : c % 0x4000000 = 0 ∧ c < 0x100000000 := by decide) :
    w < 2 ^ 32 ∧ fld w 26 6 = c / 0x4000000 ∧ fld w 20 6 = d ∧ fld w 14 6 = a ∧ fld w 0 14 = x := by
  cases h
  simp only [Bool.and_eq_true, decide_eq_true_eq] at hr
  simp only [fld]
  omega

theorem fi_da13 {c d a x w : Nat} (h : some (c + d * 0x100000 + a * 0x4000 + x * 0x1) = some w)
    (hr : (d < 64 && a < 64) = true) (hx : x < 8192) (hc : c % 8192 = 0 ∧ c % 0x4000000 < 16384 ∧ c < 0x100000000 := by decide) :
    w < 2 ^ 32 ∧ fld w 26 6 = c / 0x4000000 ∧ fld w 20 6 = d ∧ fld w 14 6 = a ∧ fld w 13 1 = c / 8192 % 2 ∧ fld w 0 13 = x := by
  cases h
  simp only [Bool.and_eq_true, decide_eq_true_eq] at hr
  simp only [fld]
  omega

theorem fi_dan {c d a n w : Nat} (h : some (c + d * 0x100000 + a * 0x4000 + n * 0x1) = some w)
    (hr : (d < 64 && a < 64 && n < 64) = true) (hc : c % 4096 = 0 ∧ c % 0x4000000 < 16384 ∧ c < 0x100000000 := by decide) :
    w < 2 ^ 32 ∧ fld w 26 6 = c / 0x4000000 ∧ fld w 20 6 = d ∧ fld w 14 6 = a ∧ fld w 12 2 = c / 4096 % 4 ∧ fld w 6 6 = 0 ∧
      fld w 0 6 = n := by
  cases h
  simp only [Bool.and_eq_true, decide_eq_true_eq] at hr
  simp only [fld]
  omega

theorem fl_dx {c d x w : Nat} (h : some (c + d * 0x100000 + x * 0x1) = some w)
    (hr : d < 64) (hx : x < 1048576) (hc : c % 0x4000000 = 0 ∧ c < 0x100000000 := by decide) :
    w < 2 ^ 32 ∧ fld w 26 6 = c / 0x4000000 ∧ fld w 20 6 = d ∧ fld w 0 20 = x := by
  cases h
  simp only [fld]
  omega

theorem fm_dakx {c d a k x w : Nat} (h : some (c + d * 0x100000 + a * 0x4000 + k * 0x800 + x * 0x1) = some w)
    (hr : (d < 64 && a < 64) = true) (hk : k < 8) (hx : x < 2048) (hc : c % 0x4000000 = 0 ∧ c < 0x100000000 := by decide) :
    w < 2 ^ 32 ∧ fld w 26 6 = c / 0x4000000 ∧ fld w 20 6 = d ∧ fld w 14 6 = a ∧ fld w 11 3 = k ∧ fld w 0 11 = x := by
  cases h
  simp only [Bool.and_eq_true, decide_eq_true_eq] at hr
  simp only [fld]
  omega

theorem fb_abx {c a b x w : Nat} (h : some (c + a * 0x20000 + b * 0x800 + x * 0x1) = some w)
    (hr : (a < 64 && b < 64) = true) (hx : x < 2048) (hc : c % 0x800000 = 0 ∧ c < 0x100000000 := by decide) :
    w < 2 ^ 32 ∧ fld w 26 6 = c / 0x4000000 ∧ fld w 23 3 = c / 0x800000 % 8 ∧ fld w 17 6 = a ∧ fld w 11 6 = b ∧ fld w 0 11 = x := by
  cases h
  simp only [Bool.and_eq_true, decide_eq_true_eq] at hr
  simp only [fld]
  omega

theorem fz_ax {c a x w : Nat} (h : some (c + a * 0x20000 + x * 0x1) = some w)
    (hr : a < 64) (hx : x < 131072) (hc : c % 0x800000 = 0 ∧ c < 0x100000000 := by decide) :
    w < 2 ^ 32 ∧ fld w 26 6 = c / 0x4000000 ∧ fld w 23 3 = c / 0x800000 % 8 ∧ fld w 17 6 = a ∧ fld w 0 17 = x := by
  cases h
  simp only [fld]
  omega

theorem fj_x {c x w : Nat} (h : some (c + x * 0x1) = some w)
    (hx : x < 67108864) (hc : c % 0x4000000 = 0 ∧ c < 0x100000000 := by decide) :
    w < 2 ^ 32 ∧ fld w 26 6 = c / 0x4000000 ∧ fld w 0 26 = x := by
  cases h
  simp only [fld]
  omega

theorem rep_cn {c m n x y z w : Nat} (h : some (c + (m - 1) * 0x400000 + (n - 1) * 0x4000 + x * 0x1000 + y * 0x400 + z * 0x100) = some w)
    (hr : ((1 ≤ m && m ≤ 16) && (1 ≤ n && n ≤ 256) && x < 4 && y < 4 && z < 4) = true)
    (hc : c % 0x4000000 = 0 ∧ c < 0x100000000 := by decide) :
    w < 2 ^ 32 ∧ fld w 26 6 = c / 0x4000000 ∧ fld w 22 4 + 1 = m ∧ fld w 14 8 + 1 = n ∧ fld w 12 2 = x ∧ fld w 10 2 = y ∧
      fld w 8 2 = z ∧ fld w 0 8 = 0 := by
  cases h
  simp only [Bool.and_eq_true, decide_eq_true_eq] at hr
  simp only [fld]
  omega

/-! ### The SYS major (R48) -/

theorem sys_x {c x w : Nat} (h : some (c + x * 0x1) = some w)
    (hx : x < 1024) (hc : c % 0x400 = 0 ∧ c % 0x4000000 < 0x4000 ∧ c < 0x100000000 := by decide) :
    w < 2 ^ 32 ∧ fld w 26 6 = c / 0x4000000 ∧ fld w 10 4 = c / 0x400 % 16 ∧ fld w 14 12 = 0 ∧ fld w 0 10 = x := by
  cases h
  simp only [fld]
  omega

theorem sys_a {c a w : Nat} (h : some (c + a * 0x4000) = some w)
    (hr : a < 64) (hc : c % 0x400 = 0 ∧ c % 0x4000000 < 0x4000 ∧ c < 0x100000000 := by decide) :
    w < 2 ^ 32 ∧ fld w 26 6 = c / 0x4000000 ∧ fld w 20 6 = 0 ∧ fld w 14 6 = a ∧ fld w 10 4 = c / 0x400 % 16 ∧ fld w 0 10 = 0 := by
  cases h
  simp only [fld]
  omega

theorem sys_csr {c n a w : Nat} (h : some (c + n / 1024 * 0x100000 + n % 1024 + a * 0x4000) = some w)
    (hr : (n < 16384 && a < 64) = true) (hc : c % 0x400 = 0 ∧ c % 0x4000000 < 0x4000 ∧ c < 0x100000000 := by decide) :
    w < 2 ^ 32 ∧ fld w 26 6 = c / 0x4000000 ∧ fld w 24 2 = 0 ∧ fld w 20 4 = n / 1024 ∧ fld w 14 6 = a ∧ fld w 10 4 = c / 0x400 % 16 ∧
      fld w 0 10 = n % 1024 := by
  cases h
  simp only [Bool.and_eq_true, decide_eq_true_eq] at hr
  obtain ⟨hn, ha⟩ := hr
  have hq : n / 1024 < 16 ∧ n % 1024 < 1024 := by omega
  generalize n / 1024 = q, n % 1024 = r at hq ⊢
  simp only [fld]
  omega

/-! ### Format FV (R49) -/

theorem fv_dabpt {c d a b p t w : Nat} (h : some (c + d * 0x200000 + a * 0x10000 + b * 0x800 + p * 0x100 + t * 0x10) = some w)
    (hr : (d < 32 && a < 32 && b < 32 && p < 8) = true)
    (ht : t < 16) (hc : c % 0x4000000 < 16 ∧ c < 0x100000000 := by decide) :
    w < 2 ^ 32 ∧ fld w 26 6 = c / 0x4000000 ∧ fld w 21 5 = d ∧ fld w 16 5 = a ∧ fld w 11 5 = b ∧ fld w 8 3 = p ∧ fld w 4 4 = t ∧
      fld w 0 4 = c % 16 := by
  cases h
  simp only [Bool.and_eq_true, decide_eq_true_eq] at hr
  simp only [fld]
  omega

theorem fv_dapt {c d a p t w : Nat} (h : some (c + d * 0x200000 + a * 0x10000 + p * 0x100 + t * 0x10) = some w)
    (hr : (d < 32 && a < 32 && p < 8) = true) (ht : t < 16) (hc : c % 0x4000000 < 16 ∧ c < 0x100000000 := by decide) :
    w < 2 ^ 32 ∧ fld w 26 6 = c / 0x4000000 ∧ fld w 21 5 = d ∧ fld w 16 5 = a ∧ fld w 11 5 = 0 ∧ fld w 8 3 = p ∧ fld w 4 4 = t ∧
      fld w 0 4 = c % 16 := by
  cases h
  simp only [Bool.and_eq_true, decide_eq_true_eq] at hr
  simp only [fld]
  omega

theorem fv_dap {c d a p w : Nat} (h : some (c + d * 0x200000 + a * 0x10000 + p * 0x100) = some w)
    (hr : (d < 32 && a < 32 && p < 8) = true) (hc : c % 0x4000000 < 16 ∧ c < 0x100000000 := by decide) :
    w < 2 ^ 32 ∧ fld w 26 6 = c / 0x4000000 ∧ fld w 21 5 = d ∧ fld w 16 5 = a ∧ fld w 11 5 = 0 ∧ fld w 8 3 = p ∧ fld w 4 4 = 0 ∧
      fld w 0 4 = c % 16 := by
  cases h
  simp only [Bool.and_eq_true, decide_eq_true_eq] at hr
  simp only [fld]
  omega

theorem fv_dabt {c d a b t w : Nat} (h : some (c + d * 0x200000 + a * 0x10000 + b * 0x800 + t * 0x10) = some w)
    (hr : (d < 32 && a < 32 && b < 32) = true) (ht : t < 16) (hc : c % 0x4000000 < 16 ∧ c < 0x100000000 := by decide) :
    w < 2 ^ 32 ∧ fld w 26 6 = c / 0x4000000 ∧ fld w 21 5 = d ∧ fld w 16 5 = a ∧ fld w 11 5 = b ∧ fld w 8 3 = 0 ∧ fld w 4 4 = t ∧
      fld w 0 4 = c % 16 := by
  cases h
  simp only [Bool.and_eq_true, decide_eq_true_eq] at hr
  simp only [fld]
  omega

theorem fv_cmp {c d a b p t w : Nat} (h : some (c + d * 0x200000 + a * 0x10000 + b * 0x800 + p * 0x100 + t * 0x10) = some w)
    (hr : (d < 8 && a < 32 && b < 32 && p < 8) = true)
    (ht : t < 16) (hc : c % 0x4000000 < 16 ∧ c < 0x100000000 := by decide) :
    w < 2 ^ 32 ∧ fld w 26 6 = c / 0x4000000 ∧ fld w 24 2 = 0 ∧ fld w 21 3 = d ∧ fld w 16 5 = a ∧ fld w 11 5 = b ∧ fld w 8 3 = p ∧
      fld w 4 4 = t ∧ fld w 0 4 = c % 16 := by
  cases h
  simp only [Bool.and_eq_true, decide_eq_true_eq] at hr
  simp only [fld]
  omega

theorem fv_cvt {c d a s x p t m w : Nat}
    (h : some (c + d * 0x200000 + a * 0x10000 + s * 0x1000 + x * 0x800 + p * 0x100 + t * 0x10 + m * 0x1) = some w)
    (hr : (d < 32 && a < 32 && p < 8) = true)
    (hs : s < 16) (hx : x < 2) (ht : t < 16) (hm : m < 16) (hc : c % 0x4000000 = 0 ∧ c < 0x100000000 := by decide) :
    w < 2 ^ 32 ∧ fld w 26 6 = c / 0x4000000 ∧ fld w 21 5 = d ∧ fld w 16 5 = a ∧ fld w 12 4 = s ∧ fld w 11 1 = x ∧ fld w 8 3 = p ∧
      fld w 4 4 = t ∧ fld w 0 4 = m := by
  cases h
  simp only [Bool.and_eq_true, decide_eq_true_eq] at hr
  simp only [fld]
  omega

theorem fv_ka {c k a w : Nat} (h : some (c + k * 0x200000 + a * 0x10000) = some w)
    (hr : (k < 4 && a < 32) = true) (hc : c % 0x4000000 < 16 ∧ c < 0x100000000 := by decide) :
    w < 2 ^ 32 ∧ fld w 26 6 = c / 0x4000000 ∧ fld w 23 3 = 0 ∧ fld w 21 2 = k ∧ fld w 16 5 = a ∧ fld w 4 12 = 0 ∧ fld w 0 4 = c % 16 := by
  cases h
  simp only [Bool.and_eq_true, decide_eq_true_eq] at hr
  simp only [fld]
  omega

theorem fv_k {c k w : Nat} (h : some (c + k * 0x200000) = some w)
    (hk : k < 4) (hc : c % 0x4000000 < 16 ∧ c < 0x100000000 := by decide) :
    w < 2 ^ 32 ∧ fld w 26 6 = c / 0x4000000 ∧ fld w 23 3 = 0 ∧ fld w 21 2 = k ∧ fld w 4 17 = 0 ∧ fld w 0 4 = c % 16 := by
  cases h
  simp only [fld]
  omega

/-! ### Format FV with predicate registers (R170) -/

theorem vp_dabp {c d a b p w : Nat} (h : some (c + d * 0x200000 + a * 0x10000 + b * 0x800 + p * 0x100) = some w)
    (hr : (d < 8 && a < 8 && b < 8 && p < 8) = true) (hc : c % 0x4000000 < 16 ∧ c < 0x100000000 := by decide) :
    w < 2 ^ 32 ∧ fld w 26 6 = c / 0x4000000 ∧ fld w 24 2 = 0 ∧ fld w 21 3 = d ∧ fld w 19 2 = 0 ∧ fld w 16 3 = a ∧ fld w 14 2 = 0 ∧
      fld w 11 3 = b ∧ fld w 8 3 = p ∧ fld w 4 4 = 0 ∧ fld w 0 4 = c % 16 := by
  cases h
  simp only [Bool.and_eq_true, decide_eq_true_eq] at hr
  simp only [fld]
  omega

theorem vp_dap {c d a p w : Nat} (h : some (c + d * 0x200000 + a * 0x10000 + p * 0x100) = some w)
    (hr : (d < 8 && a < 8 && p < 8) = true) (hc : c % 0x4000000 < 16 ∧ c < 0x100000000 := by decide) :
    w < 2 ^ 32 ∧ fld w 26 6 = c / 0x4000000 ∧ fld w 24 2 = 0 ∧ fld w 21 3 = d ∧ fld w 19 2 = 0 ∧ fld w 16 3 = a ∧ fld w 11 5 = 0 ∧
      fld w 8 3 = p ∧ fld w 4 4 = 0 ∧ fld w 0 4 = c % 16 := by
  cases h
  simp only [Bool.and_eq_true, decide_eq_true_eq] at hr
  simp only [fld]
  omega

theorem vp_cnt {c d a p w : Nat} (h : some (c + d * 0x200000 + a * 0x10000 + p * 0x100) = some w)
    (hr : (d < 32 && a < 8 && p < 8) = true) (hc : c % 0x4000000 < 16 ∧ c < 0x100000000 := by decide) :
    w < 2 ^ 32 ∧ fld w 26 6 = c / 0x4000000 ∧ fld w 21 5 = d ∧ fld w 19 2 = 0 ∧ fld w 16 3 = a ∧ fld w 11 5 = 0 ∧ fld w 8 3 = p ∧
      fld w 4 4 = 0 ∧ fld w 0 4 = c % 16 := by
  cases h
  simp only [Bool.and_eq_true, decide_eq_true_eq] at hr
  simp only [fld]
  omega

theorem vp_set {c d a p w : Nat} (h : some (c + d * 0x200000 + a * 0x10000 + p * 0x100) = some w)
    (hr : (d < 8 && a < 32 && p < 8) = true) (hc : c % 0x4000000 < 16 ∧ c < 0x100000000 := by decide) :
    w < 2 ^ 32 ∧ fld w 26 6 = c / 0x4000000 ∧ fld w 24 2 = 0 ∧ fld w 21 3 = d ∧ fld w 16 5 = a ∧ fld w 11 5 = 0 ∧ fld w 8 3 = p ∧
      fld w 4 4 = 0 ∧ fld w 0 4 = c % 16 := by
  cases h
  simp only [Bool.and_eq_true, decide_eq_true_eq] at hr
  simp only [fld]
  omega

end Sys2Proof
end

section
/-! SUPPORT. The decoder reads the instruction back from its word (R41 to R51): the major selects a decoder (R44), and that decoder's
fields are the operands the word was put together from. -/

namespace Sys2Proof

set_option Elab.async false
open Laws

/-- The decoder of each major opcode (R44); major 0 has no instructions. -/
def majorDecoders : List (Nat → Option Instr) :=
  [fun _ => none, dec01, dec02, dec03, dec04, dec05, dec06, dec07, dec08, dec09, dec0A, dec0B, dec0C, dec0D, dec0E, dec0F,
    dec10, dec11, dec12, dec13, dec14, dec15, dec16, dec17, dec18, dec19, dec1A, dec1B, dec1C, dec1D, dec1E, dec1F,
    dec20, dec21, dec22, dec23, dec24, dec25, dec26, dec27, dec28, dec29]

theorem decodeWord_eq {w : Nat} (lt : w < 2 ^ 32) : decodeWord w = (majorDecoders[fld w 26 6]?).bind (· w) := by
  rw [decodeWord, if_pos lt]
  rcases Nat.lt_or_ge (fld w 26 6) 42 with h | h
  · generalize fld w 26 6 = m at h ⊢
    interval_cases m <;> rfl
  · rw [List.getElem?_eq_none h]
    split
    case h_42 => rfl
    all_goals omega

/-- A word is decoded by its major's decoder, from its other fields. -/
theorem decodeWord_of {w m : Nat} {P : Prop} {dec : Nat → Option Instr} {i : Instr} (hw : w < 2 ^ 32 ∧ fld w 26 6 = m ∧ P)
    (hm : majorDecoders[m]? = some dec) (h : P → dec w = some i) : decodeWord w = some i := by
  obtain ⟨lt, rfl, hP⟩ := hw
  rw [decodeWord_eq lt, hm]
  exact h hP

/-- The cases are the operand sets of the formats: every word of one is taken apart by one lemma, and its major's decoder finds the operands. -/
theorem decodeWord_of_encode {i : Instr} {w : Nat} (hwf : wf i = true) (h : encode i = some w) : decodeWord w = some i := by
  cases i with
  | add d a b | sub d a b | and d a b | or d a b | xor d a b | andn d a b | shl d a b | shr d a b | sar d a b | rol d a b | slt d a b
  | sltn d a b | min d a b | max d a b | minn d a b | maxn d a b | mul d a b | mulh d a b | mulhn d a b | div d a b | divn d a b
  | rem d a b | remn d a b | addw d a b | subw d a b | mulw d a b | seq d a b | sne d a b | cinc d a b | cbnd d a b | cbndx d a b
  | cperm d a b | cseta d a b | csub d a b | ctest d a b | ldv d a b | stv d a b | tnbr d a b | rng d a b =>
    exact decodeWord_of (f3_dab h hwf) rfl fun hf => by simp [dec01, dec0A, dec11, dec1B, dec1C, hf]
  | clz d a | ctz d a | popc d a | bswap d a | cgeta d a | cgetb d a | cgetl d a | cgetp d a | ctag d a | cclr d a | ldlk d a | stul d a
  | verq d a | jalr d a | untrig d a | chunk d a | get d a | recv d a | uien d a | tname d a | tdist d a =>
    exact decodeWord_of (f3_da h hwf) rfl fun hf => by simp [dec01, dec0A, dec10, dec11, dec16, dec19, dec1A, dec1B, hf]
  | addi d a i | andi d a i | cinci d a i =>
    obtain ⟨hr, hi⟩ := Bool.and_eq_true_iff.1 hwf
    exact decodeWord_of (fi_dax h hr (ux_lt 14 i)) rfl fun hf => by simp [dec02, dec03, dec0B, hf, hi]
  | ori d a i | xori d a i =>
    obtain ⟨hr, hi⟩ := Bool.and_eq_true_iff.1 hwf
    exact decodeWord_of (fi_dax h hr (of_decide_eq_true hi)) rfl fun hf => by simp [dec04, dec05, hf]
  | shli d a n | shri d a n | sari d a n | roli d a n =>
    exact decodeWord_of (fi_dan h hwf) rfl fun hf => by simp [dec06, hf]
  | slti d a i | sltni d a i =>
    obtain ⟨hr, hi⟩ := Bool.and_eq_true_iff.1 hwf
    exact decodeWord_of (fi_da13 h hr (ux_lt 13 i)) rfl fun hf => by simp [dec07, hf, hi]
  | lui d i | cpc d i =>
    obtain ⟨hr, hi⟩ := Bool.and_eq_true_iff.1 hwf
    exact decodeWord_of (fl_dx h (of_decide_eq_true hr) (ux_lt 20 i)) rfl fun hf => by simp [dec08, dec09, hf, hi]
  | ld d a k i | lds d a k i =>
    obtain ⟨hr, hi⟩ := Bool.and_eq_true_iff.1 hwf
    exact decodeWord_of (fm_dakx h hr (LWidth.code_lt k) (ux_lt 11 i)) rfl fun hf => by simp [dec0C, dec0D, hf, hi]
  | st d a k i =>
    obtain ⟨hr, hi⟩ := Bool.and_eq_true_iff.1 hwf
    exact decodeWord_of (fm_dakx h hr (SWidth.code_lt k) (ux_lt 11 i)) rfl fun hf => by simp [dec0E, hf, hi]
  | aadd d a b k s o | aand d a b k s o | aor d a b k s o | axor d a b k s o | amin d a b k s o | amax d a b k s o | aminn d a b k s o
  | amaxn d a b k s o | aswap d a b k s o | acas d a b k s o | afadd d a b k s o =>
    exact decodeWord_of (amo_dab h hwf (AWidth.code_lt k) (Scope.code_lt s) (Ord.code_lt o)) rfl fun hf => by simp [dec0F, hf]
  | fence s | fencea s | fencel s =>
    exact decodeWord_of (f3_s h (Scope.code_lt s)) rfl fun hf => by simp [dec10, hf]
  | lda d a s | stl d a s =>
    exact decodeWord_of (f3_das h hwf (Scope.code_lt s)) rfl fun hf => by simp [dec10, hf]
  | reclaim a b | put a b | puti a b | send a b | sendh a b =>
    exact decodeWord_of (f3_ab h hwf) rfl fun hf => by simp [dec11, dec1A, hf]
  | beq a b x | bne a b x | blt a b x | bge a b x | bltn a b x | bgen a b x =>
    obtain ⟨hr, hi⟩ := Bool.and_eq_true_iff.1 hwf
    exact decodeWord_of (fb_abx h hr (ux_lt 11 x)) rfl fun hf => by simp [dec12, hf, hi]
  | beqz a x | bnez a x | bltz a x | bgez a x | bgtz a x | blez a x =>
    obtain ⟨hr, hi⟩ := Bool.and_eq_true_iff.1 hwf
    exact decodeWord_of (fz_ax h (of_decide_eq_true hr) (ux_lt 17 x)) rfl fun hf => by simp [dec13, hf, hi]
  | j x | jal x =>
    exact decodeWord_of (fj_x h (ux_lt 26 x)) rfl fun hf => by simp [dec14, dec15, hf, show inS 26 x = true from hwf]
  | jr a | domset a | gang a | chkp a | rngsnap a | rngrest a | specommit a | specdrop a =>
    exact decodeWord_of (f3_a h (of_decide_eq_true hwf)) rfl fun hf => by simp [dec16, dec1B, dec1C, dec1E, hf]
  | rep c n x y z =>
    exact decodeWord_of (rep_cn h hwf) rfl fun hf => by simp [dec17, hf]
  | fadd d a b p | fsub d a b p | fmul d a b p | fdiv d a b p | fma d a b p | fmin d a b p | fmax d a b p | fcmp d a b p =>
    exact decodeWord_of (fp_dab h hwf (FFmt.code_lt p)) rfl fun hf => by simp [dec18, hf]
  | fsqrt d a p | fclass d a p =>
    exact decodeWord_of (fp_da h hwf (FFmt.code_lt p)) rfl fun hf => by simp [dec18, hf]
  | fcvt d a t r p =>
    obtain ⟨hr, hi⟩ := Bool.and_eq_true_iff.1 hwf
    exact decodeWord_of (fp_cvt h hr (CvtType.code_lt t) (CvtDir.code_lt r) (FFmt.code_lt p)) rfl fun hf => by
      simp [dec18, hf]
      simpa [imp_iff_not_or] using hi
  | spawn a | range a =>
    obtain ⟨hr, hi⟩ := Bool.and_eq_true_iff.1 hwf
    exact decodeWord_of (f3_a h (of_decide_eq_true hr)) rfl fun hf => by simp [dec19, hf, hi]
  | take d a =>
    obtain ⟨hr, hi⟩ := Bool.and_eq_true_iff.1 hwf
    exact decodeWord_of (f3_da h hr) rfl fun hf => by simp [dec19, hf, hi]
  | trig d a b =>
    obtain ⟨hr, hi⟩ := Bool.and_eq_true_iff.1 hwf
    exact decodeWord_of (f3_dab h hr) rfl fun hf => by simp [dec19, hf, hi]
  | deqn d | inboxn d | pair d | waitpred d =>
    exact decodeWord_of (f3_d h (of_decide_eq_true hwf)) rfl fun hf => by simp [dec19, dec1A, dec1B, dec1D, hf]
  | push a e =>
    obtain ⟨hr, hi⟩ := Bool.and_eq_true_iff.1 hwf
    exact decodeWord_of (f3_as h (of_decide_eq_true hr) (Eng.code_lt e)) rfl fun hf => by simp [dec1E, hf, hi]
  | pushTry d a e =>
    obtain ⟨hr, hi⟩ := Bool.and_eq_true_iff.1 hwf
    exact decodeWord_of (f3_das h hr (Eng.code_lt e)) rfl fun hf => by simp [dec1E, hf, hi]
  | eprog d e =>
    exact decodeWord_of (f3_ds h (of_decide_eq_true hwf) (EProgSel.code_lt e)) rfl fun hf => by simp [dec1E, hf]
  | ecancel e =>
    exact decodeWord_of (f3_s h (Eng.code_lt e)) rfl fun hf => by simp [dec1E, hf]
  | ecall c | ebreak c | trap c =>
    exact decodeWord_of (sys_x h (of_decide_eq_true hwf)) rfl fun hf => by simp [dec1F, hf]
  | csrr n a | csrw n a | csrs n a | csrc n a =>
    exact decodeWord_of (sys_csr h hwf) rfl fun hf => by simp [dec1F, hf, Nat.div_add_mod']
  | tlbinv a =>
    exact decodeWord_of (sys_a h (of_decide_eq_true hwf)) rfl fun hf => by simp [dec1F, hf]
  | vadd d a b p t | vsub d a b p t | vmul d a b p t | vmin d a b p t | vmax d a b p t | vshuf d a b p t | vxlane d a b p t
  | vlds d a b p t | vgather d a b p t | vsts d a b p t | vscatter d a b p t =>
    exact decodeWord_of (fv_dabpt h hwf (VType.code_lt t)) rfl fun hf => by simp [dec20, dec25, dec27, hf]
  | vabs d a p t | vneg d a p t | vcompress d a p t | vexpand d a p t | vrsum d a p t | vrmax d a p t | vrmin d a p t | vrsumo d a p t
  | vld d a p t | vst d a p t | vsplat d a p t =>
    exact decodeWord_of (fv_dapt h hwf (VType.code_lt t)) rfl fun hf => by simp [dec20, dec25, dec26, dec27, dec28, hf]
  | vand d a b p t | vor d a b p t | vxor d a b p t | vshl d a b p t | vshr d a b p t | vsar d a b p t | vmulh d a b p t
  | vadds d a b p t | vsubs d a b p t | vfma d a b p t | vfms d a b p t | vfnma d a b p t | vfnms d a b p t | vdiv d a b p t =>
    obtain ⟨hr, hi⟩ := Bool.and_eq_true_iff.1 hwf
    exact decodeWord_of (fv_dabpt h hr (VType.code_lt t)) rfl fun hf => by simp [dec20, dec21, hf, hi]
  | vsqrt d a p t =>
    obtain ⟨hr, hi⟩ := Bool.and_eq_true_iff.1 hwf
    exact decodeWord_of (fv_dapt h hr (VType.code_lt t)) rfl fun hf => by simp [dec21, hf, hi]
  | vexp2 d a p | vlog2 d a p | vrcp d a p | vrsq d a p =>
    exact decodeWord_of (fv_dap h hwf) rfl fun hf => by simp [dec22, hf]
  | vceq d a b p t | vcne d a b p t | vclt d a b p t | vcle d a b p t | vcgt d a b p t | vcge d a b p t =>
    exact decodeWord_of (fv_cmp h hwf (VType.code_lt t)) rfl fun hf => by simp [dec23, hf]
  | vcun d a b p t =>
    obtain ⟨hr, hi⟩ := Bool.and_eq_true_iff.1 hwf
    exact decodeWord_of (fv_cmp h hr (VType.code_lt t)) rfl fun hf => by simp [dec23, hf, hi]
  | vcvt d a s x p t m =>
    exact decodeWord_of (fv_cvt h hwf (VType.code_lt s) (Bool.toNat_lt x) (VType.code_lt t) ((RMode.code_lt m).trans (by decide))) rfl fun hf => by
      simp [dec24, hf]
  | vrot d a n p t | vbcast d a n p t | vmovgv d a n p t =>
    obtain ⟨hr, hi⟩ := Bool.and_eq_true_iff.1 hwf
    exact decodeWord_of (fv_dabpt h hr (VType.code_lt t)) rfl fun hf => by
      simp [dec25, dec28, hf]
      simpa [imp_iff_not_or] using hi
  | vmovvg d a n t =>
    obtain ⟨hr, hi⟩ := Bool.and_eq_true_iff.1 hwf
    exact decodeWord_of (fv_dabt h hr (VType.code_lt t)) rfl fun hf => by
      simp [dec28, hf]
      simpa [imp_iff_not_or] using hi
  | vqbind k a =>
    exact decodeWord_of (fv_ka h hwf) rfl fun hf => by simp [dec28, hf]
  | vqdrop k =>
    exact decodeWord_of (fv_k h (of_decide_eq_true hwf)) rfl fun hf => by simp [dec28, hf]
  | vpand d a b p | vpor d a b p | vpxor d a b p =>
    exact decodeWord_of (vp_dabp h hwf) rfl fun hf => by simp [dec29, hf]
  | vpnot d a p | vpfirst d a p =>
    exact decodeWord_of (vp_dap h hwf) rfl fun hf => by simp [dec29, hf]
  | vpcnt d a p =>
    exact decodeWord_of (vp_cnt h hwf) rfl fun hf => by simp [dec29, hf]
  | vpset d a p =>
    exact decodeWord_of (vp_set h hwf) rfl fun hf => by simp [dec29, hf]
  | done | yield | ihret | bar | bara | barw | split | unpair | region | ckpt | succhint | publish | eret | wfi | halt =>
    cases h
    rfl
  | _ => cases h

/-- Settles O1: operand by operand, the fields of the word are what the encoder put there. -/
theorem decodeOfEncode : Obligations.DecodeOfEncode := fun _ _ => decodeWord_of_encode

/-- Settles O3: each word is decoded by evaluation. -/
theorem decodeWords : Obligations.DecodeWords := by
  unfold Obligations.DecodeWords
  decide

end Sys2Proof
end

section
/-! SUPPORT. An accepted word is the word of the instruction that it decodes to (R41, R51): its fields are bounded, those that R52 wants
zero are zero, and the word is the sum of its fields. -/

namespace Sys2Proof

set_option Elab.async false

/-! ## What a decoder reads -/

/-- An instruction read from w is well formed and has the word w. -/
def ReadsBack (w : Nat) (o : Option Instr) : Prop := ∀ i, o = some i → wf i = true ∧ encode i = some w

section
variable {w : Nat}

@[simp] theorem readsBack_none : ReadsBack w none := nofun

@[simp] theorem readsBack_some {i : Instr} : ReadsBack w (some i) ↔ wf i = true ∧ encode i = some w :=
  ⟨fun h => h i rfl, fun h _ e => Option.some.inj e ▸ h⟩

@[simp] theorem readsBack_if {c : Prop} [Decidable c] {o : Option Instr} :
    ReadsBack w (if c then o else none) ↔ (c → ReadsBack w o) := by
  split <;> simp [*]

@[simp] theorem readsBack_bind {α : Type} {x : Option α} {f : α → Option Instr} :
    ReadsBack w (x.bind f) ↔ ∀ a, x = some a → ReadsBack w (f a) := by
  cases x <;> simp

theorem readsBack_orElse {x y : Option Instr} (hx : ReadsBack w x) (hy : ReadsBack w y) : ReadsBack w (x <|> y) := by
  cases x with
  | none => exact hy
  | some i => exact hx

/-! ## Every major (R44)

In each arm of a decoder the operands are fields, and so bounded; the fields that the arm does not read are zero; and the word is the sum
of its fields, by the widths that the arm cuts it into, which is the encoder's sum. -/

theorem dec01_readsBack (lt : w < 2 ^ 32) (m : fld w 26 6 = 1) : ReadsBack w (dec01 w) := by
  have e := word_eq_fieldSum [8, 6, 6, 6, 6] rfl lt
  simp only [fieldSum, Nat.reduceAdd, Nat.reducePow] at e
  unfold dec01; split <;> simp [wf, encode] <;> omega

theorem dec02_readsBack (lt : w < 2 ^ 32) (m : fld w 26 6 = 2) : ReadsBack w (dec02 w) := by
  have e := word_eq_fieldSum [14, 6, 6, 6] rfl lt
  simp only [fieldSum, Nat.reduceAdd, Nat.reducePow] at e
  simp [dec02, wf, encode]; omega

theorem dec03_readsBack (lt : w < 2 ^ 32) (m : fld w 26 6 = 3) : ReadsBack w (dec03 w) := by
  have e := word_eq_fieldSum [14, 6, 6, 6] rfl lt
  simp only [fieldSum, Nat.reduceAdd, Nat.reducePow] at e
  simp [dec03, wf, encode]; omega

theorem dec04_readsBack (lt : w < 2 ^ 32) (m : fld w 26 6 = 4) : ReadsBack w (dec04 w) := by
  have e := word_eq_fieldSum [14, 6, 6, 6] rfl lt
  have b := fld_lt w 0 14
  simp only [fieldSum, Nat.reduceAdd, Nat.reducePow] at e
  simp [dec04, wf, encode]; omega

theorem dec05_readsBack (lt : w < 2 ^ 32) (m : fld w 26 6 = 5) : ReadsBack w (dec05 w) := by
  have e := word_eq_fieldSum [14, 6, 6, 6] rfl lt
  have b := fld_lt w 0 14
  simp only [fieldSum, Nat.reduceAdd, Nat.reducePow] at e
  simp [dec05, wf, encode]; omega

theorem dec06_readsBack (lt : w < 2 ^ 32) (m : fld w 26 6 = 6) : ReadsBack w (dec06 w) := by
  have e := word_eq_fieldSum [6, 6, 2, 6, 6, 6] rfl lt
  simp only [fieldSum, Nat.reduceAdd, Nat.reducePow] at e
  unfold dec06; split <;> simp [wf, encode] <;> omega

theorem dec07_readsBack (lt : w < 2 ^ 32) (m : fld w 26 6 = 7) : ReadsBack w (dec07 w) := by
  have e := word_eq_fieldSum [13, 1, 6, 6, 6] rfl lt
  simp only [fieldSum, Nat.reduceAdd, Nat.reducePow] at e
  unfold dec07; split <;> simp [wf, encode] <;> omega

theorem dec08_readsBack (lt : w < 2 ^ 32) (m : fld w 26 6 = 8) : ReadsBack w (dec08 w) := by
  have e := word_eq_fieldSum [20, 6, 6] rfl lt
  simp only [fieldSum, Nat.reduceAdd, Nat.reducePow] at e
  simp [dec08, wf, encode]; omega

theorem dec09_readsBack (lt : w < 2 ^ 32) (m : fld w 26 6 = 9) : ReadsBack w (dec09 w) := by
  have e := word_eq_fieldSum [20, 6, 6] rfl lt
  simp only [fieldSum, Nat.reduceAdd, Nat.reducePow] at e
  simp [dec09, wf, encode]; omega

theorem dec0A_readsBack (lt : w < 2 ^ 32) (m : fld w 26 6 = 10) : ReadsBack w (dec0A w) := by
  have e := word_eq_fieldSum [8, 6, 6, 6, 6] rfl lt
  simp only [fieldSum, Nat.reduceAdd, Nat.reducePow] at e
  unfold dec0A; split <;> simp [wf, encode] <;> omega

theorem dec0B_readsBack (lt : w < 2 ^ 32) (m : fld w 26 6 = 11) : ReadsBack w (dec0B w) := by
  have e := word_eq_fieldSum [14, 6, 6, 6] rfl lt
  simp only [fieldSum, Nat.reduceAdd, Nat.reducePow] at e
  simp [dec0B, wf, encode]; omega

theorem dec0C_readsBack (lt : w < 2 ^ 32) (m : fld w 26 6 = 12) : ReadsBack w (dec0C w) := by
  have e := word_eq_fieldSum [11, 3, 6, 6, 6] rfl lt
  simp only [fieldSum, Nat.reduceAdd, Nat.reducePow] at e
  simp [dec0C, LWidth.ofCode_eq_some, wf, encode]; intros; omega

theorem dec0D_readsBack (lt : w < 2 ^ 32) (m : fld w 26 6 = 13) : ReadsBack w (dec0D w) := by
  have e := word_eq_fieldSum [11, 3, 6, 6, 6] rfl lt
  simp only [fieldSum, Nat.reduceAdd, Nat.reducePow] at e
  simp [dec0D, LWidth.ofCode_eq_some, wf, encode]; intros; omega

theorem dec0E_readsBack (lt : w < 2 ^ 32) (m : fld w 26 6 = 14) : ReadsBack w (dec0E w) := by
  have e := word_eq_fieldSum [11, 3, 6, 6, 6] rfl lt
  simp only [fieldSum, Nat.reduceAdd, Nat.reducePow] at e
  simp [dec0E, SWidth.ofCode_eq_some, wf, encode]; intros; omega

theorem dec0F_readsBack (lt : w < 2 ^ 32) (m : fld w 26 6 = 15) : ReadsBack w (dec0F w) := by
  have e := word_eq_fieldSum [1, 2, 1, 4, 6, 6, 6, 6] rfl lt
  simp only [fieldSum, Nat.reduceAdd, Nat.reducePow] at e
  unfold dec0F; split <;> simp [AWidth.ofCode_eq_some, Scope.ofCode_eq_some, Ord.ofCode_eq_some, wf, encode] <;> intros <;> omega

theorem dec10_readsBack (lt : w < 2 ^ 32) (m : fld w 26 6 = 16) : ReadsBack w (dec10 w) := by
  have e := word_eq_fieldSum [8, 2, 16, 6] rfl lt
  have e1 := word_eq_fieldSum [8, 2, 4, 6, 6, 6] rfl lt
  have e2 := word_eq_fieldSum [8, 6, 6, 6, 6] rfl lt
  simp only [fieldSum, Nat.reduceAdd, Nat.reducePow] at e e1 e2
  unfold dec10; split <;> simp [Scope.ofCode_eq_some, wf, encode] <;> intros <;> omega

theorem dec11_readsBack (lt : w < 2 ^ 32) (m : fld w 26 6 = 17) : ReadsBack w (dec11 w) := by
  have e := word_eq_fieldSum [8, 6, 6, 6, 6] rfl lt
  simp only [fieldSum, Nat.reduceAdd, Nat.reducePow] at e
  unfold dec11; split <;> simp [wf, encode] <;> omega

theorem dec12_readsBack (lt : w < 2 ^ 32) (m : fld w 26 6 = 18) : ReadsBack w (dec12 w) := by
  have e := word_eq_fieldSum [11, 6, 6, 3, 6] rfl lt
  simp only [fieldSum, Nat.reduceAdd, Nat.reducePow] at e
  unfold dec12; split <;> simp [wf, encode] <;> omega

theorem dec13_readsBack (lt : w < 2 ^ 32) (m : fld w 26 6 = 19) : ReadsBack w (dec13 w) := by
  have e := word_eq_fieldSum [17, 6, 3, 6] rfl lt
  simp only [fieldSum, Nat.reduceAdd, Nat.reducePow] at e
  unfold dec13; split <;> simp [wf, encode] <;> omega

theorem dec14_readsBack (lt : w < 2 ^ 32) (m : fld w 26 6 = 20) : ReadsBack w (dec14 w) := by
  have e := word_eq_fieldSum [26, 6] rfl lt
  simp only [fieldSum, Nat.reduceAdd, Nat.reducePow] at e
  simp [dec14, wf, encode]; omega

theorem dec15_readsBack (lt : w < 2 ^ 32) (m : fld w 26 6 = 21) : ReadsBack w (dec15 w) := by
  have e := word_eq_fieldSum [26, 6] rfl lt
  simp only [fieldSum, Nat.reduceAdd, Nat.reducePow] at e
  simp [dec15, wf, encode]; omega

theorem dec16_readsBack (lt : w < 2 ^ 32) (m : fld w 26 6 = 22) : ReadsBack w (dec16 w) := by
  have e := word_eq_fieldSum [8, 6, 6, 6, 6] rfl lt
  simp only [fieldSum, Nat.reduceAdd, Nat.reducePow] at e
  unfold dec16; split <;> simp [wf, encode] <;> omega

theorem dec17_readsBack (lt : w < 2 ^ 32) (m : fld w 26 6 = 23) : ReadsBack w (dec17 w) := by
  have e := word_eq_fieldSum [8, 2, 2, 2, 8, 4, 6] rfl lt
  have b := fld_lt w 22 4
  have b1 := fld_lt w 14 8
  have b2 := fld_lt w 12 2
  have b3 := fld_lt w 10 2
  have b4 := fld_lt w 8 2
  simp only [fieldSum, Nat.reduceAdd, Nat.reducePow] at e
  simp [dec17, wf, encode]; omega

theorem dec18_readsBack (lt : w < 2 ^ 32) (m : fld w 26 6 = 24) : ReadsBack w (dec18 w) := by
  have e := word_eq_fieldSum [7, 1, 6, 6, 6, 6] rfl lt
  have e1 := word_eq_fieldSum [7, 1, 2, 1, 3, 6, 6, 6] rfl lt
  simp only [fieldSum, Nat.reduceAdd, Nat.reducePow] at e e1
  unfold dec18; split <;> simp [FFmt.ofCode_eq_some, CvtType.ofCode_eq_some, CvtDir.ofCode_eq_some, imp_and, wf, encode] <;> intros <;> omega

theorem dec19_readsBack (lt : w < 2 ^ 32) (m : fld w 26 6 = 25) : ReadsBack w (dec19 w) := by
  have e := word_eq_fieldSum [8, 6, 6, 6, 6] rfl lt
  have e1 := word_eq_fieldSum [8, 18, 6] rfl lt
  have e2 := word_eq_fieldSum [8, 12, 6, 6] rfl lt
  simp only [fieldSum, Nat.reduceAdd, Nat.reducePow] at e e1 e2
  unfold dec19; split <;> simp [imp_and, wf, encode] <;> omega

theorem dec1A_readsBack (lt : w < 2 ^ 32) (m : fld w 26 6 = 26) : ReadsBack w (dec1A w) := by
  have e := word_eq_fieldSum [8, 6, 6, 6, 6] rfl lt
  have e1 := word_eq_fieldSum [8, 18, 6] rfl lt
  have e2 := word_eq_fieldSum [8, 12, 6, 6] rfl lt
  simp only [fieldSum, Nat.reduceAdd, Nat.reducePow] at e e1 e2
  unfold dec1A; split <;> simp [wf, encode] <;> omega

theorem dec1B_readsBack (lt : w < 2 ^ 32) (m : fld w 26 6 = 27) : ReadsBack w (dec1B w) := by
  have e := word_eq_fieldSum [8, 6, 6, 6, 6] rfl lt
  have e1 := word_eq_fieldSum [8, 18, 6] rfl lt
  have e2 := word_eq_fieldSum [8, 12, 6, 6] rfl lt
  simp only [fieldSum, Nat.reduceAdd, Nat.reducePow] at e e1 e2
  unfold dec1B; split <;> simp [wf, encode] <;> omega

theorem dec1C_readsBack (lt : w < 2 ^ 32) (m : fld w 26 6 = 28) : ReadsBack w (dec1C w) := by
  have e := word_eq_fieldSum [8, 6, 6, 6, 6] rfl lt
  have e1 := word_eq_fieldSum [8, 18, 6] rfl lt
  simp only [fieldSum, Nat.reduceAdd, Nat.reducePow] at e e1
  unfold dec1C; split <;> simp [wf, encode] <;> omega

theorem dec1D_readsBack (lt : w < 2 ^ 32) (m : fld w 26 6 = 29) : ReadsBack w (dec1D w) := by
  have e := word_eq_fieldSum [8, 18, 6] rfl lt
  have e1 := word_eq_fieldSum [8, 12, 6, 6] rfl lt
  simp only [fieldSum, Nat.reduceAdd, Nat.reducePow] at e e1
  unfold dec1D; split <;> simp [wf, encode] <;> omega

theorem dec1E_readsBack (lt : w < 2 ^ 32) (m : fld w 26 6 = 30) : ReadsBack w (dec1E w) := by
  have e := word_eq_fieldSum [8, 6, 6, 6, 6] rfl lt
  have e1 := word_eq_fieldSum [8, 2, 4, 6, 6, 6] rfl lt
  have e2 := word_eq_fieldSum [8, 2, 10, 6, 6] rfl lt
  have e3 := word_eq_fieldSum [8, 2, 16, 6] rfl lt
  simp only [fieldSum, Nat.reduceAdd, Nat.reducePow] at e e1 e2 e3
  unfold dec1E; split
  case h_1 =>
    refine readsBack_orElse ?_ ?_ <;> simp [Eng.ofCode_eq_some, wf, encode]
    · exact fun _ _ hc x _ => ⟨hc, by omega⟩
    · exact fun _ hc x _ => ⟨hc, by omega⟩
  all_goals simp [Eng.ofCode_eq_some, EProgSel.ofCode_eq_some, wf, encode] <;> intros <;> omega

theorem dec1F_readsBack (lt : w < 2 ^ 32) (m : fld w 26 6 = 31) : ReadsBack w (dec1F w) := by
  have e := word_eq_fieldSum [10, 4, 12, 6] rfl lt
  have e1 := word_eq_fieldSum [10, 4, 6, 4, 2, 6] rfl lt
  have e2 := word_eq_fieldSum [10, 4, 6, 6, 6] rfl lt
  have b := fld_lt w 0 10
  have b1 := fld_lt w 20 4
  simp only [fieldSum, Nat.reduceAdd, Nat.reducePow] at e e1 e2
  unfold dec1F; split <;> simp [wf, encode] <;> omega

theorem dec20_readsBack (lt : w < 2 ^ 32) (m : fld w 26 6 = 32) : ReadsBack w (dec20 w) := by
  have e := word_eq_fieldSum [4, 4, 3, 5, 5, 5, 6] rfl lt
  simp only [fieldSum, Nat.reduceAdd, Nat.reducePow] at e
  unfold dec20; split <;> simp [VType.ofCode_eq_some, imp_and, wf, encode] <;> intros <;> omega

theorem dec21_readsBack (lt : w < 2 ^ 32) (m : fld w 26 6 = 33) : ReadsBack w (dec21 w) := by
  have e := word_eq_fieldSum [4, 4, 3, 5, 5, 5, 6] rfl lt
  simp only [fieldSum, Nat.reduceAdd, Nat.reducePow] at e
  unfold dec21; split <;> simp [VType.ofCode_eq_some, imp_and, wf, encode] <;> intros <;> omega

theorem dec22_readsBack (lt : w < 2 ^ 32) (m : fld w 26 6 = 34) : ReadsBack w (dec22 w) := by
  have e := word_eq_fieldSum [4, 4, 3, 5, 5, 5, 6] rfl lt
  simp only [fieldSum, Nat.reduceAdd, Nat.reducePow] at e
  unfold dec22; split <;> simp [wf, encode] <;> omega

theorem dec23_readsBack (lt : w < 2 ^ 32) (m : fld w 26 6 = 35) : ReadsBack w (dec23 w) := by
  have e := word_eq_fieldSum [4, 4, 3, 5, 5, 3, 2, 6] rfl lt
  simp only [fieldSum, Nat.reduceAdd, Nat.reducePow] at e
  unfold dec23; split <;> simp [VType.ofCode_eq_some, imp_and, wf, encode] <;> intros <;> omega

theorem dec24_readsBack (lt : w < 2 ^ 32) (m : fld w 26 6 = 36) : ReadsBack w (dec24 w) := by
  have e := word_eq_fieldSum [4, 4, 3, 1, 4, 5, 5, 6] rfl lt
  have b := fld_lt w 11 1
  simp only [fieldSum, Nat.reduceAdd, Nat.reducePow] at e
  simp [dec24, VType.ofCode_eq_some, RMode.ofCode_eq_some, beq_one_toNat b, wf, encode]; intros; omega

theorem dec25_readsBack (lt : w < 2 ^ 32) (m : fld w 26 6 = 37) : ReadsBack w (dec25 w) := by
  have e := word_eq_fieldSum [4, 4, 3, 5, 5, 5, 6] rfl lt
  simp only [fieldSum, Nat.reduceAdd, Nat.reducePow] at e
  unfold dec25; split <;> simp [VType.ofCode_eq_some, imp_and, wf, encode] <;> intros <;> omega

theorem dec26_readsBack (lt : w < 2 ^ 32) (m : fld w 26 6 = 38) : ReadsBack w (dec26 w) := by
  have e := word_eq_fieldSum [4, 4, 3, 5, 5, 5, 6] rfl lt
  simp only [fieldSum, Nat.reduceAdd, Nat.reducePow] at e
  unfold dec26; split <;> simp [VType.ofCode_eq_some, wf, encode] <;> intros <;> omega

theorem dec27_readsBack (lt : w < 2 ^ 32) (m : fld w 26 6 = 39) : ReadsBack w (dec27 w) := by
  have e := word_eq_fieldSum [4, 4, 3, 5, 5, 5, 6] rfl lt
  simp only [fieldSum, Nat.reduceAdd, Nat.reducePow] at e
  unfold dec27; split <;> simp [VType.ofCode_eq_some, wf, encode] <;> intros <;> omega

theorem dec28_readsBack (lt : w < 2 ^ 32) (m : fld w 26 6 = 40) : ReadsBack w (dec28 w) := by
  have e := word_eq_fieldSum [4, 4, 3, 5, 5, 5, 6] rfl lt
  have e1 := word_eq_fieldSum [4, 12, 5, 2, 3, 6] rfl lt
  have e2 := word_eq_fieldSum [4, 17, 2, 3, 6] rfl lt
  have b := fld_lt w 21 2
  simp only [fieldSum, Nat.reduceAdd, Nat.reducePow] at e e1 e2
  unfold dec28; split <;> simp [VType.ofCode_eq_some, imp_and, wf, encode] <;> intros <;> omega

theorem dec29_readsBack (lt : w < 2 ^ 32) (m : fld w 26 6 = 41) : ReadsBack w (dec29 w) := by
  have e := word_eq_fieldSum [4, 4, 3, 3, 2, 3, 2, 3, 2, 6] rfl lt
  have e1 := word_eq_fieldSum [4, 4, 3, 5, 3, 2, 3, 2, 6] rfl lt
  have e2 := word_eq_fieldSum [4, 4, 3, 5, 3, 2, 5, 6] rfl lt
  have e3 := word_eq_fieldSum [4, 4, 3, 5, 5, 3, 2, 6] rfl lt
  simp only [fieldSum, Nat.reduceAdd, Nat.reducePow] at e e1 e2 e3
  unfold dec29; split <;> simp [wf, encode] <;> omega

theorem decodeWord_readsBack (lt : w < 2 ^ 32) : ReadsBack w (decodeWord w) := by
  rw [decodeWord, if_pos lt]
  split
  exacts [dec01_readsBack lt ‹_›, dec02_readsBack lt ‹_›, dec03_readsBack lt ‹_›, dec04_readsBack lt ‹_›, dec05_readsBack lt ‹_›,
    dec06_readsBack lt ‹_›, dec07_readsBack lt ‹_›, dec08_readsBack lt ‹_›, dec09_readsBack lt ‹_›, dec0A_readsBack lt ‹_›,
    dec0B_readsBack lt ‹_›, dec0C_readsBack lt ‹_›, dec0D_readsBack lt ‹_›, dec0E_readsBack lt ‹_›, dec0F_readsBack lt ‹_›,
    dec10_readsBack lt ‹_›, dec11_readsBack lt ‹_›, dec12_readsBack lt ‹_›, dec13_readsBack lt ‹_›, dec14_readsBack lt ‹_›,
    dec15_readsBack lt ‹_›, dec16_readsBack lt ‹_›, dec17_readsBack lt ‹_›, dec18_readsBack lt ‹_›, dec19_readsBack lt ‹_›,
    dec1A_readsBack lt ‹_›, dec1B_readsBack lt ‹_›, dec1C_readsBack lt ‹_›, dec1D_readsBack lt ‹_›, dec1E_readsBack lt ‹_›,
    dec1F_readsBack lt ‹_›, dec20_readsBack lt ‹_›, dec21_readsBack lt ‹_›, dec22_readsBack lt ‹_›, dec23_readsBack lt ‹_›,
    dec24_readsBack lt ‹_›, dec25_readsBack lt ‹_›, dec26_readsBack lt ‹_›, dec27_readsBack lt ‹_›, dec28_readsBack lt ‹_›,
    dec29_readsBack lt ‹_›, readsBack_none]

end

/-- Settles O2: every major's decoder reads an instruction whose word it was given. -/
theorem encodeOfDecode : Obligations.EncodeOfDecode := fun _ i lt => decodeWord_readsBack lt i

end Sys2Proof
end

section
/-! SUPPORT. ERET (R137 to R139, R272, R295): which return it makes, and what a return leaves. -/

namespace Sys2Proof.Machine

/-! ## TSTAT (R138) -/

theorem bit_toNat (w : Word) (k : Nat) : bit w.toNat k = w.getLsbD k := by
  rw [bit, BitVec.getLsbD, Nat.testBit_eq_decide_div_mod_eq]
  rfl

/-- PREV is a two-bit field. -/
theorem prev_lt (t : Nat) : bits t 3 2 < 4 := by unfold bits; omega

/-- IE after a return is the IE that TSTAT saved. -/
theorem tstatIE_restored (t : Word) : tstatIE (BitVec.ofNat 64 (t.toNat / 2 * 2 + bits t.toNat 1 1)) = t.getLsbD 1 := by
  have h := t.isLt
  simp only [tstatIE, BitVec.getLsbD, BitVec.toNat_ofNat, bits, Nat.testBit_eq_decide_div_mod_eq, decide_eq_decide]
  omega

/-- PREV of the TSTAT that a trap at application level leaves is 0. -/
theorem prev_of_app_trap (h ie : Bool) : bits (BitVec.ofNat 64 ((if h then 16 else 0) + 0 * 4 + (if ie then 2 else 0))).toNat 3 2 = 0 := by
  cases h <;> cases ie <;> decide

theorem handler_of_trap (h ie : Bool) (l : Level) :
    bit (BitVec.ofNat 64 ((if h then 16 else 0) + l.code * 4 + (if ie then 2 else 0))).toNat 4 = h := by
  cases h <;> cases ie <;> cases l <;> decide

/-! ## The return (R138, R139) -/

/-- The text capability of a level (R138, R139). -/
def State.levelText (s : State) (prev : Nat) : Payload := if prev = 0 then s.appText else if prev = 1 then runtimeText else s.dev.fwText

/-- ERET at runtime or firmware level, to a level that is no higher, returns. -/
theorem exec_eret_legal (s : State) (hl : s.cpu.level ≠ .app) (h3 : bits s.cpu.csrs.tstat.toNat 3 2 ≠ 3)
    (hle : bits s.cpu.csrs.tstat.toNat 3 2 ≤ s.cpu.level.code) : exec .eret s = .next s.returnFrom := by
  show execEret s = _
  rw [execEret, if_neg]
  cases h : s.cpu.level <;> simp_all [State.below, Level.code]

theorem exec_eret_illegal (s : State)
    (h : s.cpu.level = .app ∨ bits s.cpu.csrs.tstat.toNat 3 2 = 3 ∨ s.cpu.level.code < bits s.cpu.csrs.tstat.toNat 3 2) :
    exec .eret s = .next (s.takeTrap (illegal (wordOfInstr .eret))) := by
  show execEret s = _
  rw [execEret, if_pos]
  rcases h with h | h
  · left; simp [State.below, h, Level.code]
  · exact .inr h

/-- A return from a handler of neither a pre-emption nor a failed walk restores what TSTAT and TPC hold. -/
theorem State.returnFrom_eretTo {s : State} (hp : s.cpu.entered.head? ≠ some preemptCause) (h8 : s.cpu.entered.head? ≠ some 8) :
    s.returnFrom = s.eretTo := by
  rw [State.returnFrom, if_neg fun h => hp h.1, if_neg h8]

theorem State.returnFrom_walk {s : State} (h8 : s.cpu.entered.head? = some 8) : s.returnFrom = s.escalate 8 := by
  rw [State.returnFrom, h8, if_neg (by simp [preemptCause]), if_pos rfl]

/-- What a return leaves. -/
theorem State.eretTo_fields (s : State) :
    let prev := bits s.cpu.csrs.tstat.toNat 3 2
    let t := s.eretTo
    t.cpu.pcc = capSetAddr (s.levelText prev) (pcOf s.cpu.csrs.tpc.toNat) ∧ t.cpu.level = levelOf prev ∧
      tstatIE t.cpu.csrs.tstat = s.cpu.csrs.tstat.getLsbD 1 ∧ t.cpu.handler = s.cpu.csrs.tstat.getLsbD 4 ∧
      t.pc = pcOf s.cpu.csrs.tpc.toNat ∧ t.cpu.regs = s.cpu.regs ∧ t.mem = s.mem := by
  intro prev t
  have text : s.levelText prev = (match levelOf prev with | .app => s.appText | .runtime => runtimeText | .firmware => s.dev.fwText) := by
    unfold State.levelText
    generalize prev = n
    match n with
    | 0 | 1 | _ + 2 => rfl
  have hpc : t.cpu.pcc = capSetAddr (s.levelText prev) (pcOf s.cpu.csrs.tpc.toNat) := by rw [text]; rfl
  refine ⟨hpc, rfl, tstatIE_restored _, bit_toNat _ 4, ?_, rfl, rfl⟩
  rw [State.pc, hpc, capAddr_setAddr, Nat.mod_eq_of_lt]; unfold pcOf; omega

/-! ## A trap at application level, and the return from it -/

/-- What stops a context leaves its launch's record. -/
theorem State.stopped_launches (s : State) (w : Word) : (s.stopped w).launches = s.launches := by
  obtain ⟨-, -, -, hl, -⟩ := s.dissolveAbandon_rest
  unfold State.stopped
  simp only
  split <;> simp [State.seal, hl]

theorem State.appText_congr {s t : State} (h : t.cpu.launch = s.cpu.launch) (hl : t.launches = s.launches) : t.appText = s.appText := by
  have : t.launch? = s.launch? := by funext n; rw [State.launch?, hl, State.launch?]
  rw [State.appText, State.curLaunch, h, this, State.appText, State.curLaunch]

/-- A trap that does not escalate leaves the text capability of application level. -/
theorem State.appText_takeTrapWord (s : State) (w : Word) (tval telem : Nat) (h : s.takesTraps) :
    (s.takeTrapWord w tval telem).appText = s.appText := by
  obtain ⟨g, p, hs⟩ := s.stopped_cpu w
  rw [s.takeTrapWord_of w tval telem h]
  exact State.appText_congr (by simp [hs]) (by simp [s.stopped_launches w])

/-- Settles O30: the return that ERET makes, and what TSTAT and TPC restore. -/
theorem returnFromTrap : Obligations.ReturnFromTrap := by
  unfold Obligations.ReturnFromTrap
  refine ⟨?_, fun s hl h3 hle => ⟨fun h8 => ?_, fun hp hn => ?_⟩, exec_eret_illegal, fun s c hl => ?_⟩
  · intro s hl prev h3 hle hp h8 cap
    obtain ⟨hpcc, hlev, hie, hh, hpc, hr, hm⟩ := s.eretTo_fields
    refine ⟨by decide, by decide, fun l e => by rw [State.appText, e], s.eretTo, ?_, hpcc, ?_, ?_, ?_, hlev, hie, hh, hpc, hr, hm⟩
    · rw [exec_eret_legal s hl h3 hle, State.returnFrom_eretTo hp h8]
    · rw [hpcc]; exact capBase_setAddr _ _
    · rw [hpcc]; exact capLen_setAddr _ _
    · rw [hpcc]; exact capPerms_setAddr _ _
  · rw [exec_eret_legal s hl h3 hle, State.returnFrom_walk h8]
  · rw [exec_eret_legal s hl h3 hle, State.returnFrom, if_pos ⟨hp, hn⟩]
  · have ht : s.takesTraps := .inl hl
    have text := s.appText_takeTrapWord 9 c 0 ht
    obtain ⟨-, -, -, htpc, htstat, -, -, hlev, -, -, hent, -, hregs, -⟩ := s.takeTrapWord_fields 9 c 0 ht
    rw [show s.takeTrap ⟨9, c, 0⟩ = s.takeTrapWord 9 c 0 from rfl]
    generalize s.takeTrapWord 9 c 0 = t at *
    have hprev : bits t.cpu.csrs.tstat.toNat 3 2 = 0 := by rw [htstat, hl]; exact prev_of_app_trap _ _
    have hpcOf : pcOf t.cpu.csrs.tpc.toNat = s.pc / 4 * 4 := by
      have := s.pc_lt
      rw [htpc, BitVec.toNat_ofNat, pcOf]; omega
    obtain ⟨hpcc, hlev', -, hh, hpc, hr, -⟩ := t.eretTo_fields
    rw [hprev] at hpcc hlev'
    refine ⟨t.eretTo, ?_, hlev', hpc.trans hpcOf, ?_, ?_, hr.trans hregs⟩
    · rw [exec_eret_legal t (by simp [hlev]) (by simp [hprev]) (by simp [hprev]), State.returnFrom_eretTo] <;> simp [hent, preemptCause]
    · rw [hpcc, hpcOf, ← text]; rfl
    · rw [hh, htstat, ← bit_toNat]; exact handler_of_trap _ _ _

end Sys2Proof.Machine
end

section
/-! SUPPORT. One step of a repeat frame (R53 to R56). -/

namespace Sys2Proof.Machine

/-- Where a frame goes once element (k, j) has left u: the next element, or past the captured words (R56). -/
def State.repNext (u : State) (pc c n k j : Nat) : State :=
  let go := u.modCpu fun q => { q with stalled := false }
  if j + 1 < c then go.setRepprog (repAt k (j + 1))
  else if k + 1 < n then go.setRepprog (repAt (k + 1) 0)
  else ((go.modCpu fun q => { q with frame := none }).setRepprog 0).setPc ((pc + 4 * (c + 1)) % 2 ^ 52)

/-- With its words captured, a frame performs the element that REPPROG names and goes to the next. -/
theorem exec_rep {s u t : State} {c n x y z k j w : Nat} {ws : List Nat} {i : Instr} {f : State → Out State} (hpos : s.repPos = (k, j))
    (hk : k < n) (hj : j < c) (hws : s.frameWords c = (u, .ok ws)) (hw : ws[j]? = some w) (hi : stepWord k x y z w = some i)
    (hf : effOf i = some f) (hrun : f ((u.setRepprog (repAt k j)).modCpu fun q => { q with frame := some ws }) = .ok t) :
    exec (.rep c n x y z) s = .next (t.repNext s.pc c n k j) := by
  show execRep c n x y z s = _
  have hin : ¬ (n ≤ k ∨ c ≤ j) := by omega
  simp only [execRep, hpos, hin, if_false, hws, hw, Option.bind_some, hi, hf, hrun, State.repNext]
  split
  · rfl
  · split <;> rfl

/-- Settles O53: the frame's next place after each element. -/
theorem repeatFrames : Obligations.RepeatFrames := by
  unfold Obligations.RepeatFrames
  intro s u t c n x y z k j w ws i f hpos hk hj hws hw hi hf hrun go
  rw [exec_rep hpos hk hj hws hw hi hf hrun, State.repNext]
  refine ⟨fun h => ?_, fun h h' => ?_, fun h h' => ?_⟩
  · rw [if_pos h]
  · rw [if_neg (by omega), if_pos h']
  · rw [if_neg (by omega), if_neg (by omega)]

end Sys2Proof.Machine
end

section
/-! SUPPORT. Engine control (R60, R134, R135, R188): checked pushes, and what cancelling a command and dropping a key leave. -/

namespace Sys2Proof.Machine

/-! ## Cancelling (R134, R174) -/

/-- A command with no element left to perform: it is over, or every element is performed or on its way. -/
def Cmd.Finished (c : Cmd) : Prop := c.over = true ∨ (c.started = true ∧ c.total ≤ c.unperformed)

@[simp] theorem Engines.get_set (x : Engines) (e : Eng) (q : EngQ) : (x.set e q).get e = q := by cases e <;> rfl

/-- Cancelling ends a command unless it has no element left. -/
theorem Cmd.cancel_finished (n : Nat) (c : Cmd) : (c.cancel n).Finished := by
  rw [Cmd.cancel]
  split
  · rename_i h
    simpa only [Cmd.Finished, Bool.or_eq_true, Bool.and_eq_true, decide_eq_true_eq] using h
  · exact .inl rfl

@[simp] theorem Cmd.cancel_key (n : Nat) (c : Cmd) : (c.cancel n).key = c.key := by
  rw [Cmd.cancel]
  split <;> rfl

/-- Cancel the commands of a key (R135). -/
def Cmd.drop (k : BitVec 16) (c : Cmd) : Cmd := if c.key = k then c.cancel 2 else c

theorem Cmd.drop_finished {k : BitVec 16} {c : Cmd} (h : (c.drop k).key = k) : (c.drop k).Finished := by
  unfold Cmd.drop at h ⊢
  split
  · exact c.cancel_finished 2
  · rename_i hk; rw [if_neg hk] at h; exact absurd h hk

/-! ## The queues and the banks -/

theorem Engines.each_cmds (x : Engines) (f : Cmd → Cmd) :
    (x.each f).me.cmds ++ (x.each f).ce.cmds ++ (x.each f).ca.cmds = (x.me.cmds ++ x.ce.cmds ++ x.ca.cmds).map f := by
  simp [Engines.each]

/-- No bank is held by a key that is discarded (R188). -/
theorem Engines.discard_hold (x : Engines) (k : BitVec 16) (j : Nat) : vget none (x.discard k).hold j ≠ some k := by
  simp only [Engines.discard, vget, Vector.getElem?_map]
  cases x.hold[j]? with
  | none => simp
  | some h => by_cases hk : h = some k <;> simp [hk]

@[simp] theorem State.modEng_mem (s : State) (f : Engines → Engines) : (s.modEng f).mem = s.mem := rfl
@[simp] theorem State.modEng_pc (s : State) (f : Engines → Engines) : (s.modEng f).pc = s.pc := rfl
@[simp] theorem State.modEng_eng (s : State) (f : Engines → Engines) : (s.modEng f).cpu.eng = f s.cpu.eng := rfl

/-- An instruction that changes the engines alone leaves memory and goes on. -/
theorem State.modEng_advance (s : State) (f : Engines → Engines) :
    (s.modEng f).advance.cpu.eng = f s.cpu.eng ∧ (s.modEng f).advance.pc = s.pc4 ∧ (s.modEng f).advance.mem = s.mem := by
  refine ⟨rfl, ?_, by simp⟩
  rw [State.pc_advance]; rfl

/-! ## The instructions -/

section
variable (s : State) {d a : Nat} {e : Eng}

theorem exec_push (hc : s.pushCheck a (wordOfInstr (.push a e)) e = .ok ()) (hq : (s.cpu.eng.get e).full = false) :
    exec (.push a e) s = .next (s.enqueue a e).advance := by
  show execPush a e s = _
  rw [execPush, hc, Out.bind, hq]
  rfl

theorem exec_pushTry (hc : s.pushCheck a (wordOfInstr (.pushTry d a e)) e = .ok ()) :
    exec (.pushTry d a e) s = .next (if (s.cpu.eng.get e).full then s.setG d (word 1) else (s.enqueue a e).setG d (word 0)).advance := by
  show execPushTry d a e s = _
  rw [execPushTry, hc, Out.bind]
  split <;> rfl

theorem exec_ecancel : ∃ t, exec (.ecancel e) s = .next t ∧ t.pc = s.pc4 ∧ t.mem = s.mem ∧ ∀ c ∈ (t.cpu.eng.get e).cmds, c.Finished := by
  obtain ⟨heng, hpc, hmem⟩ := s.modEng_advance fun x => x.set e { x.get e with cmds := (x.get e).cmds.map (Cmd.cancel 0) }
  refine ⟨_, rfl, hpc, hmem, ?_⟩
  rw [heng, Engines.get_set]
  intro c hc
  obtain ⟨c, -, rfl⟩ := List.mem_map.1 hc
  exact c.cancel_finished 0

/-- The key 0 names nothing (R135). -/
theorem exec_spec_zero (ha : s.clean a) (hk : (s.ival a).truncate 16 = (0 : BitVec 16)) :
    exec (.specommit a) s = .next s.advance ∧ exec (.specdrop a) s = .next s.advance := by
  constructor
  · show execSpecommit a s = _
    rw [execSpecommit, s.value_of_clean ha, Out.bind, if_pos hk]; rfl
  · show execSpecdrop a s = _
    rw [execSpecdrop, s.value_of_clean ha, Out.bind, if_pos hk]; rfl

theorem exec_specommit {k : BitVec 16} (ha : s.clean a) (hv : (s.ival a).truncate 16 = k) (hk : k ≠ 0)
    (hq : (s.cpu.eng.anyCmd fun c => c.key == k) = false) : exec (.specommit a) s = .next (s.modEng fun x => x.commit k).advance := by
  subst hv
  show execSpecommit a s = _
  simp only [execSpecommit, s.value_of_clean ha, Out.bind, if_neg hk, hq, Bool.false_eq_true, if_false]
  rfl

theorem exec_specdrop {k : BitVec 16} (ha : s.clean a) (hv : (s.ival a).truncate 16 = k) (hk : k ≠ 0) :
    ∃ t, exec (.specdrop a) s = .next t ∧ t.pc = s.pc4 ∧ t.mem = s.mem ∧ (∀ j, j < 8 → vget none t.cpu.eng.hold j ≠ some k) ∧
      ∀ c ∈ t.cpu.eng.me.cmds ++ t.cpu.eng.ce.cmds ++ t.cpu.eng.ca.cmds, c.key = k → c.Finished := by
  obtain ⟨heng, hpc, hmem⟩ := s.modEng_advance fun x => (x.each (Cmd.drop k)).discard k
  refine ⟨_, ?_, hpc, hmem, ?_⟩
  · subst hv
    show execSpecdrop a s = _
    simp only [execSpecdrop, s.value_of_clean ha, Out.bind, if_neg hk]
    rfl
  · rw [heng]
    refine ⟨fun j _ => Engines.discard_hold _ _ j, fun c hc => ?_⟩
    have hc : c ∈ (s.cpu.eng.me.cmds ++ s.cpu.eng.ce.cmds ++ s.cpu.eng.ca.cmds).map (Cmd.drop k) := by
      rw [← Engines.each_cmds]; exact hc
    obtain ⟨c, -, rfl⟩ := List.mem_map.1 hc
    exact Cmd.drop_finished

end

/-- Settles O44: each instruction by what it leaves of the queues and the banks. -/
theorem engineControl : Obligations.EngineControl := by
  unfold Obligations.EngineControl
  intro s d a e sel
  refine ⟨exec_push s, fun hc => ⟨fun hq => ?_, fun hq => ?_⟩, rfl, exec_ecancel s, fun ha => ?_⟩
  · rw [exec_pushTry s hc, if_pos hq]
  · rw [exec_pushTry s hc, hq]; rfl
  · exact ⟨exec_spec_zero s ha, exec_specommit s ha rfl, exec_specdrop s ha rfl⟩

end Sys2Proof.Machine
end

section
/-! SUPPORT. Integer instructions (R80 to R82): each is one of two shared operations, which say once what its operands and its result
are. -/

namespace Sys2Proof.Machine

/-! ## The two shared operations (R80) -/

/-- The instruction is the two-source operation of R80 with f. -/
def IsInt2 (x : Instr) (d a b : Nat) (f : Word → Word → Word) : Prop := ∀ s, exec x s = s.finish (s.int2 d a b f)

/-- The instruction is the one-source operation of R80 with f. -/
def IsInt1 (x : Instr) (d a : Nat) (f : Word → Word) : Prop := ∀ s, exec x s = s.finish (s.int1 d a f)

section
variable {x : Instr} {d a b : Nat}

theorem IsInt2.clean {f : Word → Word → Word} (hx : IsInt2 x d a b f) {s : State} (ha : s.clean a) (hb : s.clean b) :
    exec x s = .next (s.setG d (word (f (s.ival a) (s.ival b)))).advance := by
  rw [hx s, State.int2, if_neg ha, if_neg hb]; rfl

/-- A result of R81, given as another term for the same word. -/
theorem IsInt2.result {f : Word → Word → Word} (hx : IsInt2 x d a b f) {s : State} (ha : s.clean a) (hb : s.clean b) {r : Word}
    (hr : f (s.ival a) (s.ival b) = r) : exec x s = .next (s.setG d (word r)).advance := hr ▸ hx.clean ha hb

theorem IsInt2.poison_left {f : Word → Word → Word} (hx : IsInt2 x d a b f) {s : State} (ha : ¬s.clean a) :
    exec x s = .next (s.setG d (s.getG a)).advance := by
  rw [hx s, State.int2, if_pos (not_not.1 ha)]; rfl

theorem IsInt2.poison_right {f : Word → Word → Word} (hx : IsInt2 x d a b f) {s : State} (ha : s.clean a) (hb : ¬s.clean b) :
    exec x s = .next (s.setG d (s.getG b)).advance := by
  rw [hx s, State.int2, if_neg ha, if_pos (not_not.1 hb)]; rfl

theorem IsInt1.clean {f : Word → Word} (hx : IsInt1 x d a f) {s : State} (ha : s.clean a) :
    exec x s = .next (s.setG d (word (f (s.ival a)))).advance := by
  rw [hx s, State.int1, if_neg ha]; rfl

theorem IsInt1.result {f : Word → Word} (hx : IsInt1 x d a f) {s : State} (ha : s.clean a) {r : Word} (hr : f (s.ival a) = r) :
    exec x s = .next (s.setG d (word r)).advance := hr ▸ hx.clean ha

theorem IsInt1.poison {f : Word → Word} (hx : IsInt1 x d a f) {s : State} (ha : ¬s.clean a) :
    exec x s = .next (s.setG d (s.getG a)).advance := by
  rw [hx s, State.int1, if_pos (not_not.1 ha)]; rfl

end

/-- The two-source instructions of major 0x01 (R81). -/
def twoSource (d a b : Nat) : List Instr :=
  [.add d a b, .sub d a b, .and d a b, .or d a b, .xor d a b, .andn d a b, .shl d a b, .shr d a b, .sar d a b, .rol d a b,
    .slt d a b, .sltn d a b, .min d a b, .max d a b, .minn d a b, .maxn d a b, .mul d a b, .mulh d a b, .mulhn d a b, .div d a b,
    .divn d a b, .rem d a b, .remn d a b, .addw d a b, .subw d a b, .mulw d a b, .seq d a b, .sne d a b]

/-- The one-source instructions of R81 and the immediate instructions of R82 that read a register. -/
def oneSource (d a n : Nat) (i : Int) : List Instr :=
  [.clz d a, .ctz d a, .popc d a, .bswap d a, .addi d a i, .andi d a i, .ori d a n, .xori d a n, .shli d a n, .shri d a n,
    .sari d a n, .roli d a n, .slti d a i, .sltni d a i]

theorem isInt2_of_mem {d a b : Nat} : ∀ x ∈ twoSource d a b, ∃ f, IsInt2 x d a b f := by
  simp only [twoSource, List.forall_mem_cons, List.not_mem_nil, false_imp_iff, implies_true, and_true]
  and_intros <;> exact ⟨_, fun _ => rfl⟩

theorem isInt1_of_mem {d a n : Nat} {i : Int} : ∀ x ∈ oneSource d a n i, ∃ f, IsInt1 x d a f := by
  simp only [oneSource, List.forall_mem_cons, List.not_mem_nil, false_imp_iff, implies_true, and_true]
  and_intros <;> exact ⟨_, fun _ => rfl⟩

/-! ## Results (R81) -/

theorem word_shl (x : Word) (n : Nat) : shlBy x n = BitVec.ofNat 64 (x.toNat * 2 ^ n) :=
  BitVec.eq_of_toNat_eq (by rw [shlBy, BitVec.toNat_shiftLeft, Nat.shiftLeft_eq, BitVec.toNat_ofNat])

theorem word_shr (x : Word) (n : Nat) : shrBy x n = BitVec.ofNat 64 (x.toNat / 2 ^ n) := by
  rw [shrBy, ← Nat.shiftRight_eq_div_pow, ← BitVec.toNat_ushiftRight, BitVec.ofNat_toNat, BitVec.setWidth_eq]

theorem word_sar (x : Word) (n : Nat) : sarBy x n = BitVec.ofInt 64 (x.toInt / 2 ^ n) := by
  rw [sarBy, BitVec.sshiftRight, Int.shiftRight_eq_div_pow]; norm_cast

theorem word_rol (x : Word) (n : Nat) :
    rolBy x n = BitVec.ofNat 64 (if n = 0 then x.toNat else Nat.lor (x.toNat * 2 ^ n) (x.toNat / 2 ^ (64 - n))) := by
  rw [rolBy]
  split
  · rw [BitVec.ofNat_toNat, BitVec.setWidth_eq]
  · exact (congrArg₂ (· ||| ·) (word_shl x n) (word_shr x (64 - n))).trans (BitVec.ofNat_or ..).symm

theorem flag_slt (x y : Word) : flag (x.slt y) = if x.toInt < y.toInt then 1 else 0 := by simp [flag, BitVec.slt]

theorem flag_ult (x y : Word) : flag (x.ult y) = if x.toNat < y.toNat then 1 else 0 := by simp [flag, BitVec.ult]

theorem ite_slt (x y u v : Word) : (if x.slt y then u else v) = if x.toInt < y.toInt then u else v := by simp [BitVec.slt]

theorem ite_ult (x y u v : Word) : (if x.ult y then u else v) = if x.toNat < y.toNat then u else v := by simp [BitVec.ult]

/-- Low 32 bits of a word that a natural number gives (ADDW, MULW). -/
theorem low32_ofNat {x : Word} {n : Nat} (h : x = BitVec.ofNat 64 n) : low32 x = (BitVec.ofNat 32 n).signExtend 64 := by
  subst h
  rw [low32, BitVec.truncate_eq_setWidth, BitVec.setWidth_ofNat_of_le (by decide)]

theorem low32_sub (x y : Word) : low32 (x - y) = (BitVec.ofInt 32 (x.toNat - y.toNat)).signExtend 64 := by
  have : (x - y).setWidth 32 = BitVec.ofInt 32 ((x.toNat : Int) - y.toNat) := by
    apply BitVec.eq_of_toNat_eq
    rw [BitVec.toNat_setWidth, BitVec.toNat_sub, BitVec.toNat_ofInt]
    omega
  rw [low32, BitVec.truncate_eq_setWidth, this]

theorem flag_beq (x y : Word) : flag (x == y) = if x = y then 1 else 0 := by simp [flag]

theorem flag_bne (x y : Word) : flag (x != y) = if x = y then 0 else 1 := by
  by_cases h : x = y <;> simp [flag, h]

/-- Settles O11: each instruction is the two-source operation with its own function. -/
theorem integerResults : Obligations.IntegerResults := by
  unfold Obligations.IntegerResults
  intro s d a b ha hb A B sh done
  have put : ∀ {x : Instr} {f : Word → Word → Word} {r : Word}, IsInt2 x d a b f → f A B = r → exec x s = done r :=
    fun hx hr => hx.result ha hb hr
  exact ⟨put (fun _ => rfl) rfl, put (fun _ => rfl) rfl, put (fun _ => rfl) rfl, put (fun _ => rfl) rfl, put (fun _ => rfl) rfl,
    put (fun _ => rfl) rfl, put (fun _ => rfl) (word_shl A sh), put (fun _ => rfl) (word_shr A sh), put (fun _ => rfl) (word_sar A sh),
    put (fun _ => rfl) (word_rol A sh), put (fun _ => rfl) (flag_slt A B), put (fun _ => rfl) (flag_ult A B),
    put (fun _ => rfl) (ite_slt A B A B), put (fun _ => rfl) (ite_slt A B B A), put (fun _ => rfl) (ite_ult A B A B),
    put (fun _ => rfl) (ite_ult A B B A), put (fun _ => rfl) rfl, put (fun _ => rfl) rfl, put (fun _ => rfl) rfl,
    put (fun _ => rfl) rfl, put (fun _ => rfl) rfl, put (fun _ => rfl) rfl, put (fun _ => rfl) rfl,
    put (fun _ => rfl) (low32_ofNat rfl), put (fun _ => rfl) (low32_sub A B), put (fun _ => rfl) (low32_ofNat rfl),
    put (fun _ => rfl) (flag_beq A B), put (fun _ => rfl) (flag_bne A B)⟩

/-! ## Bit counts (R81) -/

theorem bit_eq_testBit (x : Nat) : bit x = x.testBit := by
  funext k
  rw [Nat.testBit_eq_decide_div_mod_eq]
  rfl

/-- Below the number of leading zeros lies the top one bit. -/
theorem clzNat_bounds {x : Nat} (hx : x < 2 ^ 64) :
    clzNat x ≤ 64 ∧ x < 2 ^ (64 - clzNat x) ∧ (clzNat x < 64 → 2 ^ (63 - clzNat x) ≤ x) := by
  rw [clzNat]
  split
  · next h => subst h; decide
  · next h =>
    have hlog : Nat.log2 x < 64 := (Nat.log2_lt h).2 hx
    rw [show 64 - (63 - Nat.log2 x) = Nat.log2 x + 1 by omega, show 63 - (63 - Nat.log2 x) = Nat.log2 x by omega]
    exact ⟨by omega, Nat.lt_log2_self, fun _ => Nat.log2_self_le h⟩

theorem mod_two_pow_eq_zero {x k : Nat} (h : ∀ j, j < k → x.testBit j = false) : x % 2 ^ k = 0 := by
  refine Nat.eq_of_testBit_eq fun j => ?_
  rw [Nat.testBit_mod_two_pow, Nat.zero_testBit]
  by_cases hj : j < k
  · rw [h j hj, Bool.and_false]
  · rw [decide_eq_false hj, Bool.false_and]

/-- Every bit below the number of trailing zeros is zero, and the one there is not. -/
theorem ctzNat_bounds (x : Nat) : ctzNat x ≤ 64 ∧ x % 2 ^ ctzNat x = 0 ∧ (ctzNat x < 64 → x / 2 ^ ctzNat x % 2 = 1) := by
  rw [ctzNat, findBelow, bit_eq_testBit]
  cases h : (List.range 64).find? x.testBit with
  | none =>
    rw [List.find?_eq_none] at h
    exact ⟨le_rfl, mod_two_pow_eq_zero fun j hj => by simpa using h j (List.mem_range.2 hj), fun h => absurd h (lt_irrefl 64)⟩
  | some k =>
    obtain ⟨hk, hlt, hbelow⟩ := List.find?_range_eq_some.1 h
    refine ⟨(List.mem_range.1 hlt).le, mod_two_pow_eq_zero fun j hj => by simpa using hbelow j hj, fun _ => ?_⟩
    rwa [Nat.testBit_eq_decide_div_mod_eq, decide_eq_true_eq] at hk

/-- Settles O12: each instruction is the one-source operation with its own function; LUI reads nothing. -/
theorem integerOneSource : Obligations.IntegerOneSource := by
  unfold Obligations.IntegerOneSource
  intro s d a n m i A done
  refine ⟨rfl, fun ha _ => ?_⟩
  have put : ∀ {x : Instr} {f : Word → Word} {r : Word}, IsInt1 x d a f → f A = r → exec x s = done r :=
    fun hx hr => hx.result ha hr
  exact ⟨⟨_, put (fun _ => rfl) rfl, clzNat_bounds A.isLt⟩, ⟨_, put (fun _ => rfl) rfl, ctzNat_bounds A.toNat⟩,
    put (fun _ => rfl) (by rw [popcount, bit_eq_testBit]), put (fun _ => rfl) rfl, put (fun _ => rfl) rfl, put (fun _ => rfl) rfl,
    put (fun _ => rfl) rfl, put (fun _ => rfl) rfl, put (fun _ => rfl) (word_shl A n), put (fun _ => rfl) (word_shr A n),
    put (fun _ => rfl) (word_sar A n), put (fun _ => rfl) (word_rol A n), put (fun _ => rfl) (flag_slt A _),
    put (fun _ => rfl) (flag_ult A _)⟩

end Sys2Proof.Machine
end

section
/-! SUPPORT. Branches and jumps (R92 to R94): where each one leaves the PC, and its traps; POISON operands of integer instructions and
branches (R69, R80, R92). -/

namespace Sys2Proof.Machine

/-! ## Targets (R92) -/

/-- The address that lies x instructions from the PC. -/
def State.targetOf (s : State) (x : Int) : Nat := (((s.pc : Int) + 4 * x) % 2 ^ 52).toNat

/-- A word at an address lies within PCC's bounds. -/
abbrev State.inPcc (s : State) (t : Nat) : Prop := capBase s.cpu.pcc ≤ t ∧ t + 4 ≤ capBase s.cpu.pcc + capLen s.cpu.pcc

theorem State.target_of_inPcc {s : State} {x : Int} (h : s.inPcc (s.targetOf x)) : s.target x = .ok (s.targetOf x) :=
  if_neg fun h' => h'.elim (Nat.not_lt.2 h.1) (Nat.not_lt.2 h.2)

theorem State.target_of_not_inPcc {s : State} {x : Int} (h : ¬s.inPcc (s.targetOf x)) : s.target x = .trap ⟨3, s.targetOf x, 0⟩ :=
  if_pos (by rwa [not_and_or, not_le, not_le] at h)

/-! ## Branches (R92) -/

/-- Where a branch goes whose relation is c: to its target or its trap when c holds, to the next instruction when it does not. -/
def State.branchOn (s : State) (x : Int) (c : Prop) [Decidable c] : Res :=
  if c then
    (if s.inPcc (s.targetOf x) then .next ((s.setPc (s.targetOf x)).modCpu fun u => { u with stalled := false })
      else .next (s.takeTrap ⟨3, s.targetOf x, 0⟩))
  else .next ((s.setPc s.pc4).modCpu fun u => { u with stalled := false })

theorem State.finishJump_branch (s : State) (x : Int) {taken : Bool} {c : Prop} [Decidable c] (h : taken = true ↔ c) :
    s.finishJump (s.branch taken x) = s.branchOn x c := by
  rw [State.branch, State.branchOn]
  by_cases hc : c
  · rw [if_pos (h.2 hc), if_pos hc]
    by_cases hin : s.inPcc (s.targetOf x)
    · rw [State.target_of_inPcc hin, if_pos hin]; rfl
    · rw [State.target_of_not_inPcc hin, if_neg hin]; rfl
  · rw [if_neg (mt h.1 hc), if_neg hc]; rfl

/-- The instruction branches on f of two registers. -/
def IsBr (y : Instr) (a b : Nat) (x : Int) (f : Word → Word → Bool) : Prop := ∀ s, exec y s = s.br a b x f

/-- The instruction branches on f of one register. -/
def IsBrz (y : Instr) (a : Nat) (x : Int) (f : Word → Bool) : Prop := ∀ s, exec y s = s.brz a x f

/-- A value operand that is POISON traps with its reason (R101). -/
theorem State.value_of_poison {s : State} {a : Nat} (h : ¬s.clean a) : s.value a = .trap ⟨6, (s.getG a).reason, 0⟩ := if_pos (not_not.1 h)

section
variable {y : Instr} {a b : Nat} {x : Int} {s : State}

theorem IsBr.clean {f : Word → Word → Bool} (hy : IsBr y a b x f) (ha : s.clean a) (hb : s.clean b) {c : Prop} [Decidable c]
    (h : f (s.ival a) (s.ival b) = true ↔ c) : exec y s = s.branchOn x c := by
  rw [hy s, State.br, State.value_of_clean ha, State.value_of_clean hb]
  exact s.finishJump_branch x h

theorem IsBr.poison_left {f : Word → Word → Bool} (hy : IsBr y a b x f) (ha : ¬s.clean a) :
    exec y s = .next (s.takeTrap ⟨6, (s.getG a).reason, 0⟩) := by
  rw [hy s, State.br, State.value_of_poison ha]; rfl

theorem IsBr.poison_right {f : Word → Word → Bool} (hy : IsBr y a b x f) (ha : s.clean a) (hb : ¬s.clean b) :
    exec y s = .next (s.takeTrap ⟨6, (s.getG b).reason, 0⟩) := by
  rw [hy s, State.br, State.value_of_clean ha, State.value_of_poison hb]; rfl

theorem IsBrz.clean {f : Word → Bool} (hy : IsBrz y a x f) (ha : s.clean a) {c : Prop} [Decidable c] (h : f (s.ival a) = true ↔ c) :
    exec y s = s.branchOn x c := by
  rw [hy s, State.brz, State.value_of_clean ha]
  exact s.finishJump_branch x h

theorem IsBrz.poison {f : Word → Bool} (hy : IsBrz y a x f) (ha : ¬s.clean a) :
    exec y s = .next (s.takeTrap ⟨6, (s.getG a).reason, 0⟩) := by
  rw [hy s, State.brz, State.value_of_poison ha]; rfl

end

theorem slt_iff (u v : Word) : u.slt v = true ↔ u.toInt < v.toInt := by simp [BitVec.slt]
theorem not_slt_iff (u v : Word) : (!u.slt v) = true ↔ v.toInt ≤ u.toInt := by simp [BitVec.slt]
theorem ult_iff (u v : Word) : u.ult v = true ↔ u.toNat < v.toNat := by simp [BitVec.ult]
theorem not_ult_iff (u v : Word) : (!u.ult v) = true ↔ v.toNat ≤ u.toNat := by simp [BitVec.ult]

/-- Settles O17: each branch by its relation. -/
theorem branchResults : Obligations.BranchResults := by
  unfold Obligations.BranchResults
  intro s a b x ha hb t inside A B run go
  have two : ∀ {y : Instr} {f : Word → Word → Bool} {c : Prop} [Decidable c], IsBr y a b x f → (f A B = true ↔ c) → exec y s = go c :=
    fun hy h => hy.clean ha hb h
  have one : ∀ {y : Instr} {f : Word → Bool} {c : Prop} [Decidable c], IsBrz y a x f → (f A = true ↔ c) → exec y s = go c :=
    fun hy h => hy.clean ha h
  exact ⟨two (fun _ => rfl) beq_iff_eq, two (fun _ => rfl) bne_iff_ne, two (fun _ => rfl) (slt_iff A B), two (fun _ => rfl) (not_slt_iff A B),
    two (fun _ => rfl) (ult_iff A B), two (fun _ => rfl) (not_ult_iff A B), one (fun _ => rfl) beq_iff_eq, one (fun _ => rfl) bne_iff_ne,
    one (fun _ => rfl) (slt_iff A 0), one (fun _ => rfl) (not_slt_iff A 0), one (fun _ => rfl) (slt_iff 0 A), one (fun _ => rfl) (not_slt_iff 0 A)⟩

/-! ## POISON operands (R80, R92) -/

theorem isBr_of_mem {a b : Nat} {x : Int} :
    ∀ y ∈ [Instr.beq a b x, .bne a b x, .blt a b x, .bge a b x, .bltn a b x, .bgen a b x], ∃ f, IsBr y a b x f := by
  simp only [List.forall_mem_cons, List.not_mem_nil, false_imp_iff, implies_true, and_true]
  and_intros <;> exact ⟨_, fun _ => rfl⟩

theorem isBrz_of_mem {a : Nat} {x : Int} :
    ∀ y ∈ [Instr.beqz a x, .bnez a x, .bltz a x, .bgez a x, .bgtz a x, .blez a x], ∃ f, IsBrz y a x f := by
  simp only [List.forall_mem_cons, List.not_mem_nil, false_imp_iff, implies_true, and_true]
  and_intros <;> exact ⟨_, fun _ => rfl⟩

theorem exec_chkp_poison {s : State} {a : Nat} (h : ¬s.clean a) : exec (.chkp a) s = .next (s.takeTrap ⟨6, (s.getG a).reason, 0⟩) := by
  show execChkp a s = _
  rw [execChkp, if_pos (not_not.1 h)]; rfl

/-- Settles O13: the shared operations copy the first POISON operand or trap with its reason. -/
theorem integerPoison : Obligations.IntegerPoison := by
  unfold Obligations.IntegerPoison
  intro s d a b n i
  refine ⟨fun x hx => ?_, fun x hx ha => ?_, fun x hx => ?_, fun x hx ha => ?_⟩
  · obtain ⟨f, hf⟩ := isInt2_of_mem x hx
    exact ⟨hf.poison_left, hf.poison_right⟩
  · obtain ⟨f, hf⟩ := isInt1_of_mem x hx
    exact hf.poison ha
  · obtain ⟨f, hf⟩ := isBr_of_mem x hx
    exact ⟨hf.poison_left, hf.poison_right⟩
  · have hx : x ∈ [Instr.beqz a i, .bnez a i, .bltz a i, .bgez a i, .bgtz a i, .blez a i] ++ [Instr.chkp a] := hx
    rcases List.mem_append.1 hx with hx | hx
    · obtain ⟨f, hf⟩ := isBrz_of_mem x hx
      exact hf.poison ha
    · rw [List.mem_singleton.1 hx]
      exact exec_chkp_poison ha

/-! ## Jumps (R93, R94) -/

/-- The capability that a jump goes through passes the checks of R94. -/
theorem jumpCheck_ok {g : GReg} (ht : g.tag = .cap) (hx : capHas g.val .x = true) (hlo : capBase g.val ≤ capAddr g.val)
    (hhi : capAddr g.val + 4 ≤ capBase g.val + capLen g.val) (hal : capAddr g.val % 4 = 0) : jumpCheck g = .ok g.val := by
  simp only [jumpCheck, ht, hx, Bool.not_true, Bool.false_eq_true, if_false]
  exact (if_neg fun h => h.elim (Nat.not_lt.2 hlo) (Nat.not_lt.2 hhi)).trans (if_neg (not_not.2 hal))

/-- The trap of the first check of R94 that fails. -/
def JumpTraps (g : GReg) (q v : Nat) : Prop :=
  let e := capAddr g.val; let b := capBase g.val; let top := capBase g.val + capLen g.val
  (g.tag = .poison ∧ q = 6 ∧ v = g.reason) ∨ (g.tag = .data ∧ q = 2 ∧ v = e) ∨ g.tag = .cap ∧ v = e ∧
    (capHas g.val .x = false ∧ q = 4 ∨ capHas g.val .x = true ∧
      ((e < b ∨ top < e + 4) ∧ q = 3 ∨ b ≤ e ∧ e + 4 ≤ top ∧ e % 4 ≠ 0 ∧ q = 5))

theorem jumpCheck_trap {g : GReg} {q v : Nat} (h : JumpTraps g q v) : jumpCheck g = .trap ⟨q, v, 0⟩ := by
  rcases h with ⟨ht, rfl, rfl⟩ | ⟨ht, rfl, rfl⟩ | ⟨ht, rfl, ⟨hx, rfl⟩ | ⟨hx, ⟨ho, rfl⟩ | ⟨hlo, hhi, hal, rfl⟩⟩⟩
  · simp only [jumpCheck, ht]
  · simp only [jumpCheck, ht, GReg.addr]
  · simp only [jumpCheck, ht, hx, GReg.addr, Bool.not_false, if_true]
  · simp only [jumpCheck, ht, hx, Bool.not_true, Bool.false_eq_true, if_false]
    exact if_pos ho
  · simp only [jumpCheck, ht, hx, Bool.not_true, Bool.false_eq_true, if_false]
    exact (if_neg fun h => h.elim (Nat.not_lt.2 hlo) (Nat.not_lt.2 hhi)).trans (if_pos hal)

theorem exec_jr_trap {s : State} {a q v : Nat} (d : Nat) (h : JumpTraps (s.getG a) q v) :
    ∀ y ∈ [Instr.jr a, .jalr d a], exec y s = .next (s.takeTrap ⟨q, v, 0⟩) := by
  simp only [List.forall_mem_cons, List.not_mem_nil, false_imp_iff, implies_true, and_true]
  show execJr a s = _ ∧ execJalr d a s = _
  rw [execJr, execJalr, jumpCheck_trap h]
  exact ⟨rfl, rfl⟩

/-- Settles O18: J and JAL by their target, JR and JALR by the checks of R94. -/
theorem jumpResults : Obligations.JumpResults := by
  unfold Obligations.JumpResults
  intro s d a x t run link
  refine ⟨fun hlo hhi => ?_, fun ho => ?_, ?_, ?_⟩
  · show execJ x s = _ ∧ execJal x s = _
    rw [execJ, execJal, State.target_of_inPcc ⟨hlo, hhi⟩]
    exact ⟨rfl, rfl⟩
  · have hout : ¬s.inPcc (s.targetOf x) := by rwa [not_and_or, not_le, not_le]
    show execJ x s = _ ∧ execJal x s = _
    rw [execJ, execJal, State.target_of_not_inPcc hout]
    exact ⟨rfl, rfl⟩
  · intro ht c hx hlo hhi hal
    show execJr a s = _ ∧ execJalr d a s = _
    rw [execJr, execJalr, jumpCheck_ok ht hx hlo hhi hal]
    exact ⟨rfl, rfl⟩
  · intro y hy g c e traps
    have trap : ∀ {q v : Nat}, JumpTraps g q v → traps q v := fun h => exec_jr_trap d h y hy
    exact ⟨fun h => trap (.inl ⟨h, rfl, rfl⟩), fun h => trap (.inr (.inl ⟨h, rfl, rfl⟩)), fun h =>
      ⟨fun hx => trap (.inr (.inr ⟨h, rfl, .inl ⟨hx, rfl⟩⟩)), fun hx =>
        ⟨fun ho => trap (.inr (.inr ⟨h, rfl, .inr ⟨hx, .inl ⟨ho, rfl⟩⟩⟩)), fun hlo hhi hal =>
          trap (.inr (.inr ⟨h, rfl, .inr ⟨hx, .inr ⟨hlo, hhi, hal, rfl⟩⟩⟩))⟩⟩⟩

end Sys2Proof.Machine
end

section
/-! SUPPORT. Capability instructions (R79, R83, R84), and what an instruction that puts one general register leaves alone (R71, R72,
R139). -/

namespace Sys2Proof.Machine

/-! ## Derivations (R84) -/

section
variable {s : State} {d a b : Nat}

theorem State.derive1_cap {f : Payload → Out Payload} {c : Payload} (ht : (s.getG a).tag = .cap) (hf : f (s.getG a).val = .ok c) :
    s.derive1 d a f = .ok (s.setG d ⟨.cap, c⟩) := by
  simp only [State.derive1, ht, hf, Out.bind]

theorem State.derive1_cap_trap {f : Payload → Out Payload} {t : Trap} (ht : (s.getG a).tag = .cap) (hf : f (s.getG a).val = .trap t) :
    s.derive1 d a f = .trap t := by
  simp only [State.derive1, ht, hf, Out.bind]

theorem State.derive1_data {f : Payload → Out Payload} (ht : (s.getG a).tag = .data) :
    s.derive1 d a f = .trap ⟨2, (s.getG a).val.toNat % 2 ^ 64, 0⟩ := by
  simp only [State.derive1, ht]

theorem State.derive1_poison {f : Payload → Out Payload} (ha : ¬s.clean a) : s.derive1 d a f = .ok (s.setG d (s.getG a)) := by
  simp only [State.derive1, not_not.1 ha]

/-- A derivation of two operands that are not POISON is one of the first with the second's value. -/
theorem State.derive2_clean {f : Payload → Word → Out Payload} (ha : s.clean a) (hb : s.clean b) :
    s.derive2 d a b f = s.derive1 d a fun c => f c (s.ival b) := by
  rw [State.derive2, if_neg ha, if_neg hb]

theorem State.derive2_poison_left {f : Payload → Word → Out Payload} (ha : ¬s.clean a) : s.derive2 d a b f = .ok (s.setG d (s.getG a)) :=
  if_pos (not_not.1 ha)

theorem State.derive2_poison_right {f : Payload → Word → Out Payload} (ha : s.clean a) (hb : ¬s.clean b) :
    s.derive2 d a b f = .ok (s.setG d (s.getG b)) := by
  rw [State.derive2, if_neg ha, if_pos (not_not.1 hb)]

theorem State.clean_of_cap (ht : (s.getG a).tag = .cap) : s.clean a := by rw [State.clean, ht]; decide
theorem State.clean_of_data (ht : (s.getG a).tag = .data) : s.clean a := by rw [State.clean, ht]; decide

/-- What a derivation can answer: a register put, or a trap. -/
theorem State.derive1_cases (f : Payload → Out Payload) (hf : ∀ c, f c ≠ .wait) :
    (∃ v, s.derive1 d a f = .ok (s.setG d v)) ∨ ∃ t, s.derive1 d a f = .trap t := by
  cases ht : (s.getG a).tag with
  | poison => exact .inl ⟨_, State.derive1_poison (not_not.2 ht)⟩
  | data => exact .inr ⟨_, State.derive1_data ht⟩
  | cap =>
    cases hc : f (s.getG a).val with
    | ok c => exact .inl ⟨_, State.derive1_cap ht hc⟩
    | trap t => exact .inr ⟨t, State.derive1_cap_trap ht hc⟩
    | wait => exact absurd hc (hf _)

end

/-- The instruction is a derivation from two registers (R84). -/
def IsDerive2 (x : Instr) (d a b : Nat) (f : Payload → Word → Out Payload) : Prop := ∀ s, exec x s = s.finish (s.derive2 d a b f)

section
variable {x : Instr} {d a b : Nat} {f : Payload → Word → Out Payload} {s : State} (hx : IsDerive2 x d a b f)
include hx

theorem IsDerive2.cap {c : Payload} (ht : (s.getG a).tag = .cap) (hb : s.clean b) (hf : f (s.getG a).val (s.ival b) = .ok c) :
    exec x s = .next (s.setG d ⟨.cap, c⟩).advance := by
  rw [hx s, State.derive2_clean (State.clean_of_cap ht) hb, State.derive1_cap ht hf]; rfl

theorem IsDerive2.cap_trap {t : Trap} (ht : (s.getG a).tag = .cap) (hb : s.clean b) (hf : f (s.getG a).val (s.ival b) = .trap t) :
    exec x s = .next (s.takeTrap t) := by
  rw [hx s, State.derive2_clean (State.clean_of_cap ht) hb, State.derive1_cap_trap ht hf]; rfl

theorem IsDerive2.data (ht : (s.getG a).tag = .data) (hb : s.clean b) :
    exec x s = .next (s.takeTrap ⟨2, (s.getG a).val.toNat % 2 ^ 64, 0⟩) := by
  rw [hx s, State.derive2_clean (State.clean_of_data ht) hb, State.derive1_data ht]; rfl

theorem IsDerive2.poison_left (ha : ¬s.clean a) : exec x s = .next (s.setG d (s.getG a)).advance := by
  rw [hx s, State.derive2_poison_left ha]; rfl

theorem IsDerive2.poison_right (ha : s.clean a) (hb : ¬s.clean b) : exec x s = .next (s.setG d (s.getG b)).advance := by
  rw [hx s, State.derive2_poison_right ha hb]; rfl

end

theorem capBound_ne_wait (exact' : Bool) (c : Payload) (n : Word) : capBound exact' c n ≠ .wait := by
  simp only [capBound]; split <;> exact fun h => nomatch h

/-- The derivations of two registers (R84). -/
theorem isDerive2_of_mem {d a b : Nat} : ∀ x ∈ [Instr.cinc d a b, .cseta d a b, .cperm d a b, .cbnd d a b, .cbndx d a b],
    ∃ f, IsDerive2 x d a b f ∧ ∀ c y, f c y ≠ .wait := by
  simp only [List.forall_mem_cons, List.not_mem_nil, false_imp_iff, implies_true, and_true]
  refine ⟨⟨_, fun _ => rfl, fun _ _ h => nomatch h⟩, ⟨_, fun _ => rfl, fun _ _ h => nomatch h⟩, ⟨_, fun _ => rfl, fun _ _ h => nomatch h⟩,
    ⟨_, fun _ => rfl, fun c y => capBound_ne_wait false c y⟩, ⟨_, fun _ => rfl, fun c y => capBound_ne_wait true c y⟩⟩

/-- The length that CBND gives: n rounded up to one that has a form (R76). -/
def boundLen (n : Word) : Nat := (reprLen n.toNat).1 * 2 ^ (reprLen n.toNat).2

theorem capBound_ok {e : Bool} {c : Payload} {n : Word} (hlo : capBase c ≤ capAddr c) (hhi : capAddr c + boundLen n ≤ capBase c + capLen c)
    (he : e = true → boundLen n = n.toNat) :
    capBound e c n = .ok (mkCap (capPerms c) (reprLen n.toNat).2 (reprLen n.toNat).1 (capAddr c) (capAddr c)) :=
  if_neg fun h => h.elim (Nat.not_lt.2 hlo) fun h => h.elim (Nat.not_lt.2 hhi) fun h => h.2 (he h.1)

theorem capBound_trap {e : Bool} {c : Payload} {n : Word}
    (h : capAddr c < capBase c ∨ capBase c + capLen c < capAddr c + boundLen n ∨ (e = true ∧ boundLen n ≠ n.toNat)) :
    capBound e c n = .trap ⟨3, capAddr c, 0⟩ := if_pos h

/-- Settles O16: the derivations by the bounds that CBND gives, and by the tag of their first operand. -/
theorem capabilityTraps : Obligations.CapabilityTraps := by
  unfold Obligations.CapabilityTraps
  intro s d a b i
  refine ⟨fun ht => ?_, fun ha => ?_, fun ha hb x hx => ?_, ?_⟩
  · show s.finish (s.derive1 d a _) = _
    rw [State.derive1_data ht]; rfl
  · have hi : exec (.cinci d a i) s = .next (s.setG d (s.getG a)).advance := by
      show s.finish (s.derive1 d a _) = _
      rw [State.derive1_poison ha]; rfl
    have h2 := fun x hx => (isDerive2_of_mem (d := d) (a := a) (b := b) x hx).elim fun _ hf => hf.1.poison_left ha
    simp only [List.forall_mem_cons] at h2 ⊢
    exact ⟨h2.1, hi, h2.2⟩
  · obtain ⟨f, hf, -⟩ := isDerive2_of_mem x hx
    exact hf.poison_right ha hb
  · intro hb c B len
    refine ⟨fun ht ho => ⟨?_, ?_⟩, fun ht hne => ?_, fun ht x hx => ?_⟩
    · exact IsDerive2.cap_trap (fun _ => rfl) ht hb (capBound_trap (ho.imp_right .inl))
    · exact IsDerive2.cap_trap (fun _ => rfl) ht hb (capBound_trap (ho.imp_right .inl))
    · exact IsDerive2.cap_trap (fun _ => rfl) ht hb (capBound_trap (.inr (.inr ⟨rfl, hne⟩)))
    · obtain ⟨f, hf, -⟩ := isDerive2_of_mem x hx
      exact hf.data ht hb

/-! ## Readers (R84) -/

/-- The instruction reads a field of a capability (R84). -/
def IsField (x : Instr) (d a : Nat) (f : Payload → Nat) : Prop := ∀ s, exec x s = s.finish (s.capField d a f)

section
variable {x : Instr} {d a : Nat} {f : Payload → Nat} {s : State} (hx : IsField x d a f)
include hx

theorem IsField.cap (ht : (s.getG a).tag = .cap) : exec x s = .next (s.setG d (word (BitVec.ofNat 64 (f (s.getG a).val)))).advance := by
  rw [hx s, State.capField, ht]; rfl

theorem IsField.data (ht : (s.getG a).tag = .data) : exec x s = .next (s.setG d (word 0)).advance := by
  rw [hx s, State.capField, ht]; rfl

theorem IsField.poison (ha : ¬s.clean a) : exec x s = .next (s.setG d (s.getG a)).advance := by
  rw [hx s, State.capField, not_not.1 ha]; rfl

end

theorem isField_of_mem {d a : Nat} : ∀ x ∈ [Instr.cgeta d a, .cgetb d a, .cgetl d a, .cgetp d a], ∃ f, IsField x d a f := by
  simp only [List.forall_mem_cons, List.not_mem_nil, false_imp_iff, implies_true, and_true]
  and_intros <;> exact ⟨_, fun _ => rfl⟩

theorem State.ival_of_cap {s : State} {a : Nat} (ht : (s.getG a).tag = .cap) : s.ival a = BitVec.ofNat 64 (capAddr (s.getG a).val) := by
  rw [State.ival, GReg.ival, ht]

theorem exec_ctag (s : State) (d a : Nat) : exec (.ctag d a) s = .next (s.setG d (word (BitVec.ofNat 64 (match (s.getG a).tag with
    | .data => 0
    | .cap => 1
    | .poison => 2)))).advance := by
  show execCtag d a s = _
  rw [execCtag, State.finish_ok, State.put]
  cases (s.getG a).tag <;> rfl

theorem exec_ctest (s : State) (d a b : Nat) : exec (.ctest d a b) s = .next (s.setG d (word (BitVec.ofNat 64
    (if (s.getG a).tag = .cap ∧ (s.getG b).tag = .cap ∧ capWithin (s.getG a).val (s.getG b).val = true then 1 else 0)))).advance := by
  show execCtest d a b s = _
  rw [execCtest, State.finish_ok, State.put]
  by_cases h : (s.getG a).tag = .cap ∧ (s.getG b).tag = .cap ∧ capWithin (s.getG a).val (s.getG b).val = true
  · rw [if_pos h, h.1, h.2.1, h.2.2]; rfl
  · have : ((s.getG a).tag == .cap && (s.getG b).tag == .cap && capWithin (s.getG a).val (s.getG b).val) = false := by
      rw [← Bool.not_eq_true]; simpa [and_assoc] using h
    rw [if_neg h, this]; rfl

theorem exec_cinci {s : State} {a : Nat} (d : Nat) (i : Int) (ht : (s.getG a).tag = .cap) : exec (.cinci d a i) s =
    .next (s.setG d ⟨.cap, capSetAddr (s.getG a).val (((capAddr (s.getG a).val : Int) + i) % 2 ^ 52).toNat⟩).advance := by
  show execCinci d a i s = _
  rw [execCinci, State.derive1_cap (f := fun c => .ok (capSetAddr c (mod52 (capAddr c + i)))) ht rfl]; rfl

theorem isInt2_csub (d a b : Nat) : IsInt2 (.csub d a b) d a b fun x y => wordOf (sext (mod52 ((x.toNat : Int) - y.toNat)) 52) :=
  fun _ => rfl

/-- Settles O15: the derivations and the readers by the tags of their operands. -/
theorem capabilityResults : Obligations.CapabilityResults := by
  unfold Obligations.CapabilityResults
  intro s d a b i g c B cap done
  refine ⟨fun ht => ⟨State.ival_of_cap ht, fun hb => ⟨?_, ?_, ?_⟩, ?_, fun hb hlo hhi => ⟨?_, fun he => ?_⟩, ?_, ?_, ?_, ?_⟩, fun x hx => ?_,
    exec_ctag s d a, exec_ctest s d a b, rfl, (isInt2_csub d a b).clean, (isInt2_csub d a b).poison_left, (isInt2_csub d a b).poison_right, rfl⟩
  · exact IsDerive2.cap (fun _ => rfl) ht hb rfl
  · exact IsDerive2.cap (fun _ => rfl) ht hb rfl
  · exact IsDerive2.cap (fun _ => rfl) ht hb rfl
  · exact exec_cinci d i ht
  · exact IsDerive2.cap (fun _ => rfl) ht hb (capBound_ok hlo hhi nofun)
  · exact IsDerive2.cap (fun _ => rfl) ht hb (capBound_ok hlo hhi fun _ => he)
  · exact IsField.cap (fun _ => rfl) ht
  · exact IsField.cap (fun _ => rfl) ht
  · exact IsField.cap (fun _ => rfl) ht
  · exact IsField.cap (fun _ => rfl) ht
  · obtain ⟨f, hf⟩ := isField_of_mem x hx
    exact ⟨hf.data, hf.poison⟩

/-! ## A write of a general register, bank by bank (R71, R72, R139) -/

section
variable (s : State) (d : Nat) (v : GReg)

/-- At runtime level codes 56 to 59 name the runtime's own registers. -/
theorem State.setG_runtime (hl : s.cpu.level = .runtime) (h1 : 56 ≤ d) (h2 : d ≤ 59) :
    s.setG d v = s.updCore s.cpu.core fun c => { c with rt := vset c.rt (d - 56) v } := by
  rw [State.setG, if_neg (by omega), if_pos ⟨hl, h1, h2⟩]

/-- In handler state codes 48 to 55 name the handler's bank. -/
theorem State.setG_handler (hl : s.cpu.handler = true) (h1 : 48 ≤ d) (h2 : d ≤ 55) :
    s.setG d v = s.modRegs fun r => { r with gh := vset r.gh (d - 48) v } := by
  rw [State.setG, if_neg (by omega), if_neg (by omega), if_pos ⟨hl, h1, h2⟩]

/-- Any other code names a register of the interrupted code. -/
theorem State.setG_other (h0 : d ≠ 0) (hr : ¬(s.cpu.level = .runtime ∧ 56 ≤ d ∧ d ≤ 59)) (hh : ¬(s.cpu.handler = true ∧ 48 ≤ d ∧ d ≤ 55)) :
    s.setG d v = s.modRegs fun r => { r with g := vset r.g d v } := by
  rw [State.setG, if_neg h0, if_neg hr, if_neg hh]

end

/-- Settles O9: each file by its read after a write, each bank by the write itself. -/
theorem registers : Obligations.Registers := by
  unfold Obligations.Registers
  intro s d n v x q
  refine ⟨s.getG_setG d n v, s.getV_setV d n x, s.getP_setP d n q, s.getG_zero, s.setG_zero v, s.getP_zero, s.setP_zero q, ?_, ?_⟩
  · intro hh _ h1 h2
    rw [s.setG_handler d v hh h1 h2]; rfl
  · intro hl h1 h2
    rw [s.setG_runtime d v hl h1 h2, State.updCore_cpu]

/-- What a write of g[d] names: nothing for g0. -/
def written (d : Nat) : List Nat := if d = 0 then [] else [d]

theorem mem_written {d : Nat} (h0 : d ≠ 0) : d ∈ written d := by rw [written, if_neg h0]; exact List.mem_singleton_self d

theorem State.vget_setG_g (s : State) {d n : Nat} (v : GReg) (h : n ∉ written d) :
    vget GReg.zero (s.setG d v).cpu.regs.g n = vget GReg.zero s.cpu.regs.g n := by
  unfold State.setG
  split
  · rfl
  · next h0 =>
    have hn : n ≠ d := by rintro rfl; exact h (mem_written h0)
    split
    · rw [State.updCore_cpu]
    · split
      · rfl
      · exact (vget_vset ..).trans (if_neg fun h => hn h.1)

theorem State.vget_setG_gh (s : State) {d n : Nat} (v : GReg) (h : n + 48 ∉ written d) :
    vget GReg.zero (s.setG d v).cpu.regs.gh n = vget GReg.zero s.cpu.regs.gh n := by
  unfold State.setG
  split
  · rfl
  · next h0 =>
    have hn : n + 48 ≠ d := by rintro rfl; exact h (mem_written h0)
    split
    · rw [State.updCore_cpu]
    · split
      · next hd => exact (vget_vset ..).trans (if_neg (by omega))
      · rfl

theorem State.core_setG (s : State) (d : Nat) (v : GReg) (c : Nat) : { (s.setG d v).core c with rt := (s.core c).rt } = s.core c := by
  unfold State.setG
  split
  · rfl
  · split
    · rw [State.core_updCore]
      split
      · next h => rw [h]
      · rfl
    · split <;> rfl

theorem State.rt_setG (s : State) {d c k : Nat} (v : GReg) (h : c ≠ s.cpu.core ∨ s.cpu.level ≠ .runtime ∨ k + 56 ∉ written d) :
    vget GReg.zero ((s.setG d v).core c).rt k = vget GReg.zero (s.core c).rt k := by
  unfold State.setG
  split
  · rfl
  · next h0 =>
    split
    · next hd =>
      rw [State.core_updCore]
      split
      · next hc =>
        subst hc
        have hk : k + 56 ∉ written d := (h.resolve_left (not_not.2 rfl)).resolve_left (not_not.2 hd.1)
        have hkd : k + 56 ≠ d := by rintro rfl; exact hk (mem_written h0)
        exact (vget_vset ..).trans (if_neg (by omega))
      · rfl
    · split <;> rfl

/-- Nothing but the registers, the runtime's among them, differs after a write of a general register. -/
theorem State.setG_rest (s : State) (d : Nat) (v : GReg) :
    { s.setG d v with cpu := { (s.setG d v).cpu with regs := s.cpu.regs }, cores := s.cores } = s ∧
      (s.setG d v).cpu.regs.v = s.cpu.regs.v ∧ (s.setG d v).cpu.regs.p = s.cpu.regs.p ∧ (s.setG d v).cpu.regs.pend = s.cpu.regs.pend := by
  obtain h | ⟨f, h, -⟩ | ⟨f, h, hf⟩ := s.setG_cases d v
  · rw [h]; exact ⟨rfl, rfl, rfl, rfl⟩
  · rw [h]; exact ⟨rfl, rfl, rfl, rfl⟩
  · rw [h]
    refine ⟨rfl, ?_⟩
    rw [State.modRegs_cpu_regs, hf]
    exact ⟨rfl, rfl, rfl⟩

/-- An instruction that puts g[d] and retires leaves everything else alone. -/
theorem State.setG_advance_keeps (s : State) {d : Nat} (v : GReg) (hd : d < 64) :
    KeepsButRegs s (s.setG d v).advance (written d) ∧ Retires s (s.setG d v).advance := by
  obtain ⟨hmem, -, -, -, hpcc, hlev, -, -⟩ := s.setG_keeps d v
  obtain ⟨hrest, hv, hp, hpend⟩ := s.setG_rest d v
  have hcore : ∀ c, (s.setG d v).advance.core c = (s.setG d v).core c := fun c =>
    congrArg (fun m => aget CoreSt.reset m c) (State.advance_cores _)
  have hpc : (s.setG d v).pc4 = s.pc4 := by rw [State.pc4, State.pc_setG, State.pc4]
  refine ⟨⟨fun n _ h => ?_, fun n _ h => ?_, fun n _ h => ?_, ?_, ?_, ?_, fun c => ?_, fun c k _ h => ?_, ⟨s.pc4, ?_⟩, fun k => ?_, ?_⟩, ?_, ?_, ?_⟩
  · rw [State.getG_advance, s.getG_setG d n v hd, if_neg]
    rintro ⟨rfl, h0⟩
    exact h (mem_written h0)
  · rw [State.advance_cpu_regs, s.vget_setG_g v h]
  · rw [State.advance_cpu_regs, s.vget_setG_gh v h]
  · rw [State.advance_cpu_regs, hv]
  · rw [State.advance_cpu_regs, hp]
  · rw [State.advance_cpu_regs, hpend]
  · rw [hcore, s.core_setG]
  · rw [hcore, s.rt_setG v h]
  · rw [State.advance_cpu_pcc, hpcc, hpc]
  · rw [State.advance_mem, hmem]
  · exact (congrArg (fun u : State => { u with cpu := { u.cpu with pcc := s.cpu.pcc, stalled := s.cpu.stalled } }) hrest :)
  · rw [State.pc_advance, hpc]
  · rw [State.advance_cpu_stalled]
  · rw [State.advance_cpu_level, hlev]

/-! ## What integer and capability instructions leave alone -/

/-- The instruction always retires with one general register put. -/
def PutsG (x : Instr) (d : Nat) : Prop := ∀ s : State, ∃ v, exec x s = .next (s.setG d v).advance

theorem IsInt2.puts {x : Instr} {d a b : Nat} {f : Word → Word → Word} (hx : IsInt2 x d a b f) : PutsG x d := fun s => by
  by_cases ha : s.clean a
  · by_cases hb : s.clean b
    · exact ⟨_, hx.clean ha hb⟩
    · exact ⟨_, hx.poison_right ha hb⟩
  · exact ⟨_, hx.poison_left ha⟩

theorem IsInt1.puts {x : Instr} {d a : Nat} {f : Word → Word} (hx : IsInt1 x d a f) : PutsG x d := fun s => by
  by_cases ha : s.clean a
  · exact ⟨_, hx.clean ha⟩
  · exact ⟨_, hx.poison ha⟩

theorem IsField.puts {x : Instr} {d a : Nat} {f : Payload → Nat} (hx : IsField x d a f) : PutsG x d := fun s => by
  cases ht : (s.getG a).tag with
  | cap => exact ⟨_, hx.cap ht⟩
  | data => exact ⟨_, hx.data ht⟩
  | poison => exact ⟨_, hx.poison (not_not.2 ht)⟩

/-- LUI, CPC and the capability instructions that read always put gd (R82 to R84). -/
theorem putsG_readers {d a b : Nat} {i : Int} : ∀ x ∈ [Instr.lui d i, .ctag d a, .ctest d a b, .cclr d a, .csub d a b, .cgeta d a,
    .cgetb d a, .cgetl d a, .cgetp d a, .cpc d i], PutsG x d := by
  have fields := fun x hx => (isField_of_mem (d := d) (a := a) x hx).elim fun _ hf => hf.puts
  simp only [List.forall_mem_cons, List.not_mem_nil, false_imp_iff, implies_true, and_true] at fields ⊢
  exact ⟨fun _ => ⟨_, rfl⟩, fun s => ⟨_, exec_ctag s d a⟩, fun s => ⟨_, exec_ctest s d a b⟩, fun _ => ⟨_, rfl⟩, (isInt2_csub d a b).puts,
    fields.1, fields.2.1, fields.2.2.1, fields.2.2.2, fun _ => ⟨_, rfl⟩⟩

/-- A derivation puts gd and retires, or traps (R84). -/
theorem derivation_cases {d a b : Nat} {i : Int} (s : State) :
    ∀ x ∈ [Instr.cinc d a b, .cinci d a i, .cseta d a b, .cperm d a b, .cbnd d a b, .cbndx d a b],
      (∃ v, exec x s = .next (s.setG d v).advance) ∨ ∃ r, exec x s = .next (s.takeTrap r) := by
  have two : ∀ x ∈ [Instr.cinc d a b, .cseta d a b, .cperm d a b, .cbnd d a b, .cbndx d a b],
      (∃ v, exec x s = .next (s.setG d v).advance) ∨ ∃ r, exec x s = .next (s.takeTrap r) := by
    intro x hx
    obtain ⟨f, hf, hw⟩ := isDerive2_of_mem x hx
    by_cases ha : s.clean a
    · by_cases hb : s.clean b
      · rw [hf s, State.derive2_clean ha hb]
        obtain ⟨v, h⟩ | ⟨t, h⟩ := State.derive1_cases (s := s) (d := d) (a := a) _ fun c => hw c (s.ival b)
        · rw [h]; exact .inl ⟨v, rfl⟩
        · rw [h]; exact .inr ⟨t, rfl⟩
      · exact .inl ⟨_, hf.poison_right ha hb⟩
    · exact .inl ⟨_, hf.poison_left ha⟩
  have one : (∃ v, exec (.cinci d a i) s = .next (s.setG d v).advance) ∨ ∃ r, exec (.cinci d a i) s = .next (s.takeTrap r) := by
    show (∃ v, s.finish (s.derive1 d a _) = _) ∨ ∃ r, s.finish (s.derive1 d a _) = _
    obtain ⟨v, h⟩ | ⟨t, h⟩ := State.derive1_cases (s := s) (d := d) (a := a) (fun c => .ok (capSetAddr c (mod52 (capAddr c + i)))) nofun
    · rw [h]; exact .inl ⟨v, rfl⟩
    · rw [h]; exact .inr ⟨t, rfl⟩
  rw [List.forall_mem_cons] at two ⊢
  rw [List.forall_mem_cons]
  exact ⟨two.1, one, two.2⟩

/-- Settles O14: every one of these instructions puts gd and retires, or is a derivation that traps. -/
theorem registerFrame : Obligations.RegisterFrame := by
  unfold Obligations.RegisterFrame
  refine ⟨fun s t d a b n i x hd hx ht => ?_, fun s t d a b i x hd hx ht => ?_⟩
  · have puts : PutsG x d := by
      have hx : x ∈ twoSource d a b ++ (oneSource d a n i ++ [Instr.lui d i, .ctag d a, .ctest d a b, .cclr d a, .csub d a b, .cgeta d a,
        .cgetb d a, .cgetl d a, .cgetp d a, .cpc d i]) := hx
      rcases List.mem_append.1 hx with hx | hx
      · exact (isInt2_of_mem x hx).elim fun _ hf => hf.puts
      · rcases List.mem_append.1 hx with hx | hx
        · exact (isInt1_of_mem x hx).elim fun _ hf => hf.puts
        · exact putsG_readers x hx
    obtain ⟨v, hv⟩ := puts s
    rw [hv] at ht
    cases ht
    exact s.setG_advance_keeps v hd
  · obtain ⟨v, hv⟩ | ⟨r, hr⟩ := derivation_cases s x hx
    · rw [hv] at ht
      cases ht
      exact .inl (s.setG_advance_keeps v hd)
    · rw [hr] at ht
      cases ht
      exact .inr ⟨r, rfl⟩

end Sys2Proof.Machine
end

section
/-! SUPPORT. A load of the core's own TCM while its tile hosts a guest in recovery (R395, R397). -/

namespace Sys2Proof.Machine

/-- Core 0 with g1 a capability over its TCM, on a tile in service whose physical tile is also that of tile 1, a guest that its
detection has fenced. -/
def fencedGuestSt : State :=
  let host := State.reset.freshTile 0
  { State.reset with
    cpu := { State.reset.cpu with regs := { Regs.reset with g := vset Regs.reset.g 1 ⟨.cap, capOver 63 0 0x20000 0x1000⟩ } }
    tiles := [(0, host), (1, { host with shared := true, st := .fence })] }

theorem fencedGuestSt_quiet : fencedGuestSt.quiet := by unfold State.quiet; decide

/-- The physical tile stands still for the guest, so that the home of the core's own TCM refuses the load (R395). -/
theorem fencedGuestSt_waits : exec (.ld 7 1 .d64 0) fencedGuestSt = .next fencedGuestSt.stall := rfl

/-- Refutes O20: its clause of the core's own TCM asks that the core's tile is in service, but that of a guest on the same physical
tile may be in recovery, and then the load waits. -/
theorem not_loadResults : ¬Obligations.LoadResults := by
  unfold Obligations.LoadResults
  rintro ⟨-, -, -, tcm, -⟩
  have h := tcm fencedGuestSt 7 1 .d64 0 fencedGuestSt_quiet (by unfold State.grants; decide) (by decide) (by decide)
  rw [fencedGuestSt_waits] at h
  injection h with h
  have stalled := congrArg (fun t => t.cpu.stalled) h
  rw [State.stall_cpu_stalled, State.advance_cpu_stalled] at stalled
  cases stalled

end Sys2Proof.Machine
end

section
/-! SUPPORT. What the errors that an access meets leave alone (R298, R371, R394), and what taking a trap does (R137): its fields, and
the end of the launch that it escalates to (R252, R270). -/

namespace Sys2Proof.Machine

/-! ## Errors met (R298, R371, R394) -/

/-- The state but for memory, the tiles, the fabric and the device: what an error met changes lies in those. -/
def State.frame (s : State) : Ctx × List Ctx × List (Nat × CoreSt) × List Msg × List (Nat × Launch) × Front :=
  (s.cpu, s.others, s.cores, s.net, s.launches, s.front)

section
variable {s t : State} (h : t.frame = s.frame)
include h

theorem State.cpu_of_frame : t.cpu = s.cpu := congrArg (·.1) h
theorem State.others_of_frame : t.others = s.others := congrArg (·.2.1) h
theorem State.cores_of_frame : t.cores = s.cores := congrArg (·.2.2.1) h
theorem State.net_of_frame : t.net = s.net := congrArg (·.2.2.2.1) h
theorem State.launches_of_frame : t.launches = s.launches := congrArg (·.2.2.2.2.1) h
theorem State.front_of_frame : t.front = s.front := congrArg (·.2.2.2.2.2) h
theorem State.core_of_frame (n : Nat) : t.core n = s.core n := congrArg (fun m => aget CoreSt.reset m n) (State.cores_of_frame h)
theorem State.takesTraps_of_frame (ht : s.takesTraps) : t.takesTraps := by
  rw [State.takesTraps, State.cpu_of_frame h]; exact ht

end

theorem State.fenceOne_frame (s : State) (p t : Nat) : (s.fenceOne p t).frame = s.frame := by
  unfold State.fenceOne
  simp only
  split
  case h_1 | h_2 | h_7 | h_8 | h_9 => rfl
  all_goals split <;> rfl

theorem State.detect_frame (s : State) (t : Nat) : (s.detect t).frame = s.frame :=
  foldl_keeps _ State.frame (fun s u => s.fenceOne_frame _ u) _ _

theorem State.uncorrectable_frame (s : State) (w : Nat) : (s.uncorrectable w).frame = s.frame := by
  unfold State.uncorrectable
  split
  · simp only
    split
    · rw [State.detect_frame]; rfl
    · rfl
  · rfl

theorem State.memRecord_frame (s : State) (c k b : Nat) : (s.memRecord c k b).frame = s.frame := by
  unfold State.memRecord; split <;> rfl

theorem State.meetRead_frame (s : State) (k n b : Nat) : (s.meetRead k n b).frame = s.frame := by
  unfold State.meetRead
  refine foldl_keeps _ State.frame (fun s w => ?_) _ _
  split
  · rw [State.uncorrectable_frame, State.memRecord_frame]; rfl
  · split
    · rw [State.memRecord_frame]; rfl
    · rfl

theorem State.meetWrite_frame (s : State) (k n b : Nat) : (s.meetWrite k n b).frame = s.frame := by
  unfold State.meetWrite
  refine foldl_keeps _ State.frame (fun s w => ?_) _ _
  split
  · rfl
  · split
    · rw [State.uncorrectable_frame, State.memRecord_frame]
    · split
      · rw [State.uncorrectable_frame, State.memRecord_frame]
      · split
        · rw [State.memRecord_frame]
        · rfl

theorem State.meetWalk_frame (s : State) (l : Option Nat) (va b : Nat) : (s.meetWalk l va b).frame = s.frame := by
  unfold State.meetWalk
  split
  · exact foldl_keeps _ State.frame (fun s k => s.meetRead_frame k 8 b) _ _
  · rfl

theorem State.meetWalk_keepsBytes (s : State) (l : Option Nat) (va b : Nat) : KeepsBytes s (s.meetWalk l va b) := by
  intro a
  unfold State.meetWalk
  split
  · exact foldl_keeps _ (fun s => s.mem.byte a) (fun s k => s.meetRead_byte k 8 b a) _ _
  · rfl

/-! ## Taking a trap (R137) -/

/-- The state from which a trap is taken: a walk that failed has met what its reads met (R298). -/
def State.trapFrom (s : State) (x : Trap) : State := if x.cause = 8 then s.meetWalk s.cpu.launch x.tval s.cpu.core else s

theorem State.takeTrap_eq (s : State) (x : Trap) :
    s.takeTrap x = (s.trapFrom x).takeTrapWord (BitVec.ofNat 64 x.cause) x.tval x.telem := rfl

theorem State.trapFrom_frame (s : State) (x : Trap) : (s.trapFrom x).frame = s.frame := by
  unfold State.trapFrom; split
  · exact s.meetWalk_frame _ _ _
  · rfl

theorem State.trapFrom_keepsBytes (s : State) (x : Trap) : KeepsBytes s (s.trapFrom x) := by
  unfold State.trapFrom; split
  · exact s.meetWalk_keepsBytes _ _ _
  · exact fun _ => rfl

theorem State.trapFrom_of_ne {s : State} {x : Trap} (h : x.cause ≠ 8) : s.trapFrom x = s := if_neg h

/-- A trap that does not escalate leaves every register, and every byte of memory. -/
theorem State.takeTrap_keeps {s : State} (x : Trap) (h : s.takesTraps) :
    (s.takeTrap x).cpu.regs = s.cpu.regs ∧ KeepsBytes s (s.takeTrap x) := by
  have hf := s.trapFrom_frame x
  obtain ⟨-, -, -, -, -, -, -, -, -, -, -, -, hregs, -, hmem, -⟩ :=
    (s.trapFrom x).takeTrapWord_fields (BitVec.ofNat 64 x.cause) x.tval x.telem (State.takesTraps_of_frame hf h)
  rw [State.takeTrap_eq]
  exact ⟨hregs.trans (by rw [State.cpu_of_frame hf]), fun a => by rw [hmem, s.trapFrom_keepsBytes x a]⟩

/-- What a trap finds of a gang is formed, and no pair waits (R102, R128). -/
theorem State.stopped_waits (s : State) (w : Word) :
    (∀ g, (s.stopped w).cpu.gang = some g → g.formed = true) ∧ (s.stopped w).cpu.pair.waiting = none := by
  have hw : ∀ u : State, (∀ g, u.abandon.cpu.gang = some g → g.formed = true) ∧ u.abandon.cpu.pair.waiting = none := by
    refine fun u => ⟨fun g hg => ?_, rfl⟩
    have hg : (match u.cpu.gang with
      | some g => if g.formed = true then some g else none
      | none => none) = some g := hg
    cases hu : u.cpu.gang with
    | none => rw [hu] at hg; cases hg
    | some g' =>
      rw [hu] at hg
      by_cases hf : g'.formed = true
      · simp only [if_pos hf, Option.some.injEq] at hg; exact hg ▸ hf
      · simp only [if_neg hf] at hg; cases hg
  unfold State.stopped
  simp only
  split <;> simp only [State.noteSwitch_cpu, State.loseLock_cpu] <;> exact hw s.dissolveGang

theorem State.takeTrapWord_waits (s : State) (w : Word) (tval telem : Nat) (h : s.takesTraps) :
    (∀ g, (s.takeTrapWord w tval telem).cpu.gang = some g → g.formed = true) ∧ (s.takeTrapWord w tval telem).cpu.pair.waiting = none := by
  rw [s.takeTrapWord_of w tval telem h]
  exact s.stopped_waits w

/-- The fields of the TSTAT that a trap writes (R138). -/
theorem tstat_of_trap (h ie : Bool) (l : Level) :
    let t : Word := BitVec.ofNat 64 ((if h then 16 else 0) + l.code * 4 + (if ie then 2 else 0))
    tstatIE t = false ∧ t.getLsbD 1 = ie ∧ bits t.toNat 3 2 = l.code ∧ t.getLsbD 4 = h := by
  cases h <;> cases ie <;> cases l <;> decide

theorem sealed_regpc (r : Word) : (r &&& 0x7FFFFFFFFFFFFFFF).getLsbD 63 = false := by
  rw [BitVec.getLsbD_and, show (0x7FFFFFFFFFFFFFFF : Word).getLsbD 63 = false by decide, Bool.and_false]

/-! ## Escalation (R137, R139) -/

/-- At firmware level, and at runtime level with IE = 0, taking a trap escalates. -/
def State.escalates (s : State) : Prop := s.cpu.level = .firmware ∨ (s.cpu.level = .runtime ∧ tstatIE s.cpu.csrs.tstat = false)

theorem State.takeTrapWord_escalates {s : State} (w : Word) (tval telem : Nat) (h : s.escalates) :
    s.takeTrapWord w tval telem = s.dissolveGang.abandon.escalate (w.toNat % 2 ^ 63) := by
  obtain ⟨g, p, hc⟩ := s.dissolveAbandon_cpu
  exact if_pos (by rw [hc]; exact h)

theorem State.takeTrap_escalates {s : State} (x : Trap) (h : s.escalates) :
    s.takeTrap x = (s.trapFrom x).dissolveGang.abandon.escalate (x.cause % 2 ^ 63) := by
  have hf := s.trapFrom_frame x
  rw [State.takeTrap_eq, State.takeTrapWord_escalates _ _ _ (by rw [State.escalates, State.cpu_of_frame hf]; exact h), BitVec.toNat_ofNat,
    Nat.mod_mod_of_dvd _ (Nat.pow_dvd_pow 2 (by decide : 63 ≤ 64))]

end Sys2Proof.Machine
end

section
/-! SUPPORT. A launch that ends (R252, R270): its record holds the status, whatever its end does beside. -/

namespace Sys2Proof.Machine

/-! ## What leaves every launch's record -/

@[simp] theorem State.meetWrite_launches (s : State) (k n b : Nat) : (s.meetWrite k n b).launches = s.launches :=
  State.launches_of_frame (s.meetWrite_frame k n b)

@[simp] theorem State.markDirty_launches (s : State) (k n : Nat) : (s.markDirty k n).launches = s.launches := by
  unfold State.markDirty
  split
  · rfl
  · split <;> simp

@[simp] theorem State.markRange_launches (s : State) (t k n : Nat) : (s.markRange t k n).launches = s.launches := State.updTile_launches ..

@[simp] theorem State.writeMem_launches (s : State) (k : Nat) (bs : List Byte) (t p : Bool) (b : Nat) :
    (s.writeMem k bs t p b).launches = s.launches := by
  simp [State.writeMem]

@[simp] theorem State.raise_launches (s : State) (port vec : Nat) : (s.raise port vec).launches = s.launches := by
  unfold State.raise
  split
  · simp
  · split
    · split <;> rfl
    · exact State.writeMem_launches ..

@[simp] theorem State.record_launches (s : State) (q : Nat) (body : List Byte) : (s.record q body).launches = s.launches := by
  unfold State.record
  simp only
  split <;> simp

@[simp] theorem State.frontRecord_launches (s : State) (q kind code pid b4 b8 b24 : Nat) :
    (s.frontRecord q kind code pid b4 b8 b24).launches = s.launches := State.record_launches ..

@[simp] theorem State.dispatch_launches (s : State) (core : Nat) : (s.dispatch core).launches = s.launches := by
  unfold State.dispatch
  split
  · rfl
  · split
    · rfl
    · next c _ =>
      have noted : ∀ n, (((s.dropOther c).updCore c.core fun x => { x with preReq := false, switched := true }).noteSwitch c.core 2 n).launches =
          s.launches := fun n => by rw [State.noteSwitch_launches, State.updCore_launches]; rfl
      simp only
      split
      · split <;> exact noted (c.launch.getD 0)
      · exact noted (c.launch.getD 0)

@[simp] theorem State.requestFor_launches (s : State) (core n : Nat) : (s.requestFor core n).launches = s.launches := by
  unfold State.requestFor
  split
  · split <;> simp
  · rfl

theorem State.createContext_launches (s : State) (l : Launch) (n core : Nat) : (s.createContext l n core).launches = s.launches := by
  unfold State.createContext State.zeroReservation
  simp only
  split <;> simp

theorem State.removeCtxs_launches (s : State) (n : Nat) : (s.removeCtxs n).launches = s.launches := by
  have stops : ∀ (u : State) (c : Ctx), (let v := (u.loseLock c.core).updCore c.core fun k => { k with rollReq := false }
      if (v.tile (c.core / 16)).st = .run then v.noteSwitch c.core 6 n else v).launches = u.launches := by
    intro u c
    simp only
    split <;> simp
  unfold State.removeCtxs
  simp only
  split <;> exact foldl_keeps _ State.launches stops _ _

/-! ## The record of an ended launch -/

/-- Launch n has ended with a code, and each number names one launch. -/
structure State.Ended (s : State) (n code : Nat) : Prop where
  record : ∃ l, s.launch? n = some l ∧ l.st = .ended code
  numbers : (s.launches.map (·.1)).Pairwise (· < ·)

theorem State.launch?_congr {s t : State} (h : t.launches = s.launches) (n : Nat) : t.launch? n = s.launch? n := by
  rw [State.launch?, h, State.launch?]

theorem State.Ended.congr {s t : State} {n code : Nat} (hs : s.Ended n code) (h : t.launches = s.launches) : t.Ended n code :=
  ⟨by rw [State.launch?_congr h]; exact hs.record, by rw [h]; exact hs.numbers⟩

theorem State.launch?_updLaunch (s : State) (n m : Nat) (f : Launch → Launch) :
    (s.updLaunch m f).launch? n = if n = m then (s.launch? m).map f else s.launch? n := by
  unfold State.updLaunch
  split
  · next l hl =>
    rw [State.launch?, afind_ains, hl]
    split <;> rfl
  · next hl =>
    split
    · next h => rw [h, hl]; rfl
    · rfl

theorem State.numbers_updLaunch {s : State} (m : Nat) (f : Launch → Launch) (h : (s.launches.map (·.1)).Pairwise (· < ·)) :
    ((s.updLaunch m f).launches.map (·.1)).Pairwise (· < ·) := by
  unfold State.updLaunch
  split
  · exact (rising_iff _).1 (rising_ains _ _ _ ((rising_iff _).2 h))
  · exact h

/-- A change of another launch, or one that leaves the status, leaves a launch ended. -/
theorem State.Ended.updLaunch {s : State} {n code m : Nat} (hs : s.Ended n code) (f : Launch → Launch) (hf : m = n → ∀ l, (f l).st = l.st) :
    (s.updLaunch m f).Ended n code := by
  refine ⟨?_, State.numbers_updLaunch m f hs.numbers⟩
  obtain ⟨l, hl, hst⟩ := hs.record
  rw [State.launch?_updLaunch]
  split
  · next h => subst h; exact ⟨f l, by rw [hl]; rfl, (hf rfl l).trans hst⟩
  · exact ⟨l, hl, hst⟩

theorem afind_of_mem {α : Type} {m : List (Nat × α)} {n : Nat} {x : α} (hm : (m.map (·.1)).Pairwise (· < ·)) (h : (n, x) ∈ m) :
    afind m n = some x := by
  induction m with
  | nil => cases h
  | cons e m ih =>
    obtain ⟨k, y⟩ := e
    rw [List.map_cons, List.pairwise_cons] at hm
    rcases List.mem_cons.1 h with h | h
    · cases h; exact if_pos rfl
    · have hk : k < n := hm.1 n (List.mem_map_of_mem h)
      exact (if_neg (by omega)).trans (ih hm.2 h)

/-- The contexts of another launch start. -/
theorem State.Ended.createContexts {s : State} {n code m : Nat} (hs : s.Ended n code) (hm : m ≠ n) : (s.createContexts m).Ended n code := by
  unfold State.createContexts
  split
  · exact hs
  · next l _ =>
    have started : ∀ f, (s.updLaunch m f).Ended n code := fun f => hs.updLaunch f fun h => absurd h hm
    refine State.Ended.congr (started _) (foldl_keeps _ State.launches (fun u t => ?_) _ _)
    split
    · exact State.updTile_launches ..
    · exact foldl_keeps _ State.launches (fun u core => u.createContext_launches l m core) _ _

/-- A launch that has ended is not held, so that it is not among the successors that start. -/
theorem State.Ended.startSuccessors {s : State} {n code : Nat} (hs : s.Ended n code) (m : Nat) : (s.startSuccessors m).Ended n code := by
  unfold State.startSuccessors
  have others : ∀ p ∈ s.launches.filter fun p => p.2.pkt.pred == some m && p.2.st == .held, p.1 ≠ n := by
    rintro ⟨k, x⟩ hp rfl
    obtain ⟨hmem, hheld⟩ := List.mem_filter.1 hp
    obtain ⟨l, hl, hst⟩ := hs.record
    have hx : l = x := Option.some.inj (hl.symm.trans (afind_of_mem hs.numbers hmem))
    rw [Bool.and_eq_true, beq_iff_eq (b := LaunchSt.held), ← hx, hst] at hheld
    exact absurd hheld.2 nofun
  generalize (s.launches.filter fun p => p.2.pkt.pred == some m && p.2.st == .held) = ps at others
  induction ps generalizing s with
  | nil => exact hs
  | cons p ps ih =>
    rw [List.forall_mem_cons] at others
    exact ih (hs.createContexts others.1) others.2

theorem State.Ended.freeLaunch {s : State} {n code : Nat} (hs : s.Ended n code) (m : Nat) (pins : List Nat) : (s.freeLaunch m pins).Ended n code := by
  unfold State.freeLaunch
  refine State.Ended.startSuccessors ?_ m
  exact hs.congr rfl

theorem State.Ended.finishEnd {s : State} {n code : Nat} (hs : s.Ended n code) (m : Nat) : (s.finishEnd m).Ended n code := by
  unfold State.finishEnd
  split
  · exact hs
  · next l _ =>
    split
    · exact hs
    · have closed : ∀ {u : State}, u.Ended n code → (u.updLaunch m fun l => { l with endRec := none }).Ended n code :=
        fun h => h.updLaunch _ fun _ _ => rfl
      simp only
      split
      · have freed := (hs.updLaunch (m := m) (fun l => { l with toFree := false }) fun _ _ => rfl).freeLaunch m l.pins
        split
        · exact freed
        · exact (closed freed).congr (State.frontRecord_launches ..)
      · split
        · exact hs
        · exact (closed hs).congr (State.frontRecord_launches ..)

/-- A live launch that ends has ended with the code given (R252). -/
theorem State.ended_endLaunch {s : State} {n : Nat} {l : Launch} (hl : s.launch? n = some l) (hlive : l.live = true)
    (hn : (s.launches.map (·.1)).Pairwise (· < ·)) (code b4 b24 : Nat) (b8 : Option Nat) : (s.endLaunch n code b4 b24 b8).Ended n code := by
  have hrest : ((s.removeCtxs n).flushTlb n).launches = s.launches := s.removeCtxs_launches n
  have marked : ∀ f : Launch → Launch, (∀ x, (f x).st = .ended code) → (((s.removeCtxs n).flushTlb n).updLaunch n f).Ended n code := by
    refine fun f hf => ⟨⟨f l, ?_, hf l⟩, State.numbers_updLaunch n f (by rw [hrest]; exact hn)⟩
    rw [State.launch?_updLaunch, if_pos rfl, State.launch?_congr hrest, hl]; rfl
  unfold State.endLaunch
  simp only [hl, hlive, Bool.not_true, Bool.false_eq_true, if_false]
  refine State.Ended.congr (State.Ended.finishEnd ?_ n) (foldl_keeps _ State.launches (fun u core => u.dispatch_launches core) _ _)
  split
  · exact marked _ fun _ => rfl
  · exact (marked _ fun _ => rfl).freeLaunch n l.pins

/-- Settles O28: a trap that does not escalate by its fields, one that does by the end of the launch. -/
theorem trapEntry : Obligations.TrapEntry := by
  unfold Obligations.TrapEntry
  intro s x
  have hf := s.trapFrom_frame x
  have hcpu := State.cpu_of_frame hf
  refine ⟨fun h => ?_, ?_⟩
  · have h' := State.takesTraps_of_frame hf h
    obtain ⟨hcause, htval, htelem, htpc, htstat, -, hregpc, hlev, hhan, hstall, -, hpcc, hregs, -, hmem, hnet, hlock, -⟩ :=
      (s.trapFrom x).takeTrapWord_fields (BitVec.ofNat 64 x.cause) x.tval x.telem h'
    obtain ⟨hgang, hpair⟩ := (s.trapFrom x).takeTrapWord_waits (BitVec.ofNat 64 x.cause) x.tval x.telem h'
    rw [← State.takeTrap_eq] at *
    rw [hcpu] at htstat hregpc hpcc hregs hlock
    obtain ⟨hie, hpie, hprev, hh⟩ := tstat_of_trap s.cpu.handler (tstatIE s.cpu.csrs.tstat) s.cpu.level
    rw [← htstat] at hie hpie hprev hh
    refine ⟨hcause, htval, htelem, ?_, hie, hpie, hprev, hh, hlev, hhan, hstall, hpcc, ?_, hlock, hregs, (State.takeTrap_keeps x h).2,
      hnet.trans (State.net_of_frame hf), hgang, hpair, fun h8 => ?_⟩
    · rw [htpc, State.pc, hcpu, State.pc]
    · rw [hregpc]; exact sealed_regpc _
    · rw [hmem, State.trapFrom_of_ne h8]
  · intro h u
    obtain ⟨g, p, hc⟩ := (s.trapFrom x).dissolveAbandon_cpu
    obtain ⟨hm, -, -, hl, -⟩ := (s.trapFrom x).dissolveAbandon_rest
    rw [hcpu] at hc
    have hu : u = (s.trapFrom x).dissolveGang.abandon := rfl
    have hlaunch : u.cpu.launch = s.cpu.launch := by rw [hu, hc]
    have hcore : u.cpu.core = s.cpu.core := by rw [hu, hc]
    have escalated : ∀ n, s.cpu.launch = some n → s.takeTrap x = u.endLaunch n 3 s.cpu.core (x.cause % 2 ^ 63) := fun n hn => by
      rw [State.takeTrap_escalates x h, ← hu, State.escalate, hlaunch, hn, hcore]
    refine ⟨fun hn => ?_, escalated, fun n l hn hl' hlive hnum => ?_⟩
    · have : s.takeTrap x = u.modCpu fun c => { c with run := .ended, stalled := false } := by
        rw [State.takeTrap_escalates x h, ← hu, State.escalate, hlaunch, hn]
      rw [this]
      refine ⟨rfl, ?_, fun a => ?_⟩
      · rw [State.modCpu_cpu, hu, hc]
      · rw [State.modCpu_mem, hu, hm, s.trapFrom_keepsBytes x a]
    · have hul : u.launches = s.launches := hl.trans (State.launches_of_frame hf)
      rw [escalated n hn]
      exact (State.ended_endLaunch (by rw [State.launch?_congr hul]; exact hl') hlive (by rw [hul]; exact hnum) 3 _ _ none).record

end Sys2Proof.Machine
end

section
/-! SUPPORT. Scalar loads and stores (R77, R85 to R91, R108): the checks of an access, what a read and a write leave alone, and what each
instruction makes of them. -/

namespace Sys2Proof.Machine

/-! ## The checks of an access (R77, R280) -/

theorem capCheck_of_grants {s : State} {a ea n : Nat} {need : Perm} (h : s.grants a ea n need) : capCheck (s.getG a) ea n need = .ok () := by
  obtain ⟨ht, hp, hlo, hhi, hal⟩ := h
  have hb : (decide (ea < capBase (s.getG a).val) || decide (capBase (s.getG a).val + capLen (s.getG a).val < ea + n)) = false := by
    rw [decide_eq_false (Nat.not_lt.2 hlo), decide_eq_false (Nat.not_lt.2 hhi), Bool.or_false]
  simp only [capCheck, ht, hp, hb, hal, Bool.not_true, Bool.false_eq_true, if_false, ne_eq, not_true_eq_false]

theorem capCheck_of_accessTraps {s : State} {a ea n : Nat} {need : Perm} {t : Trap} (h : s.accessTraps a ea n need t) :
    capCheck (s.getG a) ea n need = .trap t := by
  rcases h with ⟨ht, rfl⟩ | ⟨ht, rfl⟩ | ⟨ht, hp, rfl⟩ | ⟨ht, hp, ho, rfl⟩ | ⟨ht, hp, hlo, hhi, hal, rfl⟩
  · simp only [capCheck, ht]
  · simp only [capCheck, ht]
  · simp only [capCheck, ht, hp, Bool.not_false, if_true]
  · have hb : (decide (ea < capBase (s.getG a).val) || decide (capBase (s.getG a).val + capLen (s.getG a).val < ea + n)) = true := by
      rw [Bool.or_eq_true, decide_eq_true_eq, decide_eq_true_eq]; exact ho
    simp only [capCheck, ht, hp, hb, Bool.not_true, Bool.false_eq_true, if_false, if_true]
  · have hb : (decide (ea < capBase (s.getG a).val) || decide (capBase (s.getG a).val + capLen (s.getG a).val < ea + n)) = false := by
      rw [decide_eq_false (Nat.not_lt.2 hlo), decide_eq_false (Nat.not_lt.2 hhi), Bool.or_false]
    simp only [capCheck, ht, hp, hb, Bool.not_true, Bool.false_eq_true, if_false]
    exact if_pos hal

/-- The place that an address of the acting context leads to. -/
def State.placeOf (s : State) (ea : Nat) : Out Loc := s.locate s.cpu.core s.cpu.launch (s.dataTlb s.cpu.core) ea

theorem State.placeOf_tcm (s : State) {ea : Nat} (h : ea < 0x20000) : s.placeOf ea = .ok ⟨tcmKey s.cpu.core ea, 4, none⟩ := if_pos h

theorem State.placeOf_hole (s : State) {ea : Nat} (h : inHole ea) : s.placeOf ea = .trap ⟨4, ea, 0⟩ := by
  have h1 : ¬ea < 0x20000 := by rcases h with h | h <;> omega
  have h2 : ¬(0x10000000 ≤ ea ∧ ea < 0x10200000) := by rcases h with h | h <;> omega
  have h3 : ¬(0x080000000000 ≤ ea ∧ ea < 0x090000000000) := by rcases h with h | h <;> omega
  have h4 : inTranslated ea = false := decide_eq_false (by rcases h with h | h <;> omega)
  unfold State.placeOf State.locate remoteBase
  rw [if_neg h1, if_neg h2, if_neg h3, h4]; rfl

theorem State.placeOf_noPage {s : State} {ea : Nat} (h : s.findsNoPage ea) : s.placeOf ea = .trap ⟨8, ea, 0⟩ := by
  obtain ⟨hw, ht⟩ := h
  have h1 : ¬ea < 0x20000 := by omega
  have h2 : ¬(0x10000000 ≤ ea ∧ ea < 0x10200000) := by omega
  have h3 : ¬(0x080000000000 ≤ ea ∧ ea < 0x090000000000) := by omega
  have h4 : inTranslated ea = true := decide_eq_true hw
  unfold State.placeOf State.locate remoteBase
  rw [if_neg h1, if_neg h2, if_neg h3, if_pos h4]
  cases hn : s.cpu.launch with
  | none => rfl
  | some n => simp only [ht n hn]

/-! ## What an access leaves alone -/

/-- From s to u neither the acting context nor a byte of memory has changed. -/
def State.Undisturbed (s u : State) : Prop := u.cpu = s.cpu ∧ KeepsBytes s u

theorem State.Undisturbed.refl (s : State) : s.Undisturbed s := ⟨rfl, fun _ => rfl⟩

theorem State.Undisturbed.trans {s u v : State} (h : s.Undisturbed u) (h' : u.Undisturbed v) : s.Undisturbed v :=
  ⟨h'.1.trans h.1, fun a => (h'.2 a).trans (h.2 a)⟩

theorem State.Undisturbed.of_mem {s u : State} (hc : u.cpu = s.cpu) (hm : u.mem = s.mem) : s.Undisturbed u := ⟨hc, fun a => by rw [hm]⟩

theorem State.Undisturbed.takesTraps {s u : State} (h : s.Undisturbed u) (ht : s.takesTraps) : u.takesTraps := by
  rw [State.takesTraps, h.1]; exact ht

theorem State.meetRead_undisturbed (s : State) (k n b : Nat) : s.Undisturbed (s.meetRead k n b) :=
  ⟨State.cpu_of_frame (s.meetRead_frame k n b), s.meetRead_byte k n b⟩

theorem State.meetWalk_undisturbed (s : State) (l : Option Nat) (va b : Nat) : s.Undisturbed (s.meetWalk l va b) :=
  ⟨State.cpu_of_frame (s.meetWalk_frame l va b), s.meetWalk_keepsBytes l va b⟩

theorem State.updLaunch_undisturbed (s : State) (n : Nat) (f : Launch → Launch) : s.Undisturbed (s.updLaunch n f) := by
  unfold State.updLaunch
  split <;> exact .of_mem rfl rfl

/-- The TLB entry that an access used is kept, with what its walk met (R294, R298). -/
theorem State.noteAccess_undisturbed (s : State) (core : Nat) (launch : Option Nat) (loc : Loc) (ea : Nat) (engine : Bool) :
    s.Undisturbed (s.noteAccess core launch loc ea engine) := by
  have walked : ∀ c : Bool, s.Undisturbed (if c = true then s else s.meetWalk launch ea core) := by
    intro c
    split
    · exact .refl s
    · exact s.meetWalk_undisturbed _ _ _
  have filled : ∀ (u : State) (e : TlbEntry), u.Undisturbed ((if engine = true then u
      else u.updCore core fun c => { c with dtlb := tlbFill 32 c.dtlb e }).updTile (core / 16) fun t => { t with tlb := tlbFill 1024 t.tlb e }) := by
    intro u e
    split <;> exact .of_mem (by simp) (by simp)
  unfold State.noteAccess
  cases loc.tlb with
  | none =>
    simp only
    split
    · split
      · exact s.updLaunch_undisturbed _ _
      · exact .refl s
    · exact .refl s
  | some e =>
    simp only
    split
    · split
      · exact ((walked _).trans (filled _ e)).trans (State.updLaunch_undisturbed _ _ _)
      · exact (walked _).trans (filled _ e)
    · exact (walked _).trans (filled _ e)

/-- An access that uses no translation, of tile memory, leaves nothing behind. -/
theorem State.noteAccess_tile (s : State) (core : Nat) (launch : Option Nat) (k ea : Nat) : s.noteAccess core launch ⟨k, 4, none⟩ ea = s := by
  unfold State.noteAccess
  cases launch <;> rfl

theorem State.noteValue_undisturbed (s : State) (core agent : Nat) (loc : Loc) (ea : Nat) (bs : List Byte) :
    s.Undisturbed (s.noteValue core agent loc ea bs) := by
  unfold State.noteValue
  split
  · exact .of_mem (State.noteDet_cpu ..) (State.noteDet_mem ..)
  · exact .refl s

/-- A read changes neither the acting context nor a byte of memory (R86, R298). -/
theorem State.readAt_undisturbed {s t : State} {loc : Loc} {ea n : Nat} {f : Found} (h : s.readAt loc ea n = .ok (t, f)) : s.Undisturbed t := by
  unfold State.readAt at h
  simp only at h
  have met := s.meetRead_undisturbed loc.key n s.cpu.core
  split at h
  · cases h
  · split at h
    · cases h
      exact (s.noteAccess_undisturbed _ _ _ _ _).trans (State.noteValue_undisturbed ..)
    · split at h
      · cases h
      · split at h <;>
        · cases h
          exact (met.trans (State.noteAccess_undisturbed ..)).trans (State.noteValue_undisturbed ..)

theorem Out.bind_eq_ok {α β : Type} {o : Out α} {f : α → Out β} {y : β} (h : o.bind f = .ok y) : ∃ x, o = .ok x ∧ f x = .ok y := by
  cases o with
  | ok x => exact ⟨x, rfl, h⟩
  | trap t => cases h
  | wait => cases h

theorem State.loadRead_undisturbed {s t : State} {a ea n k : Nat} {f : Found} (h : s.loadRead a ea n = .ok (k, t, f)) : s.Undisturbed t := by
  obtain ⟨loc, -, h⟩ := Out.bind_eq_ok h
  obtain ⟨r, hr, h⟩ := Out.bind_eq_ok h
  cases h
  exact State.readAt_undisturbed hr

theorem State.updCore_undisturbed (s : State) (n : Nat) (f : CoreSt → CoreSt) : s.Undisturbed (s.updCore n f) :=
  .of_mem (State.updCore_cpu ..) (State.updCore_mem ..)

theorem State.unitEvent_undisturbed (s : State) (u : Nat) : s.Undisturbed (s.unitEvent u).2 := .of_mem rfl rfl

theorem State.detect_undisturbed (s : State) (t : Nat) : s.Undisturbed (s.detect t) :=
  .of_mem (State.cpu_of_frame (s.detect_frame t)) (s.detect_mem t)

/-- What a word that the mesh delivered bad leaves (R358, R371). -/
theorem State.meshPoison_undisturbed (s : State) : s.Undisturbed s.meshPoison.2 := by
  have lost : ∀ u : State, u.Undisturbed ({ u with fabric := { u.fabric with lost := nadd u.fabric.lost (u.tile (s.cpu.core / 16)).phys } } : State) :=
    fun u => .of_mem rfl rfl
  have event := (s.updCore_undisturbed s.cpu.core fun c => { c with meshBad := false }).trans
    (State.unitEvent_undisturbed _ (tileUnit ((s.updCore s.cpu.core fun c => { c with meshBad := false }).tile (s.cpu.core / 16)).phys 5))
  unfold State.meshPoison
  simp only [State.updCore_cpu]
  split
  · split
    · split
      · exact (event.trans (lost _)).trans (State.detect_undisturbed _ _)
      · exact event.trans (State.updCore_undisturbed ..)
    · exact s.updCore_undisturbed _ _
  · exact .refl s

end Sys2Proof.Machine
end

section
/-! SUPPORT. What a load leaves alone (R86, R87, R97, R298), and stores: what they write, their traps and their frame (R77, R86, R89,
R108). -/

namespace Sys2Proof.Machine

/-! ## Loads -/

/-- How a load that answers t ends, in a state u that its read has left: it waits, traps, or puts gd and retires. -/
def LoadEnds (u t : State) (d : Nat) : Prop := t = u.stall ∨ (∃ r, t = u.takeTrap r) ∨ ∃ v, t = (u.setG d v).advance

/-- LDA is LD of 64 bits without an offset: a load has been performed when it retires (R108). -/
theorem exec_lda_eq (s : State) (d a : Nat) (sc : Scope) : exec (.lda d a sc) s = exec (.ld d a .d64 0) s := rfl

/-- Every load ends in one of these ways, its read having changed neither the acting context nor a byte of memory. -/
theorem exec_load_ends {s t : State} {d a : Nat} {w : LWidth} {i : Int} {sc : Scope} {x : Instr}
    (hx : x ∈ [Instr.ld d a w i, .lds d a w i, .lda d a sc]) (ht : exec x s = .next t) : ∃ u, s.Undisturbed u ∧ LoadEnds u t d := by
  have hit : ∀ {ea n : Nat} {f : Found} {k : Nat} {u : State}, s.loadRead a ea n = .ok (k, u, f) → s.Undisturbed u :=
    fun h => State.loadRead_undisturbed h
  have poison : ∀ {u : State}, s.Undisturbed u → s.Undisturbed u.meshPoison.2 := fun h => h.trans (State.meshPoison_undisturbed _)
  simp only [List.mem_cons, List.not_mem_nil, or_false] at hx
  have ld_ends : ∀ (w : LWidth) (i : Int), exec (.ld d a w i) s = .next t → ∃ u, s.Undisturbed u ∧ LoadEnds u t d := by
    intro w i ht
    have ht : execLd d a w i s = .next t := ht
    unfold execLd at ht
    simp only at ht
    split at ht
    case h_1 => cases ht; exact ⟨s, .refl s, .inr (.inl ⟨_, rfl⟩)⟩
    case h_2 => cases ht; exact ⟨s, .refl s, .inl rfl⟩
    case h_3 h => cases ht; exact ⟨_, hit h, .inr (.inl ⟨_, rfl⟩)⟩
    case h_4 h => cases ht; exact ⟨_, hit h, .inr (.inl ⟨_, rfl⟩)⟩
    case h_5 h =>
      split at ht
      · split at ht <;> cases ht
        · exact ⟨_, poison (hit h), .inl rfl⟩
        · exact ⟨_, poison (hit h), .inr (.inl ⟨_, rfl⟩)⟩
      · cases ht; exact ⟨_, hit h, .inr (.inr ⟨_, rfl⟩)⟩
  rcases hx with rfl | rfl | rfl
  · exact ld_ends w i ht
  · have ht : execLds d a w i s = .next t := ht
    unfold execLds at ht
    simp only at ht
    split at ht
    case h_1 => cases ht; exact ⟨s, .refl s, .inr (.inl ⟨_, rfl⟩)⟩
    case h_2 => cases ht; exact ⟨s, .refl s, .inl rfl⟩
    case h_3 h => cases ht; exact ⟨_, hit h, .inr (.inr ⟨_, rfl⟩)⟩
    case h_4 h => cases ht; exact ⟨_, hit h, .inr (.inr ⟨_, rfl⟩)⟩
    case h_5 h =>
      split at ht <;> cases ht
      · exact ⟨_, (hit h).trans (State.updCore_undisturbed ..), .inr (.inr ⟨_, rfl⟩)⟩
      · exact ⟨_, hit h, .inr (.inr ⟨_, rfl⟩)⟩
  · exact ld_ends .d64 0 ((exec_lda_eq s d a sc).symm.trans ht)

/-- Settles O23: by the three ways in which a load ends. -/
theorem loadFrame : Obligations.LoadFrame := by
  unfold Obligations.LoadFrame
  intro s t d a w i sc x hd htraps hx ht
  obtain ⟨u, hu, hend⟩ := exec_load_ends hx ht
  have same : ∀ {r : Regs}, r = u.cpu.regs → r = s.cpu.regs := fun h => h.trans (by rw [hu.1])
  rcases hend with rfl | ⟨r, rfl⟩ | ⟨v, rfl⟩
  · have hr := same (r := u.stall.cpu.regs) rfl
    exact ⟨hu.2, by rw [hr], by rw [hr], fun n _ => by rw [hr], fun n _ => by rw [hr]⟩
  · obtain ⟨hregs, hbytes⟩ := State.takeTrap_keeps r (hu.takesTraps htraps)
    have hr := same hregs
    exact ⟨fun k => (hbytes k).trans (hu.2 k), by rw [hr], by rw [hr], fun n _ => by rw [hr], fun n _ => by rw [hr]⟩
  · have notIn : ∀ {n : Nat}, n ≠ d → n ∉ written d := fun h hn => by
      unfold written at hn
      split at hn
      · cases hn
      · exact h (List.mem_singleton.1 hn)
    obtain ⟨hmem, -, -, -, -, -, hv, hp⟩ := u.setG_keeps d v
    refine ⟨fun k => ?_, ?_, ?_, fun n hn => ?_, fun n hn => ?_⟩
    · rw [State.advance_mem, hmem, hu.2 k]
    · rw [State.advance_cpu_regs, hv, hu.1]
    · rw [State.advance_cpu_regs, hp, hu.1]
    · rw [State.advance_cpu_regs, u.vget_setG_g v (notIn hn), hu.1]
    · rw [State.advance_cpu_regs, u.vget_setG_gh v (notIn hn), hu.1]

/-! ## The write of a store (R89) -/

theorem length_storeData (g : GReg) (n : Nat) : (storeData g n).1.length = n := by
  unfold storeData
  split
  · exact length_leBytes ..
  · split
    · next h => rw [h]; exact length_leBytes ..
    · exact length_leBytes ..
  · exact length_leBytes ..

theorem State.launchFlits_undisturbed (s : State) (m : Msg) : s.Undisturbed (s.launchFlits m) := by
  unfold State.launchFlits
  split
  · unfold State.sendFlits
    split
    · exact .of_mem (State.setLink_cpu ..) (State.setLink_mem ..)
    · exact .refl s
  · exact .refl s

/-- A message that SENT does not count changes neither its sender's context nor memory (R120, R385). -/
theorem State.post_undisturbed (s : State) (core : Nat) (launch : Option Nat) (kind : MsgKind) (engine : Option Eng) :
    s.Undisturbed (s.post core launch kind false engine) := by
  unfold State.post
  extract_lets src
  split
  · exact .refl s
  · next h _ =>
    extract_lets chan c seq numbered fabric copied counted stays m sent
    have hnumbered : s.Undisturbed numbered := by
      unfold numbered
      split
      · exact .of_mem (State.setChannel_cpu ..) (State.setChannel_mem ..)
      · exact .refl s
    have hcopied : s.Undisturbed copied := by
      unfold copied
      split
      · split
        · exact hnumbered.trans (.of_mem rfl rfl)
        · exact hnumbered
      · exact hnumbered
    have hcounted : counted = copied := by cases launch <;> rfl
    have hsent : s.Undisturbed sent := by
      have hcount : s.Undisturbed counted := by rw [hcounted]; exact hcopied
      exact hcount.trans (.of_mem rfl rfl)
    split
    · exact hsent.trans (State.launchFlits_undisturbed ..)
    · exact hsent

theorem State.writeMem_regs (s : State) (k : Nat) (bs : List Byte) (t p : Bool) (b : Nat) : (s.writeMem k bs t p b).cpu.regs = s.cpu.regs := by
  have dirty : ∀ (u : State) (n : Nat), (u.markDirty k n).cpu = u.cpu := by
    intro u n
    unfold State.markDirty
    split
    · rfl
    · split <;> simp
  unfold State.writeMem
  simp only [State.mapCtx_cpu, fireTriggers, dirty]
  rw [State.cpu_of_frame (s.meetWrite_frame k bs.length b)]

/-- A write of a store leaves the registers, and every byte of memory but those it stores to. -/
theorem State.writeAt_keeps {s t : State} {loc : Loc} {ea : Nat} {bs : List Byte} {tag mark : Bool} (h : s.writeAt loc ea bs tag mark = .ok t) :
    t.cpu.regs = s.cpu.regs ∧ KeepsBytesBut s t loc.key bs.length := by
  have noted := s.noteAccess_undisturbed s.cpu.core s.cpu.launch loc ea false
  generalize hu : s.noteAccess s.cpu.core s.cpu.launch loc ea = u at *
  unfold State.writeAt at h
  simp only [hu, Bool.not_false, Bool.and_true] at h
  split at h
  · cases h
    exact ⟨by rw [State.modCpu_cpu, noted.1], fun a _ => noted.2 a⟩
  · split at h
    · split at h
      · cases h
      · cases h
        refine ⟨?_, fun a ha => ?_⟩
        · rw [State.writeMem_regs, noted.1]
        · rw [State.writeMem_mem, byte_write_out _ _ _ _ _ _ ha, noted.2 a]
    · cases h
      have posted := u.post_undisturbed u.cpu.core u.cpu.launch (.store loc.key bs tag mark none) none
      exact ⟨by rw [posted.1, noted.1], fun a _ => (posted.2 a).trans (noted.2 a)⟩

/-- The write of a store that its checks let through goes to the place of its address, and to that alone. -/
theorem State.storeReg_keeps {s t : State} {g : GReg} {a ea n : Nat} (h : s.storeReg g a ea n = .ok t) :
    ∃ loc, s.placeOf ea = .ok loc ∧ t.cpu.regs = s.cpu.regs ∧ KeepsBytesBut s t loc.key n := by
  obtain ⟨-, -, h⟩ := Out.bind_eq_ok h
  split at h
  · cases h
  · obtain ⟨loc, hloc, h⟩ := Out.bind_eq_ok h
    obtain ⟨-, -, h⟩ := Out.bind_eq_ok h
    have h : s.writeAt loc ea (storeData g n).1 (storeData g n).2.1 (storeData g n).2.2 = .ok t := h
    obtain ⟨hregs, hbytes⟩ := State.writeAt_keeps h
    rw [length_storeData] at hbytes
    exact ⟨loc, hloc, hregs, hbytes⟩

/-! ## How a store ends -/

/-- What counts as performed at a scope is a matter of the requests on their way (R309). -/
theorem State.seenAt_net (s : State) (sc : Scope) : ∃ net, s.seenAt sc = { s with net := net } := by
  unfold State.seenAt
  split
  · exact ⟨s.net, rfl⟩
  · exact ⟨_, rfl⟩

theorem State.metWalk_undisturbed (s : State) (a ea n : Nat) (r : Trap) : s.Undisturbed (s.metWalk a ea n r) := by
  unfold State.metWalk State.walked
  split
  · exact .refl s
  · split
    · split
      · split
        · exact .refl s
        · exact s.meetWalk_undisturbed _ _ _
      · exact .refl s
    · exact .refl s
    · exact .refl s

theorem State.finishStore_traps (s : State) (g : GReg) (a ea n : Nat) (r : Trap) :
    ∃ k, s.Undisturbed k ∧ s.finishStore g a ea n (.trap r) = .next (k.takeTrap r) := by
  refine ⟨_, ?_, rfl⟩
  split
  · exact .refl s
  · exact s.metWalk_undisturbed a ea n r

/-- How a store ends whose checks and write run in a state u: it traps as they say, waits, or retires with the write done. -/
def StoreEnds (s u t : State) (g : GReg) (a ea n : Nat) : Prop :=
  (∃ r k, u.storeReg g a ea n = .trap r ∧ s.Undisturbed k ∧ t = k.takeTrap r) ∨
  ((∀ r, u.storeReg g a ea n ≠ .trap r) ∧ t = s.stall) ∨ ∃ w, u.storeReg g a ea n = .ok w ∧ t = w.advance

theorem exec_st_ends {s t : State} {v a : Nat} {w : SWidth} {i : Int} (ht : exec (.st v a w i) s = .next t) :
    StoreEnds s s t (s.getG v) a (s.ea a (i * w.bytes)) w.bytes := by
  have ht : s.finishStore (s.getG v) a (s.ea a (i * w.bytes)) w.bytes (s.storeReg (s.getG v) a (s.ea a (i * w.bytes)) w.bytes) = .next t := ht
  unfold StoreEnds
  cases hs : s.storeReg (s.getG v) a (s.ea a (i * w.bytes)) w.bytes with
  | trap r =>
    obtain ⟨k, hk, he⟩ := s.finishStore_traps (s.getG v) a (s.ea a (i * w.bytes)) w.bytes r
    rw [hs, he] at ht
    cases ht
    exact .inl ⟨r, k, rfl, hk, rfl⟩
  | wait => rw [hs] at ht; cases ht; exact .inr (.inl ⟨nofun, rfl⟩)
  | ok u => rw [hs] at ht; cases ht; exact .inr (.inr ⟨u, rfl, rfl⟩)

theorem exec_stl_ends {s t : State} {v a : Nat} {sc : Scope} (ht : exec (.stl v a sc) s = .next t) :
    StoreEnds s (s.seenAt sc) t (s.getG v) a (s.ea a 0) 8 := by
  have ht : execStl v a sc s = .next t := ht
  unfold StoreEnds
  unfold execStl at ht
  cases hs : (s.seenAt sc).storeReg (s.getG v) a (s.ea a 0) 8 with
  | trap r =>
    obtain ⟨k, hk, he⟩ := s.finishStore_traps (s.getG v) a (s.ea a 0) 8 r
    simp only [hs, he] at ht
    cases ht
    exact .inl ⟨r, k, rfl, hk, rfl⟩
  | wait =>
    simp only [hs, State.waitFor] at ht
    split at ht <;> cases ht <;> exact .inr (.inl ⟨nofun, rfl⟩)
  | ok u =>
    simp only [hs, State.waitFor] at ht
    split at ht <;> cases ht
    · exact .inr (.inl ⟨nofun, rfl⟩)
    · exact .inr (.inr ⟨u, rfl, rfl⟩)

/-- Settles O22: by the three ways in which a store ends; STL's requests that count as performed change no place and no byte. -/
theorem storeFrame : Obligations.StoreFrame := by
  unfold Obligations.StoreFrame
  intro s t u v a w i sc x n ea htraps hx ht
  have hends : StoreEnds s u t (s.getG v) a ea n ∧ ∃ net, u = { s with net := net } := by
    rcases hx with ⟨rfl, rfl, rfl, rfl⟩ | ⟨rfl, rfl, rfl, rfl⟩
    · exact ⟨exec_st_ends ht, _, rfl⟩
    · exact ⟨exec_stl_ends ht, s.seenAt_net sc⟩
  obtain ⟨hends, net, rfl⟩ := hends
  rcases hends with ⟨r, k, -, hk, rfl⟩ | ⟨-, rfl⟩ | ⟨u, hu, rfl⟩
  · obtain ⟨hregs, hbytes⟩ := State.takeTrap_keeps r (hk.takesTraps htraps)
    have hall : KeepsBytes s (k.takeTrap r) := fun b => (hbytes b).trans (hk.2 b)
    exact ⟨hregs.trans (by rw [hk.1]), fun _ => hall, fun _ _ => hall, fun _ _ b _ => hall b⟩
  · have hall : KeepsBytes s s.stall := fun _ => rfl
    exact ⟨rfl, fun _ => hall, fun _ _ => hall, fun _ _ b _ => hall b⟩
  · obtain ⟨loc, hloc, hregs, hbytes⟩ := State.storeReg_keeps hu
    have hloc : s.locate s.cpu.core s.cpu.launch (s.dataTlb s.cpu.core) ea = .ok loc := hloc
    refine ⟨by rw [State.advance_cpu_regs]; exact hregs, fun hno => absurd hloc (hno loc), fun r hr => ?_, fun l hl b hb => ?_⟩
    · rw [hu] at hr; cases hr
    · rw [hloc] at hl
      cases hl
      rw [State.advance_mem]
      exact hbytes b hb

end Sys2Proof.Machine
end

section
/-! SUPPORT. What a store writes, and where it traps (R77, R85, R89, R90, R108, R304). -/

namespace Sys2Proof.Machine

/-! ## The traps of a store, in their order (R89) -/

/-- The checks of a store trap, whatever requests are on their way, and no walk has met anything before. -/
def State.StoreTraps (s : State) (g : GReg) (a ea n : Nat) (r : Trap) : Prop :=
  (∀ net, ({ s with net := net } : State).storeReg g a ea n = .trap r) ∧
  (storeTagTraps (s.getG a).val g ea n = true ∨ s.check a ea n .w = .trap r)

theorem State.finishStore_of_traps {s : State} {g : GReg} {a ea n : Nat} {r : Trap} (h : s.StoreTraps g a ea n r) :
    s.finishStore g a ea n (.trap r) = .next (s.takeTrap r) := by
  have hmet : (if storeTagTraps (s.getG a).val g ea n = true then s else s.metWalk a ea n r) = s := by
    rcases h.2 with htag | hcheck
    · rw [if_pos htag]
    · unfold State.metWalk State.walked
      simp only [hcheck, ite_self]
  exact congrArg (fun u : State => (.next (u.takeTrap r) : Res)) hmet

theorem State.StoreTraps.exec_st {s : State} {v a : Nat} {w : SWidth} {i : Int} {r : Trap}
    (h : s.StoreTraps (s.getG v) a (s.ea a (i * w.bytes)) w.bytes r) : exec (.st v a w i) s = .next (s.takeTrap r) :=
  (congrArg (s.finishStore (s.getG v) a (s.ea a (i * w.bytes)) w.bytes) (h.1 s.net)).trans (State.finishStore_of_traps h)

theorem State.StoreTraps.exec_stl {s : State} {v a : Nat} {sc : Scope} {r : Trap} (h : s.StoreTraps (s.getG v) a (s.ea a 0) 8 r) :
    exec (.stl v a sc) s = .next (s.takeTrap r) := by
  obtain ⟨net, hnet⟩ := s.seenAt_net sc
  have hseen : (s.seenAt sc).storeReg (s.getG v) a (s.ea a 0) 8 = .trap r := by rw [hnet]; exact h.1 net
  show execStl v a sc s = _
  unfold execStl
  simp only [hseen]
  exact State.finishStore_of_traps h

/-- A store that R77's checks stop. -/
theorem State.storeTraps_of_accessTraps {s : State} {a ea n : Nat} {r : Trap} (g : GReg) (h : s.accessTraps a ea n .w r) :
    s.StoreTraps g a ea n r := by
  have hcheck := capCheck_of_accessTraps h
  exact ⟨fun net => congrArg (fun o : Out Unit => o.bind _) hcheck, .inr (congrArg (fun o : Out Unit => o.bind _) hcheck)⟩

theorem storeTagTraps_iff (c : Payload) (g : GReg) (ea n : Nat) : storeTagTraps c g ea n = true ↔
    n = 16 ∧ g.tag = .cap ∧ (capHas c .sc = false ∨ (capHas g.val .g = false ∧ 0x20000 ≤ ea)) := by
  simp [storeTagTraps, and_assoc]

theorem State.storeReg_of_grants {s : State} {g : GReg} {a ea n : Nat} (h : s.grants a ea n .w) : s.storeReg g a ea n =
    if storeTagTraps (s.getG a).val g ea n then .trap ⟨4, ea, 0⟩
    else (s.placeOf ea).bind fun loc => (classStore loc ea).bind fun _ =>
      s.writeAt loc ea (storeData g n).1 (storeData g n).2.1 (storeData g n).2.2 :=
  congrArg (fun o : Out Unit => o.bind _) (capCheck_of_grants h)

/-- A capability that the store may not let out. -/
theorem State.storeTraps_of_barred {s : State} {g : GReg} {a ea n : Nat} (h : s.grants a ea n .w)
    (hb : storeTagTraps (s.getG a).val g ea n = true) : s.StoreTraps g a ea n ⟨4, ea, 0⟩ :=
  ⟨fun net => (State.storeReg_of_grants (s := { s with net := net }) h).trans (if_pos hb), .inl hb⟩

/-- A store whose address leads to no place. -/
theorem State.storeTraps_of_placeOf {s : State} {g : GReg} {a ea n : Nat} {r : Trap} (h : s.grants a ea n .w)
    (hb : ¬storeTagTraps (s.getG a).val g ea n = true) (hp : s.placeOf ea = .trap r) : s.StoreTraps g a ea n r := by
  refine ⟨fun net => ?_, .inr ?_⟩
  · have hp' : ({ s with net := net } : State).placeOf ea = .trap r := hp
    rw [State.storeReg_of_grants (s := { s with net := net }) h, hp']
    exact if_neg hb
  · have hcheck : s.check a ea n .w = s.placeOf ea := congrArg (fun o : Out Unit => o.bind _) (capCheck_of_grants h)
    exact hcheck.trans hp

/-! ## A store into the core's own TCM -/

theorem State.isOwn_tcm (s : State) {ea : Nat} (hc : s.cpu.core < 2 ^ 20) (hea : ea < 0x20000) : s.isOwn (tcmKey s.cpu.core ea) = true := by
  unfold State.isOwn tcmKey
  rw [Bool.or_eq_true, decide_eq_true_eq]
  left
  omega

/-- The bytes, tag and mark of R89's table, by the register's tag and the width. -/
theorem storeData_eq (g : GReg) (w : SWidth) : storeData g w.bytes =
    (if g.tag = .cap ∧ w ≠ .q128 then leBytes w.bytes (capAddr g.val) else leBytes w.bytes g.val.toNat,
      decide (g.tag = .cap ∧ w = .q128), decide (g.tag = .poison)) := by
  have haddr : g.tag = .cap → g.ival.toNat = capAddr g.val := by
    intro h
    have := capAddr_lt g.val
    simp only [GReg.ival, h, BitVec.toNat_ofNat]
    omega
  have hwidth : w.bytes = 16 ↔ w = .q128 := by cases w <;> decide
  unfold storeData
  cases ht : g.tag with
  | data => simp
  | poison => simp
  | cap =>
    by_cases hw : w = .q128
    · simp [hw, SWidth.bytes]
    · simp [hw, hwidth, haddr ht]

/-- With nothing in flight, a write into the core's own TCM is performed at once (R90). -/
theorem State.writeAt_ownTcm {s : State} (h : s.quiet) {ea : Nat} (hea : ea < 0x20000) (bs : List Byte) (tag mark : Bool) :
    s.writeAt ⟨tcmKey s.cpu.core ea, 4, none⟩ ea bs tag mark = .ok (s.writeMem (tcmKey s.cpu.core ea) bs tag mark s.cpu.core) := by
  obtain ⟨hcore, hnet, -, -, hpaired, -, -, -⟩ := h
  have hheld : ∀ k n, s.writeHeld k n = false := by
    intro k n
    simp [State.writeHeld, State.overlapEarlier, State.nearEarlier, State.shaded, hnet]
  simp only [State.writeAt, State.noteAccess_tile, hpaired, Bool.false_eq_true, if_false, s.isOwn_tcm hcore hea, hheld, Bool.not_false,
    Bool.and_true, if_true]

/-- Settles O21: each trap by the check that fails first, and a store into the core's own TCM by R89's table. -/
theorem storeResults : Obligations.StoreResults := by
  unfold Obligations.StoreResults
  refine ⟨fun s t v a w i h => ?_, fun s t v a sc hout h => ?_, ?_, fun s v a w i sc x n ea hx => ?_⟩
  · exact congrArg (s.finishStore (s.getG v) a (s.ea a (i * w.bytes)) w.bytes) h
  · show execStl v a sc s = _
    unfold execStl
    simp only [h, hout, State.waitFor, Bool.false_eq_true, if_false]
    rfl
  · intro s v a w i hq
    extract_lets ea g bs
    intro hgrants hin hsc
    have hwidth : 0 < w.bytes := by cases w <;> decide
    have hea : ea < 0x20000 := by omega
    have hbarred : ¬storeTagTraps (s.getG a).val g ea w.bytes = true := by
      rw [storeTagTraps_iff]
      rintro ⟨hw, htag, hno | ⟨-, hout⟩⟩
      · have hw : w = .q128 := by cases w <;> simp [SWidth.bytes] at hw ⊢
        rw [hsc hw htag] at hno
        cases hno
      · omega
    have hstore : s.storeReg g a ea w.bytes = .ok (s.writeMem (tcmKey s.cpu.core ea) bs (decide (g.tag = .cap ∧ w = .q128))
        (decide (g.tag = .poison)) s.cpu.core) := by
      rw [State.storeReg_of_grants hgrants, if_neg hbarred, s.placeOf_tcm hea, storeData_eq]
      exact s.writeAt_ownTcm hq hea _ _ _
    exact congrArg (s.finishStore g a ea w.bytes) hstore
  · extract_lets g barred
    have traps : ∀ r, s.StoreTraps g a ea n r → exec x s = .next (s.takeTrap r) := by
      rcases hx with ⟨rfl, rfl, rfl⟩ | ⟨rfl, rfl, rfl⟩
      · exact fun r h => h.exec_st
      · exact fun r h => h.exec_stl
    have hbarred : storeTagTraps (s.getG a).val g ea n = true ↔ barred := storeTagTraps_iff _ _ _ _
    exact ⟨fun r h => traps r (State.storeTraps_of_accessTraps g h), fun h hb => traps _ (State.storeTraps_of_barred h (hbarred.2 hb)),
      fun h hb hole => traps _ (State.storeTraps_of_placeOf h (mt hbarred.1 hb) (s.placeOf_hole hole)),
      fun h hb page => traps _ (State.storeTraps_of_placeOf h (mt hbarred.1 hb) (State.placeOf_noPage page))⟩

end Sys2Proof.Machine
end

section
/-! SUPPORT. What a task starts with (R95, R116, R117). -/

namespace Sys2Proof.Machine

/-! ## The start of a task (R117) -/

/-- A fetch outside PCC's bounds (R95). -/
theorem State.fetchAt_outside {s : State} {a : Nat} (h : a < capBase s.cpu.pcc ∨ capBase s.cpu.pcc + capLen s.cpu.pcc < a + 4) :
    s.fetchAt a = (s, .trap ⟨3, a, 0⟩) := if_pos h

theorem State.appText_modTask (s : State) (f : Regs → Regs) (g : TaskSt → TaskSt) : ((s.modRegs f).modTask g).appText = s.appText :=
  State.appText_congr rfl rfl

theorem State.enter_pcc (s : State) (c : Payload) (a : Nat) : (s.enter c a).cpu.pcc = capSetAddr c (a % 2 ^ 52 / 4 * 4) := rfl

theorem State.startTask_pcc (s : State) (x : Task) : (s.startTask x).cpu.pcc = capSetAddr s.appText (x.entry % 2 ^ 52 / 4 * 4) := by
  unfold State.startTask
  cases x.body <;> simp only [State.enter_pcc, State.appText_modTask]

/-- The words of a task's descriptor that go to g2 and g3. -/
def Task.words (x : Task) : Word × Word :=
  match x.body with
  | .plain a b => (a, b)
  | .range _ _ _ => (0, 0)

theorem State.startTask_g (s : State) (x : Task) : (s.startTask x).cpu.regs.g =
    vset (vset (vset (vset (vset (vset s.cpu.regs.g 1 (word x.arg)) 2 (word x.words.1)) 3 (word x.words.2)) 4 GReg.zero) 5 GReg.zero) 6 GReg.zero := by
  unfold State.startTask Task.words
  cases x.body <;> rfl

/-- Settles O34. -/
theorem taskStart : Obligations.TaskStart := by
  unfold Obligations.TaskStart
  intro s x
  have hpc : (s.startTask x).pc = x.entry % 2 ^ 52 / 4 * 4 := by
    rw [State.pc, State.startTask_pcc, capAddr_setAddr]
    omega
  have hg := s.startTask_g x
  refine ⟨s.startTask_pcc x, ?_, fun a2 a3 hb => ⟨?_, ?_⟩, fun lo hi c hb => ⟨?_, ?_⟩, ?_, ?_, ?_, rfl, rfl, fun hout => ?_⟩
  case refine_9 =>
    rw [hpc, State.fetchAt_outside]
    rwa [State.startTask_pcc, capBase_setAddr, capLen_setAddr]
  all_goals simp only [hg, vget_vset]
  all_goals simp [Task.words, GReg.zero, *]

end Sys2Proof.Machine
end

section
/-! SUPPORT. The events of scheduling: a fetch, interrupts, the handler of user level, locks, waking and switching, budgets, deadlines,
reserves and the lull (R95, R110, R125, R137, R140, R225, R265 to R272, R356). -/

namespace Sys2Proof.Machine

/-! ## Fetching, interrupts and the handler of user level -/

/-- A check of a fetch that has found its word was passed. -/
theorem fetched_of_ite {p : Prop} [Decidable p] {x : State × Out Nat} {o : Out Nat} {u t : State} {w : Nat}
    (h : (if p then (u, o) else x) = (t, .ok w)) (ho : o ≠ .ok w) : x = (t, .ok w) := by
  split at h
  · exact absurd (congrArg Prod.snd h) ho
  · exact h

/-- What a fetch reads and keeps changes nothing of the acting context (R95, R298). -/
theorem State.fetchAt_cpu {s t : State} {a w : Nat} (h : s.fetchAt a = (t, .ok w)) : t.cpu = s.cpu := by
  have walked : ∀ (u : State) (c : Bool) (l : Option Nat) (n : Nat), (if c = true then u else u.meetWalk l a n).cpu = u.cpu := by
    intro u c l n
    split
    · rfl
    · exact (u.meetWalk_undisturbed l a n).1
  have h := fetched_of_ite (fetched_of_ite h nofun) nofun
  split at h
  · cases h
  · cases h
  · next loc _ =>
    have met := (s.meetRead_undisturbed loc.key 4 s.cpu.core).1
    have h := fetched_of_ite (fetched_of_ite (fetched_of_ite (fetched_of_ite h nofun) nofun) nofun) nofun
    have ht : _ = t := congrArg Prod.fst h
    rw [← ht]
    cases loc.tlb with
    | none => exact met
    | some e => simp only [State.updTile_cpu, State.updCore_cpu, walked, met]

theorem State.takesTraps_timerDue {s : State} (h1 : s.cpu.csrs.tcmp ≠ BitVec.allOnes 64) (h2 : s.cpu.csrs.tcmp.toNat ≤ s.dtime)
    (h : s.takesTraps) : s.timerDue = true := by
  have hset : (s.cpu.csrs.tcmp != BitVec.allOnes 64) = true := bne_iff_ne.2 h1
  unfold State.timerDue
  rcases h with h | ⟨h, hie⟩ <;> simp only [h, h2, hset, decide_true] <;> simp [*]

/-- A request that is taken is forgotten, and nothing else of the acting context or memory changes (R271). -/
theorem State.requestTaken_rest (s : State) :
    s.requestTaken.cpu = s.cpu ∧ s.requestTaken.mem = s.mem ∧ (s.requestTaken.core s.cpu.core).preReq = false := by
  unfold State.requestTaken
  simp only
  split
  · refine ⟨by simp, by simp, ?_⟩
    rw [State.core_updCore, if_neg (Nat.succ_ne_self _).symm, State.core_updCore, if_pos rfl]
  · refine ⟨by simp, by simp, ?_⟩
    rw [State.core_updCore, if_pos rfl]

theorem exec_timerInterrupt (s : State) (h1 : s.cpu.csrs.tcmp ≠ BitVec.allOnes 64) (h2 : s.cpu.csrs.tcmp.toNat ≤ s.dtime) (hlive : s.live = true)
    (htraps : s.takesTraps) (hfirst : s.beforeTimer = true) : exec .timerInterrupt s = .next (s.takeInterrupt 2) := by
  have hdue := State.takesTraps_timerDue h1 h2 htraps
  exact congrArg Host.Outcome.next (if_pos (by rw [hlive, hdue, hfirst]; rfl))

theorem State.takeInterrupt_fields (s : State) (n : Nat) (h : s.takesTraps) :
    (s.takeInterrupt n).cpu.csrs.tcause = BitVec.ofNat 64 (2 ^ 63 + n) ∧ (s.takeInterrupt n).cpu.csrs.tpc = BitVec.ofNat 64 s.pc ∧
    (s.takeInterrupt n).cpu.level = .runtime ∧ ((s.takeInterrupt n).core s.cpu.core).preReq = (s.core s.cpu.core).preReq ∧
    (s.takeInterrupt n).cpu.regs = s.cpu.regs ∧ (s.takeInterrupt n).mem = s.mem := by
  obtain ⟨hcause, -, -, hpc, -, -, -, hlevel, -, -, -, -, hregs, -, hmem, -, -, hreq⟩ :=
    s.takeTrapWord_fields (BitVec.ofNat 64 (2 ^ 63 + n)) 0 0 h
  exact ⟨hcause, hpc, hlevel, hreq, hregs, hmem⟩

/-- The state in which a handler of user level starts, but for its registers and its PC: the region sealed, no part of a gang or a pair
left waiting, and no place in the queue of a lock (R125, R128, R362). -/
def State.interrupted (s : State) : State :=
  (s.dissolveGang.seal.abandon.unqueueLock (s.cpu.core / 16) s.cpu.core).noteSwitch s.cpu.core 1 (s.cpu.launch.getD 0)

theorem State.unqueueLock_rest (s : State) (t n : Nat) : (s.unqueueLock t n).cpu = s.cpu ∧ (s.unqueueLock t n).mem = s.mem := by
  unfold State.unqueueLock
  split <;> simp

theorem State.interrupted_rest (s : State) : s.interrupted.cpu.regs = s.cpu.regs ∧ s.interrupted.cpu.inbox = s.cpu.inbox ∧
    s.interrupted.cpu.csrs.uivec = s.cpu.csrs.uivec ∧ s.interrupted.cpu.pcc = s.cpu.pcc ∧ s.interrupted.mem = s.mem := by
  obtain ⟨g, hg⟩ := s.dissolveGang_cpu
  obtain ⟨hm, -⟩ := s.dissolveGang_rest
  obtain ⟨hcpu, hmem⟩ := s.dissolveGang.seal.abandon.unqueueLock_rest (s.cpu.core / 16) s.cpu.core
  unfold State.interrupted
  rw [State.noteSwitch_cpu, State.noteSwitch_mem, hcpu, hmem]
  simp [State.seal, State.abandon, hg, hm]

theorem exec_uiEntry {s : State} (h : (s.live && s.cpu.uiDue && s.beforeTimer && !s.timerDue) = true) : exec .uiEntry s =
    .next ((((s.interrupted.modRegs fun r => { r with gh := vset r.gh 7 (s.pccAt s.pc) }).modCsr fun c => { c with repprogH := 0, vprogH := 0 }).modCpu
      fun c => { c with handler := true, stalled := false, frame := none }).setPc (pcOf s.interrupted.cpu.csrs.uivec.toNat)) := if_pos h

/-- The handler of user level starts at UIVEC, with the interrupted PC in its g55 (R125). -/
theorem exec_uiEntry_fields {s : State} (h : (s.live && s.cpu.uiDue && s.beforeTimer && !s.timerDue) = true) :
    ∃ t, exec .uiEntry s = .next t ∧ t.cpu.handler = true ∧ t.pc = s.cpu.csrs.uivec.toNat % 2 ^ 52 / 4 * 4 ∧
      vget GReg.zero t.cpu.regs.gh 7 = s.pccAt s.pc ∧ t.cpu.regs.g = s.cpu.regs.g ∧ t.cpu.inbox = s.cpu.inbox ∧ t.mem = s.mem := by
  obtain ⟨hregs, hinbox, hvec, hpcc, hmem⟩ := s.interrupted_rest
  refine ⟨_, exec_uiEntry h, ?_, ?_, ?_, ?_, ?_, ?_⟩
  · simp
  · rw [State.pc_setPc, hvec, pcOf]
    omega
  · simp [vget_vset]
  · simp [hregs]
  · simp [hinbox]
  · simp [hmem]

/-! ## Messages to the host and a launch's account -/

@[simp] theorem State.writeMem_front (s : State) (k : Nat) (bs : List Byte) (t p : Bool) (b : Nat) : (s.writeMem k bs t p b).front = s.front := by
  have dirty : ∀ (u : State) (n : Nat), (u.markDirty k n).front = u.front := by
    intro u n
    unfold State.markDirty
    split
    · rfl
    · split <;> simp
  unfold State.writeMem
  simp only [State.mapCtx_front, dirty]
  exact State.front_of_frame (s.meetWrite_frame k bs.length b)

theorem State.raise_parts (s : State) (port vec : Nat) : (s.raise port vec).front.parts = s.front.parts := by
  unfold State.raise
  split
  · rfl
  · split
    · split <;> rfl
    · exact congrArg Front.parts (State.writeMem_front ..)

/-- A record for the host changes no partition's account. -/
theorem State.frontRecord_parts (s : State) (q kind code pid b4 b8 b24 : Nat) :
    (s.frontRecord q kind code pid b4 b8 b24).front.parts = s.front.parts := by
  unfold State.frontRecord State.record
  simp only
  split
  · rfl
  · rw [State.raise_parts]
    show (s.writeMem ..).front.parts = _
    exact congrArg Front.parts (State.writeMem_front s _ _ _ _ _)

theorem State.frontRecord_reserveLeft (s : State) (q kind code pid b4 b8 b24 handle : Nat) :
    (s.frontRecord q kind code pid b4 b8 b24).reserveLeft handle = s.reserveLeft handle :=
  congrArg (fun ps => (aget Part.reset ps handle).left) (State.frontRecord_parts ..)

/-! ## Budgets, deadlines and the lull -/

/-- What OVR 2 does with a draw from the launch's reserve (R269). -/
def State.drawReserve (s : State) (n : Nat) (l : Launch) (d : Nat) : State :=
  let p := aget Part.reset s.front.parts l.pkt.handle
  let drawn : State :=
    { s with front := { s.front with parts := aput Part.reset s.front.parts l.pkt.handle { p with left := p.left - d } } }
  (drawn.updLaunch n fun l => { l with pool := l.pool + d }).frontRecord l.pkt.queue 4 3 l.pkt.pid 0 d 0

theorem State.drawReserve_launch {s : State} {n : Nat} {l : Launch} (h : s.launch? n = some l) (d : Nat) :
    (s.drawReserve n l d).launch? n = some { l with pool := l.pool + d } := by
  have hdrawn : ∀ f : Front, ({ s with front := f } : State).launch? n = some l := fun _ => h
  simp only [State.drawReserve, State.launch?_congr (State.frontRecord_launches ..), State.launch?_updLaunch, if_true, hdrawn, Option.map_some]

theorem State.updLaunch_parts (s : State) (n : Nat) (f : Launch → Launch) : (s.updLaunch n f).front.parts = s.front.parts := by
  unfold State.updLaunch
  split <;> rfl

theorem State.drawReserve_left (s : State) (n : Nat) (l : Launch) (d : Nat) :
    (s.drawReserve n l d).reserveLeft l.pkt.handle = s.reserveLeft l.pkt.handle - d := by
  simp only [State.drawReserve, State.frontRecord_reserveLeft]
  simp only [State.reserveLeft, State.updLaunch_parts, aget_aput, if_true]

/-- What OVR says of a budget that is used up (R269). -/
def State.overrun (s : State) (n : Nat) (l : Launch) : Res :=
  match l.pkt.ovr with
  | 0 => .next (s.endLaunch n 1 0 0)
  | 2 =>
    let d := Nat.min (l.pkt.budget * 1024) (s.reserveLeft l.pkt.handle)
    if d = 0 then .next (s.overDemote n l) else .next (s.drawReserve n l d)
  | _ => .next (s.overDemote n l)

/-- A lease that is spent with an empty pool is an overrun (R269). -/
theorem exec_budgetExhausted {s : State} {core n : Nat} {c : Ctx} {l : Launch}
    (hfind : (s.ctxs.find? fun c => c.core == core && c.launch.isSome && c.lease == 0 && (c.run.onCore || c.atGate)) = some c)
    (hn : c.launch = some n) (hl : s.launch? n = some l) (hpool : l.pool = 0) (hunl : l.unlimited = false) (hlive : l.live = true)
    (hdue : (c.due.any fun d => d.1 == 14) = false) (href : (s.tile (core / 16)).st.refuses = false) :
    exec (.budgetExhausted core) s = (s.updCtx core n fun c => { c with due := c.due ++ [(14, 0, 0)] }).overrun n l := by
  have hbind : (c.launch.bind fun n => (s.launch? n).map fun l => (n, l)) = some (n, l) := by rw [hn]; simp [hl]
  have hnot : ¬(l.pool ≠ 0 ∨ l.unlimited = true ∨ l.live = false ∨ (c.due.any fun d => d.1 == 14) = true) := by
    simp [hpool, hunl, hlive, hdue]
  show execBudgetExhausted core s = _
  unfold execBudgetExhausted
  rw [if_neg (by rw [href]; exact Bool.false_ne_true), hfind]
  simp only [hbind, if_neg hnot]
  rfl

/-- A deadline that is missed does what DLA says (R270). -/
theorem exec_deadlineMiss {s : State} {n : Nat} {l : Launch} (hl : s.launch? n = some l) (hdue : s.missDue l = true) :
    let u := (s.updLaunch n fun l => { l with missed := true }).frontRecord l.pkt.queue 4 4 l.pkt.pid 0 0 (if l.recovered then 1 else 0)
    exec (.deadlineMiss n) s = if l.pkt.dlab then .next (u.endLaunch n 2 0 0) else .next ((u.demote n).trapLaunch n 15) := by
  show execDeadlineMiss n s = _
  unfold execDeadlineMiss
  simp only [hl, hdue, if_true]

/-- A wave over the contexts of a launch whose tiles are whole: it ends the launch, or is counted (R225). -/
theorem exec_lullWave {s : State} {n : Nat} {l : Launch} (hl : s.launch? n = some l) (hrun : l.st = .running)
    (hwhole : l.tiles.all (s.tileWhole n) = true) :
    let cs := s.ctxs.filter fun c => c.launch == some n
    let sum := ((cs.map Ctx.sent).sum, (cs.map Ctx.rcvd).sum)
    let u := s.updLaunch n fun l => { l with wave := some sum }
    exec (.lullWave n) s =
      if (cs.all (fun c => c.idleSince && s.idle c) && l.shares.isEmpty && sum.1 == sum.2 && l.wave == some sum) = true then
        .next (s.endLaunch n 0 0 0)
      else .next (u.mapCtx fun c => if c.launch == some n then { c with idleSince := u.idle c } else c) := by
  show execLullWave n s = _
  unfold execLullWave
  simp only [hl, hrun, ne_eq, not_true_eq_false, if_false, hwhole, Bool.true_and]

/-- Settles O54: one lemma for each event. -/
theorem schedulingEvents : Obligations.SchedulingEvents := by
  unfold Obligations.SchedulingEvents
  refine ⟨fun s t w h => ?_, fun s h1 h2 hlive htraps hfirst => ?_, fun s hlive hreq hlev hie hfirst => ?_,
    fun s hlive hlev huien hinbox hhan hfirst htimer => ?_, fun s core o since hlock hdue => ?_, fun s core launch c w hc hrun hdue => ?_,
    fun s core c hc hreq hlev hheld hcount hfirst href => ?_, fun s core n c l hc hn hl hpool hunl hlive hdue href => ?_,
    fun s n l hl hlive hmissed hdem hdead htiles => ?_, fun s h => ?_, fun s n l hl hrun htiles => ?_⟩
  · refine ⟨?_, State.fetchAt_cpu h⟩
    show execInstructionFetch s = _
    unfold execInstructionFetch
    rw [h]
  · obtain ⟨hcause, hpc, hlevel, -, hregs, hmem⟩ := s.takeInterrupt_fields 2 htraps
    exact ⟨_, exec_timerInterrupt s h1 h2 hlive htraps hfirst, hcause, hpc, hlevel, hregs, hmem⟩
  · obtain ⟨hcpu, hm, hpre⟩ := s.requestTaken_rest
    have htraps : s.requestTaken.takesTraps := by rw [State.takesTraps, hcpu]; exact .inr ⟨hlev, hie⟩
    obtain ⟨hcause, hpc, hlevel, hcore, hregs, hmem⟩ := s.requestTaken.takeInterrupt_fields 1 htraps
    rw [hcpu] at hcore hregs
    refine ⟨_, if_pos (by rw [hlive, hreq, hlev, hie, hfirst]; rfl), hcause, ?_, hlevel, hcore.trans hpre, hregs, hmem.trans hm⟩
    rw [hpc, State.pc, hcpu, State.pc]
  · refine exec_uiEntry_fields ?_
    rw [hlive, hfirst, htimer, Ctx.uiDue, hlev, huien, hhan, List.isEmpty_eq_false_iff.2 hinbox]
    rfl
  · refine ⟨s.loseLock core, ?_, by rw [State.loseLock_core], s.loseLock_cpu core, s.loseLock_mem core⟩
    show execLockLoss core s = _
    unfold execLockLoss
    simp only [hlock, if_pos hdue]
  · show execContextWake core launch s = _
    unfold execContextWake
    simp only [hc, hrun, hdue, if_true]
  · show execContextSwitch core s = _
    unfold execContextSwitch
    have hex : c.exchanged = true := by rw [Ctx.exchanged, hheld, hcount]; rfl
    rw [hc]
    exact if_pos (by rw [hreq, hlev, hex, hfirst, href]; rfl)
  · have hexec := exec_budgetExhausted hc hn hl hpool hunl hlive hdue href
    extract_lets u
    refine ⟨fun ho => ?_, fun ho => ?_, fun ho hb hleft => ?_⟩
    · rw [hexec, State.overrun, ho]
      rfl
    · rw [hexec, State.overrun, ho]
      rfl
    · have hd : Nat.min (l.pkt.budget * 1024) (s.reserveLeft l.pkt.handle) ≠ 0 := by
        have : 0 < Nat.min (l.pkt.budget * 1024) (s.reserveLeft l.pkt.handle) := Nat.lt_min.2 ⟨by omega, hleft⟩
        omega
      have hover : u.overrun n l = .next (u.drawReserve n l (Nat.min (l.pkt.budget * 1024) (s.reserveLeft l.pkt.handle))) := by
        rw [State.overrun, ho]
        exact if_neg hd
      refine ⟨_, hexec.trans hover, ?_, u.drawReserve_left n l _⟩
      have hpay := u.drawReserve_launch hl (Nat.min (l.pkt.budget * 1024) (s.reserveLeft l.pkt.handle))
      rwa [hpool, Nat.zero_add] at hpay
  · have hmiss : s.missDue l = true := by
      unfold State.missDue
      rw [hlive, hmissed, hdem, htiles, decide_eq_true hdead, Bool.and_false]
      rfl
    have hexec := exec_deadlineMiss hl hmiss
    exact ⟨fun ho => hexec.trans (if_pos ho), fun ho => hexec.trans (if_neg (by rw [ho]; exact Bool.false_ne_true))⟩
  · exact ⟨_, if_pos h, rfl, rfl, rfl⟩
  · have hwhole : l.tiles.all (s.tileWhole n) = true := List.all_eq_true.2 fun t ht => by
      obtain ⟨href, howed⟩ := htiles t ht
      rw [State.tileWhole, href, howed]
      rfl
    have hexec := exec_lullWave hl hrun hwhole
    extract_lets cs
    refine ⟨fun hidle hshares hsum hwave => hexec.trans (if_pos ?_), fun hwave => ⟨_, hexec.trans (if_neg ?_), ?_, ?_⟩⟩
    · have hall : cs.all (fun c => c.idleSince && s.idle c) = true := List.all_eq_true.2 fun c hc => by
        obtain ⟨h1, h2⟩ := hidle c hc
        rw [h1, h2]
        rfl
      simp only [Bool.and_eq_true, beq_iff_eq]
      exact ⟨⟨⟨hall, by rw [hshares]; rfl⟩, hsum⟩, hwave⟩
    · simp [hwave]
    · rw [State.launch?_congr (State.mapCtx_launches ..), State.launch?_updLaunch, if_pos rfl, hl]
      rfl
    · rw [State.mapCtx_mem]
      unfold State.updLaunch
      rw [hl]

end Sys2Proof.Machine
end

section
/-! SUPPORT. Atomics (R103, R105 to R107, R386): what one does at its home, and the request that it sends there once its checks have passed. -/

namespace Sys2Proof.Machine

/-! ## At the home (R105, R106) -/

section
variable {s : State} {k op size b : Nat} {x e : Word} (hbad : s.mem.bad = []) (hsoft : s.mem.soft = [])
include hbad hsoft

theorem State.atomAt_marked (h : s.mem.marked k size = true) : s.atomAt k op size x e b = (poisonOnes 1, s) := by
  unfold State.atomAt
  simp only [State.meetRead_eq_self hbad hsoft, h, if_true]

theorem State.atomAt_old (h : s.mem.marked k size = false) :
    (s.atomAt k op size x e b).1 = word (atomOld op size (s.mem.nat k size)) := by
  unfold State.atomAt
  simp only [State.meetRead_eq_self hbad hsoft, h, Bool.false_eq_true, if_false]
  split <;> rfl

/-- An atomic that has a new value writes it. -/
theorem State.atomAt_writes (h : s.mem.marked k size = false) {v : Nat}
    (hv : atomNew op size (s.mem.nat k size) (x.toNat % 2 ^ (8 * size)) (e.toNat % 2 ^ (8 * size)) = some v) :
    (s.atomAt k op size x e b).2.mem = s.mem.write k (leBytes size v) false false := by
  unfold State.atomAt
  simp only [State.meetRead_eq_self hbad hsoft, h, Bool.false_eq_true, if_false, hv, State.writeMem_mem]

theorem State.atomAt_leaves (h : s.mem.marked k size = false)
    (hv : atomNew op size (s.mem.nat k size) (x.toNat % 2 ^ (8 * size)) (e.toNat % 2 ^ (8 * size)) = none) :
    (s.atomAt k op size x e b).2.mem = s.mem := by
  unfold State.atomAt
  simp only [State.meetRead_eq_self hbad hsoft, h, Bool.false_eq_true, if_false, hv]

end

/-- Settles O25: every operation's row of R105's table is the model's new value for it. -/
theorem atomicAtHome : Obligations.AtomicAtHome := by
  unfold Obligations.AtomicAtHome
  intro s k size b x e _ hbad hsoft
  extract_lets old m X signed f left
  refine ⟨fun hm => ?_, fun hm op => ?_⟩
  · have answers : ∀ op, (s.atomAt k op size x e b).1 = word (atomOld op size old) := fun op => State.atomAt_old hbad hsoft hm
    have leaves : ∀ op v, atomNew op size old X (e.toNat % m) = some v → left op v := fun op v => State.atomAt_writes hbad hsoft hm
    refine ⟨answers 0, leaves 0 _ rfl, leaves 1 _ rfl, leaves 2 _ rfl, leaves 3 _ rfl, leaves 4 _ rfl, leaves 5 _ rfl, leaves 6 _ rfl,
      leaves 7 _ rfl, leaves 8 _ rfl, leaves 10 _ rfl, fun op hop => ?_, fun op hop => ?_, fun heq => leaves 9 _ (if_pos heq), fun hne =>
      State.atomAt_leaves hbad hsoft hm (if_neg hne)⟩
    · rw [answers, atomOld, if_neg (by fin_cases hop <;> decide)]
      rfl
    · rw [answers, atomOld, if_pos (by fin_cases hop <;> decide)]
  · rw [State.atomAt_marked hbad hsoft hm]
    exact ⟨rfl, rfl⟩

/-! ## The request (R106, R107, R386) -/

/-- What an atomic whose checks pass sends and leaves: its request, and gd pending on it (R103, R106). -/
def State.atomSent (s : State) (op d : Nat) (w : AWidth) (sc : Scope) (o : Ord) (p : Loc × Nat × Word × Word) : State :=
  let u := if o = .ar then s.seenAt sc else s
  (((u.noteAccess s.cpu.core s.cpu.launch p.1 p.2.1).awaitNext d (o == .ar)).post s.cpu.core s.cpu.launch
    (.atom p.1.key op w.bytes p.2.2.1 p.2.2.2) false none (if p.1.recorded p.2.1 then some (s.cpu.core % 16) else none)).advance

theorem State.atom_sends {s : State} {op d a b : Nat} {w : AWidth} {sc : Scope} {o : Ord} {p : Loc × Nat × Word × Word}
    (hcheck : s.atomCheck d a b w.bytes (op == 9) = .ok p) (hord : o = .ar → s.unackedAt sc = false)
    (hroom : s.atomicsOut (s.cpu.core / 16) ((homeOf p.1.key).code * 3) < 64) :
    s.atom op d a b w sc o = .next (s.atomSent op d w sc o p) := by
  have hu : (if o = .ar then s.seenAt sc else s).cpu = s.cpu := by
    split
    · obtain ⟨net, h⟩ := s.seenAt_net sc
      rw [h]
    · rfl
  have hnote := (State.noteAccess_undisturbed (if o = .ar then s.seenAt sc else s) s.cpu.core s.cpu.launch p.1 p.2.1 false).1
  unfold State.atom State.atomSent
  simp only [hcheck, hu]
  rw [if_neg (by rintro ⟨h, h'⟩; rw [hord h] at h'; cases h'), if_neg (Nat.not_le.2 hroom)]
  simp only [State.awaitNext, State.modRegs_cpu_core, State.modRegs_cpu_launch, hnote, hu]

/-- The checks of an atomic stop it, and no walk has met anything before (R106). -/
def State.AtomTraps (s : State) (d a b n : Nat) (readsD : Bool) (t : Trap) : Prop :=
  s.atomCheck d a b n readsD = .trap t ∧ s.atomMet a n t = s

theorem State.AtomTraps.atom {s : State} {op d a b : Nat} {w : AWidth} {sc : Scope} {o : Ord} {t : Trap}
    (h : s.AtomTraps d a b w.bytes (op == 9) t) : s.atom op d a b w sc o = .next (s.takeTrap t) := by
  unfold State.atom
  simp only [h.1, h.2]

theorem State.atomTraps_of_read {s : State} {d a b n : Nat} {readsD : Bool} {t : Trap} (h : s.accessTraps a (s.getG a).addr n .r t) :
    s.AtomTraps d a b n readsD t := by
  have hcheck := capCheck_of_accessTraps h
  refine ⟨congrArg (fun o : Out Unit => o.bind _) hcheck, ?_⟩
  unfold State.atomMet
  rw [hcheck]

section
variable {s : State} {d a b n : Nat} {readsD : Bool} {t : Trap} (hr : s.grants a (s.getG a).addr n .r)
include hr

/-- Beyond the check of R no walk has met anything but one for an address that leads to a place (R106, R298). -/
theorem State.atomMet_eq_self (h : t.cause = 4 → s.check a (s.getG a).addr n .w = .trap t) : s.atomMet a n t = s := by
  unfold State.atomMet State.metWalk
  simp only [capCheck_of_grants hr]
  split
  · rfl
  · next h4 =>
    unfold State.walked
    rw [h (not_not.1 h4)]

theorem State.atomTraps_of_write (h : s.accessTraps a (s.getG a).addr n .w t) : s.AtomTraps d a b n readsD t := by
  have hcheck := capCheck_of_accessTraps h
  refine ⟨?_, State.atomMet_eq_self hr fun _ => congrArg (fun o : Out Unit => o.bind _) hcheck⟩
  unfold State.atomCheck
  simp only [capCheck_of_grants hr, hcheck, Out.bind]

variable (hw : s.grants a (s.getG a).addr n .w)
include hw

theorem State.atomTraps_of_value (hb : ¬s.clean b) : s.AtomTraps d a b n readsD ⟨6, (s.getG b).reason, 0⟩ := by
  refine ⟨?_, State.atomMet_eq_self hr nofun⟩
  unfold State.atomCheck
  simp only [capCheck_of_grants hr, capCheck_of_grants hw, State.value_of_poison hb, Out.bind]

theorem State.atomTraps_of_expected (hb : s.clean b) (hd : ¬s.clean d) : s.AtomTraps d a b n true ⟨6, (s.getG d).reason, 0⟩ := by
  refine ⟨?_, State.atomMet_eq_self hr nofun⟩
  unfold State.atomCheck
  simp only [capCheck_of_grants hr, capCheck_of_grants hw, State.value_of_clean hb, State.value_of_poison hd, if_true, Out.bind]

/-- An atomic whose address leads to no place. -/
theorem State.atomTraps_of_placeOf (hb : s.clean b) (hd : readsD = true → s.clean d) (h : s.placeOf (s.getG a).addr = .trap t) :
    s.AtomTraps d a b n readsD t := by
  refine ⟨?_, State.atomMet_eq_self hr fun _ => (congrArg (fun o : Out Unit => o.bind _) (capCheck_of_grants hw)).trans h⟩
  have hexp : ∃ e, (if readsD = true then s.value d else .ok 0) = .ok e := by
    split
    · next hreads => exact ⟨_, State.value_of_clean (hd hreads)⟩
    · exact ⟨_, rfl⟩
  obtain ⟨e, he⟩ := hexp
  have h : s.locate s.cpu.core s.cpu.launch (s.dataTlb s.cpu.core) (s.getG a).addr = .trap t := h
  unfold State.atomCheck
  simp only [capCheck_of_grants hr, capCheck_of_grants hw, State.value_of_clean hb, he, h, Out.bind]

end

/-- The atomics, each by its number in R105's table; ACAS alone reads gd. -/
theorem exec_atom_of_mem {d a b : Nat} {w : AWidth} {sc : Scope} {o : Ord} :
    ∀ y ∈ [Instr.aadd d a b w sc o, .aand d a b w sc o, .aor d a b w sc o, .axor d a b w sc o, .amin d a b w sc o, .amax d a b w sc o,
      .aminn d a b w sc o, .amaxn d a b w sc o, .aswap d a b w sc o, .afadd d a b w sc o, .acas d a b w sc o],
      ∃ op, (∀ s, exec y s = s.atom op d a b w sc o) ∧ ((op == 9) = true ↔ y = .acas d a b w sc o) := by
  simp only [List.forall_mem_cons, List.not_mem_nil, false_imp_iff, implies_true, and_true]
  exact ⟨⟨0, fun _ => rfl, by simp⟩, ⟨1, fun _ => rfl, by simp⟩, ⟨2, fun _ => rfl, by simp⟩, ⟨3, fun _ => rfl, by simp⟩,
    ⟨4, fun _ => rfl, by simp⟩, ⟨5, fun _ => rfl, by simp⟩, ⟨6, fun _ => rfl, by simp⟩, ⟨7, fun _ => rfl, by simp⟩,
    ⟨8, fun _ => rfl, by simp⟩, ⟨10, fun _ => rfl, by simp⟩, ⟨9, fun _ => rfl, by simp⟩⟩

/-- Settles O24: the request by `atom_sends`, each trap by the check that fails first. -/
theorem atomicRequests : Obligations.AtomicRequests := by
  unfold Obligations.AtomicRequests
  intro s d a b ea w sc o loc x e
  refine ⟨fun hord hroom => ?_, fun y hy => ?_⟩
  · extract_lets u sent
    have sends : ∀ op, s.atomCheck d a b w.bytes (op == 9) = .ok (loc, ea, x, e) → s.atom op d a b w sc o = sent op e :=
      fun op h => State.atom_sends h hord hroom
    exact ⟨fun h => ⟨sends 0 h, sends 1 h, sends 2 h, sends 3 h, sends 4 h, sends 5 h, sends 6 h, sends 7 h, sends 8 h, sends 10 h⟩,
      fun h => sends 9 h⟩
  · extract_lets at_ n traps expects
    obtain ⟨op, hexec, hop⟩ := exec_atom_of_mem y hy
    have stops : ∀ t, s.AtomTraps d a b n (op == 9) t → traps t := fun t h => (hexec s).trans h.atom
    refine ⟨fun t h => stops t (State.atomTraps_of_read h), fun hr t h => stops t (State.atomTraps_of_write hr h), fun hr hw =>
      ⟨fun hb => stops _ (State.atomTraps_of_value hr hw hb), fun hb hd => ?_, fun hb hd h => ?_, fun hb hd h => ?_⟩⟩
    · obtain ⟨hy, hd⟩ := Classical.not_imp.1 hd
      refine stops _ ?_
      rw [hop.2 hy]
      exact State.atomTraps_of_expected hr hw hb hd
    · exact stops _ (State.atomTraps_of_placeOf hr hw hb (fun h => hd (hop.1 h)) (s.placeOf_hole h))
    · exact stops _ (State.atomTraps_of_placeOf hr hw hb (fun h => hd (hop.1 h)) (State.placeOf_noPage h))

end Sys2Proof.Machine
end

section
/-! SUPPORT. LDLK while the core's tile hosts a guest in recovery (R109, R395, R397). -/

namespace Sys2Proof.Machine

/-- The core of `fencedGuestSt`, with g1 a capability over its tile's scratchpad. -/
def fencedGuestLockSt : State :=
  { fencedGuestSt with
    cpu := { State.reset.cpu with regs := { Regs.reset with g := vset Regs.reset.g 1 ⟨.cap, capOver 63 0x10000000 0x200000 0x10001000⟩ } } }

theorem fencedGuestLockSt_quiet : fencedGuestLockSt.quiet := by unfold State.quiet; decide

/-- LDLK whose load is held up waits, and the core holds no lock (R109). -/
theorem exec_ldlk_waits {s u : State} {d a c o : Nat} (hc : s.cpu.core = c) (hu : (s.updCore c fun c => { c with lock := none }) = u)
    (hcheck : ((capCheck (s.getG a) (s.ea a 0) 8 .r).bind fun _ => inScratch (s.ea a 0)) = .ok o)
    (hport : u.coreAtBank (spadKey (c / 16) o) = false) (hbit : u.lockBlocked c c (spadKey (c / 16) o) = false)
    (hload : u.loadRead a (s.ea a 0) 8 = .wait) : exec (.ldlk d a) s = .next u.stall := by
  show execLdlk d a s = _
  unfold execLdlk
  have hcore : u.cpu.core = c := by rw [← hu, State.updCore_cpu, hc]
  simp only [hcheck, hc, hu, hcore, hport, hbit, hload, Bool.false_eq_true, if_false]

/-- The physical tile stands still for the guest, so that the home of the word refuses the load of LDLK (R395). -/
theorem fencedGuestLockSt_waits : exec (.ldlk 7 1) fencedGuestLockSt =
    .next (fencedGuestLockSt.updCore 0 fun c => { c with lock := none }).stall :=
  exec_ldlk_waits (c := 0) (o := 0x1000) rfl rfl rfl rfl rfl rfl

/-- Refutes O26: its clause of LDLK asks that the core's tile is in service, but that of a guest on the same physical tile may be in
recovery, and then LDLK waits and takes no lock. -/
theorem not_fenceAndLockResults : ¬Obligations.FenceAndLockResults := by
  unfold Obligations.FenceAndLockResults
  rintro ⟨-, locks⟩
  have h := (locks fencedGuestLockSt 7 1 fencedGuestLockSt_quiet (by decide) (by decide)).1 (by unfold State.grants; decide) (by decide)
    (by decide)
  rw [fencedGuestLockSt_waits] at h
  injection h with h
  have stalled := congrArg (fun t => t.cpu.stalled) h
  rw [State.stall_cpu_stalled, State.advance_cpu_stalled] at stalled
  cases stalled

end Sys2Proof.Machine
end

section
/-! SUPPORT. Versioned memory (R111 to R115): what the checks and the reads of a page leave, and each instruction on a place that it has found. -/

namespace Sys2Proof.Machine

/-! ## What noting an access keeps (R294, R298) -/

theorem State.noteAccess_keeps {β : Type} (p : State → β) (hl : ∀ s n f, p (s.updLaunch n f) = p s) (ht : ∀ s n f, p (s.updTile n f) = p s)
    (hc : ∀ (s : State) n (f : List TlbEntry → List TlbEntry), p (s.updCore n fun c => { c with dtlb := f c.dtlb }) = p s) (hw : ∀ s l va b, p (s.meetWalk l va b) = p s)
    (s : State) (core : Nat) (launch : Option Nat) (loc : Loc) (ea : Nat) : p (s.noteAccess core launch loc ea) = p s := by
  have marked : ∀ u : State, p (match launch with
      | some l => if loc.cls = 3 then u.updLaunch l fun x =>
          if x.raw.any fun r => r.1 == core / 16 then x
          else { x with raw := x.raw ++ [(core / 16, match loc.tlb with
            | some e => e.page * 2 ^ e.bits
            | none => ea)] } else u
      | none => u) = p u := by
    intro u
    split
    · split
      · exact hl ..
      · rfl
    · rfl
  unfold State.noteAccess
  refine (marked _).trans ?_
  split
  · simp only [Bool.false_eq_true, if_false, ht]
    next e _ =>
      refine (hc _ core (tlbFill 32 · e)).trans ?_
      split
      · rfl
      · exact hw ..
  · rfl

theorem State.updLaunch_cores (s : State) (n : Nat) (f : Launch → Launch) : (s.updLaunch n f).cores = s.cores := by
  unfold State.updLaunch
  split <;> rfl

theorem State.updLaunch_clk (s : State) (n : Nat) (f : Launch → Launch) : (s.updLaunch n f).clk = s.clk := by
  unfold State.updLaunch
  split <;> rfl

theorem State.noteAccess_meshBad (s : State) (core : Nat) (launch : Option Nat) (loc : Loc) (ea n : Nat) :
    ((s.noteAccess core launch loc ea).core n).meshBad = (s.core n).meshBad := by
  refine State.noteAccess_keeps (fun s => (s.core n).meshBad) (fun s m f => ?_) (fun s m f => ?_) (fun s m f => ?_) (fun s l va b => ?_)
    s core launch loc ea
  · simp only [State.core, State.updLaunch_cores]
  · simp only [State.core_updTile]
  · simp only [State.core_updCore]
    split
    · next h => rw [h]
    · rfl
  · simp only [State.core_of_frame (s.meetWalk_frame l va b)]

theorem State.fenceOne_clk (s : State) (p t : Nat) : (s.fenceOne p t).clk = s.clk := by
  unfold State.fenceOne
  simp only
  split
  case h_1 | h_2 | h_7 | h_8 | h_9 => rfl
  all_goals split <;> rfl

theorem State.memRecord_clk (s : State) (c k b : Nat) : (s.memRecord c k b).clk = s.clk := by
  unfold State.memRecord
  split <;> rfl

theorem State.uncorrectable_clk (s : State) (w : Nat) : (s.uncorrectable w).clk = s.clk := by
  unfold State.uncorrectable
  split
  · simp only
    split
    · exact foldl_keeps _ State.clk (fun s u => s.fenceOne_clk _ u) _ _
    · rfl
  · rfl

theorem State.meetRead_clk (s : State) (k n b : Nat) : (s.meetRead k n b).clk = s.clk := by
  unfold State.meetRead
  refine foldl_keeps _ State.clk (fun s w => ?_) _ _
  split
  · rw [State.uncorrectable_clk, State.memRecord_clk]
  · split
    · rw [State.memRecord_clk]
    · rfl

theorem State.meetWalk_clk (s : State) (l : Option Nat) (va b : Nat) : (s.meetWalk l va b).clk = s.clk := by
  unfold State.meetWalk
  split
  · exact foldl_keeps _ State.clk (fun s k => s.meetRead_clk k 8 b) _ _
  · rfl

theorem State.noteAccess_clk (s : State) (core : Nat) (launch : Option Nat) (loc : Loc) (ea : Nat) :
    (s.noteAccess core launch loc ea).clk = s.clk :=
  State.noteAccess_keeps State.clk State.updLaunch_clk (fun _ _ _ => State.updTile_clk ..) (fun _ _ _ => State.updCore_clk ..)
    State.meetWalk_clk s core launch loc ea

/-! ## Reads of a version (R112, R114) -/

/-- LDV of a version finds nothing to wait for: it lies below the floor, or both slots have passed it by (R112). -/
def VerLine.stale (l : VerLine) (fr v : BitVec 12) : Bool :=
  newer fr v || (!(l.s0.holds v || l.s1.holds v) && ((l.s0.done && newer l.s0.ver v) || (l.s1.done && newer l.s1.ver v)))

/-- The complete slot that answers LDV of a version (R112). -/
def VerLine.found (l : VerLine) (v : BitVec 12) : Option VerSlot := [l.s0, l.s1].find? fun q => q.done && q.ver == v

/-- What the read of a word in a slot meets (R112, R298). -/
def State.slotMet (u : State) (l : VerLine) (k core : Nat) (y : VerSlot) : State :=
  if l.newest = y then u.meetRead k 8 core else if y.meet k = y then u
  else (u.slotRecord y k core).setVerLine (k / 64 * 64) (l.upd (l.s0 != y) fun q => q.meet k)

/-- A slot that holds a version waits for nothing to pass it by. -/
theorem VerLine.stale_of_found {l : VerLine} {fr v : BitVec 12} {y : VerSlot} (h : l.found v = some y) (hfr : newer fr v = false) :
    l.stale fr v = false := by
  have hy := List.find?_some h
  have hmem := List.mem_of_find?_eq_some h
  rw [Bool.and_eq_true] at hy
  have hholds : y.holds v = true := by
    have hst : y.st = .complete := beq_iff_eq.1 hy.1
    rw [VerSlot.holds, hy.2, hst]
    rfl
  have hheld : (l.s0.holds v || l.s1.holds v) = true := by
    rcases List.mem_cons.1 hmem with rfl | hmem
    · rw [hholds, Bool.true_or]
    · rw [← List.mem_singleton.1 hmem, hholds, Bool.or_true]
  rw [VerLine.stale, hfr, hheld]
  rfl

section
variable {s : State} {d a b page ea : Nat} {loc : Loc} (hp : s.verPlace a 8 .r = .ok (loc, page, ea)) (hr : s.verRead loc.key = .ok false)
include hp hr

theorem exec_verq (hm : (s.core s.cpu.core).meshBad = false) : exec (.verq d a) s =
    .next ((s.noteAccess s.cpu.core s.cpu.launch loc ea).setG d (word (s.verWord (loc.key / 64 * 64) page))).advance := by
  show execVerq d a s = _
  unfold execVerq
  simp only [hp, hr, hm, Out.bind, Bool.false_and, Bool.false_eq_true, if_false]
  rfl

variable (hb : s.clean b)
include hb

theorem exec_ldv_stale (h : (s.verLine (loc.key / 64 * 64)).stale (s.verPage page).fr ((s.ival b).truncate 12) = true) :
    exec (.ldv d a b) s = .next ((s.noteAccess s.cpu.core s.cpu.launch loc ea).takeTrap ⟨16, ea, 0⟩) := by
  unfold VerLine.stale at h
  show execLdv d a b s = _
  unfold execLdv
  simp only [hp, hr, State.value_of_clean hb, Out.bind, Bool.false_eq_true, if_false]
  exact if_pos h

theorem exec_ldv_waits (h : (s.verLine (loc.key / 64 * 64)).stale (s.verPage page).fr ((s.ival b).truncate 12) = false)
    (hf : (s.verLine (loc.key / 64 * 64)).found ((s.ival b).truncate 12) = none) : exec (.ldv d a b) s = .next (s.waitIn .version) := by
  unfold VerLine.stale at h
  unfold VerLine.found at hf
  show execLdv d a b s = _
  unfold execLdv
  simp only [hp, hr, State.value_of_clean hb, Out.bind, Bool.false_eq_true, if_false]
  rw [if_neg (by rw [h]; exact Bool.false_ne_true), hf]

/-- LDV of a version that a complete slot holds reads the word, unless it is poisoned (R112, R87). -/
theorem exec_ldv_found (h : (s.verLine (loc.key / 64 * 64)).stale (s.verPage page).fr ((s.ival b).truncate 12) = false) {y : VerSlot}
    (hf : (s.verLine (loc.key / 64 * 64)).found ((s.ival b).truncate 12) = some y) (hm : (s.core s.cpu.core).meshBad = false) :
    let l := s.verLine (loc.key / 64 * 64)
    let t := (s.noteAccess s.cpu.core s.cpu.launch loc ea).slotMet l loc.key s.cpu.core y
    (∀ z, (l.newest = y → t.mem.marked loc.key 8 = false) → (y.meet loc.key).word loc.key = some z →
      exec (.ldv d a b) s = .next (t.setG d (word z)).advance) ∧
    ((l.newest = y ∧ t.mem.marked loc.key 8 = true) ∨ (y.meet loc.key).word loc.key = none →
      exec (.ldv d a b) s = .next (t.takeTrap ⟨6, ea, 0⟩)) := by
  extract_lets l t
  unfold VerLine.stale at h
  unfold VerLine.found at hf
  have hexec : exec (.ldv d a b) s = if l.newest = y ∧ t.mem.marked loc.key 8 = true then .next (t.takeTrap ⟨6, ea, 0⟩)
      else ((y.meet loc.key).word loc.key).elim (.next (t.takeTrap ⟨6, ea, 0⟩)) fun z => .next (t.setG d (word z)).advance := by
    show execLdv d a b s = _
    unfold execLdv
    simp only [hp, hr, hm, State.value_of_clean hb, Out.bind, Bool.false_and, Bool.false_eq_true, if_false]
    rw [if_neg (by rw [h]; exact Bool.false_ne_true), hf]
    refine if_congr Iff.rfl rfl ?_
    cases (y.meet loc.key).word loc.key <;> rfl
  refine ⟨fun z hmark hw => ?_, ?_⟩
  · rw [hexec, if_neg (by rintro ⟨h1, h2⟩; rw [hmark h1] at h2; cases h2), hw]
    rfl
  · rintro (hmark | hw)
    · rw [hexec, if_pos hmark]
    · rw [hexec, hw]
      split <;> rfl

end

/-! ## Writes of a version (R113, R115) -/

/-- What STV of a word leaves of a slot that it writes: its bytes, and the state complete when it is asked for (R113). -/
def VerSlot.stored (y : VerSlot) (k : Nat) (g : GReg) (x : Word) : VerSlot :=
  let z := y.write k g
  if x.getLsbD 12 then { z with st := .complete } else z

/-- What STV does at a place, by R113's table: a slot is written or claimed, or it traps or waits. -/
def State.stvAt (u : State) (d page ea k : Nat) (x : Word) : Res :=
  let line := k / 64 * 64
  let l := u.verLine line
  let met := u.meetLine line u.cpu.core
  match l.stv (x.truncate 12) (u.verPage page).fe with
  | .bad => .next (u.takeTrap ⟨16, ea, 0⟩)
  | .blocked => .next (u.waitIn (.gate page))
  | .into sec =>
    let r := if x.getLsbD 12 then met else (u, l)
    .next ((r.1.numberHome k).setVerLine line (r.2.upd sec fun y => y.stored k (u.getG d) x)).advance
  | .claim sec =>
    .next ((met.1.numberHome k).setVerLine line (met.2.upd sec fun _ => (met.2.newest.claimed (x.truncate 12)).stored k (u.getG d) x)).advance

section
variable {s : State} {d a b page ea : Nat} {loc : Loc} (hb : s.clean b)
include hb

theorem exec_stv (hp : s.verPlace a 8 .w = .ok (loc, page, ea)) (hw : s.verWrite loc.key 8 = .ok false) (hack : s.acked)
    (hm : (s.core s.cpu.core).meshBad = false) :
    exec (.stv d a b) s = (s.noteAccess s.cpu.core s.cpu.launch loc ea).stvAt d page ea loc.key (s.ival b) := by
  have hcpu := (s.noteAccess_undisturbed s.cpu.core s.cpu.launch loc ea false).1
  have hbad := (s.noteAccess_meshBad s.cpu.core s.cpu.launch loc ea s.cpu.core).trans hm
  show execStv d a b s = _
  unfold execStv
  simp only [hp, hw, show s.unacked = false from hack, State.value_of_clean hb, Out.bind, Bool.false_eq_true, if_false]
  generalize s.noteAccess s.cpu.core s.cpu.launch loc ea = u at hcpu hbad
  simp only [hcpu, hbad, Bool.false_and, Bool.false_eq_true, if_false, VerSlot.poison, State.stvAt]
  rfl

/-- RECLAIM takes its channel's next number, and a newer floor raises Fr at once and leaves a gate for Fe (R115). -/
theorem exec_reclaim (hp : s.verPlace a 1 .w = .ok (loc, page, ea)) (hw : s.verWrite loc.key 1 = .ok false) :
    let v : BitVec 12 := (s.ival b).truncate 12; let w := (s.noteAccess s.cpu.core s.cpu.launch loc ea).numberHome loc.key
    let old := (s.noteAccess s.cpu.core s.cpu.launch loc ea).verPage page
    (newer v old.fr = false → exec (.reclaim a b) s = .next w.advance) ∧
    (newer v old.fr = true → exec (.reclaim a b) s = .next (({ w with verPages := ains w.verPages page { old with
      fr := v, gates := old.gates ++ [(v, w.clk, ((w.curLaunch.map (·.tiles)).getD []).map fun q => 4 * q + 3)] } } : State).advance)) := by
  extract_lets v w old
  have hexec : ∀ c, newer v old.fr = c → exec (.reclaim a b) s = if c = true then
      .next (({ w with verPages := ains w.verPages page { old with fr := v, gates := old.gates ++ [(v, w.clk, (match w.curLaunch with
        | some l => l.tiles
        | none => []).map fun q => 4 * q + 3)] } } : State).advance) else .next w.advance := by
    rintro c rfl
    show execReclaim a b s = _
    unfold execReclaim
    simp only [hp, hw, State.value_of_clean hb, Out.bind, Bool.false_eq_true, if_false]
    rfl
  refine ⟨fun h => (hexec _ h).trans rfl, fun h => (hexec _ h).trans ?_⟩
  cases w.curLaunch <;> rfl

end

theorem State.verPage_ains (s : State) (page q : Nat) (g : VerPage) :
    ({ s with verPages := ains s.verPages page g } : State).verPage q = if q = page then g else s.verPage q := by
  unfold State.verPage
  rw [afind_ains]
  split <;> rfl

@[simp] theorem State.verPage_advance (s : State) (q : Nat) : s.advance.verPage q = s.verPage q := by
  unfold State.verPage
  rw [State.advance_verPages]

/-- Settles O27: each instruction by the lemma of its own above. -/
theorem versionedResults : Obligations.VersionedResults := by
  unfold Obligations.VersionedResults
  intro s d a b page ea loc hb
  extract_lets x v line l u fr held passed found put met l' todo w old
  refine ⟨fun hp hr => ⟨fun hm hfr y hy => ?_, fun h => exec_ldv_stale hp hr hb ?_, fun hfr h hf => exec_ldv_waits hp hr hb ?_ hf,
    fun hm => exec_verq hp hr hm⟩, fun hp hw hack hm => ?_, fun hp hw => ?_⟩
  · exact exec_ldv_found hp hr hb (VerLine.stale_of_found hy hfr) hy hm
  · show (newer fr v || (!held && passed)) = true
    rcases h with h | ⟨h, h'⟩
    · rw [h, Bool.true_or]
    · rw [h, h', Bool.not_false, Bool.true_and, Bool.or_true]
  · show (newer fr v || (!held && passed)) = false
    rcases h with h | h <;> simp [hfr, h]
  · have hcpu : u.cpu = s.cpu := (s.noteAccess_undisturbed _ _ _ _ _).1
    have hexec : exec (.stv d a b) s = u.stvAt d page ea loc.key x := exec_stv hb hp hw hack hm
    have htodo : (u.verLine (loc.key / 64 * 64)).stv (x.truncate 12) (u.verPage page).fe = todo := rfl
    unfold State.stvAt at hexec
    rw [hcpu] at hexec
    refine ⟨fun sec h => hexec.trans ?_, fun sec h => hexec.trans ?_, fun h => hexec.trans ?_, fun h => hexec.trans ?_⟩
    · simp only [htodo, h]
      split <;> rfl
    · simp only [htodo, h]
      rfl
    · simp only [htodo, h]
    · simp only [htodo, h]
  · obtain ⟨hold, hnew⟩ := exec_reclaim hb hp hw
    have hcpu : u.cpu = s.cpu := (s.noteAccess_undisturbed _ _ _ _ _).1
    have hwcpu : w.cpu = s.cpu := hcpu
    have hclk : w.clk = s.clk := s.noteAccess_clk _ _ _ _
    refine ⟨hold, fun h => ⟨_, hnew h, ?_, fun q hq => ?_, ?_, ?_, ?_, ?_⟩⟩
    · rw [State.verPage_advance, State.verPage_ains, if_pos rfl, ← hclk]
    · rw [State.verPage_advance, State.verPage_ains, if_neg hq]
      rfl
    · rw [State.advance_verLines]; rfl
    · rw [State.pc_advance]
      show w.pc4 = _
      rw [State.pc4, State.pc, hwcpu]; rfl
    · rw [State.advance_mem]; rfl
    · rw [State.advance_cpu_regs]; exact congrArg Ctx.regs hwcpu

end Sys2Proof.Machine
end

section
/-! SUPPORT. Calls, system instructions and names (R130, R136, R141, R289, R294, R375). -/

namespace Sys2Proof.Machine

@[simp] theorem State.core_advance (s : State) (n : Nat) : s.advance.core n = s.core n := by unfold State.core; rw [State.advance_cores]
@[simp] theorem State.tile_advance (s : State) (n : Nat) : s.advance.tile n = s.tile n := by
  unfold State.tile State.freshTile State.posOf State.rectOf
  rw [State.advance_tiles, State.advance_fabric]

/-! ## Calls (R136, R141) -/

@[simp] theorem State.updCores_cpu (s : State) (cs : List Nat) (f : CoreSt → CoreSt) : (s.updCores cs f).cpu = s.cpu :=
  foldl_keeps (fun s c => s.updCore c f) State.cpu (fun _ _ => rfl) cs s

theorem exec_ebreak_alone {s : State} (h : ∀ k ∈ s.together s.cpu.core, s.attachedAt k = false) (c : Nat) :
    exec (.ebreak c) s = .next (s.takeTrap ⟨10, c, 0⟩) :=
  if_neg (by rw [List.any_eq_true]; rintro ⟨k, hk, ha⟩; rw [h k hk] at ha; cases ha)

theorem exec_ebreak_attached {s : State} (h : ∃ k ∈ s.together s.cpu.core, s.attachedAt k = true) (c : Nat) :
    exec (.ebreak c) s = .next (s.updCores (s.together s.cpu.core) (CoreSt.askHalt true)).advance :=
  if_pos (List.any_eq_true.2 h)

/-- Settles O29: the traps by their meanings, EBREAK by whether a debugger is attached. -/
theorem callsAndTraps : Obligations.CallsAndTraps := by
  unfold Obligations.CallsAndTraps
  refine fun s c => ⟨rfl, rfl, rfl, fun h => exec_ebreak_alone h c, fun h => ⟨_, exec_ebreak_attached h c, ?_⟩⟩
  have hcore := State.updCores_core (f := CoreSt.askHalt true) (fun _ => rfl) (s.together s.cpu.core) s
  refine ⟨fun k hk => ?_, fun k hk => ?_, ?_, ?_, ?_⟩
  · rw [State.core_advance, hcore, if_pos hk]; rfl
  · rw [State.core_advance, hcore, if_neg hk]
  · rw [State.pc_advance, State.pc4, State.pc, State.updCores_cpu]; rfl
  · rw [State.advance_cpu_regs, State.updCores_cpu]
  · rw [State.advance_mem, State.updCores_mem]

/-! ## WFI, HALT and TLBINV (R136, R294) -/

theorem State.below_firmware {s : State} : s.below .firmware = true ↔ s.cpu.level ≠ .firmware := by
  unfold State.below
  cases s.cpu.level <;> decide

theorem State.below_runtime {s : State} : s.below .runtime = true ↔ s.cpu.level = .app := by
  unfold State.below
  cases s.cpu.level <;> decide

/-- What TLBINV leaves in a level of translation: every entry but the launch's for the page (R136, R294). -/
def State.keepsEntry (s : State) (a : Nat) (e : TlbEntry) : Bool :=
  !(some e.launch == s.cpu.launch && (a == 0 || e.page == (s.ival a).toNat % 2 ^ 52 / 2 ^ e.bits))

theorem State.keepsEntry_launch {s : State} {a : Nat} {e : TlbEntry} (h : s.keepsEntry a e = true) (hl : some e.launch = s.cpu.launch) :
    a ≠ 0 ∧ e.page ≠ (s.ival a).toNat % 2 ^ 52 / 2 ^ e.bits := by
  unfold State.keepsEntry at h
  simpa [hl] using h

theorem exec_tlbinv {s : State} {a : Nat} (hl : s.cpu.level ≠ .app) (ha : s.clean a) : exec (.tlbinv a) s =
    .next ((s.updCore s.cpu.core fun c => { c with itlb := c.itlb.filter (s.keepsEntry a), dtlb := c.dtlb.filter (s.keepsEntry a) }).updTile
      (s.cpu.core / 16) fun t => { t with tlb := t.tlb.filter (s.keepsEntry a) }).advance := by
  show execTlbinv a s = _
  unfold execTlbinv
  rw [if_neg (mt State.below_runtime.1 hl), State.value_of_clean ha]
  rfl

theorem State.tile_updTile (s : State) (t n : Nat) (f : TileSt → TileSt) :
    (s.updTile t f).tile n = if n = t then f (s.tile t) else s.tile n := by
  unfold State.updTile
  simp only [State.tile, afind_ains]
  split <;> rfl

/-- Settles O33: each instruction by the level of the code that executes it. -/
theorem systemResults : Obligations.SystemResults := by
  unfold Obligations.SystemResults
  refine ⟨fun s h => if_pos ?_, fun s h => ⟨if_neg (mt State.below_firmware.1 (not_not.2 h)), ?_⟩, fun s h => if_pos (State.below_firmware.2 h),
    fun s a hl ha => ⟨_, exec_tlbinv hl ha, ?_, ?_, fun e he => ?_⟩, fun s a h => ?_⟩
  · simp only [Bool.or_eq_true, decide_eq_true_eq, or_assoc]
    exact h.imp (fun h => by rw [Bool.not_eq_true', List.isEmpty_eq_false_iff]; exact h) id
  · rw [State.haltHere, State.noteSwitch_cpu]; rfl
  · rw [State.pc_advance, State.pc4, State.pc, State.updTile_cpu, State.updCore_cpu]; rfl
  · simp
  · refine State.keepsEntry_launch ?_
    simp only [State.core_advance, State.tile_advance, State.core_updTile, State.core_updCore, State.tile_updTile, if_true, List.mem_append,
      List.mem_filter] at he
    rcases he with (he | he) | he <;> exact he.2
  · exact congrArg s.finish (if_pos (State.below_runtime.2 h))

/-! ## Names (R130, R289) -/

/-- Settles O40: each instruction by its operands. -/
theorem nameResults : Obligations.NameResults := by
  unfold Obligations.NameResults
  intro s d a b ha hb
  refine ⟨?_, ?_, ?_⟩
  · exact congrArg (fun o : Out Word => s.finish (o.bind _)) (State.value_of_clean ha)
  · show execTnbr d a b s = _
    unfold execTnbr
    rw [State.value_of_clean ha, State.value_of_clean hb]
    rfl
  · exact congrArg (fun o : Out Word => s.finish (o.bind _)) (State.value_of_clean ha)

end Sys2Proof.Machine
end

section
/-! SUPPORT. Barriers and domains (R126, R127, R221). -/

namespace Sys2Proof.Machine

theorem State.seenAt_cpu (s : State) (sc : Scope) : (s.seenAt sc).cpu = s.cpu := by obtain ⟨_, h⟩ := s.seenAt_net sc; rw [h]
theorem State.seenAt_mem (s : State) (sc : Scope) : (s.seenAt sc).mem = s.mem := by obtain ⟨_, h⟩ := s.seenAt_net sc; rw [h]

/-- An arrival changes the barrier state of the acting context; memory and its registers are as they were (R126, R221). -/
theorem State.barArrive_fields (s : State) (half : Bool) : (s.barArrive half).cpu = { s.cpu with bar := { s.cpu.bar with arr := .arrived, half := half } } ∧
    (s.barArrive half).mem = s.mem := by
  have counted : ∀ u : State, u.countMismatch.cpu = u.cpu ∧ u.countMismatch.mem = u.mem := by
    intro u
    unfold State.countMismatch
    simp only
    split <;> simp
  unfold State.barArrive
  rw [(counted _).1, (counted _).2]
  constructor
  · rw [State.modBar, State.modCpu_cpu, State.seenAt_cpu]
  · exact State.seenAt_mem _ _

theorem exec_bara {s : State} (h : s.unackedAt s.barScope = false) (ha : s.cpu.bar.arr ≠ .arrived) :
    exec .bara s = .next (s.barArrive false).advance := by
  show execBara s = _
  unfold execBara
  rw [h]
  cases hb : s.cpu.bar.arr with
  | arrived => exact absurd hb ha
  | none => rfl
  | released => rfl

theorem exec_barw {s : State} (ha : s.cpu.bar.arr ≠ .arrived) :
    exec .barw s = .next (s.modBar fun b => { b with arr := .none, half := false }).advance := by
  show execBarw s = _
  unfold execBarw
  cases hb : s.cpu.bar.arr with
  | arrived => exact absurd hb ha
  | none =>
    have hbar : ({ s.cpu.bar with half := false } : BarSt) = { s.cpu.bar with arr := .none, half := false } := by rw [← hb]
    show Host.Outcome.next (({ s with cpu := { s.cpu with bar := { s.cpu.bar with half := false } } } : State).advance) = _
    rw [hbar]
    rfl
  | released => rfl

theorem exec_bar_released {s : State} (hh : s.cpu.bar.half = true) (ha : s.cpu.bar.arr = .released) :
    exec .bar s = .next (s.modBar fun b => { b with arr := .none, half := false }).advance := by
  show execBar s = _
  unfold execBar
  rw [if_pos hh, ha]

/-- Settles O38: an arrival by what it changes, a wait that is over and DOMSET by their conditions. -/
theorem barrierResults : Obligations.BarrierResults := by
  unfold Obligations.BarrierResults
  intro s a
  refine ⟨fun h ha => ⟨_, exec_bara h ha, ?_⟩, fun ha => ⟨_, exec_barw ha, rfl, rfl, rfl⟩,
    fun hh ha => ⟨_, exec_bar_released hh ha, rfl, rfl, rfl⟩, fun r hl harr hc => ?_⟩
  · obtain ⟨hcpu, hmem⟩ := s.barArrive_fields false
    rw [hcpu]
    exact ⟨rfl, rfl, hmem⟩
  · extract_lets x
    intro hx hv hin hr hfit
    show execDomset a s = _
    unfold execDomset
    have hbelow : s.below .runtime = false := by
      unfold State.below
      cases h : s.cpu.level
      · exact absurd h hl
      · rfl
      · rfl
    rw [hbelow, if_neg harr, State.value_of_clean hc]
    simp only [Out.bind, show s.ival a = x from rfl, hx, hv, hin, hr, hfit]
    rfl

end Sys2Proof.Machine
end

section
/-! SUPPORT. Messages and the inbox (R102, R103, R120 to R125). -/

namespace Sys2Proof.Machine

section
variable {s : State} {d a b : Nat}

theorem exec_get {p : Loc × Nat} (hp : s.msgPlace a .r = .ok p) : exec (.get d a) s =
    .next (((s.noteAccess s.cpu.core s.cpu.launch p.1 p.2).awaitNext d false).post s.cpu.core s.cpu.launch
      (.get p.1.key) false none (if p.1.recorded p.2 then some (s.cpu.core % 16) else none)).advance := by
  show execGet d a s = _
  unfold execGet
  rw [hp]
  rfl

/-- SEND to an enumerated tile of the launch's partition (R122). -/
theorem exec_send {l : Launch} (ha : s.clean a) (hl : s.curLaunch = some l) (hn : (s.ival a).toNat % 2 ^ 20 / 16 ≠ 0xFFFF)
    (he : s.enumerated ((s.ival a).toNat % 2 ^ 20 / 16) = true) (ht : l.hasTile ((s.ival a).toNat % 2 ^ 20 / 16) = true)
    (hg : (s.getG b).tag = .cap → capHas (s.getG b).val .g = true) (hack : s.acked) :
    exec (.send a b) s = .next (s.post s.cpu.core s.cpu.launch (.send ((s.ival a).toNat % 2 ^ 20) (s.getG b)) true none).advance := by
  have hglobal : ¬((s.getG b).tag = .cap ∧ capHas (s.getG b).val .g = false) := by
    rintro ⟨h, h'⟩
    rw [hg h] at h'
    cases h'
  show execSend a b s = _
  unfold execSend
  rw [State.value_of_clean ha]
  simp only [Out.bind, hn, he, hl, ht, show s.unacked = false from hack, if_neg hglobal]
  rfl

theorem exec_sendh {l : Launch} (ha : s.clean a) (hl : s.curLaunch = some l) : exec (.sendh a b) s =
    .next (s.post s.cpu.core s.cpu.launch (.record l.pkt.queue (qKey (s.queue l.pkt.queue).port (s.queue l.pkt.queue).msga)
      ([1, (s.ival a).truncate 8] ++ leBytes 2 l.pkt.pid ++ leBytes 4 s.cpu.core ++ leBytes 8 (s.ival b).toNat ++ leBytes 8 s.dtime ++
        [if (s.getG b).tag = .poison then 1 else 0] ++ zeros 3)) false none).advance := by
  show execSendh a b s = _
  unfold execSendh
  rw [State.value_of_clean ha]
  simp only [Out.bind, hl]
  rfl

/-- RECV takes the oldest entry of the inbox: its payload to gd, its source and its kind to ga (R123). -/
theorem exec_recv {e : InEntry} {rest : List InEntry} (hi : s.cpu.inbox = e :: rest) (hr : s.nearReadInFlight = false) : exec (.recv d a) s =
    .next (((s.modCpu fun c => c.takeInbox e).setG d e.val).setG a
      (word (BitVec.ofNat 64 (e.source % 2 ^ 20 + (if e.done.isSome then 1 else 0) * 2 ^ 20)))).advance := by
  show execRecv d a s = _
  unfold execRecv
  rw [hi]
  simp only [hr, Bool.false_eq_true, if_false]
  rfl

theorem State.setG_inbox (s : State) (d : Nat) (v : GReg) : (s.setG d v).cpu.inbox = s.cpu.inbox :=
  (congrArg (fun u : State => u.cpu.inbox) (s.setG_rest d v).1 :)

end

/-- Settles O37: each instruction on its checked operands. -/
theorem messageResults : Obligations.MessageResults := by
  unfold Obligations.MessageResults
  intro s d a b
  refine ⟨fun p u hp hu => ?_, fun p hp hb => ?_, fun p hp => exec_get hp, fun l ha hl => ?_, fun e rest hi hsrc hr => ?_, fun l ha hl => ?_,
    rfl, fun ha => ?_, fun hh c hc => ?_, fun hh => ?_⟩
  · show execPut a b s = _
    unfold execPut
    rw [hp]
    exact congrArg s.finish hu
  · show execPuti a b s = _
    unfold execPuti
    rw [hp, State.value_of_clean hb]
    rfl
  · extract_lets n
    exact fun hn he ht hg hack => exec_send ha hl hn he ht hg hack
  · have hexec := exec_recv (d := d) (a := a) hi hr
    have hkind : e.source % 2 ^ 20 + (if e.done.isSome then 1 else 0) * 2 ^ 20 = e.source + if e.done.isSome then 2 ^ 20 else 0 := by
      rw [Nat.mod_eq_of_lt hsrc]
      split <;> rfl
    rw [hkind] at hexec
    refine ⟨_, hexec, ?_, rfl⟩
    rw [State.setG_inbox, State.setG_inbox]
    exact congrArg (List.drop 1) hi
  · extract_lets q g
    exact exec_sendh ha hl
  · exact congrArg (fun o : Out Word => s.finish (o.bind _)) (State.value_of_clean ha)
  · show execIhret s = _
    unfold execIhret
    rw [if_pos hh, hc]
    rfl
  · show execIhret s = _
    unfold execIhret
    rw [if_neg (by rw [hh]; exact Bool.false_ne_true)]
    rfl

end Sys2Proof.Machine
end

section
/-! SUPPORT. Regions, the snapshot of the generators and launch links (R131 to R133, R325, R359, R360, R381). -/

namespace Sys2Proof.Machine

/-! ## Equal entries one after the other -/

section
variable {α : Type} {f : Nat → List α} {n : Nat} (hf : ∀ i, (f i).length = n)
include hf

theorem length_flatMap_range (m : Nat) : ((List.range m).flatMap f).length = n * m := by
  simp [List.length_flatMap, hf, Nat.mul_comm]

/-- Entry i of a list of entries of n elements each. -/
theorem take_drop_flatMap_range {i m : Nat} (hi : i < m) : (((List.range m).flatMap f).drop (n * i)).take n = f i := by
  obtain ⟨j, rfl⟩ := Nat.exists_eq_add_of_lt hi
  rw [Nat.add_assoc, List.range_add, List.flatMap_append, List.drop_left' (length_flatMap_range hf i), List.range_succ_eq_map, List.map_cons,
    List.flatMap_cons, Nat.add_zero, List.take_left' (hf i)]

end

/-! ## RNGSNAP (R132) -/

/-- An entry of the table: the generator of the one context of the launch on a core, or VALID 0. -/
theorem State.genEntry_eq (s : State) (n c k : Nat) :
    let name := s.cpu.core / 16 * 16 + c
    let at_ := fun x : Ctx => x.core = name ∧ x.launch = s.cpu.launch ∧ x.run ≠ .pairSaved
    ∃ key ctr : Word, ∃ valid : Nat, s.genEntry n c k =
        leBytes 8 key.toNat ++ leBytes 8 ctr.toNat ++ leBytes 4 name ++ leBytes 1 k ++ leBytes 1 valid ++ List.replicate 10 0 ∧
      ((∀ x ∈ s.ctxs, ¬ at_ x) → valid = 0) ∧
      (∀ x ∈ s.ctxs, at_ x → (∀ y ∈ s.ctxs, at_ y → y = x) → valid = 1 ∧ key = vget 0 x.gens.key k ∧ ctr = vget 0 x.gens.ctr k) := by
  extract_lets name at_
  have test : ∀ x : Ctx, (x.core == name && x.launch == s.cpu.launch && x.run != .pairSaved) = true ↔ at_ x := by
    intro x
    simp only [Bool.and_eq_true, beq_iff_eq, bne_iff_ne, and_assoc, at_]
  cases hfind : s.ctxs.find? fun x => x.core == name && x.launch == s.cpu.launch && x.run != .pairSaved with
  | some y =>
    have hy := List.find?_some hfind
    rw [test] at hy
    have hmem := List.mem_of_find?_eq_some hfind
    refine ⟨vget 0 y.gens.key k, vget 0 y.gens.ctr k, 1, ?_, fun h => absurd hy (h y hmem), fun x _ _ h => ?_⟩
    · unfold State.genEntry
      simp only [show s.cpu.core / 16 * 16 + c = name from rfl, hfind]
      rfl
    · rw [h y hmem hy]
      exact ⟨rfl, rfl, rfl⟩
  | none =>
    refine ⟨Config.absentGenerator n (8 * c + 2 * k), Config.absentGenerator n (8 * c + 2 * k + 1), 0, ?_, fun _ => rfl, fun x hx hat _ =>
      absurd ((test x).2 hat) (List.find?_eq_none.1 hfind x hx)⟩
    unfold State.genEntry
    simp only [show s.cpu.core / 16 * 16 + c = name from rfl, hfind]
    rfl

theorem State.length_genEntry (s : State) (n c k : Nat) : (s.genEntry n c k).length = 32 := by
  obtain ⟨_, _, _, h, -⟩ := s.genEntry_eq n c k
  simp [h]

theorem exec_rngsnap {s : State} {a ea : Nat} {loc : Loc} (ha : s.genArea a .w = .ok (loc, ea)) (hw : s.writeHeld loc.key 2048 = false) :
    exec (.rngsnap a) s = .next (s.drawFree.2.writeMem loc.key ((List.range 64).flatMap fun i => s.genEntry s.free (i / 4) (i % 4)) false false
      s.cpu.core).advance := by
  show execRngsnap a s = _
  unfold execRngsnap
  rw [ha]
  simp only [Out.bind, hw, Bool.false_eq_true, if_false]
  rfl

/-! ## RNGREST (R132) -/

/-- Generators below n that are valid restored from a table of keys and counters. -/
def Gens.restored (g : Gens) (valid : Nat → Bool) (key ctr : Nat → Word) (n : Nat) : Gens :=
  (List.range n).foldl (fun g k => if valid k then { g with key := vset g.key k (key k), ctr := vset g.ctr k (ctr k) } else g) g

theorem Gens.restored_valid (g : Gens) {valid : Nat → Bool} (key ctr : Nat → Word) {n k : Nat} (hn : n ≤ 4) (hk : k < n)
    (hv : valid k = true) : vget 0 (g.restored valid key ctr n).key k = key k ∧ vget 0 (g.restored valid key ctr n).ctr k = ctr k := by
  induction n with
  | zero => omega
  | succ n ih =>
    have hstep : g.restored valid key ctr (n + 1) = if valid n then { g.restored valid key ctr n with
        key := vset (g.restored valid key ctr n).key n (key n), ctr := vset (g.restored valid key ctr n).ctr n (ctr n) }
        else g.restored valid key ctr n := by
      rw [Gens.restored, List.range_succ, List.foldl_append]
      rfl
    rw [hstep]
    by_cases h : k = n
    · subst h
      rw [if_pos hv]
      exact ⟨(vget_vset ..).trans (if_pos ⟨rfl, by omega⟩), (vget_vset ..).trans (if_pos ⟨rfl, by omega⟩)⟩
    · have hkn := ih (by omega) (by omega)
      split
      · exact ⟨((vget_vset ..).trans (if_neg fun e => h e.1)).trans hkn.1, ((vget_vset ..).trans (if_neg fun e => h e.1)).trans hkn.2⟩
      · exact hkn

theorem State.readHeld_of_idle {s : State} (h : s.net = []) (k n : Nat) : s.readHeld k n = false := by
  simp [State.readHeld, State.ownInFlight, State.nearReadInFlight, State.shaded, h]

/-- The generators that RNGREST gives a context, from the table at a key (R132). -/
def State.restoredGens (s : State) (key : Nat) (c : Ctx) : Gens :=
  let e := fun k => key + 32 * (4 * (c.core % 16) + k)
  c.gens.restored (fun k => s.mem.nat (e k + 21) 1 == 1) (fun k => BitVec.ofNat 64 (s.mem.nat (e k) 8))
    (fun k => BitVec.ofNat 64 (s.mem.nat (e k + 8) 8)) 4

/-- With nothing in flight and every entry in place, RNGREST restores the generators of every context of the launch on the tile. -/
theorem exec_rngrest {s : State} {a ea : Nat} {loc : Loc} (hq : s.quiet) (ha : s.genArea a .r = .ok (loc, ea))
    (hm : s.mem.marked loc.key 2048 = false) (hbad : ∀ j, j < 64 → s.genBad s.mem loc.key j = false) :
    exec (.rngrest a) s = .next (s.mapCtx fun c => if c.core / 16 == s.cpu.core / 16 && c.launch == s.cpu.launch then
      { c with gens := s.restoredGens loc.key c } else c).advance := by
  obtain ⟨-, hnet, hb, hs, -, hheld, -⟩ := hq
  have hview : s.view = s.mem := by rw [State.view, hheld]; rfl
  have hall : findBelow (s.genBad s.mem loc.key) 64 = none := by
    refine List.find?_eq_none.2 fun j hj => ?_
    rw [hbad j (List.mem_range.1 hj)]
    exact Bool.false_ne_true
  show execRngrest a s = _
  unfold execRngrest
  simp only [ha, State.readHeld_of_idle hnet, State.meetRead_eq_self hb hs, hview, hm, hall, Bool.false_eq_true, if_false]
  rfl

/-! ## Launch links (R133) -/

/-- Settles O42: each instruction by its meaning; the table of RNGSNAP entry by entry, the generators of RNGREST one by one. -/
theorem regionResults : Obligations.RegionResults := by
  unfold Obligations.RegionResults
  refine ⟨fun s => ⟨_, rfl, ?_⟩, fun s a h => congrArg s.finish (if_neg h), fun s => rfl, fun s a ea loc ha hw => ?_,
    fun s a ea loc hq ha hm hbad => ?_, fun s d => ?_, fun s n hn hack hd => ?_⟩
  · exact ⟨rfl, rfl, rfl, rfl, rfl, State.pc_advance _, rfl, rfl⟩
  · have hlen : ∀ i, (s.genEntry s.free (i / 4) (i % 4)).length = 32 := fun i => s.length_genEntry _ _ _
    refine ⟨_, length_flatMap_range hlen 64, exec_rngsnap ha hw, fun c k hc hk => ?_⟩
    extract_lets name at_
    rw [take_drop_flatMap_range hlen (show 4 * c + k < 64 by omega), show (4 * c + k) / 4 = c by omega, show (4 * c + k) % 4 = k by omega]
    exact s.genEntry_eq s.free c k
  · refine ⟨_, exec_rngrest hq ha hm hbad, ?_⟩
    have hcpu : ∀ f : Ctx → Ctx, (s.mapCtx fun c => if c.core / 16 == s.cpu.core / 16 && c.launch == s.cpu.launch then f c else c).cpu =
        f s.cpu := fun f => if_pos (by simp)
    refine ⟨?_, ?_, ?_, fun k hk => ?_⟩
    · rw [State.pc_advance, State.pc4, State.pc, hcpu]
      rfl
    · rw [State.advance_mem, State.mapCtx_mem]
    · rw [State.advance_cpu_regs, hcpu]
    · intro e hv
      rw [State.advance_cpu_gens, hcpu]
      exact s.cpu.gens.restored_valid _ _ (le_refl 4) hk (valid := fun k => s.mem.nat (loc.key + 32 * (4 * (s.cpu.core % 16) + k) + 21) 1 == 1)
        (beq_iff_eq.2 hv)
  · extract_lets pred
    have hexec : exec (.waitpred d) s = execWaitpred d s := rfl
    unfold execWaitpred at hexec
    refine ⟨fun h => ?_, fun p h hst => ?_, fun p c h hst => ?_, fun p h hst hpub => ?_⟩
    all_goals rw [hexec, show (s.curLaunch.bind fun l => l.pkt.pred).bind s.launch? = _ from h]
    · rfl
    · simp only [hst]; rfl
    · simp only [hst]; rfl
    · simp only [hst, hpub]; rfl
  · show execPublish s = _
    unfold execPublish
    rw [show s.unacked = false from hack, hd, hn]
    rfl

end Sys2Proof.Machine
end

section
/-! SUPPORT. Gangs and pairs (R128, R129, R220): how a gang forms and dissolves, and what the join of a pair makes of its two contexts. -/

namespace Sys2Proof.Machine

/-! ## Gangs (R128) -/

/-- The cores of a group of n: those of equal quotient. -/
theorem gangBase_iff {n : Nat} (hn : 0 < n) (core c : Nat) : (gangBase core n ≤ c ∧ c < gangBase core n + n) ↔ c / n = core / n := by
  rw [Nat.div_eq_iff hn, gangBase]
  omega

theorem State.inGroup_iff {n : Nat} (hn : 0 < n) (s : State) (c : Ctx) :
    (decide (gangBase s.cpu.core n ≤ c.core ∧ c.core < gangBase s.cpu.core n + n) && c.launch == s.cpu.launch) = true ↔
      c.launch = s.cpu.launch ∧ c.core / n = s.cpu.core / n := by
  rw [Bool.and_eq_true, decide_eq_true_eq, beq_iff_eq, gangBase_iff hn, and_comm]

/-- A size that GANG takes (R128). -/
def gangSize (n : Nat) : Prop := n = 2 ∨ n = 4 ∨ n = 8 ∨ n = 16

theorem gangSize_test {n : Nat} (h : gangSize n) : (!(n == 2 || n == 4 || n == 8 || n == 16)) = false := by
  rcases h with rfl | rfl | rfl | rfl <;> rfl

/-- A member that goes on behind its GANG, in a gang of n (R128). -/
def Ctx.ganged (c : Ctx) (n : Nat) : Ctx :=
  { c with gang := some ⟨n, true, false⟩, stalled := false, pcc := capSetAddr c.pcc ((capAddr c.pcc + 4) % 2 ^ 52) }

/-- The acting context waits at a GANG of n. -/
def State.atGang (s : State) (n : Nat) : State := s.modCpu fun c => { c with gang := some ⟨n, false, false⟩ }

/-- The last member to execute GANG takes every member of the group on. -/
theorem exec_gang_last {s : State} {a : Nat} (ha : s.clean a) (hn : gangSize (s.ival a).toNat) (hg : s.cpu.gang = none)
    (hc : s.gangClash (s.ival a).toNat = false) (hr : (((s.atGang (s.ival a).toNat).group (s.ival a).toNat).filter fun c =>
      c.gang == some ⟨(s.ival a).toNat, false, false⟩ && c.run == .running).length = (s.ival a).toNat) :
    exec (.gang a) s = .next ((s.atGang (s.ival a).toNat).mapCtx fun c =>
      if decide (gangBase s.cpu.core (s.ival a).toNat ≤ c.core ∧ c.core < gangBase s.cpu.core (s.ival a).toNat + (s.ival a).toNat) &&
        c.launch == s.cpu.launch then c.ganged (s.ival a).toNat else c) := by
  show execGang a s = _
  unfold execGang
  rw [State.value_of_clean ha]
  simp only [gangSize_test hn, hg, hc, Bool.false_eq_true, if_false]
  exact if_pos hr

/-- GANG within its gang retires alone. -/
theorem exec_gang_within {s : State} {a : Nat} {g : GangSt} (ha : s.clean a) (hg : s.cpu.gang = some g) (hb : g.bad = false)
    (hf : g.formed = true) (hs : g.size = (s.ival a).toNat) (hn : gangSize g.size) : exec (.gang a) s = .next s.advance := by
  show execGang a s = _
  unfold execGang
  rw [State.value_of_clean ha]
  rw [hs] at hn
  simp only [gangSize_test hn, hg, hb, hf, hs, bne_self_eq_false, Bool.and_false, Bool.or_false, Bool.false_eq_true, if_false, if_true]

theorem State.dissolveGang_none {s : State} (h : s.cpu.gang = none) : s.dissolveGang = s := by
  unfold State.dissolveGang
  rw [h]

/-- The gang of the acting core and of every member dissolves. -/
theorem State.dissolveGang_formed {s : State} {g : GangSt} (hg : s.cpu.gang = some g) (hf : g.formed = true) (hn : 0 < g.size) :
    s.dissolveGang.cpu.gang = none ∧
      ∀ c ∈ s.dissolveGang.others, c.launch = s.cpu.launch → c.core / g.size = s.cpu.core / g.size → c.gang = none := by
  have hd : s.dissolveGang = s.mapCtx fun c => if g.formed && decide (s.cpu.core / g.size * g.size ≤ c.core ∧
      c.core < s.cpu.core / g.size * g.size + g.size) && c.launch == s.cpu.launch then { c with gang := none } else c := by
    unfold State.dissolveGang
    rw [hg]
  have test : ∀ c : Ctx, (g.formed && decide (s.cpu.core / g.size * g.size ≤ c.core ∧ c.core < s.cpu.core / g.size * g.size + g.size) &&
      c.launch == s.cpu.launch) = true ↔ c.launch = s.cpu.launch ∧ c.core / g.size = s.cpu.core / g.size := by
    intro c
    rw [hf, Bool.true_and]
    exact s.inGroup_iff hn c
  rw [hd, State.mapCtx_cpu, State.mapCtx_others, if_pos ((test _).2 ⟨rfl, rfl⟩)]
  refine ⟨rfl, fun c hc hl hq => ?_⟩
  obtain ⟨x, -, rfl⟩ := List.mem_map.1 hc
  by_cases hx : (g.formed && decide (s.cpu.core / g.size * g.size ≤ x.core ∧ x.core < s.cpu.core / g.size * g.size + g.size) &&
      x.launch == s.cpu.launch) = true
  · rw [if_pos hx]
  · rw [if_neg hx] at hl hq
    exact absurd ((test x).2 ⟨hl, hq⟩) hx

/-! ## The end of a pair (R129, R220) -/

/-- What UNPAIR makes of another context: the saved one of the higher core comes back. -/
def Ctx.unpaired (c : Ctx) (hi : Nat) (launch : Option Nat) (phase : BitVec 16) : Ctx :=
  if c.core == hi && c.launch == launch && c.run == .pairSaved then { c with run := .running, bar := { c.bar with phase := phase } } else c

theorem exec_unpair {s : State} (h : s.cpu.paired = true) : exec .unpair s =
    .next ({ (s.modCpu fun c => { c with csrs := { c.csrs with pairctl := 0 }, pair := PairSt.reset }) with
      others := (s.others.filter fun c => !(c.core == partner s.cpu.core && c.csrs.pairctl == pairHigh)).map fun c =>
        c.unpaired (partner s.cpu.core) s.cpu.launch s.cpu.bar.phase } : State).advance := if_pos h

theorem Ctx.unpaired_core (c : Ctx) (hi : Nat) (l : Option Nat) (p : BitVec 16) : (c.unpaired hi l p).core = c.core := by
  unfold Ctx.unpaired; split <;> rfl
theorem Ctx.unpaired_csrs (c : Ctx) (hi : Nat) (l : Option Nat) (p : BitVec 16) : (c.unpaired hi l p).csrs = c.csrs := by
  unfold Ctx.unpaired; split <;> rfl

/-! ## The join of a pair (R129, R220) -/

/-- A register that PAIR names is the runtime's own (R139). -/
def Ctx.namesOwn (c : Ctx) (d : Nat) : Bool := c.level == .runtime && decide (56 ≤ d ∧ d ≤ 59)

/-- A context with a word in a register that is not the runtime's own. -/
def Ctx.putWord (c : Ctx) (d : Nat) (x : Word) : Ctx :=
  if c.namesOwn d then c
  else { c with regs := c.regs.putCode (if c.handler && decide (48 ≤ d ∧ d ≤ 55) then d + 16 else d) (word x) }

/-- A word in a register of a context that is the runtime's own. -/
def State.putOwn (s : State) (c : Ctx) (d : Nat) (x : Word) : State :=
  if c.namesOwn d then s.updCore c.core fun k => { k with rt := vset k.rt (d - 56) (word x) } else s

/-- A context behind its PAIR. -/
def Ctx.behind (c : Ctx) : Ctx := { c with pcc := capSetAddr c.pcc ((capAddr c.pcc + 4) % 2 ^ 52), stalled := false }

/-- The lower core's context in the pair. -/
def Ctx.joinedLow (c : Ctx) (d : Nat) : Ctx := Ctx.putWord (Ctx.behind { c with csrs := { c.csrs with pairctl := pairLow }, pair := PairSt.reset }) d 0

/-- The higher core's own context, saved for the time after the pair. -/
def Ctx.joinedHigh (c : Ctx) (d : Nat) : Ctx := Ctx.putWord (Ctx.behind { c.releaseSlots with run := .pairSaved, pair := PairSt.reset }) d 1

/-- The copy of the lower core's context that the higher core runs. -/
def Ctx.checkerOf (c : Ctx) (core : Nat) : Ctx := { c with core := core, launch := none, csrs := { c.csrs with pairctl := pairHigh } }

/-- What the join changes beside the contexts: the higher core stops, and registers of the runtime take their words. -/
def State.joining (s : State) (low high : Ctx) (dlow dhigh : Nat) : State :=
  (((((s.loseLock high.core).noteSwitch high.core 6 (high.launch.getD 0)).saveLines high).putOwn low dlow 0).putOwn high dhigh 1)

/-- The other contexts that the join leaves as they are. -/
def State.besides (s : State) (low high : Ctx) : List Ctx :=
  s.others.filter fun c => !(c.core == low.core && c.launch == low.launch) && !(c.core == high.core && c.launch == high.launch)

@[simp] theorem State.saveLines_cpu (s : State) (c : Ctx) : (s.saveLines c).cpu = s.cpu := by unfold State.saveLines; split <;> rfl
@[simp] theorem State.saveLines_mem (s : State) (c : Ctx) : (s.saveLines c).mem = s.mem := by unfold State.saveLines; split <;> rfl
@[simp] theorem State.saveLines_cores (s : State) (c : Ctx) : (s.saveLines c).cores = s.cores := by unfold State.saveLines; split <;> rfl
@[simp] theorem State.putOwn_cpu (s : State) (c : Ctx) (d : Nat) (x : Word) : (s.putOwn c d x).cpu = s.cpu := by
  unfold State.putOwn; split <;> rfl
@[simp] theorem State.putOwn_mem (s : State) (c : Ctx) (d : Nat) (x : Word) : (s.putOwn c d x).mem = s.mem := by
  unfold State.putOwn; split <;> rfl

theorem State.joining_cpu (s : State) (low high : Ctx) (dlow dhigh : Nat) : (s.joining low high dlow dhigh).cpu = s.cpu := by
  simp [State.joining]
theorem State.joining_mem (s : State) (low high : Ctx) (dlow dhigh : Nat) : (s.joining low high dlow dhigh).mem = s.mem := by
  simp [State.joining]

theorem State.join_low {s : State} {low high : Ctx} (dlow dhigh : Nat) (h : s.cpu.core = low.core) : s.join low high dlow dhigh =
    { s.joining low high dlow dhigh with
      cpu := low.joinedLow dlow
      others := s.besides low high ++ [high.joinedHigh dhigh, (low.joinedLow dlow).checkerOf high.core] } :=
  if_pos (by rw [← h]; exact congrArg Ctx.core (s.joining_cpu low high dlow dhigh))

theorem State.join_high {s : State} {low high : Ctx} (dlow dhigh : Nat) (h : s.cpu.core ≠ low.core) : s.join low high dlow dhigh =
    { s.joining low high dlow dhigh with
      cpu := (low.joinedLow dlow).checkerOf high.core
      others := s.besides low high ++ [low.joinedLow dlow, high.joinedHigh dhigh] } :=
  if_neg fun e => h (by rw [← e]; exact (congrArg Ctx.core (s.joining_cpu low high dlow dhigh)).symm)

/-- A word put changes the registers alone. -/
theorem Ctx.putWord_eq (c : Ctx) (d : Nat) (x : Word) : c.putWord d x = { c with regs := (c.putWord d x).regs } := by
  unfold Ctx.putWord
  split <;> rfl

theorem Ctx.putWord_app {c : Ctx} {d : Nat} (x : Word) (hl : c.level = .app) (hh : c.handler = false) (h0 : 0 < d) (hd : d < 64) :
    vget GReg.zero (c.putWord d x).regs.g d = word x := by
  have hbank : c.namesOwn d = false := by rw [Ctx.namesOwn, hl]; rfl
  unfold Ctx.putWord Regs.putCode
  simp only [hbank, hh, Bool.false_and, Bool.false_eq_true, if_false, if_neg (Nat.ne_of_gt h0), if_pos hd]
  exact (vget_vset ..).trans (if_pos ⟨rfl, hd⟩)

/-- A word put by `putWord` and `putOwn` is a write of the register (R71, R72, R139). -/
theorem State.putWord_regs (s : State) {d : Nat} (x : Word) (hd : d < 64) : (s.cpu.putWord d x).regs = (s.setG d (word x)).cpu.regs := by
  have hown : s.cpu.namesOwn d = true ↔ s.cpu.level = .runtime ∧ 56 ≤ d ∧ d ≤ 59 := by simp [Ctx.namesOwn]
  unfold Ctx.putWord State.setG Regs.putCode
  by_cases h0 : d = 0
  · subst h0
    simp
  · rw [if_neg h0]
    by_cases ho : s.cpu.level = .runtime ∧ 56 ≤ d ∧ d ≤ 59
    · rw [if_pos (hown.2 ho), if_pos ho, State.updCore_cpu]
    · rw [if_neg (mt hown.1 ho), if_neg ho]
      by_cases hh : s.cpu.handler = true ∧ 48 ≤ d ∧ d ≤ 55
      · simp only [hh, if_pos, decide_true, Bool.and_self, State.modRegs_cpu_regs, and_self]
        rw [if_neg (by omega), if_neg (by omega), show d + 16 - 64 = d - 48 by omega]
      · have hcode : (s.cpu.handler && decide (48 ≤ d ∧ d ≤ 55)) = false := by
          rw [Bool.and_eq_false_iff, decide_eq_false_iff_not]
          by_cases h : s.cpu.handler = true
          · exact .inr fun h' => hh ⟨h, h'⟩
          · exact .inl (Bool.not_eq_true _ ▸ h)
        simp only [hcode, Bool.false_eq_true, if_false, if_neg hh, if_neg h0, if_pos hd, State.modRegs_cpu_regs]

theorem State.getG_congr {s t : State} (hl : t.cpu.level = s.cpu.level) (hh : t.cpu.handler = s.cpu.handler) (hr : t.cpu.regs = s.cpu.regs)
    (hc : (t.core t.cpu.core).rt = (s.core s.cpu.core).rt) (n : Nat) : t.getG n = s.getG n := by
  unfold State.getG
  rw [hl, hh, hr, hc]

/-- The runtime's own registers of the acting core after the join: PAIR's register among them is written there (R139). -/
theorem State.joining_rt (s : State) {high : Ctx} {d dhigh : Nat} (h : s.cpu.core ≠ high.core) :
    ((s.joining s.cpu high d dhigh).core s.cpu.core).rt = ((s.setG d (word 0)).core s.cpu.core).rt := by
  have hbase : (((s.loseLock high.core).noteSwitch high.core 6 (high.launch.getD 0)).saveLines high).core s.cpu.core = s.core s.cpu.core := by
    unfold State.core State.loseLock
    rw [State.saveLines_cores, State.noteSwitch_cores, State.unqueueLock_cores]
    exact (State.core_updCore ..).trans (if_neg h)
  have hhigh : ∀ u : State, (u.putOwn high dhigh 1).core s.cpu.core = u.core s.cpu.core := by
    intro u
    unfold State.putOwn
    split
    · rw [State.core_updCore, if_neg h]
    · rfl
  have hlow : ∀ u : State, u.core s.cpu.core = s.core s.cpu.core → ((u.putOwn s.cpu d 0).core s.cpu.core).rt = ((s.setG d (word 0)).core s.cpu.core).rt := by
    intro u hu
    have hown : s.cpu.namesOwn d = true ↔ s.cpu.level = .runtime ∧ 56 ≤ d ∧ d ≤ 59 := by simp [Ctx.namesOwn]
    unfold State.putOwn State.setG
    by_cases ho : s.cpu.level = .runtime ∧ 56 ≤ d ∧ d ≤ 59
    · rw [if_pos (hown.2 ho), if_neg (by omega), if_pos ho, State.core_updCore, if_pos rfl, State.core_updCore, if_pos rfl, hu]
    · rw [if_neg (mt hown.1 ho), if_neg ho, hu]
      split
      · rfl
      · split <;> rfl
  rw [State.joining, hhigh]
  exact hlow _ hbase

theorem partner_ne (c : Nat) : partner c ≠ c := by
  unfold partner
  split <;> omega

theorem Ctx.joinedLow_eq (c : Ctx) (d : Nat) : c.joinedLow d = { c with
    pcc := capSetAddr c.pcc ((capAddr c.pcc + 4) % 2 ^ 52), stalled := false, csrs := { c.csrs with pairctl := pairLow }
    pair := PairSt.reset, regs := (c.joinedLow d).regs } := by
  rw [Ctx.joinedLow, Ctx.putWord_eq]
  rfl

theorem Ctx.joinedHigh_eq (c : Ctx) (d : Nat) : c.joinedHigh d = { c.releaseSlots with
    pcc := capSetAddr c.pcc ((capAddr c.pcc + 4) % 2 ^ 52), stalled := false, run := .pairSaved, pair := PairSt.reset
    regs := (c.joinedHigh d).regs } := by
  rw [Ctx.joinedHigh, Ctx.putWord_eq]
  rfl

theorem Ctx.putWord_regs_congr {c c' : Ctx} (hl : c'.level = c.level) (hh : c'.handler = c.handler) (hr : c'.regs = c.regs)
    (d : Nat) (x : Word) : (c'.putWord d x).regs = (c.putWord d x).regs := by
  unfold Ctx.putWord Ctx.namesOwn
  rw [apply_ite Ctx.regs, apply_ite Ctx.regs, hl, hh, hr]

theorem Ctx.joinedLow_regs (c : Ctx) (d : Nat) : (c.joinedLow d).regs = (c.putWord d 0).regs := by
  unfold Ctx.joinedLow
  apply Ctx.putWord_regs_congr <;> rfl

theorem Ctx.joinedHigh_regs (c : Ctx) (d : Nat) : (c.joinedHigh d).regs = (c.putWord d 1).regs := by
  unfold Ctx.joinedHigh
  apply Ctx.putWord_regs_congr <;> rfl

/-- The lower core after a join has 0 in its register, and its other registers as they were. -/
theorem State.join_low_getG {s : State} {p : Ctx} {d : Nat} (dp : Nat) (hd : d < 64) (h : s.cpu.core ≠ p.core) (n : Nat) :
    (s.join s.cpu p d dp).getG n = if n = d ∧ d ≠ 0 then word 0 else s.getG n := by
  have hrest := (s.setG_rest d (word 0)).1
  have hlevel : (s.setG d (word 0)).cpu.level = s.cpu.level := (congrArg (fun u : State => u.cpu.level) hrest :)
  have hhandler : (s.setG d (word 0)).cpu.handler = s.cpu.handler := (congrArg (fun u : State => u.cpu.handler) hrest :)
  have hcore : (s.setG d (word 0)).cpu.core = s.cpu.core := (congrArg (fun u : State => u.cpu.core) hrest :)
  rw [← s.getG_setG d n (word 0) hd, State.join_low d dp rfl]
  refine State.getG_congr ?_ ?_ ?_ ?_ n
  · rw [hlevel, Ctx.joinedLow_eq]
  · rw [hhandler, Ctx.joinedLow_eq]
  · exact (s.cpu.joinedLow_regs d).trans (s.putWord_regs 0 hd)
  · rw [hcore, ← s.joining_rt (dhigh := dp) h, Ctx.joinedLow_eq]
    rfl

/-- The partner that waits at PAIR for the acting core (R129). -/
def State.waitingPartner (s : State) : Option Ctx :=
  s.others.find? fun c => c.core == partner s.cpu.core && c.launch == s.cpu.launch && c.run == .running && c.pair.waiting.isSome

theorem State.waitingPartner_core {s : State} {p : Ctx} (h : s.waitingPartner = some p) : p.core = partner s.cpu.core := by
  have hp := List.find?_some h
  simp only [Bool.and_eq_true, beq_iff_eq] at hp
  exact hp.1.1.1

theorem exec_pair_join {s : State} {d : Nat} {p : Ctx} (hu : s.cpu.paired = false) (hp : s.waitingPartner = some p) (ha : p.bar.arr ≠ .arrived)
    (ha' : s.cpu.bar.arr ≠ .arrived) : exec (.pair d) s = if s.cpu.core % 2 = 0 then .next (s.join s.cpu p d (p.pair.waiting.getD 0))
      else .next (s.join p s.cpu (p.pair.waiting.getD 0) d) := by
  unfold State.waitingPartner at hp
  show execPair d s = _
  unfold execPair
  rw [if_neg (by rw [hu]; exact Bool.false_ne_true), hp]
  exact if_neg (by rintro (h | h) <;> contradiction)

/-- Settles O39: a gang by its last member and by its end, a pair by its join and by its end. -/
theorem gangAndPairResults : Obligations.GangAndPairResults := by
  unfold Obligations.GangAndPairResults
  refine ⟨fun s a ha => ?_, fun s a g ha hg hb hf hs hn => exec_gang_within ha hg hb hf hs hn, fun s => ?_, fun s g hg hf hn =>
    State.dissolveGang_formed hg hf hn, fun s h => if_neg (by rw [h]; exact Bool.false_ne_true), fun s h => ?_, fun s d h => if_pos h,
    fun s d p hu hd hp har har' => ?_⟩
  · extract_lets n w on
    intro hn hg hc hr
    have hpos : 0 < n := by rcases hn with h | h | h | h <;> omega
    refine ⟨_, exec_gang_last ha hn hg hc hr, ?_⟩
    have hcpu : ∀ f : Ctx → Ctx, ((s.atGang n).mapCtx fun c => if decide (gangBase s.cpu.core n ≤ c.core ∧
        c.core < gangBase s.cpu.core n + n) && c.launch == s.cpu.launch then f c else c).cpu = f (s.atGang n).cpu :=
      fun f => if_pos ((s.inGroup_iff hpos (s.atGang n).cpu).2 ⟨rfl, rfl⟩)
    refine ⟨hcpu _, ?_, rfl, ?_⟩
    · rw [State.pc, hcpu]
      exact (capAddr_setAddr ..).trans (Nat.mod_mod _ _)
    · exact List.map_congr_left fun c _ => if_congr (s.inGroup_iff hpos c) rfl rfl
  · obtain ⟨g, hg⟩ := s.dissolveGang_cpu
    obtain ⟨hm, -⟩ := s.dissolveGang_rest
    refine ⟨rfl, ?_, by rw [hg], hm, State.dissolveGang_none⟩
    rw [State.pc_advance, State.pc4, State.pc, hg]
    rfl
  · extract_lets hi
    refine ⟨_, exec_unpair h, rfl, rfl, ?_, rfl, fun c hc => ?_, fun c hc hcore hl hrun hctl => ?_⟩
    · exact State.pc_advance _
    · rw [State.advance_others] at hc
      obtain ⟨x, hx, rfl⟩ := List.mem_map.1 hc
      rw [Ctx.unpaired_core, Ctx.unpaired_csrs]
      rintro ⟨h1, h2⟩
      have := (List.mem_filter.1 hx).2
      rw [h1, h2] at this
      simp [hi] at this
    · rw [State.advance_others]
      refine List.mem_map.2 ⟨c, List.mem_filter.2 ⟨hc, ?_⟩, ?_⟩
      · simp [hctl]
      · exact if_pos (by simp [hcore, hl, hrun, hi])
  · have hexec := exec_pair_join (d := d) hu hp har har'
    have hcore := State.waitingPartner_core hp
    have hne : s.cpu.core ≠ p.core := by rw [hcore]; exact (partner_ne _).symm
    by_cases heven : s.cpu.core % 2 = 0
    · rw [if_pos heven] at hexec
      have hjoin := State.join_low (s := s) (high := p) d (p.pair.waiting.getD 0) rfl
      refine ⟨_, hexec, ?_, fun _ => ⟨?_, ?_, ?_, fun n _ => State.join_low_getG _ hd hne n, ?_, ?_⟩, fun h => by omega⟩
      · rw [hjoin]
        exact s.joining_mem ..
      · rw [hjoin, Ctx.joinedLow_eq]
        rfl
      · rw [hjoin, Ctx.joinedLow_eq]
      · rw [hjoin, State.pc, Ctx.joinedLow_eq]
        exact (capAddr_setAddr ..).trans (Nat.mod_mod _ _)
      · refine ⟨p.joinedHigh (p.pair.waiting.getD 0), by rw [hjoin]; simp, ?_, ?_, ?_, ?_, fun w hw hl hh h0 h64 => ?_⟩
        · rw [Ctx.joinedHigh_eq]; rfl
        · rw [Ctx.joinedHigh_eq]; rfl
        · rw [Ctx.joinedHigh_eq]
        · rw [Ctx.joinedHigh_eq]
        · rw [Ctx.joinedHigh_regs, hw]
          exact Ctx.putWord_app 1 hl hh h0 h64
      · rw [hjoin]
        exact List.mem_append_right _ (List.mem_cons_of_mem _ (List.mem_singleton_self _))
    · rw [if_neg heven] at hexec
      have hjoin := State.join_high (s := s) (high := s.cpu) (p.pair.waiting.getD 0) d hne
      refine ⟨_, hexec, ?_, fun h => absurd h heven, fun _ => ⟨?_, ?_, ?_, ?_, ?_⟩⟩
      · rw [hjoin]
        exact s.joining_mem ..
      · rw [hjoin]; rfl
      · rw [hjoin]; rfl
      · rw [hjoin]; rfl
      · refine ⟨p.joinedLow (p.pair.waiting.getD 0), by rw [hjoin]; simp, ?_, ?_, ?_, ?_, by rw [hjoin]; rfl, fun w hw hl hh h0 h64 => ?_⟩
        · rw [Ctx.joinedLow_eq]
        · rw [Ctx.joinedLow_eq]
        · rw [Ctx.joinedLow_eq]; rfl
        · rw [Ctx.joinedLow_eq]
        · rw [Ctx.joinedLow_regs, hw]
          exact Ctx.putWord_app 0 hl hh h0 h64
      · refine ⟨s.cpu.joinedHigh d, by rw [hjoin]; simp, ?_, ?_, ?_⟩
        · rw [Ctx.joinedHigh_eq]; rfl
        · rw [Ctx.joinedHigh_eq]; rfl
        · rw [Ctx.joinedHigh_eq]

end Sys2Proof.Machine
end

section
/-! SUPPORT. Tasks (R118, R119, R211 to R219): where a push stands, what a spread RANGE leaves, and the entry that TRIG takes. -/

namespace Sys2Proof.Machine

/-! ## Tasks in a gang (R219) -/

theorem State.noGang_of_none {s : State} (h : s.cpu.gang = none) (w : Nat) : s.noGang w = .ok () := by
  unfold State.noGang
  rw [h]
  rfl

theorem State.noGang_of_some {s : State} {g : GangSt} (h : s.cpu.gang = some g) (w : Nat) : s.noGang w = .trap (illegal w) := by
  unfold State.noGang
  rw [h]
  rfl

/-- Past its stop by a trap the acting context is in no gang, and the members of its gang stand as the gang's end left them (R128). -/
theorem State.stopped_gang {s : State} {w : Word} (h : s.dissolveGang.cpu.gang = none) :
    (s.stopped w).cpu.gang = none ∧ (s.stopped w).others = s.dissolveGang.others := by
  have ha : s.dissolveGang.abandon.cpu.gang = none := by
    show (match s.dissolveGang.cpu.gang with | some g => if g.formed then some g else none | none => none) = none
    rw [h]
  unfold State.stopped
  extract_lets u
  have hu : u.cpu.gang = none := (congrArg Ctx.gang (State.loseLock_cpu ..)).trans ha
  have ho : u.others = s.dissolveGang.others := State.loseLock_others ..
  split
  · rw [State.noteSwitch_cpu, State.noteSwitch_others]
    exact ⟨hu, ho⟩
  · exact ⟨hu, ho⟩

/-- A trap in a formed gang dissolves it (R128). -/
theorem State.takeTrap_gang {s : State} {x : Trap} (h : s.takesTraps) (h8 : x.cause ≠ 8) {g : GangSt} (hg : s.cpu.gang = some g)
    (hf : g.formed = true) (hn : 0 < g.size) : (s.takeTrap x).cpu.gang = none ∧
      ∀ c ∈ (s.takeTrap x).others, c.launch = s.cpu.launch → c.core / g.size = s.cpu.core / g.size → c.gang = none := by
  obtain ⟨hcpu, hothers⟩ := State.dissolveGang_formed hg hf hn
  obtain ⟨hsc, hso⟩ := State.stopped_gang (w := BitVec.ofNat 64 x.cause) hcpu
  rw [State.takeTrap_eq, State.trapFrom_of_ne h8, State.takeTrapWord_of _ _ _ _ h]
  refine ⟨hsc, fun c hc => hothers c ?_⟩
  rw [← hso]
  exact hc

/-! ## Pushes (R118, R211, R212) -/

theorem State.spillSlot_eq (s : State) : s.spillSlot = (s.curLaunch.map Launch.spillBase).getD 0 +
    32 * ((s.cpu.task.spillTop + s.cpu.task.spill.length) % 192) := by
  unfold State.spillSlot
  split
  · next h => rw [h, Option.map_some, Option.getD_some]
  · next h => rw [h, Option.map_none, Option.getD_none]

theorem State.pushTask_full {s : State} (h : s.cpu.task.full = true) (x : Task) : s.pushTask x = .trap ⟨3, s.spillSlot, 0⟩ := if_pos h

theorem State.pushTask_room {s : State} (h : s.cpu.task.full = false) (x : Task) :
    s.pushTask x = .ok ((s.modTask fun q => q.push x).spillFor s.cpu) := if_neg (by rw [h]; exact Bool.false_ne_true)

theorem State.writeMem_pc (s : State) (k : Nat) (bs : List Byte) (t p : Bool) (b : Nat) : (s.writeMem k bs t p b).pc = s.pc := by
  have dirty : ∀ (u : State) (n : Nat), (u.markDirty k n).cpu = u.cpu := by
    intro u n
    unfold State.markDirty
    split
    · rfl
    · split <;> simp
  unfold State.writeMem State.pc
  simp only [State.mapCtx_cpu, fireTriggers, dirty]
  rw [State.cpu_of_frame (s.meetWrite_frame k bs.length b)]

@[simp] theorem State.writeSlot_launches (s : State) (c : Ctx) (i : Nat) (x : Task) : (s.writeSlot c i x).launches = s.launches := by
  unfold State.writeSlot
  split
  · exact State.writeMem_launches ..
  · rfl

theorem State.writeSlot_pc (s : State) (c : Ctx) (i : Nat) (x : Task) : (s.writeSlot c i x).pc = s.pc := by
  unfold State.writeSlot
  split
  · exact State.writeMem_pc ..
  · rfl

@[simp] theorem State.spillFor_launches (s : State) (c : Ctx) : (s.spillFor c).launches = s.launches := by
  unfold State.spillFor
  split
  · split
    · exact State.writeSlot_launches ..
    · rfl
  · rfl

@[simp] theorem State.spillFor_pc (s : State) (c : Ctx) : (s.spillFor c).pc = s.pc := by
  unfold State.spillFor
  split
  · split
    · exact State.writeSlot_pc ..
    · rfl
  · rfl

theorem exec_spawn_push {s : State} {a : Nat} {x : Task} (hg : s.cpu.gang = none) (hx : s.descriptor a (wordOfInstr (.spawn a)) false = .ok (x, false))
    (hacked : s.acked) : exec (.spawn a) s = s.finish (s.pushTask x) := by
  show execSpawn a s = _
  unfold execSpawn
  extract_lets w
  rw [State.noGang_of_none hg, hx]
  exact congrArg s.finish (if_neg (by rw [hacked]; exact Bool.false_ne_true))

theorem exec_range_push {s : State} {a : Nat} {x : Task} (hg : s.cpu.gang = none) (hx : s.descriptor a (wordOfInstr (.range a)) true = .ok (x, false))
    (hacked : s.acked) : exec (.range a) s = s.finish (s.pushTask x) := by
  show execRange a s = _
  unfold execRange
  extract_lets w
  rw [State.noGang_of_none hg, hx]
  exact congrArg s.finish (if_neg (by rw [hacked]; exact Bool.false_ne_true))

/-! ## A spread RANGE (R217) -/

/-- The shares of a spread task that stay on the acting core's die, and those that leave it. -/
def State.ownShares (s : State) (l : Launch) (x : Task) : List (Nat × Task) := (s.shares l x).filter fun p => p.1 == s.dieOf (s.cpu.core / 16)
def State.farShares (s : State) (l : Launch) (x : Task) : List (Nat × Task) := (s.shares l x).filter fun p => p.1 != s.dieOf (s.cpu.core / 16)

/-- The push of the share that stays. -/
def State.pushOwn (s : State) (l : Launch) (x : Task) : Out State :=
  match s.ownShares l x with
  | p :: _ => s.pushTask p.2
  | [] => .ok s

/-- The launch notes the shares that leave. -/
def State.sendShares (t s : State) (n : Nat) (l : Launch) (x : Task) : State :=
  t.updLaunch n fun q => { q with shares := q.shares ++ (s.farShares l x).map fun p => Share.mk (s.dieOf (s.cpu.core / 16)) p.1 p.2 }

theorem State.launch?_sendShares {t s : State} {n : Nat} {l : Launch} (x : Task) (h : t.launch? n = some l) : (t.sendShares s n l x).launch? n =
    some { l with shares := l.shares ++ (s.farShares l x).map fun p => Share.mk (s.dieOf (s.cpu.core / 16)) p.1 p.2 } := by
  rw [State.sendShares, State.launch?_updLaunch, if_pos rfl, h, Option.map_some]

theorem exec_range_spread {s : State} {a n : Nat} {x : Task} {l : Launch} (hg : s.cpu.gang = none)
    (hx : s.descriptor a (wordOfInstr (.range a)) true = .ok (x, true)) (hacked : s.acked) (hn : s.cpu.launch = some n) (hl : s.launch? n = some l)
    (hdets : s.detsOpen (s.cpu.core / 16) = false) :
    exec (.range a) s = s.finish ((s.pushOwn l x).bind fun t => .ok (t.sendShares s n l x)) := by
  have hcur : s.curLaunch = some l := by rw [State.curLaunch, hn]; exact hl
  show execRange a s = _
  unfold execRange
  extract_lets w
  rw [State.noGang_of_none hg, hx]
  refine congrArg s.finish ((if_neg (by rw [hacked]; exact Bool.false_ne_true)).trans ?_)
  rw [hcur, hn]
  exact if_neg (by rw [hdets, Bool.and_false]; exact Bool.false_ne_true)

theorem State.pushOwn_full {s : State} {l : Launch} {x : Task} (h : s.cpu.task.full = true)
    (hp : ∃ p ∈ s.shares l x, p.1 = s.dieOf (s.cpu.core / 16)) : s.pushOwn l x = .trap ⟨3, s.spillSlot, 0⟩ := by
  obtain ⟨p, hp, heq⟩ := hp
  have hmem : p ∈ s.ownShares l x := List.mem_filter.2 ⟨hp, beq_iff_eq.2 heq⟩
  unfold State.pushOwn
  split
  · exact State.pushTask_full h _
  · next h0 => rw [h0] at hmem; cases hmem

theorem State.pushOwn_room {s : State} (h : s.cpu.task.full = false) (l : Launch) (x : Task) :
    ∃ t, s.pushOwn l x = .ok t ∧ t.launches = s.launches ∧ t.pc = s.pc := by
  unfold State.pushOwn
  split
  · exact ⟨_, State.pushTask_room h _, State.spillFor_launches .., State.spillFor_pc ..⟩
  · exact ⟨s, rfl, rfl, rfl⟩

/-! ## The waiting-task table (R119, R218) -/

theorem TaskSt.mem_freeTrigs {t : TaskSt} {k : Nat} : k ∈ t.freeTrigs ↔ k < 32 ∧ vget .free t.trig k = .free := by
  rw [TaskSt.freeTrigs, List.mem_filter, List.mem_range, beq_iff_eq]

theorem State.freeTrig_none {s : State} (h : s.cpu.task.freeTrigs = []) : s.freeTrig = none := by
  unfold State.freeTrig
  rw [h]

/-- The entry that TRIG takes is a free one; the draw says which (log entry 22). -/
theorem State.freeTrig_some {s : State} (h : s.cpu.task.freeTrigs ≠ []) :
    ∃ k, k ∈ s.cpu.task.freeTrigs ∧ s.freeTrig = some (k, s.drawFree.2) := by
  unfold State.freeTrig
  obtain ⟨x, xs, hfs⟩ := List.exists_cons_of_ne_nil h
  rw [hfs]
  refine ⟨_, ?_, rfl⟩
  have hlt : Config.trigEntry s.free % (x :: xs).length < (x :: xs).length := Nat.mod_lt _ (Nat.succ_pos _)
  show (x :: xs).getD (Config.trigEntry s.free % (x :: xs).length) x ∈ x :: xs
  rw [List.getD_eq_getElem _ _ hlt]
  exact List.getElem_mem hlt

theorem State.ownInFlight_of_net {s : State} (h : s.net = []) (k n : Nat) : s.ownInFlight k n = false := by
  rw [State.ownInFlight, h]
  rfl

/-- What TRIG makes of the table once its operands are checked. -/
theorem exec_trig {s : State} {d a b : Nat} {x : Task} (hg : s.cpu.gang = none) (hx : s.descriptor b (wordOfInstr (.trig d a b)) false = .ok (x, false))
    (hd : s.clean d) (hgr : s.grants a (s.ea a 0) 8 .r) (hea : s.ea a 0 + 8 ≤ 0x20000) (hnet : s.net = []) :
    exec (.trig d a b) s = s.finish (match s.freeTrig with
      | none => .ok (s.put d (BitVec.allOnes 64))
      | some (i, t) => .ok ((t.modTask fun q => { q with trig := vset q.trig i (if t.mem.nat (tcmKey s.cpu.core (s.ea a 0)) 8 = (s.ival d).toNat
          then .firing x else .armed (tcmKey s.cpu.core (s.ea a 0)) (s.ival d) x) }).put d (BitVec.ofNat 64 i))) := by
  show execTrig d a b s = _
  unfold execTrig
  extract_lets w ea
  rw [State.noGang_of_none hg, capCheck_of_grants hgr, State.value_of_clean hd, hx]
  refine congrArg s.finish ((if_neg (Nat.not_lt.2 hea)).trans ((if_neg ?_).trans ?_))
  · rw [State.ownInFlight_of_net hnet]
    exact Bool.false_ne_true
  · rfl

theorem exec_trig_outside {s : State} {d a b : Nat} (hg : s.cpu.gang = none) (hgr : s.grants a (s.ea a 0) 8 .r) (hea : 0x20000 < s.ea a 0 + 8) :
    exec (.trig d a b) s = .next (s.takeTrap ⟨4, s.ea a 0, 0⟩) := by
  show execTrig d a b s = _
  unfold execTrig
  extract_lets w ea
  rw [State.noGang_of_none hg, capCheck_of_grants hgr]
  exact congrArg s.finish (if_pos hea)

theorem exec_untrig {s : State} {d a : Nat} (hg : s.cpu.gang = none) (ha : s.clean a) :
    exec (.untrig d a) s = s.finish (match vget .free s.cpu.task.trig ((s.ival a).toNat % 32) with
      | .armed _ _ _ => .ok ((s.modTask fun t => { t with trig := vset t.trig ((s.ival a).toNat % 32) .free }).put d 1)
      | .free => .ok (s.put d 0)
      | .firing _ => .ok (s.put d 0)) := by
  show execUntrig d a s = _
  unfold execUntrig
  rw [State.noGang_of_none hg, State.value_of_clean ha]
  rfl

/-! ## DONE, TAKE, YIELD and CHUNK (R118, R214) -/

theorem exec_done {s : State} (hg : s.cpu.gang = none) : exec .done s = .next s.done := by
  show execDone s = _
  unfold execDone
  rw [State.noGang_of_none hg]

theorem exec_take {s : State} {d a : Nat} (hg : s.cpu.gang = none) : exec (.take d a) s = s.finish (match s.cpu.task.pop with
    | none => .ok (s.put d 0)
    | some (x, t) => .ok ((((s.modTask fun _ => t).setG a x.regs.1).setG (a + 1) x.regs.2).put d 1)) := by
  show execTake d a s = _
  unfold execTake
  rw [State.noGang_of_none hg]
  rfl

theorem exec_yield_none {s : State} (hg : s.cpu.gang = none) (hy : s.yieldTo = none) : exec .yield s = .next s.advance := by
  show execYield s = _
  unfold execYield
  rw [State.noGang_of_none hg, hy]

theorem exec_yield_some {s : State} {c : Ctx} (hg : s.cpu.gang = none) (hy : s.yieldTo = some c) :
    exec .yield s = .next (s.advance.switchTo c) := by
  show execYield s = _
  unfold execYield
  rw [State.noGang_of_none hg, hy]

theorem exec_chunk_range {s : State} {d a lo hi c : Nat} {x : Task} (hg : s.cpu.gang = none) (hx : s.cpu.task.current = some x)
    (hb : x.body = .range lo hi c) : exec (.chunk d a) s =
      .next (((s.modTask fun q => { q with current := some { x with body := .range (Nat.min (lo + c) hi) hi c } }).setG d
        (word (BitVec.ofNat 64 lo))).setG a (word (BitVec.ofNat 64 (Nat.min (lo + c) hi)))).advance := by
  show execChunk d a s = _
  unfold execChunk
  rw [State.noGang_of_none hg, hx]
  simp only [hb]
  rfl

theorem exec_chunk_plain {s : State} {d a : Nat} (hg : s.cpu.gang = none)
    (h : ∀ x lo hi c, s.cpu.task.current = some x → x.body ≠ .range lo hi c) :
    exec (.chunk d a) s = .next ((s.setG d (word 0)).setG a (word 0)).advance := by
  show execChunk d a s = _
  unfold execChunk
  rw [State.noGang_of_none hg]
  cases hx : s.cpu.task.current with
  | none => rfl
  | some x =>
    cases hb : x.body with
    | range lo hi c => exact absurd hb (h x lo hi c hx)
    | plain p q =>
      simp only [hb]
      rfl

/-- In a gang every TASK instruction but DEQN is illegal (R219). -/
theorem exec_task_of_gang {s : State} {g : GangSt} (h : s.cpu.gang = some g) (d a b : Nat) :
    ∀ x ∈ [Instr.spawn a, .range a, .take d a, .done, .yield, .trig d a b, .untrig d a, .chunk d a],
      exec x s = .next (s.takeTrap (illegal (wordOfInstr x))) := by
  have hfin : ∀ (w : Nat) (f : Unit → Out State), s.finish ((s.noGang w).bind f) = .next (s.takeTrap (illegal w)) := by
    intro w f
    rw [State.noGang_of_some h]
    rfl
  have hdone : exec .done s = .next (s.takeTrap (illegal (wordOfInstr .done))) := by
    show execDone s = _
    unfold execDone
    rw [State.noGang_of_some h]
  have hyield : exec .yield s = .next (s.takeTrap (illegal (wordOfInstr .yield))) := by
    show execYield s = _
    unfold execYield
    rw [State.noGang_of_some h]
  intro x hx
  simp only [List.mem_cons, List.not_mem_nil, or_false] at hx
  rcases hx with rfl | rfl | rfl | rfl | rfl | rfl | rfl | rfl
  · exact hfin _ _
  · exact hfin _ _
  · exact hfin _ _
  · exact hdone
  · exact hyield
  · exact hfin _ _
  · exact hfin _ _
  · exact hfin _ _

/-- Settles O35: each task instruction outside a gang, and their trap within one. -/
theorem taskResults : Obligations.TaskResults := by
  unfold Obligations.TaskResults
  intro s d a b
  refine ⟨fun g hg x hx => ⟨exec_task_of_gang hg d a b x hx, fun ht hf hn => State.takeTrap_gang ht (by simp [illegal]) hg hf hn⟩, rfl, fun hg => ?_⟩
  extract_lets slot
  have hslot : s.spillSlot = slot := s.spillSlot_eq
  refine ⟨fun hfull hacked => ⟨fun x hx => ?_, fun x hx => ?_, fun x l hx hl hdets hown => ?_⟩, fun x hx hacked hroom => ?_, fun x hx hacked hroom => ?_,
    fun x n l hx hacked hroom hn hdets hl => ?_, fun x q hp => ?_, fun hp => ?_, fun x y q hr hroom hp => ?_, fun x q hr hp => ?_,
    fun hr hp => ?_, fun x hr hfull => ?_, fun hy => ?_, fun c hy => ?_, exec_chunk_plain hg, fun x lo hi c hx hb => exec_chunk_range hg hx hb,
    fun x hx hd hgr hea hnet => ?_, exec_trig_outside hg, fun ha ht => ?_, fun ha k thr x ht => ?_⟩
  · rw [exec_spawn_push hg hx hacked, State.pushTask_full hfull, hslot]
    rfl
  · rw [exec_range_push hg hx hacked, State.pushTask_full hfull, hslot]
    rfl
  · obtain ⟨n, hn, hl⟩ := Option.bind_eq_some_iff.1 hl
    rw [exec_range_spread hg hx hacked hn hl hdets, State.pushOwn_full hfull hown, hslot]
    rfl
  · rw [exec_spawn_push hg hx hacked, State.pushTask_room hroom]
    rfl
  · rw [exec_range_push hg hx hacked, State.pushTask_room hroom]
    rfl
  · obtain ⟨t, ht, hlaunches, hpc⟩ := State.pushOwn_room hroom l x
    refine ⟨(t.sendShares s n l x).advance, ?_, ?_, ?_⟩
    · rw [exec_range_spread hg hx hacked hn hl hdets, ht]
      rfl
    · rw [State.pc_advance, State.pc4, State.pc, State.sendShares, (t.updLaunch_undisturbed _ _).1, ← State.pc, hpc, State.pc4]
    · rw [State.launch?_congr (State.advance_launches _), State.launch?_sendShares x ((State.launch?_congr hlaunches n).trans hl)]
      rfl
  · rw [exec_take hg, hp]
    rfl
  · rw [exec_take hg, hp]
    rfl
  · rw [exec_done hg, State.done, hr]
    simp only [hroom, hp, Bool.false_eq_true, if_false]
  · rw [exec_done hg, State.done, hr]
    simp only [hp]
  · rw [exec_done hg, State.done, hr]
    simp only [hp]
    rfl
  · rw [exec_done hg, State.done, hr, ← hslot]
    simp only [hfull, if_true]
  · exact exec_yield_none hg hy
  · exact ⟨s.advance.switchTo c, exec_yield_some hg hy, rfl⟩
  · refine ⟨fun hfree => ?_, fun hfree => ?_⟩
    · obtain ⟨k, hk, hdraw⟩ := State.freeTrig_some hfree
      obtain ⟨hlt, hfr⟩ := TaskSt.mem_freeTrigs.1 hk
      refine ⟨k, hlt, hfr, ?_⟩
      rw [exec_trig hg hx hd hgr hea hnet, hdraw]
      rfl
    · have hnil : s.cpu.task.freeTrigs = [] :=
        List.eq_nil_iff_forall_not_mem.2 fun k hk => hfree k (TaskSt.mem_freeTrigs.1 hk).1 (TaskSt.mem_freeTrigs.1 hk).2
      rw [exec_trig hg hx hd hgr hea hnet, State.freeTrig_none hnil]
      rfl
  · rw [exec_untrig hg ha]
    rcases ht with ht | ⟨x, ht⟩ <;> rw [ht] <;> rfl
  · rw [exec_untrig hg ha, ht]
    rfl

end Sys2Proof.Machine
end

section
/-! SUPPORT. Messages and links (R103, R108, R337 to R343, R386): what a read finds in the network, in the channels and in the links after a
change of one of them, and what the arrival of a register message or of a response makes of its receiver. -/

namespace Sys2Proof.Machine

/-! ## The network and the channels (R386) -/

theorem State.msg?_id {s : State} {n : Nat} {m : Msg} (h : s.msg? n = some m) : m.id = n := by
  have := List.find?_some h
  exact beq_iff_eq.1 this

@[simp] theorem State.msg?_dropMsg (s : State) (n : Nat) : (s.dropMsg n).msg? n = none := by
  refine List.find?_eq_none.2 fun m hm => ?_
  have := (List.mem_filter.1 hm).2
  simpa using this

/-- A message found after a change of the messages of its id is a changed one. -/
theorem State.msg?_updMsg {s : State} {n : Nat} {f : Msg → Msg} {y : Msg} (h : (s.updMsg n f).msg? n = some y) :
    ∃ m, y = f m := by
  obtain ⟨m, -, hm⟩ := List.mem_map.1 (List.mem_of_find?_eq_some h)
  by_cases hn : m.id = n
  · exact ⟨m, by rw [← hm, if_pos hn]⟩
  · rw [if_neg hn] at hm
    exact absurd (hm ▸ State.msg?_id h) hn

theorem State.channel_setChannel (s : State) {c : Channel} {src chan : Nat} (hs : c.src = src) (hc : c.chan = chan) :
    (s.setChannel c).channel src chan = c := by
  subst hs hc
  unfold State.channel State.setChannel
  rw [List.find?_cons_of_pos (by simp)]
  rfl

theorem State.channel_key (s : State) (src chan : Nat) : (s.channel src chan).src = src ∧ (s.channel src chan).chan = chan := by
  unfold State.channel
  cases h : s.fabric.channels.find? fun c => c.src == src && c.chan == chan with
  | none => exact ⟨rfl, rfl⟩
  | some c =>
    have := List.find?_some h
    rw [Bool.and_eq_true, beq_iff_eq, beq_iff_eq] at this
    exact this

theorem State.channel_updMsg (s : State) (n : Nat) (f : Msg → Msg) (src chan : Nat) : (s.updMsg n f).channel src chan = s.channel src chan := rfl

/-- A channel takes the number after its last one in order (R386). -/
theorem seqTest_next (a : BitVec 32) : seqTest a (a + 1) = .inOrder := by
  have h : (a + 1 - a).toNat = 1 := by rw [BitVec.add_comm, BitVec.add_sub_cancel]; rfl
  unfold seqTest
  rw [h]
  rfl

/-! ## A register message reaches its inbox (R122) -/

/-- A SEND in order is performed, and its channel has accepted its number. -/
theorem State.reach_send {s u : State} {n c : Nat} {m : Msg} {v : GReg} (hm : s.msg? n = some m) (hk : m.kind = .send c v) (hp : m.st ≠ .performed)
    (hl : m.st ≠ .lost) (hh : m.st ≠ .held) (hstop : s.senderStopped m = false) (hup : s.heldUp m (.tile (c / 16)) = false)
    (hab : s.absent m.core m.launch (.tile (c / 16)) = false) (href : s.refusing (c / 16) = false)
    (hseq : m.seq = (s.channel (m.core / 16) m.chan).accepted + 1)
    (hu : (s.notePort m (.tile (c / 16))).placeSend c m.launch v m.core = some u) :
    ((s.reach n).channel (m.core / 16) m.chan).accepted = m.seq ∧ ∀ y, (s.reach n).msg? n = some y → y.st = .performed := by
  have hhome : m.kind.home = some (.tile (c / 16)) := by rw [hk]; rfl
  have hrec : m.isRecord = false := by unfold Msg.isRecord; rw [hk]
  have hreq : m.isRequest = false := by unfold Msg.isRequest; rw [hk]
  have hnum : m.kind.takesNumber (m.core / 16) = true := by rw [hk]; rfl
  have hport : s.portTaken m = false := by unfold State.portTaken; rw [hk]
  have hlock : s.lockHolds m = none := by unfold State.lockHolds; rw [hk]
  have hperf : (s.notePort m (.tile (c / 16))).perform m = some (if m.counted then u.receive c m.launch else u) := by
    unfold State.perform
    rw [hk]
    simp only [hu, Option.map_some]
  have hrefuse : s.homeRefuses (.tile (c / 16)) = false := href
  have htest : seqTest (s.channel (m.core / 16) m.chan).accepted m.seq = .inOrder := by rw [hseq]; exact seqTest_next _
  have key : ∃ (t : State) (rs : List (BitVec 32 × GReg)), s.reach n = (t.setChannel { t.channel (m.core / 16) m.chan with
      accepted := m.seq, results := rs }).updMsg n fun y => { y with st := .performed } := by
    unfold State.reach
    rw [hm]
    simp only [hhome]
    rw [if_neg (by simp [hp, hl, hh, hup, hstop]), if_neg (by simp [hab]), if_neg (by simp [hrefuse])]
    simp only [hnum, htest, if_true, hport, hlock, hperf, hreq, Bool.false_eq_true, if_false]
    exact ⟨_, _, rfl⟩
  obtain ⟨t, rs, hreach⟩ := key
  obtain ⟨hsrc, hchan⟩ := t.channel_key (m.core / 16) m.chan
  rw [hreach]
  refine ⟨?_, fun y hy => ?_⟩
  · rw [State.channel_updMsg]
    rw [State.channel_setChannel t (by exact hsrc) (by exact hchan)]
  · obtain ⟨x, rfl⟩ := State.msg?_updMsg hy
    rfl

/-! ## A response reaches its register (R103) -/

/-- What a response makes of a context that awaits it. -/
def Ctx.answered (m : Msg) (n : Nat) (v : GReg) (c : Ctx) : Ctx :=
  if (c.core == m.core && c.launch == m.launch) || c.csrs.pairctl.getLsbD 1 then
    match c.regs.pend.find? fun p => p.2 == n with
    | some p =>
      { c with
        regs := { (c.regs.putCode p.1 v) with pend := c.regs.pend.filter fun q => q.2 != n }
        pair := if c.csrs.pairctl.getLsbD 0 then { c.pair with fresh := c.pair.fresh ++ [p.1] } else c.pair }
    | none => c
  else c

theorem Ctx.answered_regs {c : Ctx} {m : Msg} {n d : Nat} {v : GReg} (hc : c.core = m.core) (hl : c.launch = m.launch)
    (hp : c.regs.pend.find? (fun p => p.2 == n) = some (d, n)) :
    (c.answered m n v).regs = { (c.regs.putCode d v) with pend := c.regs.pend.filter fun q => q.2 != n } := by
  unfold Ctx.answered
  rw [if_pos (by simp [hc, hl]), hp]

theorem Regs.putCode_g (r : Regs) {d : Nat} (v : GReg) (hd : d < 64) (h0 : d ≠ 0) (k : Nat) :
    vget GReg.zero (r.putCode d v).g k = if k = d then v else vget GReg.zero r.g k := by
  unfold Regs.putCode
  rw [if_neg h0, if_pos hd]
  refine (vget_vset ..).trans (if_congr ?_ rfl rfl)
  exact ⟨fun h => h.1, fun h => ⟨h, hd⟩⟩

/-- A response to one of the runtime's own registers is written in the core, in both cores of a pair (R139, R365). -/
def State.answeredRt (s : State) (m : Msg) (n : Nat) (v : GReg) : State :=
  match (m.launch.bind fun l => s.ctxOf m.core l).bind fun x => x.regs.pend.find? fun p => p.2 == n with
  | some p =>
    if 72 ≤ p.1 ∧ p.1 < 76 then
      let set := fun (s : State) (core : Nat) => s.updCore core fun c => { c with rt := vset c.rt (p.1 - 72) v }
      let pair := s.ctxs.any fun x => x.core == m.core + 1 && x.csrs.pairctl.getLsbD 1 && x.regs.pend.any fun q => q.2 == n
      if pair then set (set s m.core) (m.core + 1) else set s m.core
    else s
  | none => s

/-- A response whose value is a determinant is recorded as one (R390). -/
def State.answeredDet (s : State) (m : Msg) (v : GReg) : State :=
  match m.noted with
  | some a => s.noteDet (m.core / 16) (.value a (leBytes 8 v.val.toNat))
  | none => s

theorem State.answeredRt_cpu_mem (s : State) (m : Msg) (n : Nat) (v : GReg) : (s.answeredRt m n v).cpu = s.cpu ∧ (s.answeredRt m n v).mem = s.mem := by
  unfold State.answeredRt
  split
  · split
    · extract_lets set pair
      split
      · exact ⟨rfl, rfl⟩
      · exact ⟨rfl, rfl⟩
    · exact ⟨rfl, rfl⟩
  · exact ⟨rfl, rfl⟩

theorem State.answeredDet_cpu_mem (s : State) (m : Msg) (v : GReg) : (s.answeredDet m v).cpu = s.cpu ∧ (s.answeredDet m v).mem = s.mem := by
  unfold State.answeredDet
  split
  · exact ⟨State.noteDet_cpu .., State.noteDet_mem ..⟩
  · exact ⟨rfl, rfl⟩

theorem State.respond_eq {s : State} {n : Nat} {m : Msg} {v : GReg} (hm : s.msg? n = some m) (hk : m.kind = .resp v) (hst : m.st = .sent)
    (hcross : s.crossing n = false) (hstop : s.senderStopped m = false) :
    s.respond n = (((s.answeredRt m n v).answeredDet m v).mapCtx (Ctx.answered m n v)).dropMsg n := by
  unfold State.respond
  rw [hm]
  simp only [hk]
  rw [if_neg (by simp [hst, hstop, hcross])]
  rfl

/-- A response in flight is written into the acting context's register that awaits it, and leaves the network. -/
theorem State.respond_acting {s : State} {n d : Nat} {m : Msg} {v : GReg} (hm : s.msg? n = some m) (hk : m.kind = .resp v) (hst : m.st = .sent)
    (hcross : s.crossing n = false) (hstop : s.senderStopped m = false) (hc : s.cpu.core = m.core) (hl : s.cpu.launch = m.launch)
    (hp : s.cpu.regs.pend.find? (fun p => p.2 == n) = some (d, n)) : (s.respond n).mem = s.mem ∧
      (s.respond n).cpu.regs = { (s.cpu.regs.putCode d v) with pend := s.cpu.regs.pend.filter fun q => q.2 != n } := by
  obtain ⟨hrc, hrm⟩ := s.answeredRt_cpu_mem m n v
  obtain ⟨hdc, hdm⟩ := (s.answeredRt m n v).answeredDet_cpu_mem m v
  rw [State.respond_eq hm hk hst hcross hstop, State.dropMsg_cpu, State.mapCtx_cpu, hdc, hrc]
  exact ⟨hdm.trans hrm, Ctx.answered_regs hc hl hp⟩

/-! ## Links (R338, R339) -/

theorem State.link_id (s : State) (n : Nat) : (s.link n).id = n := by
  unfold State.link
  cases h : s.fabric.links.find? fun l => l.id == n with
  | none => rfl
  | some l =>
    have := List.find?_some h
    exact beq_iff_eq.1 this

theorem State.link_setLink (s : State) (l : Link) (n : Nat) : (s.setLink l).link n = if n = l.id then l else s.link n := by
  unfold State.link State.setLink
  by_cases h : n = l.id
  · rw [if_pos h, List.find?_cons_of_pos (by simp [h])]
    rfl
  · rw [if_neg h, List.find?_cons_of_neg (by simpa using Ne.symm h), List.find?_filter]
    congr 2
    funext x
    by_cases hx : x.id = n
    · simp [hx, h]
    · simp [hx]

@[simp] theorem State.link_count (s : State) (i n : Nat) : (s.count i).link n = s.link n := by
  rw [State.link, State.count_fabric, State.link]

theorem State.link_setLink_self (s : State) {l : Link} {n : Nat} (h : l.id = n) : (s.setLink l).link n = l := by
  rw [State.link_setLink, if_pos h.symm]

/-- An end whose flits do not fail is left as it was by the reset of its failures, be it the one reset or the other. -/
theorem State.link_resetFails {s : State} {n : Nat} (h : (s.link n).fails = 0) : (s.resetFails n).link n = s.link n := by
  rw [State.resetFails, State.link_setLink]
  split
  · next hid =>
    have hback : n = linkBack n := hid.trans (s.link_id _)
    rw [← hback, ← h]
  · rfl

theorem exec_linkTrained {s : State} {n k : Nat} (hst : (s.link n).st = .retrain) (hk : 4 ≤ k)
    (hid : 504 ≤ n → ∃ key, (s.link n).farId = some key ∧ s.identityOk (n - 504) key = true) : ∃ t, exec (.linkTrained n k) s = .next t ∧
      t.link n = { s.link n with st := .up, lanes := Nat.min k 8, fails := 0 } ∧ t.mem = s.mem ∧ t.cpu = s.cpu := by
  have hmissing : ¬(504 ≤ n ∧ (s.link n).farId.isNone = true) := by
    rintro ⟨hn, hnone⟩
    obtain ⟨key, hkey, -⟩ := hid hn
    rw [hkey] at hnone
    cases hnone
  have hwrong : ¬(504 ≤ n ∧ (s.link n).farId.any (s.identityOk (n - 504)) = false) := by
    rintro ⟨hn, hany⟩
    obtain ⟨key, hkey, hok⟩ := hid hn
    rw [hkey, Option.any_some, hok] at hany
    cases hany
  have hlink : ((s.setLink { s.link n with st := .up, lanes := Nat.min k 8, fails := 0 }).resetFails n).link n =
      { s.link n with st := .up, lanes := Nat.min k 8, fails := 0 } := by
    have hset := State.link_setLink_self s (l := { s.link n with st := .up, lanes := Nat.min k 8, fails := 0 }) (s.link_id n)
    rw [State.link_resetFails (by rw [hset]), hset]
  show ∃ t, execLinkTrained n k s = .next t ∧ _
  unfold execLinkTrained
  extract_lets l u
  rw [if_neg (by rintro (h | h); exacts [h hst, Nat.not_lt.2 hk h]), if_neg hmissing, if_neg hwrong]
  refine ⟨_, rfl, ?_⟩
  split
  · exact ⟨by rw [State.link_count, State.link_count, hlink], rfl, rfl⟩
  · exact ⟨by rw [State.link_count, hlink], rfl, rfl⟩

theorem linkBack_gale_ne {n : Nat} (h : n < 32) : 504 + n ≠ linkBack (504 + n) := by
  unfold linkBack linkBase
  omega

theorem State.portTrains_st {s : State} {n : Nat} (h : s.portTrains n = true) : (s.link (504 + n)).st = .down := by
  simp only [State.portTrains, Bool.and_eq_true, beq_iff_eq] at h
  exact h.1.2

theorem exec_galePortTrained {s : State} {n : Nat} {key : BitVec 256} (hn : n < 32) (htrain : s.portTrains n = true)
    (hrecent : (s.recentAttempts (s.link (504 + n))).length < 2) (hkey : afind s.dev.cfg.peerid (s.peerOf n) = some key) :
    ∃ t, exec (.galePortTrained n key) s = .next t ∧ (t.link (504 + n)).st = .up ∧ (t.link (504 + n)).buffer = [] ∧ t.mem = s.mem := by
  have hok : s.identityOk n key = true := decide_eq_true hkey
  show ∃ t, execGalePortTrained n key s = .next t ∧ _
  unfold execGalePortTrained
  extract_lets l recent tried
  rw [if_neg (by simp [l, State.portTrains_st htrain]), if_neg (by simp [htrain]), if_neg (Nat.not_le.2 hrecent), if_pos hok]
  refine ⟨_, rfl, ?_⟩
  have hlink : ∀ (u : State) (x : Link), x.id = linkBack (504 + n) → (u.setLink x).link (504 + n) = u.link (504 + n) := by
    intro u x hx
    rw [State.link_setLink, hx, if_neg (linkBack_gale_ne hn)]
  rw [hlink _ _ (by exact s.link_id _), State.link_setLink_self s (by exact s.link_id _)]
  exact ⟨rfl, rfl, rfl⟩

theorem State.linkSt_setLink {s : State} {l : Link} {n : Nat} (hid : l.id = n) (hst : l.st = (s.link n).st) :
    (s.setLink l).linkSt n = s.linkSt n := by
  rw [State.linkSt, State.link_setLink, State.linkSt]
  split
  · next h => rw [hst, h, hid]
  · rfl

/-! ## Events of a message -/

theorem State.msg?_map (s : State) {f : Msg → Msg} (hf : ∀ m, (f m).id = m.id) (n : Nat) :
    ({ s with net := s.net.map f } : State).msg? n = (s.msg? n).map f := by
  unfold State.msg?
  rw [List.find?_map]
  congr 2
  funext m
  rw [Function.comp_apply, hf]

theorem exec_refusedMessageResend {s : State} {n : Nat} {m : Msg} (hm : s.msg? n = some m) (hst : m.st = .refused ∨ m.st = .turned ∨ m.st = .lost) :
    ∃ t, exec (.refusedMessageResend n) s = .next t ∧ t.msg? n = some { m with st := .sent } ∧ t.cpu = s.cpu ∧ t.mem = s.mem := by
  show ∃ t, execRefusedMessageResend n s = .next t ∧ _
  unfold execRefusedMessageResend
  rw [hm]
  simp only
  rw [if_neg (by rcases hst with h | h | h <;> simp [h])]
  refine ⟨_, rfl, ?_, rfl, rfl⟩
  rw [State.msg?_map s (fun x => by split <;> rfl), hm, Option.map_some, if_pos (Or.inl (State.msg?_id hm))]

theorem exec_messageArrival {s : State} {n : Nat} {m : Msg} (hm : s.msg? n = some m) (hcross : s.crossing n = false)
    (hs : ∀ c g e a b i, m.kind ≠ .stream c g e a b i) (hc : ∀ c h, m.kind ≠ .chunk c h) : exec (.messageArrival n) s = .next (s.reach n) := by
  show execMessageArrival n s = _
  unfold execMessageArrival
  rw [hm]
  split
  · next h => exact (hs _ _ _ _ _ _ (Option.some.inj h)).elim
  · next h => exact (hc _ _ (Option.some.inj h)).elim
  · rw [State.arrive, if_neg (by rw [hcross]; exact Bool.false_ne_true)]

theorem exec_streamEntryArrival {s : State} {n c g a b i} {e} {m : Msg} (hm : s.msg? n = some m) (hcross : s.crossing n = false)
    (hk : m.kind = .stream c g e a b i) : exec (.streamEntryArrival n) s = .next (s.reach n) := by
  show execStreamEntryArrival n s = _
  unfold execStreamEntryArrival
  rw [hm, Option.map_some, hk]
  simp only [State.arrive, hcross, Bool.false_eq_true, if_false]

theorem exec_writeAcknowledgement {s : State} {n : Nat} {m : Msg} (hm : s.msg? n = some m) (hst : m.st = .performed) (hstop : s.senderStopped m = false) :
    exec (.writeAcknowledgement n) s = .next (s.dropMsg n) := by
  show Host.Outcome.next (s.acknowledge n) = _
  unfold State.acknowledge
  rw [hm]
  exact congrArg Host.Outcome.next (if_pos ⟨hst, hstop⟩)

theorem exec_latchChunkArrival {s : State} {c : Nat} {m : Msg}
    (hm : (s.net.find? fun m => m.waiting && match m.kind with | .chunk k _ => k == c | _ => false) = some m) :
    exec (.latchChunkArrival c) s = .next (s.arrive m.id) := by
  show execLatchChunkArrival c s = _
  unfold execLatchChunkArrival
  split
  · next x hx => rw [Option.some.inj (hm.symm.trans hx)]
  · next hx => cases hm.symm.trans hx

theorem exec_meshFlit_badHeader {s : State} {n k : Nat} {m : Msg} (hm : s.msg? n = some m) (hp : m.st ≠ .performed) (hh : m.st ≠ .held) :
    exec (.meshFlitArrival (.message n k) .badHeader) s = .next ((s.updMsg n fun y => { y with st := .lost }).badHeader m.toTile) := by
  show execMeshFlitArrival (.message n k) .badHeader s = _
  unfold execMeshFlitArrival
  simp only [hm]
  exact if_neg (not_or.2 ⟨hp, hh⟩)

/-! ## Events of a link -/

theorem exec_flitArrival {s : State} {n : Nat} {f : Flit} (good : Bool) (hf : ((s.link n).buffer.take replaySize)[(s.link n).arrived]? = some f)
    (hst : s.linkSt n = .up ∨ s.linkSt n = .replay) (hnack : (s.link n).nack = false) : exec (.flitArrival n good) s =
      if good then .next ((s.setLink { s.link n with expect := (s.link n).expect + 1, fails := 0 }).forward f)
      else .next ((s.setLink { s.link n with nack := true, fails := (s.link n).fails + 1 }).setLinkSt n .replay) := by
  show execFlitArrival n good s = _
  unfold execFlitArrival
  simp only [hf]
  refine if_neg ?_
  rintro (⟨hu, hr⟩ | hn)
  · exact hst.elim hu hr
  · rw [hnack] at hn
    cases hn

theorem exec_flitAcknowledgement {s : State} {n k : Nat} (h0 : 0 < k) (hk : k ≤ (s.link n).arrived) (hst : s.linkSt n = .up) :
    exec (.flitAcknowledgement n k) s = .next (s.setLink { s.link n with buffer := (s.link n).buffer.drop k }) := by
  have hup : (s.setLink { s.link n with buffer := (s.link n).buffer.drop k }).linkSt n = .up := by
    rw [State.linkSt_setLink (by exact s.link_id n) (by rfl), hst]
  show execFlitAcknowledgement n k s = _
  unfold execFlitAcknowledgement
  extract_lets l u
  rw [if_neg (by rw [hst]; simp only [l, reduceCtorEq, or_false]; omega), if_neg (by rw [hup]; rintro ⟨h, -⟩; cases h)]

theorem exec_negativeAcknowledgement {s : State} {n : Nat} (one : Bool) (hst : s.linkSt n = .replay) (hnack : (s.link n).nack = true) :
    exec (.negativeAcknowledgement n one) s =
      if (s.link n).fails < 8 then .next (s.setLink { s.link n with nack := false })
      else if one && !((s.setLink { s.link n with nack := false }).link (linkBase n)).spareUsed then
        .next ((s.setLink { s.link n with nack := false }).setLink
          { (s.setLink { s.link n with nack := false }).link (linkBase n) with st := .spare, spareUsed := true })
      else .next ((s.setLink { s.link n with nack := false }).train (linkBase n)) := by
  show execNegativeAcknowledgement n one s = _
  unfold execNegativeAcknowledgement
  refine if_neg ?_
  rintro (h | h)
  · exact h hst
  · rw [hnack] at h
    cases h

/-! ## Pairings (R343, R344) -/

theorem State.updLaunch_mem (s : State) (n : Nat) (f : Launch → Launch) : (s.updLaunch n f).mem = s.mem := by
  unfold State.updLaunch
  split <;> rfl

theorem exec_pairingExchange {s : State} {n w : Nat} {ts : List Nat} {l : Launch} (hl : s.launch? n = some l) (hlive : l.live = true)
    (hpair : l.pairing w = none) (hun : w ∉ l.unpaired) (hpeer : s.peerPresent w = true) : exec (.pairingExchange n w ts) s =
      .next (s.updLaunch n fun l => { l with paired := l.paired ++ [⟨w, (s.bundle w).filter fun p => (s.link (504 + p)).st != .down, ts⟩] }) := by
  show execPairingExchange n w ts s = _
  unfold execPairingExchange
  simp only [hl]
  exact if_neg (by simp [hlive, hpair, hun, hpeer])

theorem exec_pairedLaunchEnd {s : State} {n w : Nat} {l : Launch} (hl : s.launch? n = some l) (hpair : (l.pairing w).isSome = true) :
    exec (.pairedLaunchEnd n w) s = .next (s.landed.updLaunch n fun l =>
      { l with paired := l.paired.filter fun p => p.wafer != w, unpaired := l.unpaired ++ [w] }) := by
  show execPairedLaunchEnd n w s = _
  unfold execPairedLaunchEnd
  simp only [hl]
  exact if_neg (by rw [Option.isNone_iff_eq_none, ← Option.not_isSome_iff_eq_none]; exact not_not.2 hpair)

/-- Settles O56: arrivals, links, pairings and mesh flits, event by event. -/
theorem networkEvents : Obligations.NetworkEvents := by
  unfold Obligations.NetworkEvents
  intro s n
  refine ⟨fun m hm hcross => ⟨exec_messageArrival hm hcross, fun c g e a b i hk => exec_streamEntryArrival hm hcross hk,
      fun hp hl hh hstop c v hk hup hab href hseq u hu => ?_⟩,
    fun m v hm hk hst hcross hstop hc hl hpair d hd h0 hp => ?_,
    fun m hm hst hstop => ⟨s.dropMsg n, exec_writeAcknowledgement hm hst hstop, State.msg?_dropMsg .., rfl, rfl⟩,
    fun m hm hst => exec_refusedMessageResend hm hst, fun c m hm => exec_latchChunkArrival hm, ?_, fun hn => ?_,
    fun w ts l hl => ⟨fun hlive hpair hun hpeer => ?_, exec_pairedLaunchEnd hl⟩, fun k => rfl, rfl, fun f => rfl,
    fun m k hm hp hh => exec_meshFlit_badHeader hm hp hh⟩
  · exact ⟨s.reach n, exec_messageArrival hm hcross (by simp [hk]) (by simp [hk]), State.reach_send hm hk hp hl hh hstop hup hab href hseq hu⟩
  · obtain ⟨hmem, hregs⟩ := State.respond_acting hm hk hst hcross hstop hc hl hp
    refine ⟨s.respond n, rfl, ?_, ?_, hmem, fun k hkd => ?_, ?_⟩
    · rw [hregs]
      exact (Regs.putCode_g _ v hd h0 d).trans (if_pos rfl)
    · rw [State.respond_eq hm hk hst hcross hstop, State.msg?_dropMsg]
    · rw [hregs]
      exact (Regs.putCode_g _ v hd h0 k).trans (if_neg hkd)
    · rw [hregs]
  · extract_lets l st u b
    refine ⟨fun f hf hst hnack => ⟨exec_flitArrival true hf hst hnack, exec_flitArrival false hf hst hnack⟩,
      fun k h0 hk hst => exec_flitAcknowledgement h0 hk hst, fun one hst hnack => ?_, fun hst => if_neg (not_not.2 hst),
      fun k hst hk hid => exec_linkTrained hst hk hid, fun hst => if_neg (not_not.2 hst)⟩
    have hexec := exec_negativeAcknowledgement one hst hnack
    refine ⟨fun h8 => hexec.trans (if_pos h8), fun h8 h1 hb => ?_, fun h8 hor => ?_⟩
    · exact (hexec.trans (if_neg (Nat.not_lt.2 h8))).trans (if_pos (by rw [h1]; simpa using hb))
    · refine (hexec.trans (if_neg (Nat.not_lt.2 h8))).trans (if_neg ?_)
      rcases hor with h | h
      · rw [h, Bool.false_and]
        exact Bool.false_ne_true
      · simpa using fun _ => h
  · extract_lets l w
    refine ⟨fun hst => if_neg ?_, fun key ht hr hk => exec_galePortTrained hn ht hr hk, fun key hst => if_pos ⟨hst, hn⟩⟩
    rintro (h | h)
    · omega
    · exact hst h
  · refine ⟨_, exec_pairingExchange hl hlive hpair hun hpeer, State.updLaunch_mem .., ?_⟩
    rw [State.launch?_updLaunch, if_pos rfl, hl, Option.map_some]

end Sys2Proof.Machine
end

section
/-! SUPPORT. Vector comparisons (R143, R155): the predicate that they leave, and what they leave alone. -/

namespace Sys2Proof.Machine

/-- Bits of a predicate above the lanes of the type are 0. -/
theorem getLsbD_maskOf_of_le (t : VType) (m : BitVec 32) (f : Nat → Bool) {i : Nat} (hi : t.lanes ≤ i) : (maskOf t m f).getLsbD i = false := by
  unfold maskOf
  refine List.foldlRecOn (motive := fun q : BitVec 32 => q.getLsbD i = false) _ _ BitVec.getLsbD_zero fun q hq j hj => ?_
  have hji : j ≠ i := ((List.mem_range.1 hj).trans_le hi).ne
  split
  · rw [BitVec.getLsbD_or, hq, BitVec.getLsbD_ofNat, Nat.testBit_two_pow_of_ne hji, Bool.and_false, Bool.or_false]
  · exact hq

/-- Every bit of a predicate made of active lanes (R143). -/
theorem getLsbD_maskOf_eq (t : VType) (m : BitVec 32) (f : Nat → Bool) (i : Nat) :
    (maskOf t m f).getLsbD i = (decide (i < t.lanes) && active m i && f i) := by
  by_cases hi : i < t.lanes
  · rw [getLsbD_maskOf t m f hi, decide_eq_true hi, Bool.true_and]
  · rw [getLsbD_maskOf_of_le t m f (Nat.le_of_not_lt hi), decide_eq_false hi, Bool.false_and, Bool.false_and]

@[simp] theorem State.getG_setP (s : State) (d n : Nat) (q : BitVec 32) : (s.setP d q).getG n = s.getG n := by
  unfold State.setP; split <;> rfl

/-- A comparison of two sources at hand (R155). -/
theorem exec_vcompare {s : State} {x : Instr} {d a b p w want : Nat} {t : VType} {v : BitVec 1024 × BitVec 1024} (hd : d < 8) (h0 : d ≠ 0)
    (hx : exec x s = s.finish (s.vcompare d a b p t w want)) (hv : s.src2 a b w = .ok v) :
    ∃ u : State, exec x s = .next u.advance ∧
      (∀ i, (u.getP d).getLsbD i = (decide (i < t.lanes) && active (s.getP p) i &&
        Nat.land (laneCompare t (laneGet t v.1 i) (laneGet t v.2 i)).1 want != 0)) ∧
      (∀ n, n ≠ d → u.getP n = s.getP n) ∧ (∀ n, u.getV n = s.getV n) ∧ (∀ n, u.getG n = s.getG n) ∧ u.mem = s.mem := by
  let r := fun i => laneCompare t (laneGet t v.1 i) (laneGet t v.2 i)
  let q := maskOf t (s.getP p) fun i => Nat.land (r i).1 want != 0
  have run : s.vcompare d a b p t w want =
      .ok (((s.setP d q).popStreams [a, b]).raiseFlags (laneFlags t (s.getP p) fun i => ⟨0, (r i).2⟩)) := by
    rw [State.vcompare, hv]; rfl
  refine ⟨_, hx.trans (congrArg s.finish run), fun i => ?_, fun n hn => ?_, fun n => by simp, fun n => by simp, by simp⟩
  · rw [State.getP_raiseFlags, State.getP_popStreams, State.getP_setP s d d q hd, if_pos ⟨rfl, h0⟩, getLsbD_maskOf_eq]
  · rw [State.getP_raiseFlags, State.getP_popStreams, State.getP_setP s d n q hd, if_neg fun h => hn h.1]

/-- Settles O47: each instruction is `vcompare` with the relation bits that it asks for. -/
theorem vectorCompare : Obligations.VectorCompare := by
  unfold Obligations.VectorCompare
  intro s d a b p t v hd h0 r gives
  have compares : ∀ {x : Instr} {want : Nat}, exec x s = s.finish (s.vcompare d a b p t (wordOfInstr x) want) → gives x want := fun hx hv =>
    (exec_vcompare hd h0 hx hv).imp fun _ ⟨hexec, hbits, hrest⟩ => ⟨hexec, fun i _ => hbits i, hrest⟩
  exact ⟨compares rfl, compares rfl, compares rfl, compares rfl, compares rfl, compares rfl, compares rfl⟩

end Sys2Proof.Machine
end

section
/-! SUPPORT. Predicate operations, and the bindings of stream registers (R143, R149, R151, R170). -/

namespace Sys2Proof.Machine

/-- The bits of a predicate, as the model reads them from its number. -/
theorem bit_toNat_eq_getLsbD (x : BitVec 32) : bit x.toNat = x.getLsbD := by
  rw [bit_eq_testBit]; rfl

/-- The lowest one bit of a bit vector, alone, or none at all (R170). -/
def lowestOne (x : BitVec 32) : BitVec 32 :=
  match findBelow (bit x.toNat) 32 with
  | some i => BitVec.ofNat 32 (2 ^ i)
  | none => 0

theorem getLsbD_lowestOne (x : BitVec 32) {i : Nat} (hi : i < 32) :
    (lowestOne x).getLsbD i = true ↔ x.getLsbD i = true ∧ ∀ j, j < i → x.getLsbD j = false := by
  unfold lowestOne
  rw [findBelow, bit_toNat_eq_getLsbD]
  cases h : (List.range 32).find? x.getLsbD with
  | none =>
    have hx : x.getLsbD i = false := by simpa using List.find?_eq_none.1 h i (List.mem_range.2 hi)
    simp [hx]
  | some k =>
    obtain ⟨hk, -, hbelow⟩ := List.find?_range_eq_some.1 h
    have hlow : ∀ j, j < k → x.getLsbD j = false := fun j hj => by simpa using hbelow j hj
    have hone : (BitVec.ofNat 32 (2 ^ k)).getLsbD i = true ↔ k = i := by
      rw [BitVec.getLsbD_ofNat, Nat.testBit_two_pow, decide_eq_true hi, Bool.true_and, decide_eq_true_eq]
    refine hone.trans ⟨?_, fun ⟨hxi, hbefore⟩ => ?_⟩
    · rintro rfl
      exact ⟨hk, hlow⟩
    · rcases Nat.lt_trichotomy k i with hlt | heq | hgt
      · rw [hbefore k hlt] at hk; cases hk
      · exact heq
      · rw [hlow i hgt] at hxi; cases hxi

/-- VPSET of a value that is not POISON (R144, R170). -/
theorem exec_vpset {s : State} {a : Nat} (d p : Nat) (ha : s.clean a) :
    exec (.vpset d a p) s = .next (s.setP d ((s.ival a).truncate 32 &&& s.getP p)).advance := by
  show s.finish (effVpset d a p s) = _
  rw [effVpset, s.value_of_clean ha]
  rfl

/-- VQBIND of an unbound register to a tag of eight bits that no register holds (R151). -/
theorem exec_vqbind_unbound {s : State} {k a : Nat} (ha : s.clean a) (h8 : (s.ival a).toNat < 256)
    (htag : boundTo s.cpu.csrs.vqmap ((s.ival a).truncate 8) = none) (hk : s.bound k = false) :
    exec (.vqbind k a) s = .next (s.modCsr fun c => { c with
      vqmap := c.vqmap ||| BitVec.ofNat 64 (2 ^ (4 + k) + (s.ival a).toNat * 2 ^ (8 + 8 * k)) }).advance := by
  have hfits : bits (s.ival a).toNat 63 8 = 0 := by simp only [bits]; omega
  show execVqbind k a s = _
  unfold execVqbind
  rw [s.value_of_clean ha]
  simp only [Out.bind, hfits, htag, hk]
  rfl

theorem exec_vqdrop (k : Nat) (s : State) : exec (.vqdrop k) s = .next (if s.bound k then s.unbind k else s).advance := rfl

/-- A register that was dropped is unbound. -/
theorem State.bound_unbind (s : State) {k : Nat} (hk : k < 4) : (s.unbind k).bound k = false := by
  have hmask : (BitVec.ofNat 64 (2 ^ k + 2 ^ (4 + k) + 255 * 2 ^ (8 + 8 * k))).getLsbD (4 + k) = true := by
    interval_cases k <;> decide
  unfold State.bound State.unbind
  rw [State.count_cpu, State.modCsr_cpu_csrs, BitVec.getLsbD_and, BitVec.getLsbD_not, hmask, Bool.not_true, Bool.and_false, Bool.and_false]

/-- The queue of a register that was dropped is empty. -/
theorem State.unbind_streams (s : State) {k : Nat} (hk : k < 4) : vget [] (s.unbind k).cpu.streams k = [] := by
  unfold State.unbind
  rw [State.count_cpu]
  exact (vget_vset _ _ _ _ _).trans (if_pos ⟨rfl, hk⟩)

theorem State.pc_unbind (s : State) (k : Nat) : (s.unbind k).pc = s.pc := by
  unfold State.pc State.unbind
  rw [State.count_cpu]
  rfl

/-- Settles O50: a predicate operation is one write of a predicate or general register, a binding one of VQMAP and of a queue. -/
theorem predicateAndStreamResults : Obligations.PredicateAndStreamResults := by
  unfold Obligations.PredicateAndStreamResults
  refine ⟨fun s d a b p => ?_, fun s k a hk => ⟨exec_vqbind_unbound, fun hbound => ?_, fun hbound => ?_⟩⟩
  · intro P A B
    refine ⟨rfl, rfl, rfl, rfl, ?_, exec_vpset d p, lowestOne (A &&& P), rfl, fun i hi => getLsbD_lowestOne _ hi⟩
    show s.finish (effVpcnt d a p s) = _
    rw [effVpcnt, popcount, bit_toNat_eq_getLsbD]
    rfl
  · rw [exec_vqdrop, hbound]
    rfl
  · refine ⟨_, (exec_vqdrop k s).trans (by rw [if_pos hbound]), ?_, ?_, ?_⟩
    · unfold State.bound
      rw [State.advance_cpu_csrs]
      exact s.bound_unbind hk
    · rw [State.advance_cpu_streams, s.unbind_streams hk]
    · rw [State.pc_advance, State.pc4, s.pc_unbind, State.pc4]

end Sys2Proof.Machine
end

section
/-! SUPPORT. Vector loads and stores (R162 to R168): what a step does by how the lanes that are left end, and the lanes that R77's checks
stop. -/

namespace Sys2Proof.Machine

/-! ## What a step does (R164, R165) -/

/-- A search of a list from any of its places on meets one of its members, when each of them is sought. -/
theorem find?_drop_append_take {l : List Nat} {P : Nat → Bool} (k : Nat) (hl : l ≠ []) (h : ∀ i ∈ l, P i = true) :
    ∃ i ∈ l, (l.drop k ++ l.take k).find? P = some i := by
  have hmem : ∀ i, i ∈ l.drop k ++ l.take k ↔ i ∈ l := fun i => by
    rw [List.mem_append, or_comm, ← List.mem_append, List.take_append_drop]
  cases hf : (l.drop k ++ l.take k).find? P with
  | none =>
    obtain ⟨i, hi⟩ := List.exists_mem_of_ne_nil l hl
    exact absurd (h i hi) (List.find?_eq_none.1 hf i ((hmem i).2 hi))
  | some i => exact ⟨i, (hmem i).1 (List.mem_of_find?_eq_some hf), rfl⟩

section
variable {s : State} {p : Nat} {t : VType} {fs : List Nat} {ea : Nat → Nat} {lane : Nat → State → State × Out Unit}

/-- A lane that may go next is one that is left. -/
theorem State.lanesLeft_ne_nil (h : s.lanesReady p t ea ≠ []) : s.lanesLeft p t ≠ [] := fun hnil => by
  rw [State.lanesReady, hnil] at h
  exact h rfl

/-- The lowest lane that is left may go next (R165). -/
theorem State.head_mem_lanesReady {j : Nat} {rest : List Nat} (h : s.lanesLeft p t = j :: rest) : j ∈ s.lanesReady p t ea := by
  have hsorted : (s.lanesLeft p t).Pairwise (· < ·) := List.pairwise_lt_range.filter _
  rw [h] at hsorted
  unfold State.lanesReady
  rw [h, List.mem_filter, List.all_eq_true]
  refine ⟨List.mem_cons_self, fun i hi => ?_⟩
  have hji : j ≤ i := (List.mem_cons.1 hi).elim (fun e => e.ge) fun hi => (List.rel_of_pairwise_cons hsorted hi).le
  rw [decide_eq_true hji, Bool.true_or]

theorem State.vmem_done (h : s.lanesLeft p t = []) : s.vmem p t fs ea lane = .next ((s.popStreams fs).setVprog 0).advance := by
  unfold State.vmem
  rw [h]
  rfl

/-- Where every lane that may go next completes, one of them is performed and marked. -/
theorem State.vmem_performs (hready : s.lanesReady p t ea ≠ []) (h : ∀ i ∈ s.lanesReady p t ea, ∃ u, lane i s.drawFree.2 = (u, .ok ())) :
    ∃ i u, i ∈ s.lanesReady p t ea ∧ lane i s.drawFree.2 = (u, .ok ()) ∧
      s.vmem p t fs ea lane = .next ((u.setVprog (u.vprog ||| BitVec.ofNat 64 (2 ^ i))).modCpu fun c => { c with stalled := false }) := by
  obtain ⟨i, hi, hfind⟩ := find?_drop_append_take (P := fun i => (lane i s.drawFree.2).2.decided || (lane i s.drawFree.2).1.turnsBack)
    (Config.nextLane s.drawFree.1 % (s.lanesReady p t ea).length) hready fun i hi => by
      obtain ⟨u, hu⟩ := h i hi
      simp only [hu, Out.decided, Bool.true_or]
  obtain ⟨u, hu⟩ := h i hi
  refine ⟨i, u, hi, hu, ?_⟩
  unfold State.vmem
  rw [if_neg (by simpa using State.lanesLeft_ne_nil hready)]
  simp only [hfind, hu]

/-- Where every lane that may go next waits, and none turns back, the instruction waits. -/
theorem State.vmem_waits (hleft : s.lanesLeft p t ≠ [])
    (h : ∀ i ∈ s.lanesReady p t ea, (lane i s.drawFree.2).2 = .wait ∧ (lane i s.drawFree.2).1.turnsBack = false) :
    s.vmem p t fs ea lane = .next s.stall := by
  have hfind : ∀ k, ((s.lanesReady p t ea).drop k ++ (s.lanesReady p t ea).take k).find?
      (fun i => (lane i s.drawFree.2).2.decided || (lane i s.drawFree.2).1.turnsBack) = none := fun k => by
    refine List.find?_eq_none.2 fun i hi => ?_
    obtain ⟨hwait, hback⟩ := h i ((List.mem_append.1 hi).elim List.mem_of_mem_drop List.mem_of_mem_take)
    simp only [hwait, hback, Out.decided, Bool.or_self, Bool.false_eq_true, not_false_eq_true]
  unfold State.vmem
  rw [if_neg (by simpa using hleft)]
  simp only [hfind]

/-- Where every lane that is left traps, the lowest of them does so. -/
theorem State.vmem_traps {j : Nat} {rest : List Nat} {z : Trap} {v : State} (hleft : s.lanesLeft p t = j :: rest)
    (h : ∀ i ∈ s.lanesLeft p t, ∃ u y, lane i s.drawFree.2 = (u, .trap y)) (hj : lane j s = (v, .trap z)) :
    s.vmem p t fs ea lane = .next (v.takeTrap z) := by
  obtain ⟨i, hi, hfind⟩ := find?_drop_append_take (P := fun i => (lane i s.drawFree.2).2.decided || (lane i s.drawFree.2).1.turnsBack)
    (Config.nextLane s.drawFree.1 % (s.lanesReady p t ea).length) (List.ne_nil_of_mem (State.head_mem_lanesReady (ea := ea) hleft)) fun i hi => by
      obtain ⟨u, y, hu⟩ := h i (List.mem_of_mem_filter hi)
      simp only [hu, Out.decided, Bool.true_or]
  obtain ⟨u, y, hu⟩ := h i (List.mem_of_mem_filter hi)
  have hlow : (s.lanesLeft p t).find? (fun j => (lane j s).2.traps) = some j := by
    rw [hleft]
    exact List.find?_cons_of_pos (by rw [hj]; rfl)
  unfold State.vmem
  rw [if_neg (by rw [hleft]; exact Bool.false_ne_true)]
  simp only [hfind, hu, hlow, hj]

end

/-! ## Lanes that R77's checks stop -/

section
variable {s : State} {a ea n : Nat} {need : Perm} {r : Trap}

theorem State.check_of_accessTraps (h : s.accessTraps a ea n need r) : s.check a ea n need = .trap r :=
  congrArg (fun o : Out Unit => o.bind _) (capCheck_of_accessTraps h)

/-- None of R77's traps is that of a walk that finds no page. -/
theorem State.cause_of_accessTraps (h : s.accessTraps a ea n need r) : r.cause ≠ 8 := by
  rcases h with ⟨-, rfl⟩ | ⟨-, rfl⟩ | ⟨-, -, rfl⟩ | ⟨-, -, -, rfl⟩ | ⟨-, -, -, -, -, rfl⟩ <;> simp

theorem State.loadLane_of_accessTraps {t : VType} (d i : Nat) (h : s.accessTraps a ea (laneBytes t) .r r) :
    s.loadLane d a t ea i = (s, .trap (laneTrap ea i r)) := by
  have hread : s.loadRead a ea (laneBytes t) = .trap r := congrArg (fun o : Out Loc => o.bind _) (State.check_of_accessTraps h)
  unfold State.loadLane
  rw [hread]

/-- A store lane that the checks stop has walked nowhere, so that nothing was met (R298). -/
theorem State.storeLane_of_accessTraps {t : VType} (d i : Nat) (h : s.accessTraps a ea (laneBytes t) .w r) :
    s.storeLane d a t ea i = (s, .trap (laneTrap ea i r)) := by
  have hcheck := State.check_of_accessTraps h
  have hmet : s.metWalk a ea (laneBytes t) r = s := by
    unfold State.metWalk State.walked
    rw [hcheck]
    exact ite_self _
  unfold State.storeLane
  simp only [hcheck, Out.bind, hmet]

/-- A trap that does not escalate leaves VPROG, in both banks. -/
theorem State.takeTrap_vprog {x : Trap} (h : s.takesTraps) (h8 : x.cause ≠ 8) :
    (s.takeTrap x).cpu.csrs.vprog = s.cpu.csrs.vprog ∧ (s.takeTrap x).cpu.csrs.vprogH = s.cpu.csrs.vprogH := by
  obtain ⟨g, pr, hs⟩ := s.stopped_cpu (BitVec.ofNat 64 x.cause)
  rw [State.takeTrap_eq, State.trapFrom_of_ne h8, s.takeTrapWord_of _ _ _ h]
  simp [hs]

end

/-- Settles O51: each instruction is `vmem` with its own lane addresses, once its operands are at hand. -/
theorem vectorMemory : Obligations.VectorMemory := by
  unfold Obligations.VectorMemory
  intro s d a b p t x1 w B runs load store
  have run : ∀ {x : Instr} {fs : List Nat} {off : Nat → Int} {need : Perm} {lane : Nat → Nat → State → State × Out Unit},
      (∀ {v : State} {e i : Nat} {r : Trap}, v.accessTraps a e (laneBytes t) need r → lane e i v = (v, .trap (laneTrap e i r))) →
      exec x s = s.vmem p t fs (fun i => s.laneEa a (off i)) (fun i => lane (s.laneEa a (off i)) i) → runs x fs off need lane := by
    intro x fs off need lane stops hx
    dsimp only [runs]
    rw [hx]
    refine ⟨fun j rest r hleft hall hr => ⟨?_, fun htakes => ?_⟩, State.vmem_done, State.vmem_performs, State.vmem_waits⟩
    · have hstopped : ∀ i ∈ s.lanesLeft p t, ∃ u y, lane (s.laneEa a (off i)) i s.drawFree.2 = (u, .trap y) := fun i hi =>
        (hall i hi).elim fun _ hy => ⟨_, _, stops (v := s.drawFree.2) hy⟩
      exact State.vmem_traps hleft hstopped (stops hr)
    · have hcause : r.cause ≠ 8 := State.cause_of_accessTraps hr
      obtain ⟨hprog, hprogH⟩ := State.takeTrap_vprog (x := laneTrap (s.laneEa a (off j)) j r) htakes hcause
      exact ⟨hprog, hprogH, (State.takeTrap_keeps _ htakes).1⟩
  have loads : ∀ {x : Instr} {fs : List Nat} {off : Nat → Int},
      exec x s = s.vmem p t fs (fun i => s.laneEa a (off i)) (fun i => load (s.laneEa a (off i)) i) → runs x fs off .r load :=
    run (State.loadLane_of_accessTraps d _)
  have stores : ∀ {x : Instr} {fs : List Nat} {off : Nat → Int},
      exec x s = s.vmem p t fs (fun i => s.laneEa a (off i)) (fun i => store (s.laneEa a (off i)) i) → runs x fs off .w store :=
    run (State.storeLane_of_accessTraps d _)
  refine ⟨loads rfl, stores rfl, fun hb => ⟨loads ?_, stores ?_⟩, fun hdb hsrc => loads ?_, fun hsrc => stores ?_⟩
  · show execVlds d a b p t s = _
    rw [execVlds, s.value_of_clean hb]
    rfl
  · show execVsts d a b p t s = _
    rw [execVsts, s.value_of_clean hb]
    rfl
  · show execVgather d a b p t s = _
    unfold execVgather
    simp only [hsrc, if_neg fun h : d = b ∧ _ => hdb h.1]
    rfl
  · show execVscatter d a b p t s = _
    rw [execVscatter, hsrc]
    rfl

end Sys2Proof.Machine
end

section
/-! SUPPORT. Engine commands (R171 to R176, R183 to R189, R197): how one starts, what an element of it leaves, its write-backs, and its
completion. -/

namespace Sys2Proof.Machine

/-! ## A change of the engines of the context that runs on a core -/

@[simp] theorem Engines.set_get (x : Engines) (e : Eng) : x.set e (x.get e) = x := by cases e <;> rfl
@[simp] theorem Engines.accRow_set (x : Engines) (e : Eng) (q : EngQ) (bank a row : Nat) : (x.set e q).accRow bank a row = x.accRow bank a row := by
  cases e <;> rfl

/-- The acting context runs on the core, and is c but for its engines. -/
def State.engActs (s : State) (core : Nat) (c : Ctx) : Prop := s.engCtx core = some s.cpu ∧ ∃ g, s.cpu = { c with eng := g }

section
variable {s : State} {core : Nat} {c : Ctx} {e : Eng} {f : Ctx → Ctx}

theorem State.engActs_cpu (h : s.engCtx core = some s.cpu) : s.engActs core s.cpu := ⟨h, _, rfl⟩

theorem State.regs_of_engActs (h : s.engActs core c) : s.cpu.regs = c.regs := by
  obtain ⟨-, g, hcpu⟩ := h
  rw [hcpu]

theorem State.cpu_updRun (h : s.engActs core c) : (s.updRun c f).cpu = f s.cpu := by
  obtain ⟨-, g, hcpu⟩ := h
  exact if_pos (by rw [hcpu]; simp)

/-- The context that engines work for is found by its core, its run state and its CSRs. -/
theorem State.engCtx_mapCtx (h : ∀ x, (f x).core = x.core ∧ (f x).run = x.run ∧ (f x).csrs = x.csrs) :
    (s.mapCtx f).engCtx core = (s.engCtx core).map f := by
  have hctxs : (s.mapCtx f).ctxs = s.ctxs.map f := rfl
  have htile : (s.mapCtx f).tile (core / 16) = s.tile (core / 16) := rfl
  have hcore : (s.mapCtx f).core core = s.core core := rfl
  unfold State.engCtx
  rw [hctxs, htile, hcore, List.find?_map]
  simp only [Function.comp_def, h]
  split <;> rfl

/-- A change of engines leaves the context that they work for, and all of it but its engines. -/
theorem State.engActs_updRun (h : s.engActs core c) (hf : ∀ x, ∃ g, f x = { x with eng := g }) : (s.updRun c f).engActs core c := by
  have hcpu : (s.updRun c f).cpu = f s.cpu := State.cpu_updRun h
  obtain ⟨hctx, g, hc⟩ := h
  refine ⟨?_, ?_⟩
  · unfold State.updRun at hcpu ⊢
    rw [State.engCtx_mapCtx, hctx]
    · rfl
    · intro x
      obtain ⟨k, hk⟩ := hf x
      split
      · rw [hk]; exact ⟨rfl, rfl, rfl⟩
      · exact ⟨rfl, rfl, rfl⟩
  · obtain ⟨k, hk⟩ := hf s.cpu
    exact ⟨k, by rw [hcpu, hk, hc]⟩

theorem State.cpu_updEngines {g : Engines → Engines} (h : s.engActs core c) : (s.updEngines c g).cpu = { s.cpu with eng := g s.cpu.eng } :=
  State.cpu_updRun h

theorem State.engActs_updEngines (g : Engines → Engines) (h : s.engActs core c) : (s.updEngines c g).engActs core c :=
  State.engActs_updRun h fun _ => ⟨_, rfl⟩

/-- A change of one engine's queue: what it is to every context. -/
def Ctx.QueueChange (e : Eng) (f : Ctx → Ctx) : Prop := ∀ x, ∃ q, f x = { x with eng := x.eng.set e q }

theorem Ctx.QueueChange.engines (h : Ctx.QueueChange e f) (x : Ctx) : ∃ g, f x = { x with eng := g } := (h x).imp' _ fun _ hq => hq

/-- Changing the active command changes its engine's queue at the head. -/
theorem State.updHead_eq (s : State) (c : Ctx) (e : Eng) (g : Cmd → Cmd) : ∃ f, s.updHead c e g = s.updRun c f ∧ Ctx.QueueChange e f ∧
    ∀ x h rest, (x.eng.get e).cmds = h :: rest → ((f x).eng.get e).cmds = g h :: rest := by
  refine ⟨_, rfl, fun x => ?_, fun x h rest hq => ?_⟩
  · dsimp only
    split
    · exact ⟨_, rfl⟩
    · exact ⟨_, by rw [Engines.set_get]⟩
  · simp only [hq, Engines.get_set]

/-- Reading ahead leaves the active command, and how many commands there are (R323). -/
theorem State.readAhead_eq (s : State) (c : Ctx) (e : Eng) : ∃ f, s.readAhead c e = s.updRun c f ∧ Ctx.QueueChange e f ∧
    ∀ x, ((f x).eng.get e).cmds.head? = (x.eng.get e).cmds.head? ∧ ((f x).eng.get e).cmds.length = (x.eng.get e).cmds.length := by
  refine ⟨_, rfl, fun x => ?_, fun x => ?_⟩
  · dsimp only
    split
    · split
      · exact ⟨_, by rw [Engines.set_get]⟩
      · exact ⟨_, rfl⟩
    · exact ⟨_, by rw [Engines.set_get]⟩
    · exact ⟨_, by rw [Engines.set_get]⟩
  · dsimp only
    split
    · rename_i hq
      split
      · exact ⟨rfl, rfl⟩
      · simp only [Engines.get_set, hq]
        exact ⟨rfl, rfl⟩
    · exact ⟨rfl, rfl⟩
    · exact ⟨rfl, rfl⟩

end

/-! ## Start, element, completion (R171 to R176) -/

section
variable {s u : State} {core : Nat} {e : Eng} {c : Ctx} {cmd x : Cmd} {rest : List Cmd}

/-- A command whose checks pass starts at element 0. -/
theorem State.startCmd_ok {opc : Nat} {chk : State → Ctx → Cmd → State × EOut Cmd} (hc : s.engCtx core = some c)
    (hs : cmd.started = false) (he : cmd.ended = none) (hb : s.beforePush c cmd = false) (hq : (c.eng.get e).cmds = cmd :: rest)
    (ho : cmd.opc = opc) (hk : chk s c cmd = (u, .ok x)) :
    s.startCmd core e opc chk = .next (u.updHead c e fun _ => { x with started := true, elem := 0, ahead := [] }) := by
  have waits : ¬ (cmd.opc ≠ opc ∨ cmd.started = true ∨ cmd.ended.isSome = true ∨ s.beforePush c cmd = true) := by simp [ho, hs, he, hb]
  simp only [State.startCmd, hc, hq, if_neg waits, hk]

section
variable {f : State → Ctx → Cmd → State × EOut Cmd} (hc : s.engCtx core = some c) (hq : (c.eng.get e).cmds = cmd :: rest)
  (hs : cmd.started = true) (ho : cmd.over = false)
include hc hq hs ho

theorem State.runElement_ok (hf : f s c cmd = (u, .ok x)) :
    s.runElement core e f = .next ((u.updHead c e fun _ => x).readAhead c e) := by
  simp only [State.runElement, hc, hq, hs, ho, hf, Bool.true_eq_false, Bool.false_eq_true, or_self, if_false]

theorem State.runElement_stop {st info addr off : Nat} (hf : f s c cmd = (u, .stop st info addr off)) :
    s.runElement core e f = .next ((u.engWalked c st info addr).updHead c e fun y => { y with ended := some ⟨st, y.elem + off, info, addr⟩ }) := by
  simp only [State.runElement, hc, hq, hs, ho, hf, Bool.true_eq_false, Bool.false_eq_true, or_self, if_false]

end

/-- A command with no chunk that waits for a slot sends none (R186). -/
theorem State.flushChunks_of_out (hc : s.engCtx core = some c) (hq : c.eng.me.cmds = cmd :: rest) (hout : cmd.out = []) :
    s.flushChunks core = s := by
  simp only [State.flushChunks, hc, hq, hout, List.isEmpty_nil, if_true]

/-- ENGINE_ELEMENT is an element of the active command, then, for ME, the operands of the next command. -/
theorem exec_engineElement (hc : s.engCtx core = some c) (hq : (c.eng.get e).cmds = cmd :: rest) (hout : cmd.out = [])
    (hr : s.runElement core e (fun s x c => elementOf e c.opc s x c) = .next u) :
    exec (.engineElement core e) s = .next (if e = .me then u.bufferNext core else u) := by
  have flushed : (if e = .me then s.flushChunks core else s) = s := by
    split
    · subst e; exact State.flushChunks_of_out hc hq hout
    · rfl
  show execEngineElement core e s = _
  rw [execEngineElement, flushed, hr]

/-- A command that is over, with its write-backs done and no write on its way, leaves its engine, and its message enters the inbox (R173). -/
theorem exec_completionMessage (hc : s.engCtx core = some c) (hq : (c.eng.get e).cmds = cmd :: rest) (ho : cmd.over = true)
    (hwb : cmd.wb = []) (hout : cmd.out = []) (hnet : s.net = []) :
    ∃ f, exec (.completionMessage core e) s = .next (s.updRun c f) ∧ ∀ x, ((f x).eng.get e).cmds = rest ∧ (f x).regs = x.regs ∧
      (f x).inbox = x.inbox ++ [{ val := cmd.message e, source := core, done := some e, cmd := cmd.num }] := by
  refine ⟨?f, ?run, ?fields⟩
  case run =>
    show execCompletionMessage core e s = _
    simp only [execCompletionMessage, hc, hq, ho, hwb, hout, hnet, List.any_nil, List.isEmpty_nil, Bool.not_true, Bool.or_self,
      Bool.false_and, Bool.false_eq_true, if_false, List.foldl_nil]
    rfl
  case fields => exact fun x => ⟨congrArg EngQ.cmds (Engines.get_set ..), rfl, rfl⟩

/-- Some row that is left is written, where each could be; the last one ends the write-back (R185; log entry 13). -/
theorem exec_mmrWriteBack {w : Nat × List Nat} {wb : List (Nat × List Nat)} (hc : s.engCtx core = some c) (hq : c.eng.me.cmds = cmd :: rest)
    (hwb : cmd.wb = w :: wb) (hleft : cmd.rowsLeft w ≠ [])
    (hrows : ∀ r ∈ cmd.rowsLeft w, ∃ v fl, s.drawFree.2.writeBackRow core c cmd w.1 r = (v, .ok fl)) :
    ∃ r ∈ cmd.rowsLeft w, ∃ v fl, s.drawFree.2.writeBackRow core c cmd w.1 r = (v, .ok fl) ∧
      exec (.mmrWriteBack core) s = .next (v.updHead c .me fun y =>
        { y with flags := y.flags ||| fl, wb := if (cmd.rowsLeft w).length ≤ 1 then wb else (w.1, r :: w.2) :: wb }) := by
  have hlt : Config.nextRow s.drawFree.1 % (cmd.rowsLeft w).length < (cmd.rowsLeft w).length := Nat.mod_lt _ (List.length_pos_iff.2 hleft)
  have hmem := List.getElem_mem hlt
  obtain ⟨v, fl, hrow⟩ := hrows _ hmem
  refine ⟨_, hmem, v, fl, hrow, ?_⟩
  show execMmrWriteBack core s = _
  simp only [execMmrWriteBack, hc, hq, hwb, List.getElem?_eq_getElem hlt, Option.getD_some, hrow]

end

/-! ## ACCZ (R187) -/

/-- Checks of which none fails. -/
theorem needs_of_clean {α : Type} {s : State} {xs : List (Bool × Nat)} {k : State × EOut α} (h : ∀ q ∈ xs, q.1 = false) : needs s xs k = k := by
  have hfind : xs.find? (fun q => q.1) = none := List.find?_eq_none.2 fun q hq => by rw [h q hq]; exact Bool.false_ne_true
  rw [needs, firstBad, hfind]
  rfl

section
variable {s : State} {c : Ctx} {cmd : Cmd}

theorem State.meHeader_clean {conv specOk : Bool} {top : Nat} (hrm : cmd.rmCode = 0) (hsat : cmd.sat = false) (hb : cmd.accb = 0)
    (hspec : cmd.spec = false) (htop : top < (s.accn c).1) : ∀ q ∈ s.meHeader c cmd conv specOk false top, q.1 = false := by
  simp [State.meHeader, hrm, hsat, hb, hspec, htop]

theorem State.takeHolds_of_spec {accs : List Nat} {k : State × EOut Cmd} (hspec : cmd.spec = false) : s.takeHolds c cmd accs k = k := by
  rw [State.takeHolds, hspec]
  rfl

/-- A well-formed ACCZ counts the accumulators that it names. -/
theorem startAccz_ok (hrm : cmd.rmCode = 0) (hsat : cmd.sat = false) (hb : cmd.accb = 0) (hspec : cmd.spec = false)
    (hshape : cmd.shapeBits 47 3 = 0) (hacc : cmd.acca + cmd.accs ≤ (s.accn c).1) (hn : (s.accn c).1 ≤ 8) (h1 : cmd.slot1 = GReg.zero)
    (h2 : cmd.slot2 = GReg.zero) (hpar : cmd.par = 0) : startAccz s c cmd = (s, .ok { cmd with total := cmd.accs }) := by
  have hpos : 0 < cmd.accs := Nat.succ_pos _
  have hmin : min (cmd.acca + cmd.accs - 1) 7 < (s.accn c).1 := by omega
  have htop : ¬ cmd.acca + cmd.accs - 1 > 7 := by omega
  have hcount : ¬ cmd.accs > 2 ^ 28 - 1 := by omega
  rw [startAccz, needs_of_clean, withTotal, if_neg hcount]
  · exact State.takeHolds_of_spec hspec
  · simp only [State.accHeader, List.forall_mem_append, List.forall_mem_cons]
    refine ⟨⟨State.meHeader_clean hrm hsat hb hspec hmin, ?_⟩, ?_⟩
    · simp [Cmd.shapeZero, hshape, htop]
    · simp [slotUnused, h1, h2, Cmd.parZero, Cmd.parBits, hpar, bits]

end

/-! ## Accumulator rows after a narrow tile is put (R180) -/

section
variable {bank a row : Nat}

theorem Engines.accRow_putRow (e : Engines) (r : Nat) (codes : List Nat) : (e.putRow bank a false r codes).accRow bank a row =
    if row = r then BitVec.ofNat 1024 (pack 32 codes) else e.accRow bank a row := by
  have hkey : accKey bank a row = accKey bank a r ↔ row = r := by unfold accKey; omega
  simp only [Engines.putRow, Engines.setRow, Engines.accRow, Bool.false_eq_true, if_false, aget_aput, hkey]

theorem Engines.accRow_putTile_below (t : List (List Nat)) (r : Nat) (e : Engines) (h : row < r) :
    (Engines.putTile bank a false r t e).accRow bank a row = e.accRow bank a row := by
  induction t generalizing r e with
  | nil => rfl
  | cons codes t ih => rw [Engines.putTile, ih _ _ (by omega), Engines.accRow_putRow, if_neg (by omega)]

/-- Row i of a tile stands i rows on. -/
theorem Engines.accRow_putTile (t : List (List Nat)) (r i : Nat) (e : Engines) (h : i < t.length) :
    (Engines.putTile bank a false r t e).accRow bank a (r + i) = BitVec.ofNat 1024 (pack 32 t[i]) := by
  induction t generalizing r i e with
  | nil => cases h
  | cons codes t ih =>
    cases i with
    | zero =>
      have hbelow := Engines.accRow_putTile_below (bank := bank) (a := a) t (r + 1) (e.putRow bank a false r codes) (Nat.lt_succ_self r)
      exact hbelow.trans ((Engines.accRow_putRow e r codes).trans (if_pos rfl))
    | succ i =>
      rw [show r + (i + 1) = r + 1 + i by omega]
      exact ih (r + 1) i _ (Nat.lt_of_succ_lt_succ h)

/-- Putting a tile changes accumulators alone. -/
theorem Engines.get_putTile (wide : Bool) (t : List (List Nat)) (r : Nat) (x : Engines) (e : Eng) :
    (Engines.putTile bank a wide r t x).get e = x.get e := by
  induction t generalizing r x with
  | nil => rfl
  | cons codes t ih =>
    rw [Engines.putTile, ih]
    cases wide <;> cases e <;> rfl

theorem pack_zeros (w n : Nat) : pack w (List.replicate n 0) = 0 := by
  induction n with
  | zero => rfl
  | succ n ih =>
    rw [pack] at ih ⊢
    rw [List.replicate_succ, List.foldr_cons, ih, Nat.zero_mod, Nat.mul_zero]

/-- The rows of a zeroed accumulator (R187). -/
theorem Engines.accRow_zeroTile (x : Engines) (h : row < 32) : (Engines.putTile bank a false 0 (zeroTile 32) x).accRow bank a row = 0 := by
  have hlen : row < (zeroTile 32).length := by rw [zeroTile, List.length_replicate]; exact h
  have hzero : (zeroTile 32)[row] = List.replicate 32 0 := List.getElem_replicate ..
  have hrow := Engines.accRow_putTile (bank := bank) (a := a) (zeroTile 32) 0 row x hlen
  rw [Nat.zero_add, hzero, pack_zeros] at hrow
  exact hrow

end

/-! ## An element that is performed, and ACCZ's (R176, R187, R323) -/

section
variable {s u : State} {core : Nat} {e : Eng} {c : Ctx} {cmd : Cmd} {rest : List Cmd}

/-- What counting an element and reading ahead leave: the queue with the command as it now stands at its head, memory, the
accumulators, and all of the context but its engines. -/
theorem State.elementCounted {g : Cmd → Cmd} (h : u.engActs core c) (hq : (u.cpu.eng.get e).cmds = cmd :: rest) :
    let v := (u.updHead c e g).readAhead c e
    v.engActs core c ∧ v.mem = u.mem ∧ (v.cpu.eng.get e).cmds.head? = some (g cmd) ∧ (v.cpu.eng.get e).cmds.length = rest.length + 1 ∧
      ∀ bank a row, v.cpu.eng.accRow bank a row = u.cpu.eng.accRow bank a row := by
  obtain ⟨f, hf, fqueue, fhead⟩ := u.updHead_eq c e g
  have hacts := State.engActs_updRun h fqueue.engines
  obtain ⟨r, hr, rqueue, rhead⟩ := (u.updRun c f).readAhead_eq c e
  obtain ⟨hhead, hlen⟩ := rhead (f u.cpu)
  have hcpu : ((u.updRun c f).updRun c r).cpu = r (f u.cpu) := (State.cpu_updRun hacts).trans (congrArg r (State.cpu_updRun h))
  rw [fhead u.cpu cmd rest hq] at hhead hlen
  dsimp only
  rw [hf, hr, hcpu]
  refine ⟨State.engActs_updRun hacts rqueue.engines, rfl, hhead, hlen, fun bank a row => ?_⟩
  obtain ⟨q, hfq⟩ := fqueue u.cpu
  obtain ⟨k, hrk⟩ := rqueue (f u.cpu)
  rw [hrk, hfq]
  simp only [Engines.accRow_set]

/-- Only behind an MMA are the next command's operands read (R323). -/
theorem State.bufferNext_of_opc (hc : s.engCtx core = some c) (hq : c.eng.me.cmds.head? = some cmd) (ho : cmd.opc ≠ 1) :
    s.bufferNext core = s := by
  unfold State.bufferNext
  rw [hc]
  dsimp only
  split
  · rename_i hcmds
    rw [hcmds] at hq
    cases hq
    exact if_neg fun h => ho h.1
  · rfl
  · rfl

theorem elemAccz_eq (s : State) (c : Ctx) (cmd : Cmd) : elemAccz s c cmd =
    (s.updEngines c (Engines.putTile cmd.bank (cmd.acca + cmd.elem) false 0 (zeroTile 32)), .ok { cmd with elem := cmd.elem + 1 }) := by
  have hflags : cmd.flags ||| (0 : BitVec 5) = cmd.flags := BitVec.or_zero
  rw [elemAccz, Cmd.step, hflags]

/-- An element of ACCZ zeroes its accumulator and counts. -/
theorem exec_engineElement_accz (hc : s.engCtx core = some s.cpu) (hq : s.cpu.eng.me.cmds = cmd :: rest) (hopc : cmd.opc = 3)
    (hs : cmd.started = true) (ho : cmd.over = false) (hout : cmd.out = []) :
    ∃ t, exec (.engineElement core .me) s = .next t ∧ t.mem = s.mem ∧ t.cpu.regs = s.cpu.regs ∧
      t.cpu.eng.me.cmds.head? = some { cmd with elem := cmd.elem + 1 } ∧ t.cpu.eng.me.cmds.length = rest.length + 1 ∧
      ∀ bank a row, t.cpu.eng.accRow bank a row =
        (Engines.putTile cmd.bank (cmd.acca + cmd.elem) false 0 (zeroTile 32) s.cpu.eng).accRow bank a row := by
  have hacts := State.engActs_cpu hc
  obtain ⟨hcounted, hmem, hhead, hlen, hacc⟩ := State.elementCounted (e := .me) (rest := rest)
    (g := fun _ => { cmd with elem := cmd.elem + 1 })
    (State.engActs_updEngines (Engines.putTile cmd.bank (cmd.acca + cmd.elem) false 0 (zeroTile 32)) hacts)
    (by rw [State.cpu_updEngines hacts, Engines.get_putTile]; exact hq)
  have helem : elementOf .me cmd.opc s s.cpu cmd = elemAccz s s.cpu cmd := by rw [hopc]; rfl
  have hmma : Cmd.opc { cmd with elem := cmd.elem + 1 } ≠ 1 := fun h => absurd (hopc.symm.trans h) (by decide)
  have run := exec_engineElement (e := .me) hc hq hout (State.runElement_ok (e := .me) hc hq hs ho (helem.trans (elemAccz_eq ..)))
  rw [if_pos rfl, State.bufferNext_of_opc hcounted.1 hhead hmma] at run
  refine ⟨_, run, hmem, State.regs_of_engActs hcounted, hhead, hlen, fun bank a row => (hacc bank a row).trans ?_⟩
  rw [State.cpu_updEngines hacts]

end

/-- Settles O57: commands by their start, their elements, their completion and their write-backs, and ACCZ's start and element in full. -/
theorem engineEvents : Obligations.EngineEvents := by
  unfold Obligations.EngineEvents
  refine ⟨?_, ?_, ?_, ?_, ?_⟩
  · intro s u core c cmd x rest hc hs he hb starts
    have start : ∀ {i : Instr} {e : Eng} {opc : Nat} {chk : State → Ctx → Cmd → State × EOut Cmd},
        exec i s = s.startCmd core e opc chk → starts i e opc chk :=
      fun hi hq ho hk => hi.trans (State.startCmd_ok hc hs he hb hq ho hk)
    exact ⟨start rfl, start rfl, start rfl, start rfl, start rfl, start rfl, start rfl, start rfl, start rfl, start rfl, start rfl, start rfl,
      start rfl⟩
  · intro s u core e c cmd x rest hc hq hs ho hout
    exact ⟨fun hf => exec_engineElement hc hq hout (State.runElement_ok hc hq hs ho hf),
      fun st info addr off hf => exec_engineElement hc hq hout (State.runElement_stop hc hq hs ho hf)⟩
  · intro s core e cmd rest hc hq ho hwb hout hnet
    obtain ⟨f, run, fields⟩ := exec_completionMessage hc hq ho hwb hout hnet
    obtain ⟨hcmds, hregs, hinbox⟩ := fields s.cpu
    have hcpu : (s.updRun s.cpu f).cpu = f s.cpu := State.cpu_updRun (State.engActs_cpu hc)
    rw [← hcpu] at hcmds hregs hinbox
    exact ⟨_, run, hcmds, rfl, hregs, hinbox⟩
  · intro s core c cmd rest w wb hc hq hwb hleft row hrows
    exact exec_mmrWriteBack hc hq hwb hleft hrows
  · intro s core c cmd rest hc hq hopc
    refine ⟨fun hs he hrm hsat hb hspec hshape hacc hn h1 h2 hpar hpush => ?_, fun hs ho hout hcpu => ?_⟩
    · exact State.startCmd_ok (e := .me) hc hs he hpush hq hopc (startAccz_ok hrm hsat hb hspec hshape hacc hn h1 h2 hpar)
    · subst hcpu
      obtain ⟨t, run, hmem, hregs, hhead, hlen, hacc⟩ := exec_engineElement_accz hc hq hopc hs ho hout
      refine ⟨t, run, hmem, hregs, hhead, fun hrest => by rw [hlen, hrest]; rfl, fun _ hspec row hrow => ?_⟩
      have hbank : cmd.bank = 0 := by rw [Cmd.bank, hspec]; rfl
      rw [hacc, hbank, Engines.accRow_zeroTile _ hrow]

end Sys2Proof.Machine
end

section
/-! SUPPORT. The mark of a context that the lull tree counts as idle since the last wave (R210, R225): what settles between steps notes
idleness last, and nothing that idleness reads is part of the mark. -/

namespace Sys2Proof.Machine

/-! ## Every step settles -/

theorem State.runTurn_settled (s : State) (core : Nat) : ∃ u : State, s.runTurn core = .next u.settled := by
  obtain ⟨t, ht⟩ := (s.turnTo core).runCore_next
  simp only [State.runTurn, ht]
  exact ⟨_, rfl⟩

theorem State.runEvent_settled (s : State) (i : Instr) : ∃ u : State, s.runEvent i = .next u.settled := by
  obtain ⟨t, ht⟩ := s.runEvent_next i
  unfold State.runEvent at ht ⊢
  split at ht
  · next h => exact ⟨s, if_pos h⟩
  · next h =>
    rw [if_neg h]
    revert ht
    generalize s.limited _ = r
    cases r with
    | next u => exact fun _ => ⟨u, rfl⟩
    | fault e => exact nofun
    | refused e => exact nofun

theorem State.runOwn_settled (s : State) : ∃ u : State, s.runOwn = .next u.settled := by
  unfold State.runOwn
  split
  · next f hf =>
    obtain ⟨t, ht⟩ := s.ownSteps_answer f (List.mem_of_find?_eq_some hf) s
    simp only [ht]
    exact State.runTurn_settled _ _
  · exact s.runTurn_settled _

theorem State.take_settled (s : State) (x : Turn) : ∃ u : State, s.take x = .next u.settled := by
  cases x with
  | event i => exact s.runEvent_settled i
  | core n => exact s.runTurn_settled n
  | cycles n => exact ⟨_, rfl⟩
  | fault f => cases f <;> exact ⟨_, rfl⟩
  | buddy t => exact ⟨_, rfl⟩
  | own => exact s.runOwn_settled

/-! ## Idleness and its mark -/

/-- Idleness reads nothing of the other contexts. -/
@[simp] theorem State.idle_mapCtx (s : State) (f : Ctx → Ctx) (c : Ctx) : (s.mapCtx f).idle c = s.idle c := rfl

/-- A context's mark is no part of what idleness reads. -/
@[simp] theorem State.idle_marked (s : State) (c : Ctx) (b : Bool) : s.idle { c with idleSince := b } = s.idle c := rfl

theorem State.ctxs_mapCtx (s : State) (f : Ctx → Ctx) : (s.mapCtx f).ctxs = s.ctxs.map f := rfl

theorem State.idle_of_noteIdle {s : State} {c : Ctx} (hc : c ∈ s.noteIdle.ctxs) (hmark : c.idleSince = true) : s.noteIdle.idle c = true := by
  unfold State.noteIdle at hc ⊢
  rw [State.ctxs_mapCtx] at hc
  obtain ⟨x, -, rfl⟩ := List.mem_map.1 hc
  rw [State.idle_mapCtx, State.idle_marked]
  exact (Bool.and_eq_true_iff.1 hmark).2

/-- Settles O6: every step ends with what settles between steps, which leaves the mark on idle contexts only. -/
theorem idleStays : Obligations.IdleStays := by
  unfold Obligations.IdleStays
  intro s t ht c hc hmark
  obtain ⟨u, hu⟩ := s.popTurn.take_settled s.turn
  obtain rfl : u.settled = t := Host.Outcome.next.inj (hu.symm.trans ht)
  exact State.idle_of_noteIdle hc hmark

theorem State.ctxs_reset : State.reset.ctxs = [emptyCore 0] := rfl

/-- Settles O7: the one context at reset bears no mark. -/
theorem idleAtReset : Obligations.IdleAtReset := by
  unfold Obligations.IdleAtReset
  rw [State.ctxs_reset, List.forall_mem_singleton]
  exact nofun

end Sys2Proof.Machine
end

section
/-! SUPPORT. The deque as one stack, spilled entries on top (R211, R212): what a push, a pop and the refill after a pop make of it. -/

namespace Sys2Proof.Machine

/-- A push puts the task under what the deque held, and leaves room for it in hardware. -/
theorem TaskSt.push_eq {q : TaskSt} (x : Task) (h : q.deque.length ≤ 64) :
    ∃ above spill, q.push x = { q with deque := above ++ [x], spill := spill } ∧ spill ++ above = q.spill ++ q.deque ∧ above.length < 64 := by
  unfold TaskSt.push
  split
  · next y rest hd =>
    rw [hd, List.length_cons] at h
    split
    · exact ⟨rest, q.spill ++ [y], rfl, by rw [hd, List.append_assoc]; rfl, h⟩
    · next hroom => exact ⟨q.deque, q.spill, rfl, rfl, Nat.lt_of_not_le hroom⟩
  · next hd => exact ⟨[], q.spill, rfl, by rw [hd], by decide⟩

theorem TaskSt.pop_of_last {q : TaskSt} {above : List Task} {x : Task} (h : q.deque = above ++ [x]) :
    q.pop = some (x, ({ q with deque := above } : TaskSt).refill) := by
  unfold TaskSt.pop
  rw [h, List.getLast?_concat, List.dropLast_concat]

theorem TaskSt.refill_order (q : TaskSt) : q.refill.spill ++ q.refill.deque = q.spill ++ q.deque := by
  unfold TaskSt.refill
  split
  · show q.spill.take _ ++ (q.spill.drop _ ++ q.deque) = _
    rw [← List.append_assoc, List.take_append_drop]
  · rfl

theorem TaskSt.refill_deque_le {q : TaskSt} (h : q.deque.length ≤ 64) : q.refill.deque.length ≤ 64 := by
  unfold TaskSt.refill
  split
  · show (q.spill.drop _ ++ q.deque).length ≤ 64
    rw [List.length_append, List.length_drop]
    omega
  · exact h

/-- After a refill nothing is spilled behind an empty hardware part. -/
theorem TaskSt.refill_spill_nil {q : TaskSt} (h : q.refill.deque = []) : q.refill.spill = [] := by
  unfold TaskSt.refill at h ⊢
  split at h
  · next hfew =>
    rw [if_pos hfew]
    have hdrop := (List.append_eq_nil_iff.1 h).1
    rw [List.drop_eq_nil_iff] at hdrop
    have hnil : q.spill = [] := List.length_eq_zero_iff.1 (by omega)
    show q.spill.take _ = []
    rw [hnil, List.take_nil]
  · next hmany => exact absurd (by rw [h]; decide) hmany

/-- Settles O36: a push puts its task at the bottom, where the pop finds it; spill and refill leave the order. -/
theorem dequeOrder : Obligations.DequeOrder := by
  unfold Obligations.DequeOrder
  intro q x _ hlen _
  obtain ⟨above, spill, hpush, horder, hroom⟩ := TaskSt.push_eq x hlen
  have hcount : spill.length + above.length = q.spill.length + q.deque.length := by
    rw [← List.length_append, horder, List.length_append]
  rw [hpush]
  refine ⟨?_, ?_, ?_, ?_, _, TaskSt.pop_of_last rfl, ?_, TaskSt.refill_deque_le (Nat.le_of_lt hroom), TaskSt.refill_spill_nil⟩
  · rw [← List.append_assoc, horder]
  · simp only [TaskSt.count, List.length_append, List.length_singleton]
    omega
  · exact List.append_ne_nil_of_right_ne_nil _ (List.cons_ne_nil _ _)
  · rw [List.length_append]
    exact hroom
  · rw [TaskSt.refill_order]
    exact horder

end Sys2Proof.Machine
end

section
/-! SUPPORT. Tiles that refuse traffic (R395, R397): a step of an agent or a determinant noted at a tile that serves leaves every tile that
serves serving. The table of the tiles may gain an entry by it, and another entry of the same physical tile may be found first. -/

namespace Sys2Proof.Machine

/-! ## What a search finds after a change of a table -/

theorem mem_of_afind {α : Type} {m : List (Nat × α)} {a : Nat} {x : α} (h : afind m a = some x) : (a, x) ∈ m := by
  induction m with
  | nil => cases h
  | cons e m ih =>
    obtain ⟨k, y⟩ := e
    unfold afind at h
    split at h
    · next hk =>
      cases h
      rw [hk]
      exact List.mem_cons_self
    · exact List.mem_cons_of_mem _ (ih h)

/-- A search finds what it found before the change, or the changed entry, when the entry meets the test as it did before. -/
theorem find?_ains {α : Type} (P : Nat × α → Bool) {m : List (Nat × α)} {a : Nat} {v : α}
    (h : ∀ x, afind m a = some x → P (a, x) = P (a, v)) :
    (ains m a v).find? P = m.find? P ∨ ((ains m a v).find? P = some (a, v) ∧ P (a, v) = true) := by
  induction m with
  | nil => cases hv : P (a, v) <;> simp [ains, hv]
  | cons e m ih =>
    obtain ⟨k, y⟩ := e
    unfold ains
    split
    · cases hv : P (a, v) <;> simp [hv]
    · split
      · next hk =>
        subst hk
        have hy := h y (if_pos rfl)
        cases hv : P (a, v) <;> simp [hv, hy]
      · next hk =>
        rw [List.find?_cons, List.find?_cons]
        split
        · exact Or.inl rfl
        · exact ih fun x hx => h x ((if_neg hk).trans hx)

/-! ## Refusing tiles -/

/-- The states of a recovery in which the agents of the physical tile all stand still. -/
def RecSt.halts : RecSt → Bool
  | .fence | .choose | .restore | .flip => true
  | .run | .replay | .resume | .lost | .migrate => false

/-- A tile shares its physical tile with one whose agents stand still. -/
def State.besideHalted (s : State) (t : Nat) : Bool :=
  ((s.tile t).shared || (s.guestAt (s.tile t).phys).isSome) && (s.onPhys (s.tile t).phys).any fun u => (s.tile u).st.halts

theorem State.refusing_eq (s : State) (t : Nat) :
    s.refusing t = ((s.tile t).st.refuses || ((s.tile t).st == .run && s.besideHalted t)) := by
  unfold State.refusing State.besideHalted
  dsimp only
  cases (s.tile t).st <;> rfl

theorem State.refuses_of_not_refusing {s : State} {t : Nat} (h : s.refusing t = false) : (s.tile t).st.refuses = false := by
  rw [State.refusing_eq, Bool.or_eq_false_iff] at h
  exact h.1

theorem RecSt.halts_of_not_refuses {x : RecSt} (h : x.refuses = false) : x.halts = false := by
  revert h
  cases x <;> decide

section
variable {s : State} {t : Nat} {f : TileSt → TileSt}

/-- A change of a tile that leaves its place and its state of recovery. -/
def KeepsService (f : TileSt → TileSt) : Prop := ∀ x, (f x).st = x.st ∧ (f x).phys = x.phys ∧ (f x).shared = x.shared

theorem State.service_updTile (hf : KeepsService f) (n : Nat) : ((s.updTile t f).tile n).st = (s.tile n).st ∧
    ((s.updTile t f).tile n).phys = (s.tile n).phys ∧ ((s.updTile t f).tile n).shared = (s.tile n).shared := by
  rw [State.tile_updTile]
  split
  · next h => exact h ▸ hf _
  · exact ⟨rfl, rfl, rfl⟩

/-- A search by place and state of recovery finds the changed tile or what it found. -/
theorem State.find?_updTile (hf : KeepsService f) (P : RecSt → Nat → Bool → Bool) :
    let test := fun e : Nat × TileSt => P e.2.st e.2.phys e.2.shared
    (s.updTile t f).tiles.find? test = s.tiles.find? test ∨
      ((s.updTile t f).tiles.find? test = some (t, f (s.tile t)) ∧ P (s.tile t).st (s.tile t).phys (s.tile t).shared = true) := by
  intro test
  obtain ⟨hst, hphys, hshared⟩ := hf (s.tile t)
  have hv : test (t, f (s.tile t)) = P (s.tile t).st (s.tile t).phys (s.tile t).shared := by
    simp only [test, hst, hphys, hshared]
  rw [← hv, State.updTile_tiles]
  refine find?_ains test fun x hx => hv.symm ▸ ?_
  rw [State.tile, hx]
  rfl

theorem State.guestAt_updTile (hf : KeepsService f) {p u : Nat} (h : (s.updTile t f).guestAt p = some u) :
    (s.guestAt p).isSome = true ∧ (u = t ∨ s.guestAt p = some u) := by
  unfold State.guestAt at h ⊢
  rcases State.find?_updTile (s := s) (t := t) hf fun st phys shared => phys == p && st != .lost && shared with hsame | ⟨hnew, hP⟩
  · rw [hsame] at h
    exact ⟨Option.isSome_iff_exists.2 ⟨u, h⟩, Or.inr h⟩
  · rw [hnew] at h
    obtain rfl : t = u := Option.some.inj h
    refine ⟨?_, Or.inl rfl⟩
    cases hx : afind s.tiles t with
    | none =>
      have hfresh : (s.tile t).shared = false := by rw [State.tile, hx]; rfl
      rw [hfresh, Bool.and_false] at hP
      cases hP
    | some x =>
      have htile : s.tile t = x := by rw [State.tile, hx]; rfl
      rw [htile] at hP
      rw [Option.isSome_map, List.find?_isSome]
      exact ⟨(t, x), mem_of_afind hx, hP⟩

theorem State.boundAt_updTile (hf : KeepsService f) {p u : Nat} (h : (s.updTile t f).boundAt p = some u) : u = t ∨ s.boundAt p = some u := by
  unfold State.boundAt at h ⊢
  rcases State.find?_updTile (s := s) (t := t) hf fun st phys shared => phys == p && st != .lost && !shared with hsame | ⟨hnew, -⟩
  · rw [hsame] at h
    revert h
    cases s.tiles.find? fun e => e.2.phys == p && e.2.st != .lost && !e.2.shared with
    | some e => exact Or.inr
    | none =>
      intro h
      obtain ⟨hown, hfree⟩ := Option.filter_eq_some_iff.1 h
      by_cases hu : u = t
      · exact Or.inl hu
      · rw [State.updTile_tiles, afind_ains, if_neg hu] at hfree
        exact Or.inr (Option.filter_eq_some_iff.2 ⟨hown, hfree⟩)
  · rw [hnew] at h
    exact Or.inl (Option.some.inj h).symm

theorem State.mem_onPhys_updTile (hf : KeepsService f) {p u : Nat} (h : u ∈ (s.updTile t f).onPhys p) : u = t ∨ u ∈ s.onPhys p := by
  unfold State.onPhys at h ⊢
  simp only [List.mem_append, Option.mem_toList] at h ⊢
  rcases h with h | h
  · exact (State.boundAt_updTile hf h).imp_right Or.inl
  · exact (State.guestAt_updTile hf h).2.imp_right Or.inr

theorem State.besideHalted_updTile (hf : KeepsService f) (ht : s.refusing t = false) {n : Nat}
    (h : (s.updTile t f).besideHalted n = true) : s.besideHalted n = true := by
  obtain ⟨-, hphys, hshared⟩ := State.service_updTile (s := s) (t := t) hf n
  unfold State.besideHalted at h ⊢
  rw [hphys, hshared, Bool.and_eq_true, Bool.or_eq_true, List.any_eq_true] at h
  obtain ⟨hpair, u, hu, hhalts⟩ := h
  rw [(State.service_updTile hf u).1] at hhalts
  rw [Bool.and_eq_true, Bool.or_eq_true, List.any_eq_true]
  refine ⟨hpair.imp_right fun hg => ?_, u, ?_, hhalts⟩
  · obtain ⟨v, hv⟩ := Option.isSome_iff_exists.1 hg
    exact (State.guestAt_updTile hf hv).1
  · refine (State.mem_onPhys_updTile hf hu).resolve_left fun hut => ?_
    subst hut
    rw [RecSt.halts_of_not_refuses (State.refuses_of_not_refusing ht)] at hhalts
    cases hhalts

theorem State.serves_updTile (hf : KeepsService f) (ht : s.refusing t = false) {n : Nat} (hn : s.refusing n = false) :
    (s.updTile t f).refusing n = false := by
  rw [State.refusing_eq, Bool.or_eq_false_iff, Bool.and_eq_false_iff] at hn
  obtain ⟨hst, hrun⟩ := hn
  rw [State.refusing_eq, Bool.or_eq_false_iff, Bool.and_eq_false_iff, (State.service_updTile hf n).1]
  refine ⟨hst, hrun.imp_right fun hbeside => ?_⟩
  rw [Bool.eq_false_iff] at hbeside ⊢
  exact mt (State.besideHalted_updTile hf ht) hbeside

end

/-- Tiles that serve, and the one among them that a change is about. -/
structure State.Serves (s : State) (t n : Nat) : Prop where
  changed : s.refusing t = false
  other : s.refusing n = false

theorem State.Serves.updTile {s : State} {t n : Nat} {f : TileSt → TileSt} (hs : s.Serves t n) (hf : KeepsService f) : (s.updTile t f).Serves t n :=
  ⟨State.serves_updTile hf hs.changed hs.changed, State.serves_updTile hf hs.changed hs.other⟩

theorem State.Serves.noteDet {s : State} {t n : Nat} (hs : s.Serves t n) (d : Det) : (s.noteDet t d).Serves t n :=
  hs.updTile fun _ => ⟨rfl, rfl, rfl⟩

theorem State.Serves.closeEpisode {s : State} {t n : Nat} (hs : s.Serves t n) : (s.closeEpisode t).Serves t n := by
  unfold State.closeEpisode
  split
  · exact (hs.noteDet _).updTile fun _ => ⟨rfl, rfl, rfl⟩
  · exact hs

theorem State.Serves.noteStep {s : State} {t n : Nat} (hs : s.Serves t n) (agent : Nat) : (s.noteStep t agent).Serves t n := by
  unfold State.noteStep
  split
  · split
    · exact hs.updTile fun _ => ⟨rfl, rfl, rfl⟩
    · exact hs.closeEpisode.updTile fun _ => ⟨rfl, rfl, rfl⟩
  · exact hs.updTile fun _ => ⟨rfl, rfl, rfl⟩

theorem State.Serves.numbered {s : State} {t n : Nat} (hs : s.Serves t n) (src vc k : Nat) (copy : DriftCopy) :
    (s.numbered src t vc k copy).Serves t n := by
  unfold State.numbered
  split
  · exact hs
  · refine (State.Serves.noteStep ?_ _).noteDet _
    exact ⟨hs.changed, hs.other⟩

end Sys2Proof.Machine
end

section
/-! SUPPORT. Steps of the deque units and of the agents between them (R211 to R218): firing, stealing and sharing, each as its event's
function answers when its conditions are met. -/

namespace Sys2Proof.Machine

section
variable {s : State} {core thief victim launch die n : Nat} {c a b v : Ctx} {x : Task} {q : TaskSt} {l : Launch}

theorem exec_firingPush (hc : s.ctxOf core launch = some c) (hx : vget .free c.task.trig n = .firing x) (hroom : c.task.full = false)
    (hserves : (s.tile (core / 16)).st.refuses = false) : exec (.firingPush core launch n) s =
      .next ((s.updTask core launch fun t => { (t.push x) with trig := vset t.trig n .free }).spillFor c) := by
  show execFiringPush core launch n s = _
  simp only [execFiringPush, hc, hx]
  exact if_neg (by rw [hroom, hserves]; exact Bool.false_ne_true)

theorem exec_stealGrant (hc : s.ctxOf core launch = some c) (hx : c.task.grant = some x) (hroom : c.task.full = false)
    (hserves : (s.tile (core / 16)).st.refuses = false) : exec (.stealGrant core launch) s =
      .next ((s.updTask core launch fun t => { (t.push x) with grant := none }).spillFor c) := by
  show execStealGrant core launch s = _
  simp only [execStealGrant, hc, Option.bind_some, hx]
  exact if_neg (by rw [hroom, hserves]; exact Bool.false_ne_true)

/-- The thief notes the victim as the one last probed, near or far. -/
def State.probedAt (s : State) (thief victim launch : Nat) : State :=
  s.updTask thief launch fun t => if victim / 16 = thief / 16 then { t with probed := victim } else { t with probedFar := victim }

theorem exec_stealProbe (ha : s.ctxOf thief launch = some a) (hb : s.ctxOf victim launch = some b) (hthief : a.thief = true)
    (hfree : (s.ctxs.any fun c => c.core == thief && c.launch != some launch && c.run.onCore) = false) (htrade : s.mayTrade thief victim = true)
    (hnext : s.probeNext launch a victim = true) (hsteal : b.task.steal = some (x, q)) : exec (.stealProbe thief victim launch) s =
      .next ((((s.probedAt thief victim launch).stealFrom launch b q).updTask thief launch fun t => { t with grant := some x }).noteSteal
        launch thief victim x) := by
  show execStealProbe thief victim launch s = _
  simp only [execStealProbe, ha, hb, hfree, hthief, htrade, hnext, hsteal, Bool.not_true, Bool.or_self, Bool.false_eq_true, if_false]
  rfl

theorem exec_dieAgentSteal {rest : List Ctx} (hl : s.launch? launch = some l) (hwhole : (s.dieTiles l die).all (s.tileWhole launch) = true)
    (hmine : s.dieCtxs launch die = c :: rest)
    (hidle : ∀ y ∈ c :: rest, y.thief = true ∧ s.atRest y = true ∧ y.task.steal = none)
    (hpick : (s.agentVictims launch die)[Config.agentVictim s.free % (s.agentVictims launch die).length]? = some v)
    (hsteal : v.task.steal = some (x, q)) (htrade : s.mayTrade c.core v.core = true) : exec (.dieAgentSteal launch die) s =
      .next (((s.drawFree.2.stealFrom launch v q).updTask c.core launch fun t => t.push x).noteSteal launch c.core v.core x) := by
  have hall : (c :: rest).all (fun y => y.thief && s.atRest y && y.task.steal.isNone) = true := List.all_eq_true.2 fun y hy => by
    obtain ⟨hthief, hrest, hnone⟩ := hidle y hy
    rw [hthief, hrest, hnone]
    rfl
  show execDieAgentSteal launch die s = _
  simp only [execDieAgentSteal, hmine, hl, Option.map_some, Option.getD_some, hwhole, hall, Bool.and_self, if_true, State.drawFree, hpick, hsteal,
    htrade]

theorem exec_sharePush_cut {x : Share} (hl : s.launch? launch = some l) (hx : l.shares[n]? = some x) (hcut : s.cut x.src x.die = true) :
    exec (.sharePush launch n) s = .next ((s.count 2).dropShare launch n) := by
  show execSharePush launch n s = _
  simp only [execSharePush, hl, Option.bind_some, hx, hcut, if_true]

theorem exec_sharePush {x : Share} {rest : List Ctx} (hl : s.launch? launch = some l) (hx : l.shares[n]? = some x)
    (hcut : s.cut x.src x.die = false) (hmine : s.dieCtxs launch x.die = c :: rest) (hroom : c.task.full = false)
    (hthere : s.lowestThere launch x.die = true) (hlinks : s.linksBusy (s.agentLinks x.src x.die) 0 = false) :
    exec (.sharePush launch n) s = .next ((((s.updTask c.core launch fun t => t.push x.task).spillFor c).noteDet (c.core / 16)
      (.value (c.core % 16) x.task.bytes)).dropShare launch n) := by
  show execSharePush launch n s = _
  simp only [execSharePush, hl, Option.bind_some, hx, hcut, hmine, hroom, hthere, hlinks, Bool.not_true, Bool.or_self, Bool.false_eq_true, if_false]

end

end Sys2Proof.Machine
end

section
/-! SUPPORT. The sweep of a barrier (R221, R222, R340): the marks that a node's forwarding and a release's way leave in the launch's record,
and what they leave alone. -/

namespace Sys2Proof.Machine

/-! ## Numbered traffic and marks -/

@[simp] theorem State.numbered_cpu (s : State) (src dst vc n : Nat) (copy : DriftCopy) : (s.numbered src dst vc n copy).cpu = s.cpu := by
  unfold State.numbered
  split <;> simp [State.noteDet]

@[simp] theorem State.numbered_others (s : State) (src dst vc n : Nat) (copy : DriftCopy) : (s.numbered src dst vc n copy).others = s.others := by
  unfold State.numbered
  split <;> simp [State.noteDet]

@[simp] theorem State.numbered_mem (s : State) (src dst vc n : Nat) (copy : DriftCopy) : (s.numbered src dst vc n copy).mem = s.mem := by
  unfold State.numbered
  split <;> simp [State.noteDet]

@[simp] theorem State.numbered_launches (s : State) (src dst vc n : Nat) (copy : DriftCopy) :
    (s.numbered src dst vc n copy).launches = s.launches := by
  unfold State.numbered
  split <;> simp [State.noteDet]

theorem Launch.swept_iff {l : Launch} {d phase tile : Nat} {k : SweepKind} :
    l.swept d phase tile k = true ↔ (⟨d, phase, tile, k⟩ : SweepMark) ∈ l.sweep := by
  unfold Launch.swept
  exact List.elem_iff

/-- A launch with more marks. -/
def Launch.marked (l : Launch) (ms : List SweepMark) : Launch := { l with sweep := l.sweep ++ ms }

@[simp] theorem Launch.marked_sweep (l : Launch) (ms : List SweepMark) : (l.marked ms).sweep = l.sweep ++ ms := rfl

@[simp] theorem Launch.marked_nil (l : Launch) : l.marked [] = l := by
  unfold Launch.marked
  rw [List.append_nil]

theorem State.launch?_sweepTo {s : State} {launch : Nat} {l : Launch} (h : s.launch? launch = some l) (d phase tile : Nat) (k : SweepKind) :
    (s.sweepTo launch d phase tile k).launch? launch = some (l.marked [⟨d, phase, tile, k⟩]) := by
  rw [State.sweepTo, State.launch?_updLaunch, if_pos rfl, h]
  rfl

/-! ## What a step of a sweep leaves alone -/

/-- What a step of a sweep leaves alone: the contexts and memory; and a tile that serves still serves. -/
structure SweepKeeps (s t : State) : Prop where
  cpu : t.cpu = s.cpu
  others : t.others = s.others
  mem : t.mem = s.mem
  serves : ∀ n, s.refusing n = false → t.refusing n = false

theorem SweepKeeps.refl (s : State) : SweepKeeps s s := ⟨rfl, rfl, rfl, fun _ => id⟩

theorem SweepKeeps.trans {s t u : State} (h : SweepKeeps s t) (g : SweepKeeps t u) : SweepKeeps s u :=
  ⟨g.cpu.trans h.cpu, g.others.trans h.others, g.mem.trans h.mem, fun n hn => g.serves n (h.serves n hn)⟩

theorem SweepKeeps.sweepTo (s : State) (launch d phase tile : Nat) (k : SweepKind) : SweepKeeps s (s.sweepTo launch d phase tile k) := by
  unfold State.sweepTo State.updLaunch
  split
  · exact ⟨rfl, rfl, rfl, fun _ => id⟩
  · exact SweepKeeps.refl s

theorem SweepKeeps.count (s : State) (i : Nat) : SweepKeeps s (s.count i) := ⟨rfl, rfl, rfl, fun _ => id⟩

/-- Traffic between tiles whose way is clear. -/
theorem SweepKeeps.numbered {s : State} {src dst : Nat} (h : s.wayClear src dst 0 = true) (n : Nat) (copy : DriftCopy) :
    SweepKeeps s (s.numbered src dst 0 n copy) := by
  refine ⟨by simp, by simp, by simp, fun m hm => ?_⟩
  by_cases hsame : src = dst
  · rw [State.numbered, if_pos hsame]
    exact hm
  · have hdst : s.refusing dst = false := by
      unfold State.wayClear at h
      simp only [beq_eq_false_iff_ne.2 hsame, Bool.false_or, Bool.and_eq_true, Bool.not_eq_true'] at h
      exact h.1.1.1.2
    exact ((State.Serves.mk hdst hm).numbered src 0 n copy).other

/-! ## Arrivals (R222 steps 1 to 3) -/

/-- The mark that a node's forwarding leaves: forwarded, dropped at a cut seam, or none while the way is not clear. -/
def State.arrivalMarks (s : State) (tile d phase : Nat) : List SweepMark :=
  match towardCorner (BitVec.ofNat 64 d) tile with
  | none => [⟨d, phase, tile, .forwarded⟩]
  | some u =>
    if s.cutTiles tile u = true then [⟨d, phase, tile, .dropped⟩] else if s.wayClear tile u 0 = true then [⟨d, phase, tile, .forwarded⟩] else []

theorem State.arrivalMarks_corner (s : State) {tile d phase : Nat} (h : towardCorner (BitVec.ofNat 64 d) tile = none) :
    s.arrivalMarks tile d phase = [⟨d, phase, tile, .forwarded⟩] := by
  rw [State.arrivalMarks, h]

theorem State.arrivalMarks_toward (s : State) {tile u d phase : Nat} (h : towardCorner (BitVec.ofNat 64 d) tile = some u) :
    s.arrivalMarks tile d phase = if s.cutTiles tile u = true then [⟨d, phase, tile, .dropped⟩]
      else if s.wayClear tile u 0 = true then [⟨d, phase, tile, .forwarded⟩] else [] := by
  rw [State.arrivalMarks, h]

theorem State.forwardArrival_spec {s : State} {launch : Nat} {l : Launch} (h : s.launch? launch = some l) (tile d phase : Nat) :
    SweepKeeps s (s.forwardArrival launch tile d phase) ∧
      (s.forwardArrival launch tile d phase).launch? launch = some (l.marked (s.arrivalMarks tile d phase)) := by
  unfold State.forwardArrival State.arrivalMarks
  cases towardCorner (BitVec.ofNat 64 d) tile with
  | none => exact ⟨SweepKeeps.sweepTo .., State.launch?_sweepTo h ..⟩
  | some u =>
    dsimp only
    split
    · exact ⟨(SweepKeeps.count s 2).trans (SweepKeeps.sweepTo ..), State.launch?_sweepTo (s := s.count 2) h ..⟩
    · split
      · next hclear =>
        refine ⟨(SweepKeeps.numbered hclear ..).trans (SweepKeeps.sweepTo ..), State.launch?_sweepTo ?_ ..⟩
        rw [State.launch?_congr (State.numbered_launches ..)]
        exact h
      · exact ⟨SweepKeeps.refl s, by rw [Launch.marked_nil, h]⟩

/-- A node that forwards for several barriers keeps every mark, and marks each whose corner it is. -/
theorem State.forwardArrivals_spec {launch tile : Nat} (is : List (Nat × Nat)) {s : State} {l : Launch} (h : s.launch? launch = some l) :
    ∃ k, (is.foldl (fun s i => s.forwardArrival launch tile i.1 i.2) s).launch? launch = some k ∧
      SweepKeeps s (is.foldl (fun s i => s.forwardArrival launch tile i.1 i.2) s) ∧ l.sweep ⊆ k.sweep ∧
      ∀ i ∈ is, towardCorner (BitVec.ofNat 64 i.1) tile = none → (⟨i.1, i.2, tile, .forwarded⟩ : SweepMark) ∈ k.sweep := by
  induction is generalizing s l with
  | nil => exact ⟨l, h, SweepKeeps.refl s, List.Subset.refl _, nofun⟩
  | cons i is ih =>
    obtain ⟨hkeeps, hl⟩ := State.forwardArrival_spec h tile i.1 i.2
    obtain ⟨k, hk, hrest, hsub, hmarks⟩ := ih hl
    rw [Launch.marked_sweep, List.append_subset] at hsub
    refine ⟨k, hk, hkeeps.trans hrest, hsub.1, fun j hj hcorner => ?_⟩
    rcases List.mem_cons.1 hj with rfl | hj
    · refine hsub.2 ?_
      rw [State.arrivalMarks_corner s hcorner]
      exact List.mem_singleton_self _
    · exact hmarks j hj hcorner

theorem exec_barrierArrival {s : State} {launch tile : Nat} {l : Launch} (h : s.launch? launch = some l) : exec (.barrierArrival launch tile) s =
    .next (((s.instances launch).filter fun i => s.gathered launch l tile i.1 i.2).foldl (fun s i => s.forwardArrival launch tile i.1 i.2) s) := by
  show execBarrierArrival launch tile s = _
  simp only [execBarrierArrival, h]

/-! ## Releases (R222 step 4) -/

/-- A release that finds a tile neither released nor cut off, with the way there clear, goes on from it. -/
theorem State.releaseAlong_cons {s : State} {launch u t : Nat} {l : Launch} {d phase : Nat} {rest : List Nat} (hl : s.launch? launch = some l)
    (hnew : l.swept d phase t .released = false) (hwhole : l.swept d phase t .cut = false) (hcut : s.cutTiles u t = false)
    (hclear : s.wayClear u t 0 = true) : s.releaseAlong launch d phase u (t :: rest) =
      ((s.numbered u t 0 32 (.release launch d phase)).sweepTo launch d phase t .released).releaseAlong launch d phase t rest := by
  simp only [State.releaseAlong, hl, Option.map_some, Option.getD_some, hnew, hwhole, hcut, hclear, Bool.false_eq_true, if_false, if_true]

/-- What a release on its way over tiles leaves in the launch's record: it has reached the tiles of a first part of its way, and no others. -/
def ReachesFrontOf (d phase : Nat) (l k : Launch) (ts : List Nat) : Prop :=
  ∃ front back, ts = front ++ back ∧ (∀ v ∈ front, k.swept d phase v .released = true) ∧
    ∀ v, k.swept d phase v .released = true → l.swept d phase v .released = true ∨ v ∈ front

theorem ReachesFrontOf.none {d phase : Nat} {l k : Launch} (ts : List Nat)
    (h : ∀ v, k.swept d phase v .released = true → l.swept d phase v .released = true) : ReachesFrontOf d phase l k ts :=
  ⟨[], ts, rfl, nofun, fun v hv => Or.inl (h v hv)⟩

theorem ReachesFrontOf.cons {d phase t : Nat} {l m k : Launch} {ts : List Nat} (h : ReachesFrontOf d phase m k ts)
    (ht : k.swept d phase t .released = true)
    (hm : ∀ v, m.swept d phase v .released = true → l.swept d phase v .released = true ∨ v = t) : ReachesFrontOf d phase l k (t :: ts) := by
  obtain ⟨front, back, hts, hreached, honly⟩ := h
  refine ⟨t :: front, back, congrArg _ hts, List.forall_mem_cons.2 ⟨ht, hreached⟩, fun v hv => ?_⟩
  rcases honly v hv with h | h
  · exact (hm v h).imp_right fun hv => List.mem_cons.2 (Or.inl hv)
  · exact Or.inr (List.mem_cons_of_mem t h)

theorem State.releaseAlong_spec {launch d phase : Nat} (ts : List Nat) {s : State} {u : Nat} {l : Launch} (h : s.launch? launch = some l) :
    SweepKeeps s (s.releaseAlong launch d phase u ts) ∧ ∃ k, (s.releaseAlong launch d phase u ts).launch? launch = some k ∧ l.sweep ⊆ k.sweep ∧
      ReachesFrontOf d phase l k ts := by
  induction ts generalizing s u l with
  | nil => exact ⟨SweepKeeps.refl s, l, h, List.Subset.refl _, ReachesFrontOf.none [] fun _ => id⟩
  | cons t rest ih =>
    cases hrel : l.swept d phase t .released with
    | true =>
      have hgo : s.releaseAlong launch d phase u (t :: rest) = s.releaseAlong launch d phase t rest := by
        simp only [State.releaseAlong, h, Option.map_some, Option.getD_some, hrel, if_true]
      rw [hgo]
      obtain ⟨hkeeps, k, hk, hsub, hfront⟩ := ih (u := t) h
      exact ⟨hkeeps, k, hk, hsub, hfront.cons (Launch.swept_iff.2 (hsub (Launch.swept_iff.1 hrel))) fun _ => Or.inl⟩
    | false =>
      simp only [State.releaseAlong, h, Option.map_some, Option.getD_some, hrel, Bool.false_eq_true, if_false]
      split
      · exact ⟨SweepKeeps.refl s, l, h, List.Subset.refl _, ReachesFrontOf.none _ fun _ => id⟩
      · split
        · refine ⟨(SweepKeeps.count s 2).trans (SweepKeeps.sweepTo ..), l.marked [⟨d, phase, t, .cut⟩],
            State.launch?_sweepTo (s := s.count 2) h .., List.subset_append_left .., ReachesFrontOf.none _ fun v hv => ?_⟩
          rw [Launch.swept_iff, Launch.marked_sweep, List.mem_append] at hv
          exact Launch.swept_iff.2 (hv.resolve_right (by simp))
        · split
          · next hclear =>
            have hl := State.launch?_sweepTo (s := s.numbered u t 0 32 (.release launch d phase))
              ((State.launch?_congr (State.numbered_launches ..) launch).trans h) d phase t .released
            obtain ⟨hkeeps, k, hk, hsub, hfront⟩ := ih (u := t) hl
            rw [Launch.marked_sweep, List.append_subset] at hsub
            refine ⟨((SweepKeeps.numbered hclear ..).trans (SweepKeeps.sweepTo ..)).trans hkeeps, k, hk, hsub.1, hfront.cons ?_ fun v hv => ?_⟩
            · exact Launch.swept_iff.2 (hsub.2 (List.mem_singleton_self _))
            · rw [Launch.swept_iff, Launch.marked_sweep, List.mem_append] at hv
              exact hv.imp Launch.swept_iff.2 fun h => congrArg SweepMark.tile (List.mem_singleton.1 h)
          · exact ⟨SweepKeeps.refl s, l, h, List.Subset.refl _, ReachesFrontOf.none _ fun _ => id⟩

/-! ## The path of a release -/

theorem releasePath_corner {d : Word} {tile : Nat} (h : tile = domOrigin d) : releasePath d tile = [] := by
  simp [releasePath, h]

/-- A release passes tiles of rising numbers. -/
theorem releasePath_rising (d : Word) (tile : Nat) : (releasePath d tile).Pairwise (· < ·) := by
  have rising : ∀ {f : Nat → Nat}, (∀ i j, i < j → f i < f j) → ∀ n, ((List.range n).map f).Pairwise (· < ·) :=
    fun hf n => List.pairwise_map.2 (List.pairwise_lt_range.imp (hf _ _))
  refine List.pairwise_append.2 ⟨rising (fun i j h => by omega) _, rising (fun i j h => by omega) _, fun v hv w hw => ?_⟩
  obtain ⟨i, hi, rfl⟩ := List.mem_map.1 hv
  obtain ⟨j, -, rfl⟩ := List.mem_map.1 hw
  have := List.mem_range.1 hi
  omega

/-- A tile on its own release's path is the last there, wherever it lies. -/
theorem releasePath_le {d : Word} {tile : Nat} (h : tile ∈ releasePath d tile) : ∀ v ∈ releasePath d tile, v ≤ tile := by
  simp only [releasePath, tileRow, tileCol, List.mem_append, List.mem_map, List.mem_range] at h ⊢
  rintro v (⟨i, hi, rfl⟩ | ⟨i, hi, rfl⟩) <;> rcases h with ⟨j, hj, hj'⟩ | ⟨j, hj, hj'⟩ <;> omega

/-- A first part of its release's path that holds a tile is all of it. -/
theorem releasePath_eq_front {d : Word} {tile : Nat} {front back : List Nat} (h : releasePath d tile = front ++ back) (hmem : tile ∈ front) :
    releasePath d tile = front := by
  have hback : back = [] := List.eq_nil_iff_forall_not_mem.2 fun v hv => by
    have hrising := releasePath_rising d tile
    rw [h, List.pairwise_append] at hrising
    have hlt := hrising.2.2 tile hmem v hv
    have hle := releasePath_le (h ▸ List.mem_append_left back hmem) v (h ▸ List.mem_append_right front hv)
    omega
  rw [h, hback, List.append_nil]

/-! ## A release on its way to a tile -/

section
variable {s : State} {launch phase tile core : Nat} {d : Word} {c : Ctx} {l : Launch}

theorem State.releaseTo_eq (s : State) (launch phase tile : Nat) (d : Word) : s.releaseTo launch d.toNat phase tile =
    let t := s.releaseAlong launch d.toNat phase (domOrigin d) (releasePath d tile)
    (t, tile == domOrigin d || ((t.launch? launch).map fun l => l.swept d.toNat phase tile .released).getD false) := by
  rw [State.releaseTo, BitVec.ofNat_toNat, BitVec.setWidth_eq]

theorem State.releaseTo_corner (h : tile = domOrigin d) : (s.releaseTo launch d.toNat phase tile).2 = true := by
  rw [State.releaseTo_eq, h]
  exact Bool.or_eq_true_iff.2 (Or.inl (beq_self_eq_true _))

theorem State.releaseTo_keeps (h : s.launch? launch = some l) : SweepKeeps s (s.releaseTo launch d.toNat phase tile).1 := by
  rw [State.releaseTo_eq]
  exact (State.releaseAlong_spec _ h).1

/-- A tile next to the corner, with the way clear, is reached. -/
theorem State.releaseTo_next (h : s.launch? launch = some l) (hpath : releasePath d tile = [tile]) (hcut : s.cutTiles (domOrigin d) tile = false)
    (hclear : s.wayClear (domOrigin d) tile 0 = true) (hnone : l.sweep = []) : (s.releaseTo launch d.toNat phase tile).2 = true := by
  have hunswept : ∀ k, l.swept d.toNat phase tile k = false := fun k => by rw [Launch.swept, hnone]; rfl
  have hl := State.launch?_sweepTo (s := s.numbered (domOrigin d) tile 0 32 (.release launch d.toNat phase))
    ((State.launch?_congr (State.numbered_launches ..) launch).trans h) d.toNat phase tile .released
  rw [State.releaseTo_eq, hpath, State.releaseAlong_cons h (hunswept _) (hunswept _) hcut hclear]
  simp only [State.releaseAlong, hl, Option.map_some, Option.getD_some]
  refine Bool.or_eq_true_iff.2 (Or.inr (Launch.swept_iff.2 ?_))
  rw [Launch.marked_sweep]
  exact List.mem_append_right _ (List.mem_singleton_self _)

/-- A release that comes to a tile has reached every tile before it. -/
theorem State.releaseTo_reached (h : s.launch? launch = some l) (hnew : l.swept d.toNat phase tile .released = false)
    (hthere : (s.releaseTo launch d.toNat phase tile).2 = true) : ∀ v ∈ releasePath d tile,
      ∃ k, (s.releaseTo launch d.toNat phase tile).1.launch? launch = some k ∧ k.swept d.toNat phase v .released = true := by
  obtain ⟨-, k, hk, -, front, back, hpath, hreached, honly⟩ :=
    State.releaseAlong_spec (d := d.toNat) (phase := phase) (releasePath d tile) (u := domOrigin d) h
  rw [State.releaseTo_eq] at hthere ⊢
  simp only [hk, Option.map_some, Option.getD_some, Bool.or_eq_true, beq_iff_eq] at hthere
  intro v hv
  rcases hthere with hcorner | hswept
  · rw [releasePath_corner hcorner] at hv
    cases hv
  · have hmem : tile ∈ front := (honly tile hswept).resolve_left (by rw [hnew]; exact Bool.false_ne_true)
    exact ⟨k, hk, hreached v (releasePath_eq_front hpath hmem ▸ hv)⟩

theorem State.ctxs_updCtx_congr {u : State} (h : u.ctxs = s.ctxs) (core launch : Nat) (f : Ctx → Ctx) :
    (u.updCtx core launch f).ctxs = (s.updCtx core launch f).ctxs := by
  rw [State.updCtx, State.ctxs_mapCtx, h, State.updCtx, State.ctxs_mapCtx]

theorem State.ctxs_updLaunch (s : State) (n : Nat) (f : Launch → Launch) : (s.updLaunch n f).ctxs = s.ctxs := by
  unfold State.updLaunch
  split <;> rfl

theorem exec_barrierRelease (hc : s.ctxOf core launch = some c) (h : s.launch? launch = some l) (harr : c.bar.arr = .arrived)
    (hfwd : l.swept c.csrs.domain.toNat c.bar.phase.toNat (domOrigin c.csrs.domain) .forwarded = true)
    (hcorner : s.refusing (domOrigin c.csrs.domain) = false) (hserves : s.refusing (core / 16) = false)
    (hthere : (s.releaseTo launch c.csrs.domain.toNat c.bar.phase.toNat (core / 16)).2 = true) :
    ∃ t, exec (.barrierRelease core launch) s = .next t ∧ t.mem = s.mem ∧
      t.ctxs = (s.updCtx core launch fun c => { c with bar := { c.bar with phase := c.bar.phase + 1, arr := .released } }).ctxs := by
  have hkeeps := State.releaseTo_keeps (d := c.csrs.domain) (phase := c.bar.phase.toNat) (tile := core / 16) h
  show ∃ t, execBarrierRelease core launch s = .next t ∧ _
  simp only [execBarrierRelease, hc, h, harr, hfwd, hcorner, hthere, hkeeps.serves _ hserves, beq_self_eq_true, Bool.not_false, Bool.and_self, if_true]
  generalize (s.releaseTo launch c.csrs.domain.toNat c.bar.phase.toNat (core / 16)).1 = u at hkeeps
  have hctxs : u.ctxs = s.ctxs := by rw [State.ctxs, hkeeps.cpu, hkeeps.others, State.ctxs]
  refine ⟨_, rfl, ?_, ?_⟩
  · split
    · exact hkeeps.mem
    · exact (State.updLaunch_mem ..).trans hkeeps.mem
  · refine Eq.trans ?_ (State.ctxs_updCtx_congr hctxs ..)
    split
    · rfl
    · exact State.ctxs_updLaunch ..

end

/-- Settles O55: the deque units' events each by its conditions, the sweep by the marks that its steps leave. -/
theorem taskEvents : Obligations.TaskEvents := by
  unfold Obligations.TaskEvents
  intro s launch
  refine ⟨fun core n c x => exec_firingPush, fun thief victim a b x q => exec_stealProbe, fun core c x => exec_stealGrant, ?_, ?_, ?_, ?_⟩
  · intro die c rest l hl hwhole hmine hidle hvictims hcan
    obtain ⟨v, hv, hpick⟩ := getElem?_mod_of_ne_nil hvictims (Config.agentVictim s.free)
    obtain ⟨hsteal, htrade⟩ := hcan v hv
    obtain ⟨⟨x, q⟩, hxq⟩ := Option.isSome_iff_exists.1 hsteal
    exact ⟨v, hv, x, q, hxq, exec_dieAgentSteal hl hwhole hmine hidle hpick hxq htrade⟩
  · exact fun n l x hl hx => ⟨exec_sharePush_cut hl hx, fun c rest => exec_sharePush hl hx⟩
  · intro tile l hl is
    obtain ⟨k, hk, hkeeps, hsub, hcorner⟩ := State.forwardArrivals_spec (tile := tile) is hl
    refine ⟨_, k, exec_barrierArrival hl, hkeeps.cpu, hkeeps.mem, hk, fun hnone => ?_, fun _ hm => hsub hm, hcorner, fun i u hone htoward => ?_⟩
    · rw [hnone] at hk
      exact congrArg Launch.sweep (Option.some.inj (hk.symm.trans hl))
    · rw [hone] at hk
      rw [Option.some.inj (hk.symm.trans (State.forwardArrival_spec hl tile i.1 i.2).2), Launch.marked_sweep, s.arrivalMarks_toward htoward]
  · intro core c l hc hl harr d phase path way
    exact ⟨State.releaseTo_corner, State.releaseTo_next hl, State.releaseTo_reached hl, exec_barrierRelease hc hl harr⟩

end Sys2Proof.Machine
end

section

/-! SUCCHINT (R133, R229) by the HINT of the acting context's launch and by whether it has hinted. -/

namespace Sys2Proof.Machine

theorem State.curLaunch_eq {s : State} {n : Nat} {l : Launch} (hn : s.cpu.launch = some n) (hl : s.launch? n = some l) :
    s.curLaunch = some l := by rw [State.curLaunch, hn, Option.bind_some, hl]

theorem launchPkt_hint (q : Nat) (bs : List Byte) (pred : Option Nat) (w : WSet) (args : List Word) :
    (launchPkt q bs pred w args).hint = bit (pkt bs 1 1) 3 := rfl

/-- The three ways in which SUCCHINT of a launch ends. -/
theorem exec_succhint {s : State} {n : Nat} {l : Launch} (hn : s.cpu.launch = some n) (hl : s.launch? n = some l) :
    exec .succhint s =
      if l.pkt.hint && !l.hinted then
        if s.detsOpen (s.cpu.core / 16) then .next s.stall
        else .next ((s.advance.updLaunch n fun l => { l with hinted := true }).startSuccessors n)
      else .next s.advance := by
  show execSucchint s = _
  simp only [execSucchint, hn, State.curLaunch_eq hn hl]

/-- Settles O43: HINT as the packet's fields are read, SUCCHINT by its three ends. -/
theorem succHint : Obligations.SuccHint := by
  unfold Obligations.SuccHint
  refine ⟨launchPkt_hint, fun s n l hn hl => ⟨fun hnohint => ?_, fun hhint hfirst hacked => ?_⟩⟩
  · simp [exec_succhint hn hl, hnohint]
  · simp [exec_succhint hn hl, hhint, hfirst, hacked]

end Sys2Proof.Machine
end

section

/-! Queues and their packets (R241 to R249), the commands of QCTL, the partition table (R260) and the host's ports (R276, R349). -/

namespace Sys2Proof.Machine

variable {s u : State} {q : Nat} {bs : List Byte}

/-! ## A queue after an update -/

theorem State.queue_congr (h : u.front.queues = s.front.queues) (q : Nat) : u.queue q = s.queue q := by
  rw [State.queue, h, State.queue]

theorem State.queue_updQueue (s : State) (q : Nat) (f : Queue → Queue) : (s.updQueue q f).queue q = f (s.queue q) :=
  (aget_aput ..).trans (if_pos rfl)

theorem State.raise_queues (s : State) (port vec : Nat) : (s.raise port vec).front.queues = s.front.queues := by
  unfold State.raise
  split
  · rfl
  · split
    · split <;> rfl
    · exact congrArg Front.queues (State.writeMem_front ..)

/-- What ERROR leaves of its queue: its state and its code change, RIDX stands (R241). -/
theorem State.queueError_queue (s : State) (q code off : Nat) (bs : Option (List Byte)) :
    (s.queueError q code off bs).queue q = { s.queue q with st := .error, err := BitVec.ofNat 8 code } := by
  unfold State.queueError
  simp only
  rw [State.queue_congr (State.raise_queues ..)]
  split
  · rw [State.queue_congr (congrArg Front.queues (State.writeMem_front ..)), State.queue_updQueue]
  · exact State.queue_updQueue ..

/-! ## The packet at RIDX (R242, R246) -/

theorem State.packetAt_front (s : State) (q : Nat) : (s.packetAt q).1.front = s.front := by
  unfold State.packetAt
  simp only
  split
  · rfl
  · split <;> exact State.front_of_frame (s.meetRead_frame _ _ _)

theorem Queue.not_waiting_of_reads {x : Queue} (h : x.reads = true) : x.waiting = false := by
  simpa using (Bool.and_eq_true_iff.1 h).2

/-- Reading a packet puts none in hand. -/
theorem State.packetAt_not_waiting {code off : Nat} {ob : Option (List Byte)} (hr : (s.queue q).reads = true)
    (hp : s.packetAt q = (u, code, off, ob)) : (u.queue q).waiting = false := by
  have hfront : u.front = s.front := by rw [← s.packetAt_front q, hp]
  rw [State.queue_congr (congrArg Front.queues hfront)]
  exact Queue.not_waiting_of_reads hr

/-- A packet that passes R246 is served by its opcode. -/
theorem State.serve_packet {t : State} {op : Nat} {f : State → List Byte → State} (hr : (s.queue q).reads = true)
    (hp : s.packetAt q = (u, 0, 0, some bs)) (hop : pkt bs 0 1 = op) (h : f u bs = t) : s.serve q op f = .next t := by
  simp only [State.serve, hr, hp, hop, h, Bool.not_true, Bool.false_eq_true, if_false, if_true]

theorem exec_malformedPacket {code off : Nat} {ob : Option (List Byte)} (hr : (s.queue q).reads = true)
    (hp : s.packetAt q = (u, code, off, ob)) (hcode : code ≠ 0) :
    exec (.malformedPacket q) s = .next (u.queueError q code off (if code = 5 then none else ob)) := by
  show execMalformedPacket q s = _
  simp only [execMalformedPacket, hr, hp, hcode, Bool.not_true, Bool.false_eq_true, if_false]

/-! ## WAITPKT, SIGNAL and COPY by their cases (R248, R249) -/

theorem State.serveWait_ended (h : s.waitCase q bs = .ended) : s.serveWait q bs = s.consumePacket q := by
  rw [State.serveWait, h]

theorem State.serveWait_reject (h : s.waitCase q bs = .reject) :
    s.serveWait q bs = (s.frontRecord q 3 6 (pkt bs 2 2) 0 0 0).consumePacket q := by
  rw [State.serveWait, h]

theorem State.serveWait_wait (h : s.waitCase q bs = .wait) :
    s.serveWait q bs = (s.hold q bs).updQueue q fun x => { x with awaits := x.awaits.or (s.keptFor bs) } := by
  rw [State.serveWait, h]

/-- A SIGNAL with neither WAITALL nor MSI writes its value, and is consumed. -/
theorem State.serveSignal_plain (hall : bit (pkt bs 1 1) 0 = false) (hmsi : bit (pkt bs 1 1) 1 = false) :
    s.serveSignal q bs = (s.signalWrite (s.queue q).port (BitVec.ofNat 64 (pkt bs 8 8)) (pkt bs 16 8)).consumePacket q := by
  simp only [State.serveSignal, hall, hmsi, Bool.false_and, Bool.false_eq_true, if_false]

/-- A COPY without WAITALL that RESUME reads again starts under the number by which its id is kept. -/
theorem State.serveCopy_again {n : Nat} (hw : (s.queue q).waiting = false) (hall : bit (pkt bs 1 1) 0 = false)
    (hk : (s.queue q).keptAgain (pkt bs 2 2) = some n) : s.serveCopy q bs = s.startCopy q n bs := by
  simp only [State.serveCopy, hw, hall, hk, Bool.false_and, Bool.false_eq_true, if_false]

/-- A COPY without WAITALL that is read for the first time takes the next number. -/
theorem State.serveCopy_new (hw : (s.queue q).waiting = false) (hall : bit (pkt bs 1 1) 0 = false)
    (hk : (s.queue q).keptAgain (pkt bs 2 2) = none) : s.serveCopy q bs =
      (({ s with nextId := s.nextId + 1 } : State).keep q (pkt bs 2 2) false none (some s.nextId)).startCopy q s.nextId bs := by
  simp only [State.serveCopy, hw, hall, hk, Bool.false_and, Bool.false_eq_true, if_false]

/-- A packet in hand goes on by its opcode. -/
theorem exec_packetWaitEnd (hh : (s.queue q).hand = some bs) (hst : (s.queue q).st = .running) :
    (pkt bs 0 1 = 2 → exec (.packetWaitEnd q) s = .next (s.serveWait q bs)) ∧
      (pkt bs 0 1 = 3 → exec (.packetWaitEnd q) s = .next (s.serveSignal q bs)) ∧
      (pkt bs 0 1 = 6 → exec (.packetWaitEnd q) s = .next (s.serveCopy q bs)) := by
  show (_ → execPacketWaitEnd q s = _) ∧ (_ → execPacketWaitEnd q s = _) ∧ (_ → execPacketWaitEnd q s = _)
  refine ⟨fun h => ?_, fun h => ?_, fun h => ?_⟩ <;> simp only [execPacketWaitEnd, hh, hst, h]

theorem exec_copyDone {n : Nat} {j : CopyJob} (h : (s.queue q).copies[n]? = some j) :
    exec (.copyDone q n) s = .next ((s.updQueue q fun x => { x with copies := x.copies.eraseIdx n }).finishCopy q j) := by
  show execCopyDone q n s = _
  rw [execCopyDone, h]

/-! ## Queue registers (R241, R243) -/

theorem State.ready_eq_true (h : s.dev.state = .ready) : s.ready = true := by rw [State.ready, h]; rfl

/-- A kick that moves WIDX by at most the ring's size, with at most that much between RIDX and it, is taken. -/
theorem exec_qkick {k : BitVec 32} (hq : q < 256) (h : s.dev.state = .ready) (hst : (s.queue q).st ≠ .disabled)
    (hne : k ≠ (s.queue q).widx) (hw : (k - (s.queue q).widx).toNat ≤ (s.queue q).size)
    (hr : (k - (s.queue q).ridx).toNat ≤ (s.queue q).size) :
    exec (.qkick q k) s = .next (s.updQueue q fun x => { x with widx := k }) := by
  have hmoves : (k - (s.queue q).widx).toNat ≠ 0 := fun h0 => hne (sub_eq_zero.1 (BitVec.eq_of_toNat_eq h0))
  have htaken : ¬((s.queue q).st = .disabled ∨ (k - (s.queue q).widx).toNat = 0 ∨ (k - (s.queue q).widx).toNat > (s.queue q).size) := by
    simp only [hst, hmoves, false_or]; omega
  show execQkick q k s = _
  simp only [execQkick, if_pos hq, State.kick, State.ready_eq_true h, Bool.not_true, Bool.false_eq_true, if_false, if_neg htaken,
    if_neg (Nat.not_lt.2 hr)]

/-- A kick of a DISABLED queue is counted as stale. -/
theorem exec_qkick_stale {k : BitVec 32} (hq : q < 256) (h : s.dev.state = .ready) (hst : (s.queue q).st = .disabled)
    (hmax : (s.queue q).stale ≠ 0xFFFF) : exec (.qkick q k) s = .next (s.updQueue q fun x => { x with stale := x.stale + 1 }) := by
  show execQkick q k s = _
  simp only [execQkick, if_pos hq, State.kick, State.ready_eq_true h, Bool.not_true, Bool.false_eq_true, if_false, hst, true_or, if_true]
  simp only [State.updQueue, if_neg hmax]

/-- Each QCTL command in a state that lists it (R241). -/
theorem exec_qctl_listed (hq : q < 256) (h : s.dev.state = .ready) :
    ((s.queue q).st = .disabled → exec (.enable q) s = .next (s.updQueue q fun x =>
      { x with st := .running, widx := 0, ridx := 0, msgw := 0, msgh := 0, stale := 0, err := 0, hand := none, awaits := none, again := none })) ∧
    ((s.queue q).st = .running ∨ (s.queue q).st = .error → exec (.disable q) s = .next (s.updQueue q fun x =>
      { x with st := .disabled, err := 0, hand := none, awaits := none, again := none })) ∧
    ((s.queue q).st = .error → exec (.qctlResume q) s = .next (s.updQueue q fun x =>
      { x with st := .running, err := 0, hand := none, awaits := none, again := x.copyAgain })) ∧
    ((s.queue q).st = .error → exec (.skip q) s = .next (s.updQueue q fun x =>
      { x with st := .running, err := 0, ridx := x.ridx + 1, hand := none, awaits := none, again := none })) ∧
    exec (.clrstale q) s = .next (s.updQueue q fun x => { x with stale := 0 }) := by
  have taken : ∀ {t v : State}, t = v → (.next (if q < 256 then t else s) : Res) = .next v := fun e => by rw [if_pos hq, e]
  have ready := State.ready_eq_true h
  refine ⟨fun hst => taken ?_, fun hst => taken ?_, fun hst => taken ?_, fun hst => taken ?_, taken ?_⟩
  · simp only [State.qctl, ready, hst, Bool.not_true, Bool.false_eq_true, if_false]
  · rcases hst with hst | hst <;> simp only [State.qctl, ready, hst, Bool.not_true, Bool.false_eq_true, if_false]
  · simp only [State.qctl, ready, hst, Bool.not_true, Bool.false_eq_true, if_false]
  · simp only [State.qctl, ready, hst, Bool.not_true, Bool.false_eq_true, if_false]
  · simp only [State.qctl, ready, Bool.not_true, Bool.false_eq_true, if_false]

/-! ## The partition table (R260, R269) -/

/-- A partition with a domain written and its reserve refilled. -/
def Part.withDomain (p : Part) (i v : Nat) : Part := { p with dom := vset p.dom i (BitVec.ofNat 64 v), left := p.reserve.toNat * 1024 }

/-- A domain of an entry whose handle has no launch that lives is written. -/
theorem State.partWrite_domain {h i v : Nat} (h1 : 1 ≤ h) (h127 : h ≤ 127) (hi : i < 4)
    (hidle : ∀ p ∈ s.launches, p.2.live = true → p.2.pkt.handle ≠ h) (hrsv : bits v 63 29 = 0) (hindex : v % 4 = 0) :
    s.partWrite (64 * h + 8 * i) v =
      { s with front := { s.front with parts := aput Part.reset s.front.parts h ((s.part h).withDomain i v) } } := by
  have entry : (64 * h + 8 * i) / 64 = h := by omega
  have slot : (64 * h + 8 * i) % 64 / 8 = i := by omega
  have aligned : (64 * h + 8 * i) % 8 = 0 := by omega
  have idle : (s.launches.any fun l => l.2.live && l.2.pkt.handle == h) = false := by simpa using hidle
  have hrange : ¬(h = 0 ∨ h > 127) := by omega
  simp only [State.partWrite, entry, slot, aligned, idle, hi, hrsv, hindex]
  simp only [ne_eq, not_true_eq_false, bne_self_eq_false, Bool.or_self, Bool.false_eq_true, or_false, false_or, if_true, if_neg hrange]
  rfl

theorem exec_partitionTableWrite_domain {h i v : Nat} (h1 : 1 ≤ h) (h127 : h ≤ 127) (hi : i < 4)
    (hidle : ∀ p ∈ s.launches, p.2.live = true → p.2.pkt.handle ≠ h) (hrsv : bits v 63 29 = 0) (hindex : v % 4 = 0) :
    ∃ t, exec (.partitionTableWrite (64 * h + 8 * i) v) s = .next t ∧ t.part h = (s.part h).withDomain i v ∧ t.cpu = s.cpu ∧ t.mem = s.mem :=
  ⟨_, congrArg Host.Outcome.next (State.partWrite_domain h1 h127 hi hidle hrsv hindex), (aget_aput ..).trans (if_pos rfl), rfl, rfl⟩

/-! ## Host ports (R276) -/

/-- A port with no RUNNING queue and no summary under way goes down, and nothing else changes. -/
theorem exec_hostPortDown_quiet (hq : ∀ p ∈ s.front.queues, p.2.st = .running → p.2.port ≠ 0) (hb : s.dev.resync.busy = false) :
    exec (.hostPortDown 0) s = .next { s with fabric := { s.fabric with hostUp0 := false } } := by
  have none_runs : (s.front.queues.filter fun p => p.2.st == .running && p.2.port == 0) = [] := by simpa using hq
  show execHostPortDown 0 s = _
  simp [execHostPortDown, none_runs, hb]

/-! ## The events together -/

/-- Settles O59: the packet at RIDX by its opcode and case, the commands by the states that list them, the rest each by its own lemma. -/
theorem frontEvents : Obligations.FrontEvents := by
  unfold Obligations.FrontEvents
  intro s u q bs
  refine ⟨fun hr hp => ?packets, fun code off ob hr hp hcode => ?malformed, exec_packetWaitEnd, fun n j => exec_copyDone,
    fun hq hs => ⟨fun k => exec_qkick hq hs, fun k => exec_qkick_stale hq hs, exec_qctl_listed hq hs⟩,
    fun h i v h1 h127 hi hidle hrsv hindex _ => exec_partitionTableWrite_domain h1 h127 hi hidle hrsv hindex,
    fun hq hb => ⟨_, exec_hostPortDown_quiet hq hb, rfl, rfl⟩, ⟨_, rfl, rfl, rfl, rfl⟩⟩
  case packets =>
    have hw := State.packetAt_not_waiting hr hp
    refine ⟨fun hop => ?_, fun hop hc => ?_, fun hop hc => ?_, fun hop hc => ?_, fun hop hall hmsi => ?_, fun hop => ?_, fun hop => ?_,
      fun n hop hall hk => ?_, fun hop hall hk => ?_, fun hop => ?_⟩
    · exact State.serve_packet hr hp hop rfl
    · exact State.serve_packet hr hp hop (State.serveWait_ended hc)
    · exact State.serve_packet hr hp hop (State.serveWait_wait hc)
    · exact State.serve_packet hr hp hop (State.serveWait_reject hc)
    · exact State.serve_packet hr hp hop (State.serveSignal_plain hall hmsi)
    · exact State.serve_packet hr hp hop rfl
    · exact State.serve_packet hr hp hop rfl
    · exact State.serve_packet hr hp hop (State.serveCopy_again hw hall hk)
    · exact State.serve_packet hr hp hop (State.serveCopy_new hw hall hk)
    · exact State.serve_packet hr hp hop rfl
  case malformed =>
    have herr := u.queueError_queue q code off (if code = 5 then none else ob)
    exact ⟨_, exec_malformedPacket hr hp hcode, by rw [herr], by rw [herr], by rw [herr]⟩

end Sys2Proof.Machine
end

section
/-! SUPPORT. A tile after a change of its state, and the detection of a failure: the watchdog, a snapshot that takes too long, a physical tile
that is too hot (R377, R394, R410, R418). -/

namespace Sys2Proof.Machine

variable {s u : State} {t n : Nat}

/-! ## A tile after a change -/

theorem State.tile_congr (ht : u.tiles = s.tiles) (hr : u.fabric.rects = s.fabric.rects) (n : Nat) : u.tile n = s.tile n := by
  simp only [State.tile, State.freshTile, State.posOf, State.rectOf, ht, hr]

theorem State.tile_updTile_same (s : State) (t : Nat) (f : TileSt → TileSt) : (s.updTile t f).tile t = f (s.tile t) := by
  rw [State.tile_updTile, if_pos rfl]

theorem State.tile_updTile_of_ne (h : n ≠ t) (f : TileSt → TileSt) : (s.updTile t f).tile n = s.tile n := by
  rw [State.tile_updTile, if_neg h]

/-- Only determinants and the episode of a tile change when its episode ends (R389). -/
theorem State.tile_closeEpisode (s : State) (t : Nat) :
    ∃ d k e, (s.closeEpisode t).tile t = { s.tile t with dets := d, detSeq := k, episode := e } := by
  unfold State.closeEpisode State.noteDet
  split
  · exact ⟨_, _, _, by rw [State.tile_updTile_same, State.tile_updTile_same]⟩
  · exact ⟨_, _, _, rfl⟩

theorem State.createOwed_none (h : (s.tile t).owed = []) : s.createOwed t = s.updTile t fun x => { x with owed := [] } := by
  rw [State.createOwed, h]; rfl

theorem mem_nadd_self (l : List Nat) (a : Nat) : a ∈ nadd l a := by
  induction l with
  | nil => exact List.mem_singleton_self a
  | cons k l ih =>
    unfold nadd
    split
    · exact List.mem_cons_self
    · split
      · next h => exact h ▸ List.mem_cons_self
      · exact List.mem_cons_of_mem _ ih

/-! ## Detection (R394) -/

/-- A tile that is fenced for a recovery: nothing else of it changes. -/
def TileSt.fencedAnew (x : TileSt) : TileSt := { x with st := .fence, chosen := none }

theorem State.tile_fenceOne (s : State) (p k n : Nat) :
    (s.fenceOne p k).tile n = s.tile n ∨ (s.fenceOne p k).tile n = (s.tile n).fencedAnew := by
  have anew : ((s.dropFlip k).updTile k fun x => { x with st := .fence, chosen := none }).tile n = s.tile n ∨
      ((s.dropFlip k).updTile k fun x => { x with st := .fence, chosen := none }).tile n = (s.tile n).fencedAnew := by
    rw [State.tile_updTile]
    split
    · next h => exact .inr (h ▸ rfl)
    · exact .inl rfl
  unfold State.fenceOne
  dsimp only
  split
  case h_1 | h_2 => exact anew
  case h_7 | h_8 | h_9 => exact .inl rfl
  case h_3 | h_4 =>
    split
    · exact anew
    · exact .inl rfl
  case h_5 | h_6 =>
    split
    · exact .inl rfl
    · exact anew

theorem State.fenceOne_run (h : (s.tile t).st = .run) (p : Nat) : (s.fenceOne p t).tile t = (s.tile t).fencedAnew := by
  rw [State.fenceOne, h]
  exact State.tile_updTile_same ..

theorem State.fenceOne_rest (s : State) (p k : Nat) : (s.fenceOne p k).clk = s.clk ∧ (s.fenceOne p k).fabric.hot = s.fabric.hot ∧
    (s.fenceOne p k).fabric.retired = s.fabric.retired := by
  unfold State.fenceOne
  dsimp only
  split
  case h_1 | h_2 | h_7 | h_8 | h_9 => exact ⟨rfl, rfl, rfl⟩
  all_goals split <;> exact ⟨rfl, rfl, rfl⟩

theorem State.detect_rest (s : State) (t : Nat) : (s.detect t).clk = s.clk ∧ (s.detect t).fabric.hot = s.fabric.hot ∧
    (s.detect t).fabric.retired = s.fabric.retired := by
  have keeps := foldl_keeps (fun (u : State) k => u.fenceOne (s.tile t).phys k) (fun u => (u.clk, u.fabric.hot, u.fabric.retired))
    (fun u k => by obtain ⟨hc, hh, hr⟩ := u.fenceOne_rest (s.tile t).phys k; simp only [hc, hh, hr])
    (t :: s.onPhys (s.tile t).phys ++ s.movingTo (s.tile t).phys).eraseDups s
  simp only [Prod.mk.injEq] at keeps
  exact keeps

/-- A tile that runs is fenced at its detection. -/
theorem State.tile_detect (h : (s.tile t).st = .run) : (s.detect t).tile t = (s.tile t).fencedAnew := by
  unfold State.detect
  dsimp only
  rw [List.cons_append, List.eraseDups_cons, List.foldl_cons]
  refine List.foldlRecOn (motive := fun u : State => u.tile t = (s.tile t).fencedAnew) _ _ (State.fenceOne_run h _) fun u hu k _ => ?_
  rcases u.tile_fenceOne (s.tile t).phys k t with hk | hk <;> rw [hk, hu]
  rfl

/-- The end of an interval that takes too long is detected (R418). -/
theorem exec_snapshotTimeout {d : Nat} (hc : (s.tile t).committing = none) (hdue : s.intervalDue t = true) (hd : (s.tile t).dueSince = some d)
    (hlate : d + 10240 ≤ s.clk) : exec (.snapshotTimeout t) s = .next (s.detect t) := by
  show execSnapshotTimeout t s = _
  simp [execSnapshotTimeout, hc, hdue, hd, hlate]

/-- The state that the first fire of the watchdog detects in (R377). -/
def State.watched (s : State) (t : Nat) : State := s.updTile t fun x => { x with lastWatch := some s.dtime, byWatch := true, watchdog := 0 }

theorem exec_watchdogFire (hst : (s.tile t).st = .run) (hw : 2 ^ 24 ≤ (s.tile t).watchdog)
    (hlast : ∀ d, (s.tile t).lastWatch = some d → d + 1000000000 ≤ s.dtime) :
    exec (.watchdogFire t) s = .next ((s.watched t).detect t) := by
  show execWatchdogFire t s = _
  simp only [execWatchdogFire, hst, Nat.not_lt.2 hw, ne_eq, not_true_eq_false, or_self, if_false]
  cases hd : (s.tile t).lastWatch with
  | none => rfl
  | some d => simp only [decide_eq_true_eq, if_neg (Nat.not_lt.2 (hlast d hd))]; rfl

/-! ## A physical tile that is too hot (R9, R410) -/

theorem State.mem_tooHot {q : Nat} : q ∈ s.tooHot ↔ ∃ since, (q, since) ∈ s.fabric.hot ∧ since + 1000000 ≤ s.dtime := by
  simp [State.tooHot]

/-- Only physical tile p is too hot. -/
def State.onlyHot (s : State) (p : Nat) : Prop := p ∈ s.tooHot ∧ ∀ q ∈ s.tooHot, q = p

theorem State.onlyHot_of {p since : Nat} (hp : (p, since) ∈ s.fabric.hot) (hold : since + 1000000 ≤ s.dtime)
    (hothers : ∀ h ∈ s.fabric.hot, h.1 ≠ p → s.dtime < h.2 + 1000000) : s.onlyHot p := by
  refine ⟨State.mem_tooHot.2 ⟨since, hp, hold⟩, fun q hq => by_contra fun hne => ?_⟩
  obtain ⟨d, hd, hlate⟩ := State.mem_tooHot.1 hq
  exact absurd (hothers _ hd hne) (Nat.not_lt.2 hlate)

/-- The physical tile of a tile that runs: the tile is detected, and its physical tile is out of service. -/
theorem exec_overtemperature_run (hst : (s.tile t).st = .run) (h : s.onlyHot (s.tile t).phys) (hin : (s.tile t).phys ∉ s.fabric.retired) :
    exec (.overtemperature t) s = .next ((s.retire (s.tile t).phys).detect t) := by
  obtain ⟨hclk, hhot, hret⟩ := (s.retire (s.tile t).phys).detect_rest t
  have hsame : ((s.retire (s.tile t).phys).detect t).tooHot = s.tooHot := by
    simp only [State.tooHot, State.dtime, hclk, hhot]
    rfl
  have none_left : (((s.retire (s.tile t).phys).detect t).tooHot.filter fun q =>
      (((s.retire (s.tile t).phys).detect t).boundAt q).isNone && !((s.retire (s.tile t).phys).detect t).fabric.retired.elem q) = [] := by
    refine List.filter_eq_nil_iff.2 fun q hq => ?_
    obtain rfl := h.2 q (hsame ▸ hq)
    have : (s.tile t).phys ∈ ((s.retire (s.tile t).phys).detect t).fabric.retired := hret ▸ mem_nadd_self _ _
    simp [this]
  have found : (s.tooHot.elem (s.tile t).phys && !s.fabric.retired.elem (s.tile t).phys && (s.tile t).st != .lost) = true := by
    simp [hst, h.1, hin]
  show execOvertemperature t s = _
  simp only [execOvertemperature, if_pos found, none_left, List.foldl_nil]

/-- A physical tile that no tile is bound to goes out of service, and fails where a recovery or a migration has chosen it. -/
def State.retireSpare (s : State) (q : Nat) : State :=
  ((s.tiles.filter fun t => match t.2.chosen with
    | some c => c.1 == q
    | none => false).map (·.1)).foldl State.spareFailure (s.retire q)

theorem State.retireSpare_unchosen {p : Nat} (h : ∀ y ∈ s.tiles, ∀ c, y.2.chosen = some c → c.1 ≠ p) : s.retireSpare p = s.retire p := by
  rw [State.retireSpare, List.filter_eq_nil_iff.2]
  · rfl
  · intro y hy
    split
    · next c hc => simpa using h y hy c hc
    · exact Bool.false_ne_true

theorem State.retireSpares_unchosen {p : Nat} (qs : List Nat) (hqs : ∀ q ∈ qs, q = p) (h : ∀ y ∈ s.tiles, ∀ c, y.2.chosen = some c → c.1 ≠ p) :
    (qs.foldl State.retireSpare s).tiles = s.tiles ∧ (qs.foldl State.retireSpare s).mem = s.mem ∧
      (p ∈ qs → p ∈ (qs.foldl State.retireSpare s).fabric.retired) := by
  induction qs generalizing s with
  | nil => exact ⟨rfl, rfl, nofun⟩
  | cons q qs ih =>
    obtain rfl : q = p := hqs q List.mem_cons_self
    obtain ⟨htiles, hmem, hret⟩ := ih (s := s.retire q) (fun k hk => hqs k (List.mem_cons_of_mem _ hk)) h
    rw [List.foldl_cons, State.retireSpare_unchosen h]
    refine ⟨htiles, hmem, fun _ => ?_⟩
    cases qs with
    | nil => exact mem_nadd_self _ _
    | cons k qs => exact hret (hqs k (List.mem_cons_of_mem _ List.mem_cons_self) ▸ List.mem_cons_self)

/-- A physical tile that serves none and that none has chosen goes out of service, and no tile changes. -/
theorem exec_overtemperature_free {p : Nat} (hp : p ≠ (s.tile t).phys) (h : s.onlyHot p) (hin : p ∉ s.fabric.retired) (hfree : s.boundAt p = none)
    (hnone : ∀ y ∈ s.tiles, ∀ c, y.2.chosen = some c → c.1 ≠ p) :
    ∃ u, exec (.overtemperature t) s = .next u ∧ u.tiles = s.tiles ∧ p ∈ u.fabric.retired ∧ u.mem = s.mem := by
  have cool : ¬((s.tooHot.elem (s.tile t).phys && !s.fabric.retired.elem (s.tile t).phys && (s.tile t).st != .lost) = true) := by
    have : (s.tile t).phys ∉ s.tooHot := fun hh => hp (h.2 _ hh).symm
    simp [this]
  have hmem : p ∈ s.tooHot.filter fun q => (s.boundAt q).isNone && !s.fabric.retired.elem q := by
    simp [h.1, hfree, hin]
  have run : exec (.overtemperature t) s =
      .next ((s.tooHot.filter fun q => (s.boundAt q).isNone && !s.fabric.retired.elem q).foldl State.retireSpare s) := by
    show execOvertemperature t s = _
    simp only [execOvertemperature, if_neg cool]
    rfl
  obtain ⟨htiles, hm, hret⟩ := State.retireSpares_unchosen (s := s) _ (fun q hq => h.2 q (List.mem_filter.1 hq).1) hnone
  exact ⟨_, run, htiles, hret hmem, hm⟩

end Sys2Proof.Machine
end

section
/-! SUPPORT. The end of an interval and its commit (R381 to R384), a planned migration (R403), rollback (R363) and the exchange of a pair
(R366). -/

namespace Sys2Proof.Machine

variable {s : State} {t : Nat}

/-! ## The end of an interval (R381, R382) -/

theorem State.notePending_rest (s : State) (t : Nat) : (s.notePending t).mem = s.mem ∧ (s.notePending t).tiles = s.tiles ∧
    (s.notePending t).fabric = s.fabric := by
  unfold State.notePending
  dsimp only
  split <;> exact ⟨rfl, rfl, rfl⟩

/-- A tile that looks for a buddy changes nothing but its buddy (log entry 109). -/
theorem State.tile_seekBuddy (s : State) (t : Nat) :
    ∃ b f k, (s.seekBuddy t).tile t = { s.tile t with buddy := b, full := f, seeks := k } := by
  unfold State.seekBuddy
  split
  · exact ⟨_, _, _, State.tile_updTile_same ..⟩
  · exact ⟨_, _, _, rfl⟩

theorem State.seekBuddy_mem (s : State) (t : Nat) : (s.seekBuddy t).mem = s.mem := by
  unfold State.seekBuddy
  split
  · exact State.updTile_mem ..
  · rfl

/-- What the end of an interval finds before it takes the snapshot, when no word of memory is in error. -/
def State.atStop (s : State) (t : Nat) : State := (s.closeEpisode t).notePending t

theorem State.tile_atStop (s : State) (t : Nat) : ∃ d k e, (s.atStop t).tile t = { s.tile t with dets := d, detSeq := k, episode := e } := by
  obtain ⟨-, htiles, hfabric⟩ := (s.closeEpisode t).notePending_rest t
  rw [State.atStop, State.tile_congr htiles (congrArg Fabric.rects hfabric)]
  exact s.tile_closeEpisode t

theorem State.atStop_mem (s : State) (t : Nat) : (s.atStop t).mem = s.mem :=
  ((s.closeEpisode t).notePending_rest t).1.trans (State.closeEpisode_mem ..)

/-- A stream of lines without errors changes nothing. -/
theorem State.meetStream_clean (hb : s.mem.bad = []) (hs : s.mem.soft = []) (t : Nat) : s.meetStream t = s := by
  have : s.unmet t = [] := by simp [State.unmet, hb, hs]
  rw [State.meetStream, this]
  rfl

/-- A tile without a buddy has looked for one (log entry 109). -/
def State.sought (s : State) (t : Nat) : State := if (s.tile t).seeks then s.seekBuddy t else s

theorem State.tile_sought (s : State) (t : Nat) :
    ∃ b f k, (s.sought t).tile t = { s.tile t with buddy := b, full := f, seeks := k } ∧ ((s.tile t).seeks = false → k = false) := by
  unfold State.sought
  split
  · next h =>
    obtain ⟨b, f, k, hk⟩ := s.tile_seekBuddy t
    exact ⟨b, f, k, hk, fun hn => absurd h (by rw [hn]; exact Bool.false_ne_true)⟩
  · exact ⟨_, _, _, rfl, id⟩

theorem State.sought_mem (s : State) (t : Nat) : (s.sought t).mem = s.mem := by
  unfold State.sought
  split
  · exact s.seekBuddy_mem t
  · rfl

/-- The snapshot of a tile becomes the generation that is being committed, and the next interval begins (R382). -/
def State.newInterval (s : State) (t : Nat) : State := s.updTile t fun x => { x with
  committing := if x.seeks then none else some (s.snapTile t), dirty := [], dets := [], since := s.clk, endDue := false, dueSince := none }

/-- What goes with it outside the tile: the marks of RAW memory, the slots that a stop releases, and the gates (R115, R287, R393). -/
def State.snapped (s : State) (t : Nat) : State :=
  (({ s.newInterval t with launches := s.launches.map fun l => (l.1, { l.2 with raw := shiftRaw t l.2.raw }) } : State).mapCtx fun c =>
    if c.core / 16 == t then c.releaseSlots else c).mapGates (gateEnd t)

theorem State.tile_snapped (s : State) (t : Nat) : (s.snapped t).tile t = { s.tile t with
    committing := if (s.tile t).seeks then none else some (s.snapTile t), dirty := [], dets := [], since := s.clk, endDue := false, dueSince := none } :=
  (State.tile_congr (u := s.snapped t) (s := s.newInterval t) rfl rfl t).trans (State.tile_updTile_same ..)

theorem State.endInterval_eq (hb : s.mem.bad = []) (hs : s.mem.soft = []) (t : Nat) : s.endInterval t = ((s.atStop t).sought t).snapped t := by
  rw [State.endInterval, State.meetStream_clean hb hs]
  rfl

/-- What the end of an interval leaves when no word of memory is in error. -/
theorem State.endInterval_clean (hb : s.mem.bad = []) (hs : s.mem.soft = []) (t : Nat) :
    (s.endInterval t).mem = s.mem ∧ ((s.endInterval t).tile t).st = (s.tile t).st ∧ ((s.endInterval t).tile t).fenced = (s.tile t).fenced ∧
      ((s.endInterval t).tile t).owed = (s.tile t).owed ∧ ((s.tile t).seeks = false → ((s.endInterval t).tile t).committing.isSome = true) := by
  obtain ⟨d, m, e, hstop⟩ := s.tile_atStop t
  obtain ⟨b, f, k, hsought, hk⟩ := (s.atStop t).tile_sought t
  rw [State.endInterval_eq hb hs, State.tile_snapped, hsought]
  rw [hstop] at hk ⊢
  refine ⟨((s.atStop t).sought_mem t).trans (s.atStop_mem t), rfl, rfl, rfl, fun h => ?_⟩
  rw [hk h]
  rfl

theorem exec_intervalEnd (hst : (s.tile t).st = .run) (hc : (s.tile t).committing = none) (hdue : s.intervalDue t = true)
    (hw : s.stopWaits t = false) (hp : s.pairOpen t = none) : exec (.intervalEnd t) s = .next (s.endInterval t) := by
  show execIntervalEnd t s = _
  simp only [execIntervalEnd, hst, hc, hdue, hw, hp, Option.isNone_none, and_self, if_true]

theorem exec_checkpointCommit {g : Snap} (hst : (s.tile t).st = .run) (hc : (s.tile t).committing = some g) :
    exec (.checkpointCommit t) s = .next (s.commitTile t g) := by
  show execCheckpointCommit t s = _
  simp only [execCheckpointCommit, hc, hst, reduceCtorEq, if_false, true_or, if_true]

/-- The commit of a migrating tile is followed by its flip (R403). -/
theorem exec_checkpointCommit_migrate {g : Snap} (hst : (s.tile t).st = .migrate) (hc : (s.tile t).committing = some g) :
    exec (.checkpointCommit t) s = .next ((s.commitTile t g).queueFlip t) := by
  show execCheckpointCommit t s = _
  simp only [execCheckpointCommit, hc, hst, if_true]

/-! ## A planned migration (R403) -/

theorem State.tile_loseLock (s : State) (core n : Nat) : ∃ q, (s.loseLock core).tile n = { s.tile n with lockQ := q } := by
  unfold State.loseLock State.unqueueLock
  split
  · rw [State.tile_updTile]
    split
    · next h => exact ⟨_, by rw [h]; rfl⟩
    · exact ⟨_, rfl⟩
  · exact ⟨_, rfl⟩

/-- The cores of a tile lose their locks (R110). -/
def State.loseLocks (s : State) (t : Nat) : State := (List.range 16).foldl (fun s i => s.loseLock (t * 16 + i)) s

theorem State.tile_loseLocks (s : State) (t n : Nat) : ∃ q, (s.loseLocks t).tile n = { s.tile n with lockQ := q } := by
  refine List.foldlRecOn (motive := fun u : State => ∃ q, u.tile n = { s.tile n with lockQ := q }) _ _ ⟨_, rfl⟩ fun u hu i _ => ?_
  obtain ⟨q, hq⟩ := u.tile_loseLock (t * 16 + i) n
  obtain ⟨q', hq'⟩ := hu
  exact ⟨q, by rw [hq, hq']⟩

theorem State.loseLocks_mem (s : State) (t : Nat) : (s.loseLocks t).mem = s.mem :=
  foldl_keeps _ State.mem (fun u i => u.loseLock_mem (t * 16 + i)) _ _

/-- The state whose interval ends for a planned migration: the tile's gangs dissolved, its locks lost (R110, R128). -/
def State.migrating (s : State) (t : Nat) : State :=
  (s.mapCtx fun u => if u.core / 16 == t then { u.releaseSlots with gang := none } else u).loseLocks t

theorem State.tile_migrating (s : State) (t : Nat) : ∃ q, (s.migrating t).tile t = { s.tile t with lockQ := q } :=
  (s.mapCtx _).tile_loseLocks t t

theorem State.migrating_mem (s : State) (t : Nat) : (s.migrating t).mem = s.mem := (s.mapCtx _).loseLocks_mem t

theorem exec_plannedMigration {c : Nat × Nat × Bool} (hst : (s.tile t).st = .run) (hc : (s.tile t).committing = none)
    (hdue : (s.twoEvents (s.tile t).phys || s.longWarm (s.tile t).phys) = true) (hr : s.responsesPending t = false)
    (hw : s.stopWaits t = false) (hp : s.pairOpen t = none) (hspare : s.spareFor t = some c) :
    exec (.plannedMigration t) s = .next (if (((s.migrating t).endInterval t).tile t).st = .run then
      ((s.migrating t).endInterval t).updTile t fun x => { x with st := .migrate, chosen := some c } else (s.migrating t).endInterval t) := by
  show execPlannedMigration t s = _
  simp only [execPlannedMigration, hst, hc, hdue, hr, hw, hp, hspare, Option.isSome_none, ne_eq, not_true_eq_false, Bool.false_eq_true,
    Bool.true_eq_false, or_self, if_false]
  rfl

/-- A tile without errors in memory and with a spare begins its migration: snapshot and spare stand, memory is as it was. -/
theorem exec_plannedMigration_clean {c : Nat × Nat × Bool} (hst : (s.tile t).st = .run) (hc : (s.tile t).committing = none)
    (hdue : (s.twoEvents (s.tile t).phys || s.longWarm (s.tile t).phys) = true) (hr : s.responsesPending t = false)
    (hw : s.stopWaits t = false) (hp : s.pairOpen t = none) (hspare : s.spareFor t = some c) (hk : (s.tile t).seeks = false)
    (hb : s.mem.bad = []) (hs : s.mem.soft = []) :
    ∃ u, exec (.plannedMigration t) s = .next u ∧ (u.tile t).chosen = some c ∧ (u.tile t).st = .migrate ∧
      (u.tile t).committing.isSome = true ∧ u.mem = s.mem := by
  obtain ⟨q, htile⟩ := s.tile_migrating t
  have hmem := s.migrating_mem t
  obtain ⟨hm, hst', -, -, hcommit⟩ := State.endInterval_clean (by rw [hmem]; exact hb) (by rw [hmem]; exact hs) t
  rw [htile] at hst' hcommit
  refine ⟨_, exec_plannedMigration hst hc hdue hr hw hp hspare, ?_⟩
  rw [if_pos (hst'.trans hst), State.tile_updTile_same]
  exact ⟨rfl, rfl, hcommit hk, hm.trans hmem⟩

/-! ## Rollback (R363) and the exchange of a pair (R366) -/

/-- The acting context is no checking context of its own pair. -/
theorem State.putChecker_cpu (s : State) (chk : Ctx) : (s.putChecker s.cpu.core chk).cpu = s.cpu := by
  have : (s.cpu.core == s.cpu.core + 1) = false := by simp
  simp only [State.putChecker, State.mapCtx_cpu, this, Bool.false_and, Bool.false_eq_true, if_false]

/-- The progress of a repeat frame and of lanes lies in registers of their own (R72, R164). -/
theorem State.progress_rest (s : State) (x y : Word) :
    ((s.setRepprog x).setVprog y).cpu.csrs.regpc = s.cpu.csrs.regpc ∧
    ∀ n, ((s.setRepprog x).setVprog y).core n = s.core n := by
  unfold State.setVprog State.setRepprog
  split <;> split <;> exact ⟨rfl, fun _ => rfl⟩

/-- A rollback goes back to the address of REGPC, whose low two bits are dropped (log entry 79), and its request is answered. -/
theorem State.rollBack_spec (s : State) : s.rollBack.pc = s.cpu.csrs.regpc.toNat % 2 ^ 52 / 4 * 4 ∧ (s.rollBack.core s.cpu.core).rollReq = false := by
  obtain ⟨g, hg⟩ := s.dissolveGang_cpu
  have hcore : s.dissolveGang.cpu.core = s.cpu.core := by rw [hg]
  have hregpc : s.dissolveGang.cpu.csrs.regpc = s.cpu.csrs.regpc := by rw [hg]
  unfold State.rollBack
  extract_lets u c removed die log dev logged asked rolled t
  obtain ⟨-, hcores⟩ := rolled.progress_rest 0 0
  have hpc : t.pc = s.cpu.csrs.regpc.toNat % 2 ^ 52 / 4 * 4 := by
    have hr : rolled.cpu.csrs.regpc = s.cpu.csrs.regpc := hregpc
    rw [State.pc_setPc, hr, pcOf]
    omega
  have hreq : (t.core s.cpu.core).rollReq = false := by
    rw [State.core_setPc, hcores, State.core_modCpu, State.core_updCore, if_pos hcore.symm]
  split
  · split
    · exact ⟨by rw [State.pc, State.putChecker_cpu]; exact hpc, hreq⟩
    · exact ⟨hpc, hreq⟩
  · exact ⟨hpc, hreq⟩

theorem exec_rollback (hreq : (s.core s.cpu.core).rollReq = true) (hhalt : s.asks CoreSt.haltReq = false) (hlive : s.live = true)
    (hopen : s.regionOpen = true) (hpend : s.cpu.regs.pend = []) : exec .rollback s = .next s.rollBack := by
  show execRollback s = _
  simp [execRollback, hreq, hhalt, hlive, hopen, hpend]

theorem exec_pairExchange_match {core : Nat} {a b : Ctx} (ha : s.pairCtx core = some a) (hb : s.checkerOf (core / 2 * 2) = some b)
    (hn : a.pair.count ≠ 0) (hcrc : a.pair.crc = b.pair.crc) (hcount : a.pair.count = b.pair.count)
    (hserves : (s.tile (core / 16)).st.refuses = false) : exec (.pairExchange core) s =
      .next ((a.pair.held.foldl (fun s h => s.releaseHeld a.core a.launch h) s).mapCtx fun c =>
        if c.core = a.core ∧ c.launch = a.launch ∨ c.core = b.core ∧ c.csrs.pairctl.getLsbD 1 = true ∧ c.launch = none
        then c.afterExchange false else c) := by
  have hn : b.pair.count ≠ 0 := hcount ▸ hn
  show execPairExchange core s = _
  simp only [execPairExchange, ha, hb, hn, hserves, hcrc, hcount, bne_self_eq_false, Bool.or_self, Bool.false_eq_true, or_self, if_false,
    Bool.or_eq_true, Bool.and_eq_true, beq_iff_eq, Option.isNone_iff_eq_none, and_assoc]

end Sys2Proof.Machine
end

section
/-! SUPPORT. The steps of a recovery after its fence, to the replay (R394, R396 to R399), and the flip of a planned migration (R403). -/

namespace Sys2Proof.Machine

variable {s u : State} {t : Nat}

/-! ## What a record to the host leaves of the tiles and the fabric (R250, R264) -/

/-- The tiles and the fabric. -/
def State.sites (s : State) : List (Nat × TileSt) × Fabric := (s.tiles, s.fabric)

theorem State.tile_of_sites (h : u.sites = s.sites) (n : Nat) : u.tile n = s.tile n :=
  State.tile_congr (congrArg Prod.fst h) (congrArg (·.2.rects) h) n

theorem homeOf_device {k : Nat} (h : 2 ^ 38 ≤ k) (t : Nat) : homeOf k ≠ .tile t := by
  unfold homeOf
  have h37 : ¬k < 2 ^ 37 := by omega
  rw [if_neg h37, if_neg (Nat.not_lt.2 h)]
  split
  · dsimp only
    split <;> nofun
  · split <;> nofun

theorem qKey_device (port : Nat) (a : Word) : 2 ^ 38 ≤ qKey port a := by
  unfold qKey hostKey devKey
  split <;> omega

/-- An error of a word that lies in no tile counts against no unit (R371). -/
theorem State.uncorrectable_device {w : Nat} (h : 2 ^ 38 ≤ w) (s : State) : s.uncorrectable w = s := by
  unfold State.uncorrectable
  split
  · next ht => exact absurd ht (homeOf_device h _)
  · rfl

theorem State.memRecord_sites (s : State) (c k b : Nat) : (s.memRecord c k b).sites = s.sites := by
  unfold State.memRecord; split <;> rfl

theorem State.meetWrite_sites {k : Nat} (h : 2 ^ 38 ≤ k) (s : State) (n b : Nat) : (s.meetWrite k n b).sites = s.sites := by
  refine List.foldlRecOn (motive := fun u : State => u.sites = s.sites) _ _ rfl fun u hu w hw => ?_
  have hw : 2 ^ 38 ≤ w := by
    unfold wordsIn at hw
    split at hw
    · cases hw
    · obtain ⟨j, -, rfl⟩ := List.mem_map.1 hw
      omega
  simp only [State.uncorrectable_device hw]
  split
  · exact hu
  · split
    · rw [State.memRecord_sites, hu]
    · split
      · rw [State.memRecord_sites, hu]
      · split
        · rw [State.memRecord_sites, hu]
        · exact hu

theorem State.writeMem_sites {k : Nat} (h : 2 ^ 38 ≤ k) (s : State) (bs : List Byte) (g p : Bool) (b : Nat) :
    (s.writeMem k bs g p b).sites = s.sites := by
  have clean : ∀ (v : State) (n : Nat), v.markDirty k n = v := fun v n => by
    unfold State.markDirty
    split
    · rfl
    · split
      · next ht => exact absurd ht (homeOf_device h _)
      · rfl
  unfold State.writeMem
  dsimp only
  rw [clean]
  exact State.meetWrite_sites h s _ b

theorem State.raise_sites (s : State) (port vec : Nat) : (s.raise port vec).sites = s.sites := by
  unfold State.raise
  split
  · rfl
  · split
    · split <;> rfl
    · exact State.writeMem_sites (by unfold hostKey; omega) s ..

theorem State.record_sites (s : State) (q : Nat) (body : List Byte) : (s.record q body).sites = s.sites := by
  unfold State.record
  dsimp only
  split
  · rfl
  · rw [State.raise_sites]
    exact State.writeMem_sites (qKey_device ..) s ..

theorem State.updLaunch_sites (s : State) (n : Nat) (f : Launch → Launch) : (s.updLaunch n f).sites = s.sites := by
  unfold State.updLaunch; split <;> rfl

theorem State.demote_sites (s : State) (n : Nat) : (s.demote n).sites = s.sites := by
  unfold State.demote
  refine (foldl_keeps _ State.sites (fun u c => foldl_keeps _ State.sites (fun v core => ?_) _ _) _ _).trans (s.updLaunch_sites n _)
  split
  · split <;> rfl
  · rfl

theorem State.refit_sites (handle c2 fuel : Nat) (s : State) : (s.refit handle c2 fuel).sites = s.sites := by
  induction fuel generalizing s with
  | zero => rfl
  | succ fuel ih =>
    unfold State.refit
    split
    · rfl
    · dsimp only
      rw [ih, State.demote_sites]
      split
      · exact State.record_sites ..
      · rfl

/-- A change of capacity demotes launches: no tile changes by it (R264). -/
theorem State.capacityChanged_sites (s : State) (ts : List Nat) : (s.capacityChanged ts).sites = s.sites := by
  refine foldl_keeps _ State.sites (fun u h => ?_) _ _
  split
  · exact State.refit_sites ..
  · rfl

/-! ## The steps of a recovery after its fence (R394, R396 to R399) -/

theorem exec_lehrChoose_spare {c : Nat × Nat × Bool} (hst : (s.tile t).st = .choose) (h : s.spareFor t = some c) :
    exec (.lehrChoose t) s = .next (s.updTile t fun x => { x with chosen := some c, st := .restore }) := by
  show execLehrChoose t s = _
  simp only [execLehrChoose, hst, h, ne_eq, not_true_eq_false, if_false]

theorem exec_lehrChoose_host {c : Nat × Nat × Bool} (hst : (s.tile t).st = .choose) (hn : s.spareFor t = none) (h : s.hostFor t = some c) :
    exec (.lehrChoose t) s = .next (s.updTile t fun x => { x with chosen := some c, st := .restore }) := by
  show execLehrChoose t s = _
  simp only [execLehrChoose, hst, hn, h, ne_eq, not_true_eq_false, if_false]

theorem State.turnTo_rest (s : State) (core : Nat) : (s.turnTo core).mem = s.mem ∧ (s.turnTo core).sites = s.sites := by
  unfold State.turnTo
  split
  · exact ⟨rfl, rfl⟩
  · split <;> exact ⟨rfl, rfl⟩

theorem State.restoreCore_rest (s : State) (g : Snap) (name : Nat) :
    ((s.restoreCore g name).mem, (s.restoreCore g name).sites) = (s.mem, s.sites) := by
  unfold State.restoreCore
  dsimp only
  split <;> rfl

/-- A generation put in force changes the tile's memory, and of the tile itself the count of its watchdog (R394). -/
theorem State.putTile_spec (s : State) (t : Nat) (g : Snap) : (s.putTile t g).mem = s.mem.restoreTile t g ∧
    (s.putTile t g).tile t = { s.tile t with watchdog := g.watchdog } ∧ (s.putTile t g).fabric.flips = s.fabric.flips := by
  unfold State.putTile
  extract_lets me here others cpu fabric u v
  have hv : (v.mem, v.sites) = (u.mem, u.sites) :=
    foldl_keeps (fun s name => s.restoreCore g name) (fun w : State => (w.mem, w.sites)) (fun w name => w.restoreCore_rest g name) _ _
  clear_value v
  rw [Prod.mk.injEq] at hv
  obtain ⟨hm, hsites⟩ := hv
  obtain ⟨hmem, hturn⟩ := (v.updTile t fun x => { x with watchdog := g.watchdog }).turnTo_rest me
  have htile : v.tile t = s.tile t := (State.tile_of_sites hsites t).trans (State.tile_congr rfl rfl t)
  refine ⟨by rw [hmem, State.updTile_mem, hm], ?_, ?_⟩
  · rw [State.tile_of_sites hturn, State.tile_updTile_same, htile]
  · exact (congrArg (·.2.flips) hturn).trans (congrArg (·.2.flips) hsites)

/-- Replay heals registers alone (R399). -/
theorem Mem.restoreTile_healed (m : Mem) (t : Nat) (g : Snap) : m.restoreTile t g.healed = m.restoreTile t g := rfl

/-- The restore puts the committed generation in force, and the tile's flip waits for its turn. -/
theorem exec_lehrRestore (hst : (s.tile t).st = .restore) : ∃ u, exec (.lehrRestore t) s = .next u ∧ (u.tile t).st = .flip ∧
    t ∈ u.fabric.flips ∧ u.mem = s.mem.restoreTile t ((s.tile t).committed.getD Snap.boot) := by
  have run : exec (.lehrRestore t) s =
      .next (((s.putTile t ((s.tile t).committed.getD Snap.boot)).updTile t fun x => { x with st := .flip }).queueFlip t) := if_neg (not_not.2 hst)
  obtain ⟨hmem, -, -⟩ := s.putTile_spec t ((s.tile t).committed.getD Snap.boot)
  generalize s.putTile t ((s.tile t).committed.getD Snap.boot) = v at hmem run
  refine ⟨_, run, ?_, List.mem_append_right _ (List.mem_singleton_self t), hmem⟩
  have hqueue : ∀ w : State, (w.queueFlip t).tile t = w.tile t := fun _ => rfl
  rw [hqueue, State.tile_updTile_same]

/-- The replay puts the state at the fence in force. -/
theorem exec_lehrReplay {g : Snap} (hst : (s.tile t).st = .replay) (hg : (s.tile t).fenced = some g) : ∃ u, exec (.lehrReplay t) s = .next u ∧
    (u.tile t).st = .resume ∧ (u.tile t).watchdog = 0 ∧ u.mem = s.mem.restoreTile t g := by
  have run : exec (.lehrReplay t) s = .next ((s.putTile t g.healed).updTile t fun x => { x with st := .resume, watchdog := 0 }) := by
    show execLehrReplay t s = _
    simp only [execLehrReplay, hst, hg, ne_eq, not_true_eq_false, if_false]
  obtain ⟨hmem, -, -⟩ := s.putTile_spec t g.healed
  rw [Mem.restoreTile_healed] at hmem
  generalize s.putTile t g.healed = v at hmem run
  refine ⟨_, run, ?_, ?_, hmem⟩ <;> rw [State.tile_updTile_same]

/-! ## Flips (R290, R398, R403) -/

/-- The tile in service on the physical tile that its recovery or its migration chose, in a state of recovery. -/
def State.rebound (s : State) (t : Nat) (c : Nat × Nat × Bool) (st : RecSt) : State := (s.rebind t c).updTile t fun x => { x with st := st }

theorem State.tile_rebound (s : State) (t : Nat) (c : Nat × Nat × Bool) (st : RecSt) : (s.rebound t c st).tile t =
    { s.tile t with phys := c.1, cls := c.2.1, shared := c.2.2, chosen := none, st := st } := by
  rw [State.rebound, State.tile_updTile_same, State.rebind, State.tile_updTile_same]

/-- Unless the tile runs and leaves a lost physical tile, only its buddy and what follows from it change (R4, R379). -/
theorem State.rebuddy_spec {old : Nat} (h : (s.tile t).st = .run → s.physLost old = false) : (s.rebuddy t old).mem = s.mem ∧
    ∃ b f k o, (s.rebuddy t old).tile t = { s.tile t with buddy := b, full := f, safe := k, oldStore := o } := by
  have stays : (if (decide ((s.tile t).st = .run) && s.physLost old && !(s.tile t).shared) = true then s.storeEnds old else s) = s := by
    refine if_neg fun hh => ?_
    simp only [Bool.and_eq_true, decide_eq_true_eq] at hh
    obtain ⟨⟨hrun, hlost⟩, -⟩ := hh
    exact absurd hlost (by rw [h hrun]; exact Bool.false_ne_true)
  unfold State.rebuddy
  rw [stays]
  dsimp only
  split
  · split
    · exact ⟨State.updTile_mem .., _, _, _, _, State.tile_updTile_same ..⟩
    · exact ⟨rfl, _, _, _, _, rfl⟩
  · exact ⟨rfl, _, _, _, _, rfl⟩

/-- The tile once it is bound anew: in which state, where, and what it is owed. -/
structure State.BoundAnew (s u : State) (t : Nat) (c : Nat × Nat × Bool) (st : RecSt) : Prop where
  st : (u.tile t).st = st
  phys : (u.tile t).phys = c.1
  cls : (u.tile t).cls = c.2.1
  owed : (u.tile t).owed = (s.tile t).owed
  mem : u.mem = s.mem

theorem State.boundAnew_rebuddy {c : Nat × Nat × Bool} {st : RecSt} {old : Nat} (h : st = .run → s.physLost old = false) :
    s.BoundAnew ((s.rebound t c st).rebuddy t old) t c st := by
  have htile := s.tile_rebound t c st
  obtain ⟨hmem, b, f, k, o, hnew⟩ := State.rebuddy_spec (s := s.rebound t c st) (t := t) (old := old) (by rw [htile]; exact h)
  rw [htile] at hnew
  exact ⟨by rw [hnew], by rw [hnew], by rw [hnew], by rw [hnew], hmem⟩

/-- A change of capacity after it changes none of this, but may write records to memory (R264). -/
theorem State.tile_capacity (s : State) (p : Prop) [Decidable p] (ts : List Nat) (n : Nat) :
    (if p then s.capacityChanged ts else s).tile n = s.tile n := by
  split
  · exact State.tile_of_sites (s.capacityChanged_sites ts) n
  · rfl

/-- The flip of a recovery (R398). -/
theorem exec_rebindingFlip {c : Nat × Nat × Bool} (hst : (s.tile t).st = .flip) (hturn : s.fabric.flips.head? = some t)
    (hc : (s.tile t).chosen = some c) : ∃ u, exec (.rebindingFlip t) s = .next u ∧ (u.tile t).st = .replay ∧ (u.tile t).phys = c.1 ∧
      (u.tile t).cls = c.2.1 ∧ ((s.tile t).cls ≠ 3 → c.2.1 ≠ 3 → u.mem = s.mem) := by
  let v : State := { s with fabric := { s.fabric with flips := s.fabric.flips.drop 1 } }
  have hbound : v.BoundAnew ((v.rebound t c .replay).rebuddy t (s.tile t).phys) t c .replay := State.boundAnew_rebuddy nofun
  have run : exec (.rebindingFlip t) s = .next (if (s.tile t).cls = 3 ∨ c.2.1 = 3 then
      ((v.rebound t c .replay).rebuddy t (s.tile t).phys).capacityChanged (v.cohosted t ++ ((v.rebound t c .replay).rebuddy t (s.tile t).phys).cohosted t)
      else (v.rebound t c .replay).rebuddy t (s.tile t).phys) := by
    show execRebindingFlip t s = _
    simp only [execRebindingFlip, hst, hturn, hc, ne_eq, not_true_eq_false, false_and, or_self, if_false, reduceCtorEq]
    rfl
  refine ⟨_, run, ?_, ?_, ?_, fun h h' => ?_⟩
  · rw [State.tile_capacity]; exact hbound.st
  · rw [State.tile_capacity]; exact hbound.phys
  · rw [State.tile_capacity]; exact hbound.cls
  · rw [if_neg (not_or.2 ⟨h, h'⟩)]; exact hbound.mem

/-- Memory of a tile that migrates, restored on its spare from the store (R403). -/
def State.movedMem (s : State) (t : Nat) : Mem :=
  match (s.tile t).committed with
  | some g => s.mem.restoreTile t g
  | none => s.mem

/-- The flip of a planned migration (R403). -/
theorem exec_rebindingFlip_migrate {c : Nat × Nat × Bool} (hst : (s.tile t).st = .migrate) (hturn : s.fabric.flips.head? = some t)
    (hc : (s.tile t).chosen = some c) (howed : (s.tile t).owed = []) (hlost : s.physLost (s.tile t).phys = false) :
    ∃ u, exec (.rebindingFlip t) s = .next u ∧ (u.tile t).st = .run ∧ (u.tile t).phys = c.1 ∧ (u.tile t).cls = c.2.1 ∧
      ((s.tile t).cls ≠ 3 → u.mem = s.movedMem t) := by
  let v : State := { s.dropFlip t with mem := s.movedMem t }
  let w : State := (v.rebound t c .run).rebuddy t (s.tile t).phys
  obtain ⟨hrun, hphys, hcls, ho, hmem⟩ : v.BoundAnew w t c .run := State.boundAnew_rebuddy fun _ => hlost
  have run : exec (.rebindingFlip t) s = .next (if (s.tile t).cls = 3 then
      (w.createOwed t).capacityChanged ((s.dropFlip t).cohosted t ++ (w.createOwed t).cohosted t) else w.createOwed t) := by
    show execRebindingFlip t s = _
    simp only [execRebindingFlip, hst, hturn, hc, ne_eq, not_true_eq_false, and_false, or_self, if_false, if_true]
    simp only [w, v, State.movedMem]
    cases (s.tile t).committed <;> rfl
  rw [State.createOwed_none (ho.trans howed)] at run
  refine ⟨_, run, ?_, ?_, ?_, fun h => ?_⟩
  · rw [State.tile_capacity, State.tile_updTile_same]; exact hrun
  · rw [State.tile_capacity, State.tile_updTile_same]; exact hphys
  · rw [State.tile_capacity, State.tile_updTile_same]; exact hcls
  · rw [if_neg h]; exact hmem

end Sys2Proof.Machine
end

section
/-! SUPPORT. The resume of a tile (R400): with no context ready on its physical tile, its cores take none, and no pair exchanges. -/

namespace Sys2Proof.Machine

variable {s u v : State} {t : Nat}

/-! ## Resume (R400) -/

/-- A core of the tile on whose physical core a context of another tile is (R397). -/
def State.crowded (s : State) (t core : Nat) : Prop :=
  core / 16 = t ∧ ∃ x ∈ s.ctxs, x.core ≠ core ∧ s.sameCore x.core core = true ∧ x.run.onCore = true

/-- Contexts of the tile that shared a physical core with another one may have become ready; nothing else of the contexts, the tiles, the
fabric or memory has changed. -/
structure State.Joined (s v : State) (t : Nat) : Prop where
  sites : v.sites = s.sites
  mem : v.mem = s.mem
  ctxs : ∀ c ∈ v.ctxs, c ∈ s.ctxs ∨ ∃ b : Ctx, c = { b with run := .ready } ∧ s.crowded t b.core
  stays : ∀ x ∈ s.ctxs, x.core / 16 ≠ t → x ∈ v.ctxs

theorem State.requestFor_rest (s : State) (core n : Nat) : (s.requestFor core n).sites = s.sites ∧ (s.requestFor core n).mem = s.mem ∧
    (s.requestFor core n).ctxs = s.ctxs := by
  unfold State.requestFor
  split
  · split <;> exact ⟨rfl, rfl, rfl⟩
  · exact ⟨rfl, rfl, rfl⟩

theorem State.Joined.ready {core : Nat} (h : s.Joined v t) (hc : s.crowded t core) (n : Nat) :
    s.Joined ((v.updCtx core n fun x => { x with run := .ready }).requestFor core n) t := by
  obtain ⟨hsites, hmem, hctxs⟩ := (v.updCtx core n fun x => { x with run := .ready }).requestFor_rest core n
  refine ⟨hsites.trans h.sites, hmem.trans h.mem, fun c hm => ?_, fun x hx ht => ?_⟩
  · rw [hctxs, State.updCtx, State.ctxs_mapCtx] at hm
    obtain ⟨b, hb, rfl⟩ := List.mem_map.1 hm
    split
    · next his =>
      have hcore : b.core = core := by simpa using (Bool.and_eq_true_iff.1 his).1
      exact .inr ⟨b, rfl, hcore ▸ hc⟩
    · exact h.ctxs b hb
  · rw [hctxs, State.updCtx, State.ctxs_mapCtx]
    refine List.mem_map.2 ⟨x, h.stays x hx ht, if_neg fun his => ht ?_⟩
    have hcore : x.core = core := by simpa using (Bool.and_eq_true_iff.1 his).1
    rw [hcore]
    exact hc.1

theorem State.joined_joinHost (s : State) (t : Nat) : s.Joined (s.joinHost t) t := by
  refine List.foldlRecOn (motive := fun v : State => s.Joined v t) _ _ ⟨rfl, rfl, fun _ => .inl, fun _ hx _ => hx⟩ fun v hv c hc => ?_
  obtain ⟨-, htest⟩ := List.mem_filter.1 hc
  simp only [Bool.and_eq_true, beq_iff_eq, List.any_eq_true, bne_iff_ne] at htest
  obtain ⟨⟨ht, -⟩, x, hx, ⟨hne, hsame⟩, hon⟩ := htest
  split
  · exact hv.ready ⟨ht, x, hx, hne, hsame, hon⟩ _
  · exact hv

/-- No core takes a context when none that is ready has its core free. -/
theorem State.dispatch_none {core : Nat} (h : ∀ c ∈ s.others, s.sameCore c.core core = true → c.run = .ready → s.busyCore core = true) :
    s.dispatch core = s := by
  unfold State.dispatch
  split
  · rfl
  · next hfree =>
    have none_ready : (s.others.filter fun c => s.sameCore c.core core && c.run == .ready) = [] := by
      refine List.filter_eq_nil_iff.2 fun c hc hready => hfree ?_
      simp only [Bool.and_eq_true, beq_iff_eq] at hready
      rw [h c hc hready.1 hready.2]
      rfl
    rw [State.pick, none_ready]
    rfl

theorem State.sameCore_of_sites (h : u.sites = s.sites) (a b : Nat) : u.sameCore a b = s.sameCore a b := by
  simp only [State.sameCore, State.tile_of_sites h]

/-- Two names of one physical core on one tile are the same. -/
theorem State.eq_of_sameCore {a b : Nat} (h : s.sameCore a b = true) (ht : a / 16 = b / 16) : a = b := by
  simp only [State.sameCore, Bool.or_eq_true, Bool.and_eq_true, beq_iff_eq] at h
  omega

theorem State.phys_of_sameCore {a b : Nat} (h : s.sameCore a b = true) : (s.tile (a / 16)).phys = (s.tile (b / 16)).phys := by
  simp only [State.sameCore, Bool.or_eq_true, Bool.and_eq_true, beq_iff_eq] at h
  rcases h with rfl | ⟨⟨-, hphys⟩, -⟩
  · rfl
  · exact hphys

/-- With no context ready on the physical tile, its cores take none: those that joinHost made ready have their core taken. -/
theorem State.Joined.dispatchTile (h : s.Joined v t) (hready : ∀ c ∈ s.ctxs, (s.tile (c.core / 16)).phys = (s.tile t).phys → c.run ≠ .ready) :
    v.dispatchTile t = v := by
  refine List.foldlRecOn (motive := fun u : State => u = v) _ _ rfl fun u hu core hcore => ?_
  obtain ⟨i, hi, rfl⟩ := List.mem_map.1 hcore
  have hi := List.mem_range.1 hi
  rw [hu]
  refine State.dispatch_none fun c hc hsame hrun => ?_
  rw [State.sameCore_of_sites h.sites] at hsame
  rcases h.ctxs c (List.mem_cons_of_mem _ hc) with hold | ⟨b, rfl, hcrowd⟩
  · refine absurd hrun (hready c hold ?_)
    rw [State.phys_of_sameCore hsame]
    congr 2
    omega
  · obtain ⟨ht, x, hx, hne, hx_same, hon⟩ := hcrowd
    have hcore : b.core = t * 16 + i := State.eq_of_sameCore hsame (by show b.core / 16 = _; omega)
    have hxt : x.core / 16 ≠ t := fun hxt => hne (State.eq_of_sameCore hx_same (hxt.trans ht.symm))
    refine List.any_eq_true.2 ⟨x, h.stays x hx hxt, ?_⟩
    rw [State.sameCore_of_sites h.sites, ← hcore, hx_same, hon]
    rfl

/-- With no pair of the tile between exchanges, none exchanges. -/
theorem State.Joined.exchangePairs (h : s.Joined v t) (hp : s.pairOpen t = none) : v.exchangePairs t = v := by
  rw [State.pairOpen, Option.map_eq_none_iff, List.find?_eq_none] at hp
  have closed : (v.ctxs.filter fun c => c.core / 16 == t && c.run.onCore && c.paired && !c.csrs.pairctl.getLsbD 1 && decide (0 < c.pair.count)) = [] := by
    refine List.filter_eq_nil_iff.2 fun c hc => ?_
    rcases h.ctxs c hc with hold | ⟨b, rfl, -⟩
    · exact hp c hold
    · simp [RunSt.onCore]
  rw [State.exchangePairs, closed]
  rfl

/-- The tile as its resume finds it, before a core takes a context. -/
def State.resuming (s : State) (t : Nat) : State :=
  (s.resendLost t).updTile t fun x => { x with st := .run, fenced := none, byWatch := false, committing := none }

theorem State.tile_resuming (s : State) (t : Nat) : (s.resuming t).tile t =
    { s.tile t with st := .run, fenced := none, byWatch := false, committing := none } := State.tile_updTile_same ..

theorem State.phys_resuming (s : State) (t n : Nat) : ((s.resuming t).tile n).phys = (s.tile n).phys := by
  rw [State.resuming, State.tile_updTile]
  split
  · next h => subst h; rfl
  · rfl

/-- A tile with nothing owed, no word in error, no pair between exchanges and no context ready runs again, with memory as it was. -/
theorem exec_lehrResume (hst : (s.tile t).st = .resume) (howed : (s.tile t).owed = []) (hb : s.mem.bad = []) (hs : s.mem.soft = [])
    (hp : s.pairOpen t = none) (hready : ∀ c ∈ s.ctxs, (s.tile (c.core / 16)).phys = (s.tile t).phys → c.run ≠ .ready) :
    ∃ u, exec (.lehrResume t) s = .next u ∧ (u.tile t).st = .run ∧ (u.tile t).fenced = none ∧ u.mem = s.mem := by
  have hjoin := (s.resuming t).joined_joinHost t
  have hdispatch := hjoin.dispatchTile fun c hc hphys => hready c hc (by simpa only [State.phys_resuming] using hphys)
  have hexchange := hjoin.exchangePairs (t := t) hp
  have htile := (State.tile_of_sites hjoin.sites t).trans (s.tile_resuming t)
  have hmem : ((s.resuming t).joinHost t).mem = s.mem := hjoin.mem
  have run : exec (.lehrResume t) s = (let v := (((s.resuming t).joinHost t).dispatchTile t).exchangePairs t
      if (v.tile t).st ≠ .run then .next v
      else if v.stopWaits t then .next ((v.updTile t fun x => { x with endDue := true }).createOwed t)
      else .next ((v.endInterval t).createOwed t)) := if_neg (not_not.2 hst)
  rw [hdispatch, hexchange] at run
  generalize (s.resuming t).joinHost t = v at htile hmem run
  dsimp only at run
  rw [htile, if_neg (not_not.2 rfl)] at run
  cases hw : v.stopWaits t with
  | true =>
    rw [hw, if_pos rfl, State.createOwed_none (by rw [State.tile_updTile_same, htile]; exact howed)] at run
    refine ⟨_, run, ?_, ?_, hmem⟩ <;> rw [State.tile_updTile_same, State.tile_updTile_same, htile]
  | false =>
    obtain ⟨hm, hst', hf, ho, -⟩ := State.endInterval_clean (s := v) (by rw [hmem]; exact hb) (by rw [hmem]; exact hs) t
    rw [htile] at hst' hf ho
    rw [hw, if_neg Bool.false_ne_true, State.createOwed_none (ho.trans howed)] at run
    exact ⟨_, run, by rw [State.tile_updTile_same]; exact hst', by rw [State.tile_updTile_same]; exact hf, hm.trans hmem⟩

end Sys2Proof.Machine
end

section
/-! SUPPORT. A tile that fails unprotected is lost (R379, R394): whatever else its fence does, it leaves the tile fenced unprotected, or
lost. -/

namespace Sys2Proof.Machine

variable {s u : State} {t : Nat}

/-! ## The end of a launch takes no tile into or out of a recovery (R270) -/

/-- In which state of recovery each tile is, and whether it is protected. -/
def State.standing (s : State) (n : Nat) : RecSt × Bool := ((s.tile n).st, (s.tile n).safe)

theorem State.standing_of_sites (h : u.sites = s.sites) : u.standing = s.standing :=
  funext fun n => by rw [State.standing, State.tile_of_sites h, State.standing]

theorem State.standing_updTile (s : State) (t : Nat) {f : TileSt → TileSt}
    (hf : ∀ x, (f x).st = x.st ∧ (f x).safe = x.safe := by exact fun _ => ⟨rfl, rfl⟩) : (s.updTile t f).standing = s.standing := by
  funext n
  rw [State.standing, State.tile_updTile, State.standing]
  split
  · next h => rw [(hf _).1, (hf _).2, h]
  · rfl

theorem State.noteSwitch_standing (s : State) (core event x : Nat) : (s.noteSwitch core event x).standing = s.standing := by
  unfold State.noteSwitch State.noteDet
  exact s.standing_updTile _

theorem State.loseLock_standing (s : State) (core : Nat) : (s.loseLock core).standing = s.standing := by
  funext n
  obtain ⟨q, hq⟩ := s.tile_loseLock core n
  rw [State.standing, hq, State.standing]

theorem State.removeCtxs_standing (s : State) (n : Nat) : (s.removeCtxs n).standing = s.standing := by
  have stops : ∀ (u : State) (c : Ctx), (let v := (u.loseLock c.core).updCore c.core fun k => { k with rollReq := false }
      if (v.tile (c.core / 16)).st = .run then v.noteSwitch c.core 6 n else v).standing = u.standing := by
    intro u c
    dsimp only
    split
    · rw [State.noteSwitch_standing]; exact u.loseLock_standing c.core
    · exact u.loseLock_standing c.core
  unfold State.removeCtxs
  dsimp only
  split <;> exact foldl_keeps _ State.standing stops _ _

theorem afind_map {α β : Type} (f : α → β) (m : List (Nat × α)) (n : Nat) : afind (m.map fun e => (e.1, f e.2)) n = (afind m n).map f := by
  induction m with
  | nil => rfl
  | cons e m ih =>
    obtain ⟨k, x⟩ := e
    rw [List.map_cons, afind, afind, ih]
    split <;> rfl

/-- A tile without the translations of a launch (R294). -/
def TileSt.flushed (n : Nat) (x : TileSt) : TileSt := { x with tlb := x.tlb.filter fun e => e.launch != n }

theorem State.tile_flushTlb (s : State) (n k : Nat) : (s.flushTlb n).tile k = ((afind s.tiles k).map (TileSt.flushed n)).getD (s.freshTile k) :=
  congrArg (Option.getD · (s.freshTile k)) (afind_map (TileSt.flushed n) s.tiles k)

theorem State.flushTlb_standing (s : State) (n : Nat) : (s.flushTlb n).standing = s.standing := by
  funext k
  rw [State.standing, State.tile_flushTlb, State.standing, State.tile]
  cases afind s.tiles k <;> rfl

theorem State.dispatch_standing (s : State) (core : Nat) : (s.dispatch core).standing = s.standing := by
  unfold State.dispatch
  split
  · rfl
  · split
    · rfl
    · next c _ =>
      have noted : ∀ x, (((s.dropOther c).updCore c.core fun x => { x with preReq := false, switched := true }).noteSwitch c.core 2 x).standing =
          s.standing := fun x => State.noteSwitch_standing ..
      dsimp only
      split
      · split <;> exact noted (c.launch.getD 0)
      · exact noted (c.launch.getD 0)

theorem State.markRange_standing (s : State) (t k n : Nat) : (s.markRange t k n).standing = s.standing := by
  unfold State.markRange
  exact s.standing_updTile t

theorem State.createContext_standing (s : State) (l : Launch) (n core : Nat) : (s.createContext l n core).standing = s.standing := by
  have zeroed : (s.zeroReservation l core).standing = s.standing :=
    s.markRange_standing (core / 16) (tcmKey core l.base) (reservation l.pkt.foot l.pkt.accn l.pkt.specok)
  unfold State.createContext
  dsimp only
  split
  · rw [State.standing_of_sites (State.requestFor_rest ..).1, State.dispatch_standing]; exact zeroed
  · exact zeroed

theorem State.createContexts_standing (s : State) (n : Nat) : (s.createContexts n).standing = s.standing := by
  unfold State.createContexts
  split
  · rfl
  · next l _ =>
    refine (foldl_keeps _ State.standing (fun u k => ?_) _ _).trans (State.standing_of_sites (s.updLaunch_sites n _))
    split
    · exact u.standing_updTile k
    · exact foldl_keeps _ State.standing (fun u core => u.createContext_standing l n core) _ _

theorem State.freeLaunch_standing (s : State) (n : Nat) (pins : List Nat) : (s.freeLaunch n pins).standing = s.standing := by
  unfold State.freeLaunch State.startSuccessors
  exact foldl_keeps (fun (u : State) (p : Nat × Launch) => u.createContexts p.1) State.standing (fun u p => u.createContexts_standing p.1) _ _

theorem State.finishEnd_standing (s : State) (n : Nat) : (s.finishEnd n).standing = s.standing := by
  unfold State.finishEnd
  split
  · rfl
  · next l _ =>
    split
    · rfl
    · have freed : ((s.updLaunch n fun l => { l with toFree := false }).freeLaunch n l.pins).standing = s.standing := by
        rw [State.freeLaunch_standing, State.standing_of_sites (State.updLaunch_sites ..)]
      have recorded : ∀ {u : State} (code b4 b8 b24 : Nat), u.standing = s.standing →
          ((u.updLaunch n fun l => { l with endRec := none }).frontRecord l.pkt.queue 2 code l.pkt.pid b4 b8 b24).standing = s.standing :=
        fun code b4 b8 b24 hu => by
          rw [State.frontRecord, State.standing_of_sites (State.record_sites ..), State.standing_of_sites (State.updLaunch_sites ..), hu]
      dsimp only
      split
      · split
        · exact freed
        · exact recorded _ _ _ _ freed
      · split
        · rfl
        · exact recorded _ _ _ _ rfl

theorem State.endLaunch_standing (s : State) (n code b4 b24 : Nat) (b8 : Option Nat) : (s.endLaunch n code b4 b24 b8).standing = s.standing := by
  unfold State.endLaunch
  split
  · rfl
  · next l _ =>
    split
    · rfl
    · dsimp only
      rw [foldl_keeps _ State.standing (fun u core => u.dispatch_standing core), State.finishEnd_standing]
      have stopped : ∀ f, (((s.removeCtxs n).flushTlb n).updLaunch n f).standing = s.standing := fun f => by
        rw [State.standing_of_sites (State.updLaunch_sites ..), State.flushTlb_standing, State.removeCtxs_standing]
      split
      · exact stopped _
      · rw [State.freeLaunch_standing, stopped]

theorem State.createOwed_standing (s : State) (t : Nat) : (s.createOwed t).standing = s.standing := by
  refine (foldl_keeps _ State.standing (fun u n => ?_) _ _).trans (s.standing_updTile t)
  split
  · split
    · exact foldl_keeps _ State.standing (fun u core => u.createContext_standing _ n core) _ _
    · rfl
  · rfl

/-! ## A tile that fails unprotected is lost (R379, R394) -/

/-- The tile is fenced unprotected, or it is lost. -/
def State.doomed (s : State) (t : Nat) : Prop := (s.tile t).st = .lost ∨ ((s.tile t).st = .fence ∧ (s.tile t).safe = false)

theorem State.doomed_of_standing (h : u.standing = s.standing) (hs : s.doomed t) : u.doomed t := by
  have h := congrFun h t
  rw [State.standing, State.standing, Prod.mk.injEq] at h
  rw [State.doomed, h.1, h.2]
  exact hs

theorem State.doomed_updTile {f : TileSt → TileSt} (hs : s.doomed t) (k : Nat) (hf : k = t → (s.updTile k f).doomed t) : (s.updTile k f).doomed t := by
  by_cases h : k = t
  · exact hf h
  · rw [State.doomed, State.tile_updTile_of_ne (Ne.symm h)]
    exact hs

/-- A change that leaves the tile's state of recovery, and protects no tile, leaves it doomed. -/
theorem State.doomed_updTile_of {f : TileSt → TileSt} (hs : s.doomed t) (k : Nat) (hst : ∀ x, (f x).st = x.st)
    (hsafe : ∀ x, x.safe = false → (f x).safe = false) : (s.updTile k f).doomed t := by
  refine State.doomed_updTile hs k fun h => ?_
  subst h
  rw [State.doomed, State.tile_updTile_same, hst]
  exact hs.imp id fun h => ⟨h.1, hsafe _ h.2⟩

/-- What leaves its partition with a tile that is lost (R264, R379). -/
theorem State.loseOne_standing {k : Nat} (h : (s.tile k).st ≠ .lost) : (s.loseOne k).standing =
    (s.updTile k fun x => { x with st := .lost, chosen := none, committed := none, committing := none, fenced := none, owed := [] }).standing := by
  rw [State.loseOne, if_neg h]
  dsimp only
  rw [State.standing_of_sites (State.capacityChanged_sites ..),
    foldl_keeps _ State.standing (fun u n => u.endLaunch_standing n 3 (k * 16) 0xFFFFFFFF none)]
  rfl

theorem State.lost_loseOne (s : State) (t : Nat) : ((s.loseOne t).tile t).st = .lost := by
  by_cases h : (s.tile t).st = .lost
  · rw [State.loseOne, if_pos h, h]
  · have hst := congrArg Prod.fst (congrFun (State.loseOne_standing h) t)
    exact hst.trans (congrArg TileSt.st (State.tile_updTile_same ..))

theorem State.doomed_loseOne (hs : s.doomed t) (k : Nat) : (s.loseOne k).doomed t := by
  by_cases h : (s.tile k).st = .lost
  · rw [State.loseOne, if_pos h]; exact hs
  · refine State.doomed_of_standing (State.loseOne_standing h) (State.doomed_updTile hs k fun hk => .inl ?_)
    rw [hk, State.tile_updTile_same]

/-- A tile that is fenced or lost does not migrate. -/
theorem State.doomed_staysPut (hs : s.doomed t) (k : Nat) : (s.staysPut k).doomed t := by
  unfold State.staysPut
  split
  · next hk =>
    refine State.doomed_of_standing (State.createOwed_standing ..) (State.doomed_updTile (s := s.dropFlip k) hs k fun h => ?_)
    subst h
    rcases hs with hs | ⟨hs, -⟩ <;> rw [hk] at hs <;> cases hs
  · exact hs

theorem State.doomed_newBuddy (hs : s.doomed t) (k : Nat) : (s.newBuddy k).doomed t :=
  State.doomed_updTile_of hs k (fun _ => rfl) fun x h => by rw [h]; rfl

theorem State.doomed_dropOld (hs : s.doomed t) (k : Nat) : (s.dropOld k).doomed t :=
  State.doomed_updTile_of hs k (fun _ => rfl) fun _ _ => rfl

/-- What each step of a fold leaves doomed, the fold does. -/
theorem State.doomed_foldl {α : Type} {f : State → α → State} (hf : ∀ {u : State}, u.doomed t → ∀ x, (f u x).doomed t) (hs : s.doomed t)
    (xs : List α) : (xs.foldl f s).doomed t :=
  List.foldlRecOn (motive := fun u : State => u.doomed t) _ _ hs fun _ hu x _ => hf hu x

theorem State.doomed_storeEnds (hs : s.doomed t) (q : Nat) : (s.storeEnds q).doomed t :=
  State.doomed_foldl State.doomed_newBuddy (State.doomed_foldl State.doomed_dropOld (State.doomed_foldl State.doomed_staysPut hs _) _) _

theorem State.doomed_turnsFrom (hs : s.doomed t) (q : Nat) : (s.turnsFrom q).doomed t := State.doomed_foldl State.doomed_newBuddy hs _

theorem State.doomed_losesStore (hs : s.doomed t) (k : Nat) : (s.losesStore k).doomed t := by
  unfold State.losesStore
  split
  · exact hs
  · exact State.doomed_foldl State.doomed_loseOne
      (State.doomed_foldl (fun hu q => State.doomed_turnsFrom (State.doomed_storeEnds hu q) q) hs _) _

theorem State.lost_loseTile (s : State) (t : Nat) : ((s.loseTile t).tile t).st = .lost := by
  unfold State.loseTile
  split
  · assumption
  · exact State.lost_loseOne _ t

/-! ## The fence (R394) -/

/-- A core loses its lock and what a debugger asked of it (R110, R416). -/
def State.stopCore (s : State) (core : Nat) : State := (s.loseLock core).updCore core fun c => { c with attached := false, haltReq := false }

/-- So does every core of a tile. -/
def State.stopCores (s : State) (t : Nat) : State := (List.range 16).foldl (fun s i => s.stopCore (t * 16 + i)) s

/-- The agents of a tile stand still: its episode has ended, its gangs are dissolved and no context is halted (R128, R389, R416). -/
def State.stopTile (s : State) (t : Nat) : State :=
  ((s.stopCores t).closeEpisode t).mapCtx fun c => if c.core / 16 == t then
    { c.releaseSlots with gang := none, run := if c.run == .halted then .running else c.run } else c

/-- A launch with a context on a tile that is recovered (R252). -/
def Launch.inRecovery (l : Launch) : Launch := { l with recovered := true }

/-- The tile goes on to choose a spare; a first fence keeps its state as it stood. -/
def State.fencedOff (s : State) (t : Nat) (first : Bool) : State :=
  (((s.stopTile t).launchesOn t).foldl (fun u n => u.updLaunch n Launch.inRecovery) (s.stopTile t)).updTile t fun x =>
    { x with st := .choose, committing := none, fenced := if first then some ((s.stopTile t).snapTile t) else x.fenced }

/-- Launches whose RAW memory is lost with the tile end (R393). -/
def State.endRaw (s : State) (t : Nat) : State := (s.rawLosses t).foldl (fun s r => s.endLaunch r.1 4 0 0 (some r.2)) s

/-- The state in which the fence is decided: at the first one, the stores in the physical tile are lost (R379). -/
def State.atFence (s : State) (t : Nat) : State := if (s.tile t).fenced.isNone then (s.count 14).losesStore t else s

theorem exec_lehrFence (hst : (s.tile t).st = .fence) : exec (.lehrFence t) s =
    if ((s.atFence t).tile t).st ≠ .fence then .next (s.atFence t)
    else if (s.tile t).fenced.isNone && !((s.atFence t).tile t).safe then .next ((s.atFence t).loseTile t)
    else .next ((((s.atFence t).fencedOff t (s.tile t).fenced.isNone).endRaw t).mapGates
      ((((s.atFence t).fencedOff t (s.tile t).fenced.isNone).endRaw t).gateHold t)) := if_neg (not_not.2 hst)

/-- A tile that is fenced unprotected is lost. -/
theorem exec_lehrFence_unprotected (hst : (s.tile t).st = .fence) (hsafe : (s.tile t).safe = false) (hf : (s.tile t).fenced = none) :
    ∃ u, exec (.lehrFence t) s = .next u ∧ (u.tile t).st = .lost := by
  have hdoom : (s.atFence t).doomed t := by
    rw [State.atFence, hf]
    exact State.doomed_losesStore (s := s.count 14) (.inr ⟨hst, hsafe⟩) t
  have run := exec_lehrFence hst
  rcases hdoom with hlost | ⟨hfence, hunsafe⟩
  · rw [if_pos (by rw [hlost]; nofun)] at run
    exact ⟨_, run, hlost⟩
  · rw [if_neg (not_not.2 hfence), hunsafe, hf, Option.isNone_none, Bool.not_false, Bool.and_self, if_pos rfl] at run
    exact ⟨_, run, State.lost_loseTile ..⟩

end Sys2Proof.Machine
end

section
/-! SUPPORT. The fence of a protected tile (R379, R384, R394), and the events of checkpoints and recovery together. -/

namespace Sys2Proof.Machine

variable {s : State} {t n : Nat}

/-! ## A protected tile at its fence (R379, R384, R394) -/

theorem mem_ains {α : Type} {m : List (Nat × α)} {a : Nat} {v : α} {e : Nat × α} (h : e ∈ ains m a v) : e = (a, v) ∨ e ∈ m := by
  induction m with
  | nil => exact .inl (List.mem_singleton.1 h)
  | cons x m ih =>
    obtain ⟨k, x⟩ := x
    unfold ains at h
    split at h
    · exact List.mem_cons.1 h
    · split at h
      · exact (List.mem_cons.1 h).imp_right (List.mem_cons_of_mem _)
      · rcases List.mem_cons.1 h with h | h
        · exact .inr (h ▸ List.mem_cons_self)
        · exact (ih h).imp_right (List.mem_cons_of_mem _)

/-- The tile is fenced and protected, and no other tile is in recovery or migrates. -/
structure State.Sheltered (s : State) (t : Nat) : Prop where
  st : (s.tile t).st = .fence
  safe : (s.tile t).safe = true
  alone : ∀ y ∈ s.tiles, if y.1 = t then y.2 = s.tile t else y.2.st.refuses = false

/-- A tile listed in another state than FENCE is another tile, which does not refuse traffic. -/
theorem State.Sheltered.other (h : s.Sheltered t) {y : Nat × TileSt} (hy : y ∈ s.tiles) (hst : y.2.st ≠ .fence) :
    y.1 ≠ t ∧ y.2.st.refuses = false := by
  have hy := h.alone y hy
  split at hy
  · exact absurd (hy ▸ h.st) hst
  · next hne => exact ⟨hne, hy⟩

theorem State.Sheltered.tile_refuses (h : s.Sheltered t) (hn : n ≠ t) : (s.tile n).st.refuses = false := by
  unfold State.tile
  cases hf : afind s.tiles n with
  | none => rfl
  | some x => simpa only [if_neg hn, Option.getD_some] using h.alone _ (mem_of_afind hf)

theorem State.Sheltered.updTile (h : s.Sheltered t) (hn : n ≠ t) {f : TileSt → TileSt}
    (hf : ∀ x, (f x).st = x.st := by exact fun _ => rfl) : (s.updTile n f).Sheltered t := by
  have htile : (s.updTile n f).tile t = s.tile t := State.tile_updTile_of_ne (Ne.symm hn) f
  refine ⟨htile ▸ h.st, htile ▸ h.safe, fun y hy => ?_⟩
  rw [htile]
  rcases mem_ains hy with rfl | hy
  · rw [if_neg hn, hf]
    exact h.tile_refuses hn
  · exact h.alone y hy

/-- What a fold over other tiles leaves when each of its steps changes one of them, and neither its state of recovery nor memory or a
launch. -/
theorem State.Sheltered.foldl (h : s.Sheltered t) {g : State → Nat → State}
    (hg : ∀ (u : State) (k : Nat), u.Sheltered t → k ≠ t → (g u k).Sheltered t)
    (hkeep : ∀ u k, ((g u k).mem, (g u k).launches) = (u.mem, u.launches)) {ks : List Nat} (hks : ∀ k ∈ ks, k ≠ t) :
    (ks.foldl g s).Sheltered t ∧ ((ks.foldl g s).mem, (ks.foldl g s).launches) = (s.mem, s.launches) :=
  ⟨List.foldlRecOn (motive := fun u : State => u.Sheltered t) _ _ h fun u hu k hk => hg u k hu (hks k hk),
    foldl_keeps g (fun u => (u.mem, u.launches)) hkeep ks s⟩

theorem State.Sheltered.dropOld (h : s.Sheltered t) (hn : n ≠ t) : (s.dropOld n).Sheltered t := by
  unfold State.dropOld
  exact h.updTile hn

theorem State.Sheltered.newBuddy (h : s.Sheltered t) (hn : n ≠ t) : (s.newBuddy n).Sheltered t := by
  unfold State.newBuddy
  exact h.updTile hn

/-- A tile that runs or resumes, or that is not listed, is another tile. -/
theorem State.Sheltered.ne_of_keptAt (h : s.Sheltered t) {q k : Nat} (hk : k ∈ s.keptAt q) : k ≠ t := by
  unfold State.keptAt at hk
  rcases List.mem_append.1 hk with hk | hk
  · obtain ⟨y, hy, rfl⟩ := List.mem_map.1 hk
    obtain ⟨hy, htest⟩ := List.mem_filter.1 hy
    simp only [Bool.and_eq_true, Bool.or_eq_true, beq_iff_eq] at htest
    exact (h.other hy (by rcases htest.2 with hst | hst <;> rw [hst] <;> nofun)).1
  · split at hk
    · next i _ =>
      split at hk
      · next hfree =>
        rw [List.mem_singleton.1 hk]
        rintro rfl
        have hst := h.st
        rw [State.tile, Option.isNone_iff_eq_none.1 hfree] at hst
        cases hst
      · cases hk
    · cases hk

/-- The tiles that a lost store concerns are others: none migrates, and the fenced one keeps its restore point elsewhere. -/
theorem State.Sheltered.storeEnds (h : s.Sheltered t) (q : Nat) :
    (s.storeEnds q).Sheltered t ∧ ((s.storeEnds q).mem, (s.storeEnds q).launches) = (s.mem, s.launches) := by
  have no_migration : (s.tiles.filter fun x => (x.2.buddy == q || x.2.oldStore == some q) && x.2.st == .migrate) = [] := by
    refine List.filter_eq_nil_iff.2 fun y hy hm => ?_
    have hst : y.2.st = .migrate := by simpa using (Bool.and_eq_true_iff.1 hm).2
    have hr := (h.other hy (by rw [hst]; nofun)).2
    rw [hst] at hr
    cases hr
  unfold State.storeEnds
  rw [no_migration]
  dsimp only [List.map_nil, List.foldl_nil]
  have dropped : ∀ k ∈ (s.tiles.filter fun x => x.2.oldStore == some q && (x.2.st == .run || x.2.st == .resume)).map (·.1), k ≠ t := by
    intro k hk
    obtain ⟨y, hy, rfl⟩ := List.mem_map.1 hk
    obtain ⟨hy, htest⟩ := List.mem_filter.1 hy
    simp only [Bool.and_eq_true, Bool.or_eq_true, beq_iff_eq] at htest
    exact (h.other hy (by rcases htest.2 with hst | hst <;> rw [hst] <;> nofun)).1
  obtain ⟨hdrop, hkeep⟩ := h.foldl (g := State.dropOld) (fun _ _ hu hk => hu.dropOld hk) (fun _ _ => rfl) dropped
  obtain ⟨hnew, hkeep'⟩ := hdrop.foldl (g := State.newBuddy) (fun _ _ hu hk => hu.newBuddy hk) (fun _ _ => rfl) fun k => hdrop.ne_of_keptAt
  exact ⟨hnew, hkeep'.trans hkeep⟩

/-- A fenced tile that was to take its first full checkpoint into a lost store stays protected by its previous one (R384). -/
theorem State.Sheltered.turnsFrom (h : s.Sheltered t) (q : Nat) : ((s.turnsFrom q).tile t).st = .fence ∧ ((s.turnsFrom q).tile t).safe = true ∧
    ((s.turnsFrom q).mem, (s.turnsFrom q).launches) = (s.mem, s.launches) := by
  have hkeep := foldl_keeps State.newBuddy (fun u => (u.mem, u.launches)) (fun _ _ => rfl)
    ((s.tiles.filter fun x => x.2.buddy == q && x.2.oldStore.isSome && x.2.store != q && x.2.st.refuses).map (·.1)) s
  unfold State.turnsFrom
  generalize hks : (s.tiles.filter fun x => x.2.buddy == q && x.2.oldStore.isSome && x.2.store != q && x.2.st.refuses).map (·.1) = ks at hkeep ⊢
  cases ks with
  | nil => exact ⟨h.st, h.safe, hkeep⟩
  | cons k ks =>
    have hold : (s.tile t).oldStore.isSome = true := by
      obtain ⟨y, hy, -⟩ := List.mem_map.1 (hks ▸ List.mem_cons_self : k ∈ _)
      obtain ⟨hy, htest⟩ := List.mem_filter.1 hy
      simp only [Bool.and_eq_true] at htest
      obtain ⟨⟨⟨-, hold⟩, -⟩, href⟩ := htest
      have hy := h.alone y hy
      split at hy
      · exact hy ▸ hold
      · rw [hy] at href; cases href
    have kept : ((List.foldl State.newBuddy s (k :: ks)).tile t).st = .fence ∧ ((List.foldl State.newBuddy s (k :: ks)).tile t).safe = true ∧
        ((List.foldl State.newBuddy s (k :: ks)).tile t).oldStore.isSome = true := by
      refine List.foldlRecOn (motive := fun u : State => (u.tile t).st = .fence ∧ (u.tile t).safe = true ∧ (u.tile t).oldStore.isSome = true) _ _
        ⟨h.st, h.safe, hold⟩ fun u hu k _ => ?_
      obtain ⟨hst, hsafe, hold⟩ := hu
      unfold State.newBuddy
      dsimp only
      rw [State.tile_updTile]
      split
      · next hk => subst hk; exact ⟨hst, by rw [hsafe, hold]; rfl, hold⟩
      · exact ⟨hst, hsafe, hold⟩
    exact ⟨kept.1, kept.2.1, hkeep⟩

/-- No tile keeps its restore point in the store of the fenced one, so that none is lost with it. -/
theorem State.Sheltered.lostWith (h : s.Sheltered t) (hstore : (s.tile t).store ≠ (s.tile t).phys) : s.lostWith [(s.tile t).phys] = [] := by
  refine List.filter_eq_nil_iff.2 fun y hy hlost => ?_
  simp only [Bool.and_eq_true, List.elem_eq_mem, List.mem_singleton, decide_eq_true_eq] at hlost
  obtain ⟨⟨⟨hin, href⟩, -⟩, -⟩ := hlost
  have hy := h.alone y hy
  split at hy
  · exact hstore (hy ▸ hin)
  · rw [hy] at href; cases href

theorem State.storesGone_alone {q : Nat} (h : s.lostWith [q] = []) (fuel : Nat) : s.storesGone fuel [q] = [q] := by
  cases fuel with
  | zero => rfl
  | succ fuel => rw [State.storesGone, h]; rfl

theorem State.Sheltered.losesStore (h : s.Sheltered t) (hstore : (s.tile t).store ≠ (s.tile t).phys) : ((s.losesStore t).tile t).st = .fence ∧
    ((s.losesStore t).tile t).safe = true ∧ ((s.losesStore t).mem, (s.losesStore t).launches) = (s.mem, s.launches) := by
  unfold State.losesStore
  split
  · exact ⟨h.st, h.safe, rfl⟩
  · have hnone := h.lostWith hstore
    obtain ⟨hends, hkeep⟩ := h.storeEnds (s.tile t).phys
    obtain ⟨hst, hsafe, hkeep'⟩ := hends.turnsFrom (s.tile t).phys
    rw [State.storeGone, State.storesGone_alone hnone, hnone]
    dsimp only [List.foldl_cons, List.foldl_nil, List.map_nil]
    exact ⟨hst, hsafe, hkeep'.trans hkeep⟩

/-! ## What the fence leaves (R110, R393, R394) -/

/-- The page of RAW memory that a launch loses with the tile (R393). -/
def rawLoss (t : Nat) (l : Nat × Launch) : Option (Nat × Nat) :=
  if l.2.live then
    match l.2.raw.find? (fun r => r.1 == t + 2 ^ 16), l.2.raw.find? (fun r => r.1 == t) with
    | some r, _ => some (l.1, r.2)
    | none, some r => some (l.1, r.2)
    | none, none => none
  else none

theorem State.rawLosses_eq (s : State) (t : Nat) : s.rawLosses t = s.launches.filterMap (rawLoss t) := rfl

theorem State.rawLosses_inRecovery (h : s.rawLosses t = []) (n : Nat) : (s.updLaunch n Launch.inRecovery).rawLosses t = [] := by
  rw [State.rawLosses_eq, List.filterMap_eq_nil_iff] at h ⊢
  intro e he
  unfold State.updLaunch at he
  split at he
  · next l hl =>
    rcases mem_ains he with rfl | he
    · exact h (n, l) (mem_of_afind hl)
    · exact h e he
  · exact h e he

theorem State.stopCore_lock (s : State) (core n : Nat) : ((s.stopCore core).core n).lock = if n = core then none else (s.core n).lock := by
  unfold State.stopCore
  rw [State.core_updCore]
  split
  · rw [State.loseLock_core]
  · next hne =>
    have hother : (s.loseLock core).core n = (s.updCore core fun c => { c with lock := none }).core n := by
      unfold State.core State.loseLock
      rw [State.unqueueLock_cores]
    rw [hother, State.core_updCore, if_neg hne]

theorem State.stopCores_lock (s : State) (t : Nat) {i : Nat} (hi : i < 16) : ((s.stopCores t).core (t * 16 + i)).lock = none := by
  have freed : ∀ (ks : List Nat) (s : State), i ∈ ks ∨ (s.core (t * 16 + i)).lock = none →
      ((ks.foldl (fun s i => s.stopCore (t * 16 + i)) s).core (t * 16 + i)).lock = none := by
    intro ks
    induction ks with
    | nil => exact fun s h => h.resolve_left List.not_mem_nil
    | cons k ks ih =>
      refine fun s h => ih _ ?_
      rw [State.stopCore_lock]
      by_cases hk : i = k
      · rw [hk, if_pos rfl]; exact .inr rfl
      · rw [if_neg (by omega)]
        exact h.imp_left fun h => (List.mem_cons.1 h).resolve_left hk
  exact freed _ s (.inl (List.mem_range.2 hi))

theorem State.stopCores_rest (s : State) (t : Nat) : (s.stopCores t).mem = s.mem ∧ (s.stopCores t).launches = s.launches ∧
    ((s.stopCores t).tile t).fenced = (s.tile t).fenced := by
  refine List.foldlRecOn (motive := fun u : State => u.mem = s.mem ∧ u.launches = s.launches ∧ (u.tile t).fenced = (s.tile t).fenced) _ _
    ⟨rfl, rfl, rfl⟩ fun u hu i _ => ?_
  obtain ⟨hmem, hlaunches, hfenced⟩ := hu
  obtain ⟨q, hq⟩ := u.tile_loseLock (t * 16 + i) t
  have htile : (u.stopCore (t * 16 + i)).tile t = (u.loseLock (t * 16 + i)).tile t := rfl
  exact ⟨(u.loseLock_mem _).trans hmem, (u.loseLock_launches _).trans hlaunches, by rw [htile, hq]; exact hfenced⟩

theorem State.stopTile_rest (s : State) (t : Nat) : (s.stopTile t).mem = s.mem ∧ (s.stopTile t).launches = s.launches ∧
    ((s.stopTile t).tile t).fenced = (s.tile t).fenced ∧ ∀ i, i < 16 → ((s.stopTile t).core (t * 16 + i)).lock = none := by
  obtain ⟨hmem, hlaunches, hfenced⟩ := s.stopCores_rest t
  have hlock : ∀ i, i < 16 → ((s.stopCores t).core (t * 16 + i)).lock = none := fun i => s.stopCores_lock t
  unfold State.stopTile
  generalize s.stopCores t = v at hmem hlaunches hfenced hlock ⊢
  obtain ⟨d, k, e, htile⟩ := v.tile_closeEpisode t
  refine ⟨(v.closeEpisode_mem t).trans hmem, (v.closeEpisode_launches t).trans hlaunches, ?_, fun i hi => ?_⟩
  · rw [State.tile_congr (State.mapCtx_tiles ..) rfl, htile]
    exact hfenced
  · rw [State.core, State.mapCtx_cores, State.closeEpisode_cores]
    exact hlock i hi

theorem State.inRecovery_spec (ns : List Nat) (hraw : s.rawLosses t = []) :
    let u := ns.foldl (fun u n => u.updLaunch n Launch.inRecovery) s
    u.mem = s.mem ∧ u.cores = s.cores ∧ u.tile t = s.tile t ∧ u.rawLosses t = [] := by
  refine List.foldlRecOn (motive := fun u : State => u.mem = s.mem ∧ u.cores = s.cores ∧ u.tile t = s.tile t ∧ u.rawLosses t = []) _ _
    ⟨rfl, rfl, rfl, hraw⟩ fun u hu n _ => ?_
  obtain ⟨hmem, hcores, htile, hr⟩ := hu
  exact ⟨(u.updLaunch_mem n _).trans hmem, (u.updLaunch_cores n _).trans hcores, (State.tile_of_sites (u.updLaunch_sites n _) t).trans htile,
    State.rawLosses_inRecovery hr n⟩

/-- The tile chooses its spare next, with what it held kept; its cores hold no lock, and memory is as it was. -/
theorem State.fencedOff_spec (s : State) (t : Nat) (first : Bool) (h : first = false → (s.tile t).fenced.isSome = true) (hraw : s.rawLosses t = []) :
    ((s.fencedOff t first).tile t).st = .choose ∧ ((s.fencedOff t first).tile t).committing = none ∧
      ((s.fencedOff t first).tile t).fenced.isSome = true ∧ (s.fencedOff t first).mem = s.mem ∧ (s.fencedOff t first).rawLosses t = [] ∧
      ∀ i, i < 16 → ((s.fencedOff t first).core (t * 16 + i)).lock = none := by
  obtain ⟨hmem, hlaunches, hfenced, hlock⟩ := s.stopTile_rest t
  have hraw : (s.stopTile t).rawLosses t = [] := by rw [State.rawLosses_eq, hlaunches]; exact hraw
  unfold State.fencedOff
  generalize (s.stopTile t).snapTile t = g
  generalize (s.stopTile t).launchesOn t = ns
  generalize s.stopTile t = v at hmem hfenced hlock hraw ⊢
  obtain ⟨hm, hc, htile, hr⟩ := v.inRecovery_spec ns hraw
  generalize ns.foldl (fun u n => u.updLaunch n Launch.inRecovery) v = w at hm hc htile hr ⊢
  rw [State.tile_updTile_same]
  refine ⟨rfl, rfl, ?_, hm.trans hmem, hr, fun i hi => ?_⟩
  · cases first with
    | true => rfl
    | false => rw [if_neg Bool.false_ne_true, htile, hfenced]; exact h rfl
  · rw [State.core_updTile, State.core, hc]
    exact hlock i hi

theorem State.Sheltered.atFence (h : s.Sheltered t) (hstore : (s.tile t).store ≠ (s.tile t).phys) : ((s.atFence t).tile t).st = .fence ∧
    ((s.atFence t).tile t).safe = true ∧ (s.atFence t).mem = s.mem ∧ (s.atFence t).launches = s.launches ∧
      ((s.tile t).fenced.isNone = false → ((s.atFence t).tile t).fenced.isSome = true) := by
  unfold State.atFence
  split
  · next hf =>
    have hcount : (s.count 14).Sheltered t := ⟨h.st, h.safe, h.alone⟩
    obtain ⟨hst, hsafe, hkeep⟩ := hcount.losesStore hstore
    rw [Prod.mk.injEq] at hkeep
    exact ⟨hst, hsafe, hkeep.1, hkeep.2, fun hn => absurd hf (by rw [hn]; exact Bool.false_ne_true)⟩
  · exact ⟨h.st, h.safe, rfl, rfl, fun hn => by rw [← Option.not_isNone, hn]; rfl⟩

/-- A protected tile whose restore point lies elsewhere goes on to choose a spare, where no other tile is in recovery. -/
theorem exec_lehrFence_protected (h : s.Sheltered t) (hstore : (s.tile t).store ≠ (s.tile t).phys) (hraw : s.rawLosses t = []) :
    ∃ u, exec (.lehrFence t) s = .next u ∧ (u.tile t).st = .choose ∧ (u.tile t).committing = none ∧ (u.tile t).fenced.isSome = true ∧
      u.mem = s.mem ∧ ∀ i, i < 16 → (u.core (t * 16 + i)).lock = none := by
  obtain ⟨hst, hsafe, hmem, hlaunches, hfenced⟩ := h.atFence hstore
  have hraw' : (s.atFence t).rawLosses t = [] := by rw [State.rawLosses_eq, hlaunches]; exact hraw
  obtain ⟨hchoose, hcommit, hkept, hm, hr, hlock⟩ := (s.atFence t).fencedOff_spec t _ hfenced hraw'
  have run := exec_lehrFence h.st
  rw [if_neg (not_not.2 hst), hsafe, Bool.not_true, Bool.and_false, if_neg Bool.false_ne_true, State.endRaw, hr, List.foldl_nil] at run
  exact ⟨_, run, hchoose, hcommit, hkept, hm.trans hmem, hlock⟩

/-! ## The events together -/

/-- Settles O58: each event by its own lemma, the detections by what a detection makes of a tile that runs. -/
theorem recoveryEvents : Obligations.RecoveryEvents := by
  unfold Obligations.RecoveryEvents
  intro s t
  refine ⟨exec_intervalEnd, fun g => exec_checkpointCommit, ?timeout, ?watchdog, ?hot, exec_lehrFence_unprotected, ?fence,
    fun c => exec_lehrChoose_spare, fun c => exec_lehrChoose_host, exec_lehrRestore, fun c => exec_rebindingFlip, fun g => exec_lehrReplay,
    exec_lehrResume, ?migration, fun g => exec_checkpointCommit_migrate, ?moved, ?rollback, fun core a b => exec_pairExchange_match⟩
  case timeout =>
    intro d hst hc hdue hd hlate
    exact ⟨_, exec_snapshotTimeout hc hdue hd hlate, by rw [State.tile_detect hst]; rfl, State.detect_mem ..⟩
  case watchdog =>
    intro hst hw hlast
    have htile : (s.watched t).tile t = _ := State.tile_updTile_same ..
    have hfence := State.tile_detect (s := s.watched t) (t := t) (by rw [htile]; exact hst)
    rw [htile] at hfence
    exact ⟨_, exec_watchdogFire hst hw hlast, by rw [hfence]; rfl, by rw [hfence]; rfl, State.detect_mem ..⟩
  case hot =>
    intro p since hp hold hothers hin
    have honly := State.onlyHot_of hp hold hothers
    refine ⟨fun hst hphys => ?_, fun hne hfree hnone => exec_overtemperature_free hne honly hin hfree hnone⟩
    subst hphys
    obtain ⟨-, -, hret⟩ := (s.retire (s.tile t).phys).detect_rest t
    refine ⟨_, exec_overtemperature_run hst honly hin, ?_, hret ▸ mem_nadd_self .., State.detect_mem ..⟩
    rw [State.tile_detect (s := s.retire _) hst]
    rfl
  case fence => exact fun hst hsafe hstore hraw halone => exec_lehrFence_protected ⟨hst, hsafe, halone⟩ hstore hraw
  case migration => exact fun c hst hc hdue hr hw hp hspare hk hb hs => exec_plannedMigration_clean hst hc hdue hr hw hp hspare hk hb hs
  case moved =>
    intro c hst hturn hc howed hlost
    obtain ⟨u, run, hrun, hphys, hcls, hmem⟩ := exec_rebindingFlip_migrate hst hturn hc howed hlost
    exact ⟨u, run, hrun, hphys, hcls, fun g h3 hg => by rw [hmem h3, State.movedMem, hg]⟩
  case rollback =>
    intro hreq hhalt hlive hopen hpend
    exact ⟨_, exec_rollback hreq hhalt hlive hopen hpend, s.rollBack_spec⟩

end Sys2Proof.Machine
end
